-- ==== Sys2Proof/Word.lean ====
section
/-! DEFINITION. The word types of the Keami module: bytes, 32-bit FP32 words and the 64-bit register word
(00 Registers: every register is 64 bits wide; R6: little-endian, bit 0 least significant). -/

namespace Sys2Proof

/-- One byte of memory. -/
abbrev Byte := BitVec 8

/-- A 64-bit register word (00, Registers). -/
abbrev Word := BitVec 64

/-- The 32-bit word of an FP32 value (R20). -/
abbrev F32 := BitVec 32

end Sys2Proof
end

