-- ==== Sys2Proof/Machine/Params.lean ====
section
/-! DEFINITION. The parameters that a casting image gives (R423 and the chapters it names), as structures shared by the image
and by the state that holds them. -/

namespace Sys2Proof.Machine

/-- Troupe parameters (R320): quads as a mask, queues as (ring address, length). -/
structure TroupeCfg where
  tenant    : Nat := 0
  role      : Nat := 0
  quads     : Nat := 0
  altset    : Nat := 0
  initial   : Bool := true
  stkW      : Nat := 1
  fabW      : Nat := 1
  hubW      : Nat := 1
  qslice    : Nat := 0
  xlatBase  : Nat := 0
  xlatPages : Nat := 1
  semBase   : Nat := 0
  semCount  : Nat := 1
  queues    : List (Nat × Nat) := []
  tbBase    : Nat := 0
  tbSize    : Nat := 0
  ctxBase   : Nat := 0
  ctxSize   : Nat := 0
  deriving DecidableEq, Repr

/-- A group record (R306): its number, TIMEOUT in µs, GCHK and its members (LMID, troupe) by rank. -/
structure GroupRec where
  group   : Nat
  timeout : Nat
  gchk    : Nat
  members : List (Nat × Nat)
  deriving DecidableEq, Repr

/-- A tree entry (R307). -/
structure TreeEnt where
  parent  : Nat
  first   : Nat
  next    : Nat
  selfPos : Nat
  deriving DecidableEq, Repr

/-- A tree record (R307): its number, group, N, root, TCHK and entries by rank. -/
structure TreeRec where
  tree    : Nat
  group   : Nat
  n       : Nat
  root    : Nat
  tchk    : Nat
  entries : List TreeEnt
  deriving DecidableEq, Repr

/-- An entry of the barrier table (R314): LEAD in cycles, BTIMEOUT in ms. -/
structure BarrierEnt where
  b        : Nat
  troupe   : Nat
  tree     : Nat
  lead     : Nat
  btimeout : Nat
  deriving DecidableEq, Repr

/-- The module record's body (R405): identity, variant record and repair entries (physical core, tile). -/
structure ModRecord where
  serial      : Nat := 0
  part        : Nat := 0
  stepping    : Nat := 0
  maxCores    : Nat := 0
  maxStacks   : Nat := 0
  maxPorts    : Nat := 0
  stackMask   : Nat := 0
  portMask    : Nat := 0
  clusterMask : Nat := 0
  longReach   : Bool := false
  repair      : List (Nat × Nat) := []
  deriving DecidableEq, Repr

/-- The record of a NYM-K640 (R1, R12, R17, R405) with the given serial number. -/
def recordK640 (serial : Nat) : ModRecord :=
  { serial := serial, part := 0x0640, stepping := 0xA1, maxCores := 256, maxStacks := 20, maxPorts := 18,
    stackMask := 0xFFFFF, portMask := 0x3FFFF, clusterMask := 0xFFFF, longReach := true }

/-- An entry of a port's link-tag table (R282); troupe 64 is a transit use. -/
structure TagEnt where
  ltag    : Nat
  troupe  : Nat
  credits : Nat
  nsem    : Nat := 0
  deriving DecidableEq, Repr

/-- What a casting gives a port (R269, R282, R287). -/
structure PortCfg where
  role     : Nat := 0
  minW     : Nat := 0
  required : Bool := false
  peerLmid : Nat := 0
  peerPort : Nat := 0
  tags     : List TagEnt := []
  stks     : Nat := 0
  win      : Nat := 0
  deriving DecidableEq, Repr

/-- A request class (R85). -/
structure ClassCfg where
  prio     : Nat := 0
  dropLate : Bool := false
  exp      : Bool := false
  stream   : Bool := false
  deriving DecidableEq, Repr

/-- KV parameters of one model (R116); `g` is its frames per block, 0 for a model the troupe does not have. -/
structure KvModel where
  layers   : Nat := 1
  fmt      : Nat := 0x01
  ppf      : Nat := 1
  hw       : Nat := 64
  headBase : Nat := 0
  heads    : Nat := 1
  qpk      : Nat := 1
  modelId  : Nat := 0
  epochKey : Bool := false
  kvsAddr  : Nat := 0
  g        : Nat := 0
  deriving DecidableEq, Repr

/-- What a generator troupe's PARTNER is (R85): nobody, the prefill troupe that serves it, or the decode troupe it serves. -/
inductive Partner where
  | none
  | prefill (slot troupe : Nat)
  | decode (slot troupe : Nat)
  deriving DecidableEq, Repr

/-- Ring parameters (R220). -/
structure RingCfg where
  present   : Bool := false
  base      : Nat := 0
  units     : Nat := 16
  ctrl      : Nat := 0
  logBase   : Nat := 0
  reflp     : Bool := false
  sealOrder : Bool := false
  consumer  : Nat := 0
  hand      : Nat := 0
  handLen   : Nat := 16
  esem      : Nat := 0
  byScorer  : Bool := false
  scorer    : Nat := 0
  sHand     : Nat := 0
  sHandLen  : Nat := 16
  ssem      : Nat := 0
  sealAddr  : Nat := 0
  deriving DecidableEq, Repr

/-- Generator parameters that a casting image gives (R85, R116, R220, R231, R235, R238, R240). -/
structure GenCfg where
  present    : Bool := false
  slotBase   : Nat := 0
  slotCount  : Nat := 1
  queueDepth : Nat := 1
  ctxLimit   : Nat := 32
  stepA      : Nat := 0
  stepB      : Nat := 0
  pfC        : Nat := 0
  specY      : Nat := 256
  partner    : Partner := .none
  classes    : List ClassCfg := []
  poolBase   : Nat := 0
  poolFrames : Nat := 1
  dirBase    : Nat := 0
  dirSets    : Nat := 1
  policy     : KvModel := {}
  draft      : KvModel := {}
  flyPieces  : Nat := 0
  vbases     : List Nat := []
  vbytes     : Nat := 0
  ring       : RingCfg := {}
  altRecords : Nat := 1
  altSteps   : Nat := 1
  drain      : Bool := false
  headGroup  : List (Nat × Nat) := []
  deriving DecidableEq, Repr

/-- An optimizer shard record (R205). -/
structure ShardRec where
  theta : Nat := 0
  m     : Nat := 0
  v     : Nat := 0
  first : Nat := 0
  nblk  : Nat := 0
  whole : Bool := false
  rsv   : Nat := 0
  deriving DecidableEq, Repr

/-- A fly plan entry (R235). -/
structure FlyEntry where
  record    : Nat := 0
  fmt       : Nat := 0x01
  layout    : Nat := 0
  dstModule : Nat := 0
  dstTroupe : Nat := 0
  dstOff    : Nat := 0
  tscale    : Nat := 0x3F800000
  dpitch    : Nat := 0
  rsv       : Nat := 0
  deriving DecidableEq, Repr

/-- A Prompter slot record (R213); ACT of an action slot lies in `warm` (R350). -/
structure PromSlot where
  kind   : Nat := 0
  warm   : Nat := 0
  decay  : Nat := 0
  qmul   : Nat := 1
  start  : Nat := 0
  wsteps : Nat := 0
  dsteps : Nat := 1
  period : Nat := 0
  floor  : Nat := 0
  gamma  : Nat := 0x3F800000
  rsv    : Nat := 0
  deriving DecidableEq, Repr

/-- Learner parameters (R185, R188, R233). -/
structure LrnCfg where
  present        : Bool := false
  bindAddr       : Nat := 0
  govAddr        : Nat := 0
  verdictAddr    : Nat := 0
  vsem           : Nat := 0
  expected       : Nat := 1
  countFloor     : Nat := 1
  clipC          : Nat := 0x7F800000
  clipEps        : Nat := 0x35800000
  lossMax        : Nat := 0
  narrowHold     : Nat := 1
  leafTimeout    : Nat := 1
  verdictTimeout : Nat := 1
  vTree          : Nat := 0
  groupAddr      : Nat := 0
  shardRecAddr   : Nat := 0
  optAddr        : Nat := 0
  prmBase        : Nat := 0
  prmCount       : Nat := 1
  wsem           : Nat := 0
  flyEvery       : Nat := 0
  flyBase        : Nat := 0
  fsem           : Nat := 0
  fsemTarget     : Nat := 1
  plan           : List FlyEntry := []
  deriving DecidableEq, Repr

end Sys2Proof.Machine
end

