-- ==== Sys2Proof/Machine/Records.lean ====
section
/-! DEFINITION. The records that commands and state share: command headers, instruction words by their fields (R52, R61, R71), the
records of the chapters, packets and flits, and signed objects. The bytes, measurements and messages that another agent supplies
are operands. -/

namespace Sys2Proof

/-- The header of a host command as its completion needs it (R380, R384): command queue, slot, troupe (255 for none) and CMD_ID. -/
structure CmdHdr where
  sq     : Nat := 0
  slot   : Nat := 0
  troupe : Nat := 255
  cmdId  : Nat := 0
  deriving DecidableEq, Repr

/-- The fields of a matrix instruction word (R61). -/
structure MatWord where
  nd    : Bool := false
  pl    : Bool := false
  pre   : Bool := false
  ax    : Bool := false
  chord : Bool := false
  tsc   : Bool := false
  rnd   : Nat := 0
  inc   : Bool := false
  ofs   : Bool := false
  fch   : Nat := 0
  nch   : Nat := 0
  mrows : Nat := 0
  abase : Nat := 0
  bbase : Nat := 0
  dbase : Nat := 0
  ibase : Nat := 0
  ta    : Nat := 0
  tb    : Nat := 0
  td    : Nat := 0
  sri   : Nat := 0
  lst   : Bool := false
  deriving DecidableEq, Repr

/-- The fields of a vector instruction word (R71). -/
structure VecWord where
  nd   : Bool := false
  vl   : Nat := 256
  vd   : Nat := 0
  va   : Nat := 0
  vb   : Nat := 0
  vc   : Nat := 0
  pred : Nat := 0
  pz   : Bool := false
  rnd  : Nat := 0
  sri  : Nat := 0
  six  : Nat := 0
  addr : Nat := 0
  tg   : Nat := 0
  rsv  : Nat := 0
  imm  : Nat := 0
  deriving DecidableEq, Repr

/-- Scalar integer operations of the CTRL class (R52 names the group and lists no operation codes). -/
inductive ScalarOp where
  | add | sub | mul
  | other (code : Nat)
  deriving DecidableEq, Repr

/-- An XPOSE instruction: the tiles' tag, source and destination tiles, their scale arrays and the number of tiles (R67, R68). -/
structure XposeWord where
  nd     : Bool := false
  ta     : Nat := 0
  src    : Nat := 0
  dst    : Nat := 0
  sscale : Nat := 0
  dscale : Nat := 0
  tiles  : Nat := 1
  deriving DecidableEq, Repr

/-- The fields of a CUE.WAIT instruction word (R315). -/
structure CueWord where
  nd   : Bool := false
  mode : Bool := false
  bar  : Nat := 0
  sx   : Nat := 0
  rsv  : Nat := 0
  deriving DecidableEq, Repr

/-- The fields of an attention instruction word (R126); TO is `td`. -/
structure AttnWord where
  nd     : Bool := false
  mode   : Nat := 0
  causal : Bool := false
  ofs    : Bool := false
  split  : Nat := 0
  srb    : Nat := 0
  fb     : Nat := 0
  nb     : Nat := 0
  mrows  : Nat := 0
  qbase  : Nat := 0
  obase  : Nat := 0
  sbase  : Nat := 0
  tq     : Nat := 0
  td     : Nat := 0
  fin    : Bool := false
  rsv    : Nat := 0
  deriving DecidableEq, Repr

/-- A gradient binding record (R166); `rsv` joins its reserved bits. -/
structure BindRecord where
  paramId   : Nat := 0
  group     : Nat := 0
  flags     : Nat := 0
  initFmt   : Nat := 0x01
  elems     : Nat := 1
  gradAddr  : Nat := 0
  shardAddr : Nat := 0
  initS     : Nat := 0x3F800000
  rows      : Nat := 1
  cols      : Nat := 1
  rsv       : Nat := 0
  deriving DecidableEq, Repr

/-- A parameter group record (R187); FP32 fields are their words, `rsv` joins its reserved bits. -/
structure GroupParam where
  rule    : Nat := 0
  flags   : Nat := 0
  sched   : Nat := 0
  mfmt    : Nat := 0
  ofmt    : Nat := 0
  ckfmt   : Nat := 0
  bcBase  : Nat := 0
  lr      : Nat := 0
  wd      : Nat := 0
  beta1   : Nat := 0
  beta2   : Nat := 0
  eps     : Nat := 0x322BCC77
  oEps    : Nat := 0x322BCC77
  fbScale : Nat := 0x3F800000
  rsv     : Nat := 0
  deriving DecidableEq, Repr

/-- A governor statistics record (R171). -/
structure GovStat where
  amax  : Nat := 0
  nf    : Bool := false
  sat   : Bool := false
  nz    : Nat := 0
  uflow : Nat := 0
  satn  : Nat := 0
  hist  : List Nat := []
  deriving DecidableEq, Repr

/-- A verdict contribution: its header (R177) and the statistics records that follow it. -/
structure VContrib where
  step     : Nat := 0
  sumsq    : Nat := 0
  nf       : Bool := false
  skew     : Bool := false
  count    : Nat := 0
  recs     : Nat := 0
  countMax : Nat := 0
  stats    : List GovStat := []
  deriving DecidableEq, Repr

/-- A verdict record (R181) and the combined statistics that follow it. -/
structure VerdictRec where
  step     : Nat := 0
  skip     : Bool := false
  reason   : Nat := 0
  reasons  : Nat := 0
  count    : Nat := 0
  countMax : Nat := 0
  expected : Nat := 0
  sumsq    : Nat := 0
  norm     : Nat := 0
  clip     : Nat := 0
  gfac     : Nat := 0
  tRoot    : Nat := 0
  nfRecs   : Nat := 0
  satRecs  : Nat := 0
  stats    : List GovStat := []
  deriving DecidableEq, Repr

/-- What a child sends up a tree: a collective's contribution of a tree and instance (R298, R310), or a verdict contribution
(R177). -/
inductive UpMsg where
  | coll (tree inst child tchk : Nat) (present : Bool) (count : Nat) (data : List Byte)
  | verdict (child tchk : Nat) (v : VContrib)
  deriving DecidableEq, Repr

/-- What a packet is for (R285, R286, R297). -/
inductive PktKind where
  | write | readReq | readData | ack | collUp | collDown
  deriving DecidableEq, Repr

/-- A packet: its header's identity (source LMID, descriptor of a core, destination address, offset), how many bytes its
descriptor carries, whether it notifies, and its data with poison flags. -/
structure Packet where
  kind   : PktKind
  src    : Nat := 0
  core   : Nat := 0
  desc   : Nat := 0
  addr   : Nat := 0
  offset : Nat := 0
  total  : Nat := 0
  notify : Bool := false
  vals   : List Nat := []
  data   : List Byte := []
  bad    : List Bool := []
  deriving DecidableEq, Repr

/-- A part of a packet that one flit carries: `len` bytes from byte `off` of the packet's 32-byte header and data (R271). -/
structure Seg where
  pkt : Packet
  off : Nat
  len : Nat
  deriving DecidableEq, Repr

/-- A flit as a port receives it (R271): the fields of its header, whether its CRC held after correction and whether error correction
changed it; of a data flit the parts of packets that it carries and its payload as it arrived, of a control flit the link tag it speaks
of and whether the peer accepts it, of a ranging marker its arrival and the time of the answer, of a replay request the SEQ it names. -/
structure RxFlit where
  kind      : Nat := 0
  seqNo     : Nat
  ack       : Nat := 4294967295
  ltag      : Nat
  dest      : Nat
  last      : Bool := true
  keysel    : Nat := 0
  crTag     : Nat := 0
  crCount   : Nat := 0
  crcOk     : Bool := true
  corrected : Bool := false
  segs      : List Seg := []
  raw       : List Byte := []
  control   : Option (Nat × Bool) := none
  stamps    : Nat × Nat := (0, 0)
  ask       : Nat := 0
  deriving DecidableEq, Repr

/-- A load record (R252). -/
structure LoadRecord where
  loadId       : Nat := 0
  srcAddr      : Nat := 0
  srcLen       : Nat := 0
  dst          : Nat := 0
  dpitch       : Nat := 0
  rows         : Nat := 0
  cols         : Nat := 0
  tscale       : Nat := 0
  troupe       : Nat := 0
  mode         : Nat := 0
  srcFmt       : Nat := 0
  dstFmt       : Nat := 0
  layout       : Nat := 0
  vslot        : Nat := 0
  flags        : Nat := 0
  rsv          : Nat := 0
  epoch        : Nat := 0
  srcDigest    : Nat := 0
  storedDigest : Nat := 0
  deriving DecidableEq, Repr

/-- A generation request record (R86); TEMP and TOP_P are FP32 words, STOP holds its four words. -/
structure ReqRecord where
  reqId    : Nat := 0
  prompt   : Nat := 0
  p        : Nat := 1
  n        : Nat := 1
  out      : Nat := 0
  deadline : Nat := 0
  sstream  : Nat := 0
  temp     : Nat := 0
  topP     : Nat := 0x3F800000
  topK     : Nat := 0
  cls      : Nat := 0
  flags    : Nat := 0
  specD    : Nat := 0
  stop     : List Nat := []
  hostTag  : Nat := 0
  /-- The reserved byte at 0x3F and the reserved bytes from 0x58 on. -/
  rsvA     : Nat := 0
  rsvB     : Nat := 0
  deriving DecidableEq, Repr

/-- A token entry (R95). -/
structure Tok where
  token : Nat
  epoch : Nat
  logp  : Nat
  pos   : Nat
  deriving DecidableEq, Repr

/-- A block that a prefill troupe ships: model (0 policy, 1 draft), block index and its frames' bytes (R112). -/
structure ShipBlock where
  model  : Nat
  block  : Nat
  frames : List (List Byte)
  deriving DecidableEq, Repr

/-- What a part of a shipment carries beside its frames: the first token, the status and END of a sequence that ended at the prefill
troupe's commit, the blocks, and whether it is the last part (R112, R114). -/
structure ShipData where
  first  : Option Tok := none
  tFirst : Nat := 0
  ended  : Option (Nat × Nat) := none
  blocks : List ShipBlock := []
  last   : Bool := true
  deriving DecidableEq, Repr

/-- A run of found blocks that another member of a head group reports for a request (R142). -/
structure PeerRun where
  member : Nat × Nat
  reqId  : Nat
  ht     : Nat
  hd     : Nat
  deriving DecidableEq, Repr

/-- A sequence that waits in a prefill troupe's queue for its decode troupe (R111): module slot, troupe and generation slot that it belongs
to, its request and prompt, and the blocks that the decode troupe found for itself, in the policy model and the draft. -/
structure PfJob where
  client : Nat × Nat × Nat
  hdr    : CmdHdr
  record : ReqRecord
  prompt : List Nat := []
  ht     : Nat := 0
  hd     : Nat := 0
  deriving DecidableEq, Repr

/-- An admission that member 0 of a head group orders at another member: request, slot and runs (R142). -/
structure GroupAdmit where
  hdr    : CmdHdr
  record : ReqRecord
  slot   : Nat
  ht     : Nat
  hd     : Nat
  deriving DecidableEq, Repr

/-- What has come from other modules for a troupe's admission pass: at member 0 of a head group the members' runs, at another member the
requests whose runs member 0 asks for and the admissions it orders (R142); at a prefill troupe the sequences of a decode troupe elsewhere and
those it has cancelled (R111, R114); at a decode troupe PF_C of its prefill troupe elsewhere (R111). -/
structure PassIn where
  runs   : List PeerRun := []
  asks   : List ReqRecord := []
  orders : List GroupAdmit := []
  jobs   : List PfJob := []
  stops  : List (Nat × Nat × Nat) := []
  pfC    : Option Nat := none
  deriving DecidableEq, Repr

/-- The header of a signed object (R401) as its check needs it: magic, type, signer, key index, security version, bound serial
number and body digest; `rsv` joins its reserved fields; `digestOk` and `sigOk` say whether the body matches BODY_DIGEST and
whether the signature verifies under the key that SIGNER and KEYIDX name (R402). -/
structure Signed where
  magic    : Nat := 0x4B4F424A
  type     : Nat
  signer   : Nat := 0
  keyIdx   : Nat := 0
  svn      : Nat := 0
  serial   : Nat := 0
  digest   : Nat := 0
  bytes    : Nat := 0
  rsv      : Nat := 0
  digestOk : Bool := true
  sigOk    : Bool := true
  deriving DecidableEq, Repr

/-- A 64-byte wrapped secret (R430) by its fields; `rsv` is bytes 0x02 and 0x03. -/
structure Wrapped where
  session : Nat
  purpose : Nat
  rsv     : Nat := 0
  counter : Nat
  cipher  : Nat
  tag     : Nat
  deriving DecidableEq, Repr

/-- A firmware image: its signed header and its descriptor (R414). -/
structure FwImage where
  sig     : Signed
  release : Nat := 0
  ifv     : Nat := 0
  needs   : Nat := 0
  load    : Nat := 0
  rsv     : Nat := 0
  deriving DecidableEq, Repr

/-- A bundle record (R415): entries of BUNDLE, HUB_REL, CORE_REL and LINK_REL. -/
structure BundleRec where
  sig     : Signed
  entries : List (Nat × Nat × Nat × Nat) := []
  deriving DecidableEq, Repr

/-- A module record (R405), with the digest of the helper data and whether the PUF derives its public keys (R406). -/
structure ModuleRec where
  sig    : Signed
  body   : Machine.ModRecord := {}
  pufOk  : Bool := true
  deriving DecidableEq, Repr

/-- An owner record (R407). -/
structure OwnerRec where
  sig      : Signed
  owner    : Nat := 0
  nkeys    : Nat := 1
  override : Bool := false
  rsv      : Nat := 0
  deriving DecidableEq, Repr

/-- The object that a staging command brings (R433). -/
inductive FwObject where
  | image (x : FwImage)
  | bundle (x : BundleRec)
  deriving DecidableEq, Repr

/-- Cores of one cluster in use (R13, R423): cluster 4t + c, its understudy and the logical numbers of others, by physical core
of the tile. -/
structure ClusterPlan where
  cluster    : Nat
  understudy : Nat
  cores      : List (Nat × Nat) := []
  deriving DecidableEq, Repr

/-- MEMORY (R244 to R247, R207): band in 2 MiB units, and by stack SPARE, REPLAY, and the NEAR window's base and size. -/
structure MemPlan where
  ilBase : Nat := 0
  ilTop  : Nat := 0
  spare  : List (Nat × Nat) := []
  replay : List (Nat × Nat) := []
  whet   : List (Nat × Nat × Nat) := []
  deriving DecidableEq, Repr

/-- One troupe of TROUPES (R320, R420): its number, parameters, DEG_OK and initial translation entries by page. -/
structure TroupePlan where
  t     : Nat
  cfg   : Machine.TroupeCfg := {}
  degOk : Bool := false
  xlat  : List (Nat × Nat) := []
  deriving DecidableEq, Repr

/-- ROUTES (R279, R280, R371): hops by destination, and substitution hops. -/
structure RoutePlan where
  hops : List (Nat × List Nat) := []
  subs : List (Nat × List Nat) := []
  deriving DecidableEq, Repr

/-- One slot of ENSEMBLE (R390): LMID, role (0 vacant, 1 working, 2 understudy), understudy group and BULK. -/
structure EnsEnt where
  lmid  : Nat := 0xFFF
  role  : Nat := 0
  group : Nat := 0
  bulk  : Bool := false
  deriving DecidableEq, Repr

/-- ENSEMBLE (R390). -/
structure EnsPlan where
  entries : List EnsEnt := []
  hb      : Nat := 1
  leads   : List Nat := []
  deriving DecidableEq, Repr

/-- One troupe of GEN: its parameters, the version slot and epoch it starts with, and the RWC fields of TRP_VCTRL (R231, R241). -/
structure GenPlan where
  t       : Nat
  cfg     : Machine.GenCfg := {}
  live    : Nat := 0
  epoch   : Nat := 0
  pin     : Bool := false
  auto    : Bool := false
  maxLag  : Nat := 0
  lagchk  : Bool := false
  alt     : Bool := false
  deriving DecidableEq, Repr

/-- One troupe of LRN: its parameters, binding, group and shard tables, first step and first fly-in epoch (R166, R185 to R188,
R205, R233). -/
structure LrnPlan where
  t      : Nat
  cfg    : Machine.LrnCfg := {}
  binds  : List BindRecord := []
  groups : List GroupParam := []
  shards : List Machine.ShardRec := []
  step   : Nat := 0
  epoch  : Nat := 1
  deriving DecidableEq, Repr

/-- A troupe of a job (R346): EXTRA ranges, MIRROR and the REPL range. -/
structure JobTrp where
  t      : Nat
  extra  : List (Nat × Nat) := []
  mirror : Option (Nat × Nat) := none
  repl   : Nat × Nat := (0, 0)
  deriving DecidableEq, Repr

/-- One job of JOBS (R346). -/
structure JobPlan where
  job     : Nat
  bar     : Nat := 0
  subAuto : Bool := false
  troupes : List JobTrp := []
  deriving DecidableEq, Repr

/-- WATCH (R273, R280, R423): WCH_THRESH, DAMAGE_HOLD and ROUTE_TIMEOUT. -/
structure WatchPlan where
  ceRate    : Nat := 0
  retryRate : Nat := 0
  retrainHr : Nat := 0
  regWarn   : Nat := 0
  thermMargin : Nat := 0
  holdoffS  : Nat := 1
  auto      : Bool := false
  damageHold : Bool := false
  routeTimeout : Nat := 1
  deriving DecidableEq, Repr

/-- An entry of a casting image's section directory (R422); the length and place of a section are those in the body. -/
structure DirEnt where
  kind : Nat
  rsv  : Nat := 0
  len  : Nat := 16
  off  : Nat
  deriving DecidableEq, Repr

/-- A casting image (R422, R423): its signed header, its body header (`rsv` joins the reserved bytes of the header), the NSECT entries of its
directory, and the content of its sections: that of a section which the directory does not name is empty. -/
structure CastImage where
  sig      : Signed
  magic    : Nat := 0x5453434B
  cl       : Nat := 1
  rsv      : Nat := 0
  bundle   : Nat := 0
  owner    : Nat := 0
  dir      : List DirEnt := [{ kind := 1, off := 96 }, { kind := 2, off := 112 }, { kind := 3, off := 128 }, { kind := 4, off := 144 }]
  lmid     : Nat := 0
  hubStack : Nat := 0
  cores    : List ClusterPlan := []
  memory   : MemPlan := {}
  troupes  : List TroupePlan := []
  ports    : List (Nat × Machine.PortCfg) := []
  routes   : RoutePlan := {}
  peers    : List (Nat × List (Nat × Nat)) := []
  groups   : List Machine.GroupRec := []
  trees    : List Machine.TreeRec := []
  master   : Bool := true
  parent   : Nat := 31
  barriers : List Machine.BarrierEnt := []
  ensemble : Option EnsPlan := none
  gen      : List GenPlan := []
  lrn      : List LrnPlan := []
  prompter : List (Nat × Machine.PromSlot) := []
  jobs     : List JobPlan := []
  watch    : WatchPlan := {}
  seeds    : List (Nat × Nat) := []
  /-- The reserved fields of the group and tree records, joined (R306). -/
  treeRsv  : Nat := 0
  override : Option (Nat × Nat × Nat) := none
  deriving DecidableEq, Repr

/-- A hub control message of a job's checkpoints (R349, R352, R363): an arm on its way to the coordinator, the coordinator's
order with the checkpoint number, and the end of a module's drain. -/
inductive JobMsg where
  | arm
  | armed (no : Nat)
  | drained (lmid : Nat)
  deriving DecidableEq, Repr

/-- A learner troupe's digests for a replica comparison (R368): its rank, LMID and the digest of its REPL range. -/
structure ReplDigest where
  rank   : Nat
  lmid   : Nat
  digest : Nat
  deriving DecidableEq, Repr

/-- The body of QUEUE_CREATE (R378); `rsv` joins its reserved bytes. -/
structure QueueRec where
  qid    : Nat := 0
  kind   : Nat := 0
  tenant : Nat := 255
  log2n  : Nat := 4
  weight : Nat := 0
  cqid   : Nat := 0
  addr   : Nat := 0
  vector : Nat := 0
  rsv    : Nat := 0
  deriving DecidableEq, Repr

/-- A membership change (R393): LMID, its new state and version, the serial number of the module that holds it, and whether an
understudy has taken it over (R371). -/
structure MemberMsg where
  lmid    : Nat
  state   : Nat
  version : Nat
  serial  : Nat := 0
  subst   : Bool := false
  deriving DecidableEq, Repr

end Sys2Proof
end

