-- ==== Sys2Proof/Machine/Table.lean ====
section
/-! DEFINITION. Sparse tables keyed by number, and byte memory in one canonical form.
A table is a list of (key, value) pairs with strictly rising keys; a missing key holds the table's default.
Memory is such a list of bytes in which no entry equals the byte an unlisted address reads as. -/

namespace Sys2Proof.Machine

/-- A sparse table: keys strictly rise. -/
abbrev Map (α : Type) := List (Nat × α)

/-- The entry at key `k`, if the table lists one. -/
def mapFind {α : Type} (m : Map α) (k : Nat) : Option α :=
  match m with
  | [] => none
  | (j, v) :: rest => if j == k then some v else mapFind rest k

/-- The value at key `k`, the default `d` where none is listed. -/
def mapGet {α : Type} (d : α) (m : Map α) (k : Nat) : α :=
  match mapFind m k with
  | some v => v
  | none => d

/-- Set key `k`, keeping the keys in rising order. -/
def mapPut {α : Type} (m : Map α) (k : Nat) (v : α) : Map α :=
  match m with
  | [] => [(k, v)]
  | (j, w) :: rest =>
    if k < j then (k, v) :: (j, w) :: rest
    else if j == k then (k, v) :: rest
    else (j, w) :: mapPut rest k v

/-- Remove key `k`. -/
def mapDel {α : Type} (m : Map α) (k : Nat) : Map α := m.filter (fun e => e.1 != k)

/-- Change the value at key `k` (the default `d` where none is listed). -/
def mapMod {α : Type} (d : α) (m : Map α) (k : Nat) (f : α → α) : Map α :=
  mapPut m k (f (mapGet d m k))

/-- Are the keys strictly rising? -/
def mapOrdered {α : Type} : Map α → Bool
  | [] => true
  | [_] => true
  | (j, _) :: (k, w) :: rest => decide (j < k) && mapOrdered ((k, w) :: rest)

/-- Byte memory: cells at strictly rising addresses, none equal to the byte an unlisted address reads as. -/
abbrev Memory := List Host.Cell

/-- What an address that no cell lists reads as: zero, which is what memory holds once the controllers have zeroed
every enabled stack after power-up (R248). For the core stores, tile buffers and host-visible areas, whose contents
after power-up no rule states, zero is a DESIGN CHOICE (assumption 2). -/
def Memory.unlisted : Byte := 0

/-- Read one byte. -/
def Memory.read (m : Memory) (a : Nat) : Byte := mapGet Memory.unlisted m a

/-- Write one byte, keeping the canonical form: writing the unlisted byte removes the cell. -/
def Memory.write (m : Memory) (a : Nat) (b : Byte) : Memory :=
  if b == Memory.unlisted then mapDel m a else mapPut m a b

/-- Read `n` bytes from address `a`, lowest address first. -/
def Memory.readN (m : Memory) (a : Nat) : Nat → List Byte
  | 0 => []
  | n + 1 => m.read a :: Memory.readN m (a + 1) n

/-- Write the bytes of a list from address `a` on. -/
def Memory.writeN (m : Memory) (a : Nat) : List Byte → Memory
  | [] => m
  | b :: bs => Memory.writeN (m.write a b) (a + 1) bs

/-- Zero every byte of the range of `n` bytes from address `a`. -/
def Memory.zeroRange (m : Memory) (a n : Nat) : Memory := m.filter (fun c => c.1 < a || a + n ≤ c.1)

/-- The canonical form: rising addresses and no cell that holds the unlisted byte. -/
def Memory.wf (m : Memory) : Bool := mapOrdered m && m.all (fun c => c.2 != Memory.unlisted)

/-- The number a little-endian byte list spells (R6). -/
def leNat : List Byte → Nat
  | [] => 0
  | b :: bs => b.toNat + 256 * leNat bs

/-- The `n` little-endian bytes of a number (R6). -/
def leBytes : Nat → Nat → List Byte
  | 0, _ => []
  | n + 1, v => BitVec.ofNat 8 (v % 256) :: leBytes n (v / 256)

/-- The little-endian number in the `n` bytes at address `a`. -/
def Memory.nat (m : Memory) (a n : Nat) : Nat := leNat (m.readN a n)

/-- Store a number in `n` little-endian bytes at address `a`. -/
def Memory.putNat (m : Memory) (a n v : Nat) : Memory := m.writeN a (leBytes n v)

end Sys2Proof.Machine
end

