-- ==== Sys2Proof/Machine/StateBoot.lean ====
section
/-! DEFINITION. The state of boot, casting and firmware: the configuration flash (R404), the replay-protected counters (R408), the
registers of the casting and boot block (R434), the firmware broadcast (R417), sessions (R429) and the reset in progress (R432). -/

namespace Sys2Proof.Machine

/-- Two banks and which of them is selected (R404). -/
structure Bank (α : Type) where
  a   : Option α := none
  b   : Option α := none
  sel : Bool := false
  deriving DecidableEq, Repr

/-- The bank of a selection. -/
def Bank.at {α : Type} (x : Bank α) (b : Bool) : Option α := if b then x.b else x.a
/-- Write a bank. -/
def Bank.put {α : Type} (x : Bank α) (b : Bool) (v : Option α) : Bank α := if b then { x with b := v } else { x with a := v }

/-- The configuration flash (R404). `keyOk`: the key block matches the boot ROM's digest (R403). The reset block holds the spare
sizes in force at a reset that keeps them (R432). -/
structure Flash where
  keyOk    : Bool := true
  hub      : Bank FwImage := {}
  core     : Bank FwImage := {}
  link     : Bank FwImage := {}
  bundle   : Bank BundleRec := {}
  modRec   : Option ModuleRec := none
  owner    : Option OwnerRec := none
  cast     : Bank CastImage := {}
  resetBlk : Option (List (Nat × Nat)) := none
  deriving DecidableEq, Repr

/-- The replay-protected counters (R408). -/
structure Rpf where
  hub    : Nat := 0
  core   : Nat := 0
  link   : Nat := 0
  bundle : Nat := 0
  modRec : Nat := 0
  owner  : Nat := 0
  cast   : Nat := 0
  deriving DecidableEq, Repr

/-- The objects in force. -/
structure InForce where
  hub    : Option FwImage := none
  core   : Option FwImage := none
  link   : Option FwImage := none
  bundle : Option BundleRec := none
  modRec : Option ModuleRec := none
  owner  : Option OwnerRec := none
  deriving DecidableEq, Repr

/-- HUB_BOOT, HUB_BOOT_T, HUB_FW, HUB_CAST, HUB_CAST_DIGEST and HUB_CLUSTER (R434). -/
structure BootRegs where
  stopCode  : Nat := 0
  lastReset : Nat := 0
  banks     : Nat := 0
  castFallback : Bool := false
  fwFallback : Bool := false
  unlisted  : Bool := false
  pufOk     : Bool := false
  spareKept : Bool := false
  rpfOk     : Bool := false
  castDone  : Bool := false
  ready     : Bool := false
  romUs     : Nat := 0
  readyUs   : Nat := 0
  bundle    : Nat := 0
  hubIfv    : Nat := 0
  coreIfv   : Nat := 0
  linkIfv   : Nat := 0
  svn       : Nat := 0
  nsect     : Nat := 0
  applyCnt  : Nat := 0
  digest    : Nat := 0
  subst     : Nat := 0
  degraded  : Nat := 0
  /-- HUB_RPF0 and HUB_RPF1, loaded at boot. -/
  rpf       : Rpf := {}
  deriving DecidableEq, Repr

/-- The core firmware broadcast (R417): whether it runs, the round that is under way, and the cores that lack a chunk. -/
structure Bcast where
  on      : Bool := false
  round   : Nat := 0
  missing : List Nat := []
  /-- The cores that take part: all, or those of a cluster that was reset (R431), with the command that reset it. -/
  cores   : List Nat := []
  hdr     : Option CmdHdr := none
  cluster : Option Nat := none
  deriving DecidableEq, Repr

/-- A key session (R429): its tenant, its key, and the highest counter accepted; present while it holds a key. -/
structure Session where
  tenant  : Nat
  key     : Nat := 0
  counter : Nat := 0
  deriving DecidableEq, Repr

/-- A casting image that is taking effect (R426): its command, if one brought it, the image, and the troupes still to be torn down. -/
structure Applying where
  hdr   : Option CmdHdr := none
  img   : CastImage
  waits : List Nat := []
  deriving DecidableEq, Repr

/-- A reset of cores that waits for their descriptors (R431): its command, the cores, and the cluster 4 t + c of a level 1 reset. -/
structure CoreReset where
  hdr     : CmdHdr
  cores   : List Nat
  cluster : Option Nat := none
  deriving DecidableEq, Repr

/-- Boot, casting and firmware. -/
structure Boot where
  flash    : Flash := {}
  counters : Rpf := {}
  force    : InForce := {}
  regs     : BootRegs := {}
  bcast    : Bcast := {}
  bcastDone : Bool := false
  /-- Reasons by physical core of the failed cores (R418). -/
  failed   : Map Nat := []
  sessions : Map Session := []
  /-- Cue count of the release of hub reset (R434). -/
  released : Nat := 0
  /-- An event to raise after the boot that follows a watchdog or ECC reset (R413). -/
  after    : Option Nat := none
  /-- Troupes withheld by R420, and logical numbers without a core (R419). -/
  withheld : List Nat := []
  /-- The casting image that is taking effect (R426). -/
  applying : Option Applying := none
  /-- Core and cluster resets that wait for descriptors, oldest first (R431). -/
  resets   : List CoreReset := []
  /-- No casting image has been applied since the reset: spare regions may be kept (R432). -/
  first    : Bool := true
  deriving DecidableEq, Repr

end Sys2Proof.Machine
end

