-- ==== Sys2Proof/Machine/StateGen.lean ====
section
/-! DEFINITION. The state of a generator or scorer troupe: request service (R85 to R115), KV pool and prefix directory (R116 to
R146), experience ring (R220 to R230, R241), version slots and curtain (R231 to R240). -/

namespace Sys2Proof.Machine

/-- Slot states (R93). -/
inductive SlotState where
  | free | prefill | ship | await | decode | ending
  deriving DecidableEq, Repr

/-- A request in the admission queue, with the passes that held it (R90, R91). -/
structure QReq where
  hdr  : CmdHdr
  record : ReqRecord
  held : Nat := 0
  deriving DecidableEq, Repr

/-- A generation slot that holds a request (R93). -/
structure GSlot where
  st       : SlotState
  hdr      : CmdHdr
  record   : ReqRecord
  prompt   : List Nat := []
  /-- Delivered tokens, oldest first. -/
  toks     : List Tok := []
  ht       : Nat := 0
  hd       : Nat := 0
  tAdmit   : Nat := 0
  tFirst   : Nat := 0
  admEpoch : Nat := 0
  vslot    : Nat := 0
  /-- Block tables: block to row, for the policy model and the draft (R132). -/
  pol      : Map Nat := []
  dra      : Map Nat := []
  resv     : Nat := 0
  /-- Coalesced with the other slots of its reservation, the prompt not computed yet (R135). -/
  joined   : Bool := false
  inStep   : Bool := false
  /-- Freed by an immediate cancel while a step serves it: its row is still computed (R100). -/
  zombie   : Bool := false
  cancelled : Bool := false
  nf       : Bool := false
  kvStop   : Bool := false
  /-- Tokens sampled in the step in progress with their LOGP, the draft's proposals, and how many were accepted. -/
  drawn    : List (Nat × Nat) := []
  props    : List Nat := []
  acc      : Nat := 0
  proposed : Nat := 0
  accepted : Nat := 0
  /-- Positions of the draft's keys computed so far (R144). -/
  dkept    : Nat := 0
  status   : Nat := 0
  endCode  : Nat := 0
  tEnd     : Nat := 0
  /-- The completion record waits for the end of the step in progress (R96). -/
  lateRec  : Bool := false
  /-- Frames, reservation and pin have been given back. -/
  released : Bool := false
  /-- The experience record is still to be written (R223). -/
  needRec  : Bool := false
  /-- Module slot, troupe and generation slot that a prefill troupe's sequence belongs to (R111). -/
  client   : Option (Nat × Nat × Nat) := none
  /-- Blocks the decode troupe of a prefill troupe's sequence found for itself. -/
  haveP    : Nat := 0
  haveD    : Nat := 0
  deriving DecidableEq, Repr

/-- A reservation of frames: what is left, and the sequences that hold it (R92). -/
structure Resv where
  left    : Nat
  holders : Nat
  deriving DecidableEq, Repr

/-- The step in progress: the version slot it reads, its epoch, the slots it serves, and whether it has committed. -/
structure StepRec where
  vslot     : Nat
  epoch     : Nat
  slots     : List Nat
  committed : Bool := false
  deriving DecidableEq, Repr

/-- Version slot states (R231). -/
inductive VState where
  | free | filling | ready | live | held
  deriving DecidableEq, Repr

/-- A piece of a fly-in from a learner troupe of this module on its way (R235): the learner, the epoch, whether a block is non-finite, and its
fields of bits as (bit offset in the slot, bits, value). -/
structure FlyPiece where
  src    : Nat
  epoch  : Nat
  nf     : Bool
  fields : List (Nat × Nat × Nat)
  deriving DecidableEq, Repr

/-- A version slot: state, epoch and pinned count (R241), who fills it, and the pieces that have arrived (R236). -/
structure VSlot where
  st      : VState := .free
  epoch   : Nat := 0
  pinned  : Nat := 0
  byLoads : Bool := false
  pieces  : Nat := 0
  nf      : Bool := false
  /-- Its contents are void after a restore (R231). -/
  void    : Bool := false
  deriving DecidableEq, Repr

/-- An experience record in the ring (R222): where it lies and what the engine knows of it. -/
structure RingRec where
  seqNo    : Nat
  start    : Nat
  units    : Nat
  state    : Nat
  epoch    : Nat
  /-- Its index in the consumer's hand list once handed. -/
  handIdx  : Option Nat := none
  /-- Handed to the scorer. -/
  scored   : Bool := false
  deriving DecidableEq, Repr

/-- The ring engine (R223 to R230, R241). -/
structure Ring where
  wrSeq    : Nat := 0
  head     : Nat := 0
  tail     : Nat := 0
  /-- Records not yet reclaimed, in SEQ order. -/
  recs     : List RingRec := []
  handCnt  : Nat := 0
  sHandCnt : Nat := 0
  sealCnt  : Nat := 0
  doneCnt  : Nat := 0
  /-- SEAL_CNT and DONE_CNT values that were read and ignored last. -/
  badSeal  : Option Nat := none
  badDone  : Option Nat := none
  /-- Sealed records that wait to be handed, in the order of sealing (ORDER = 1). -/
  toHand   : List Nat := []
  /-- Slots whose records are to be written, in order, and those counted in FULL_CNT. -/
  waiting  : List Nat := []
  counted  : List Nat := []
  oldEpoch : Nat := 0
  oldValid : Bool := false
  fullCnt  : Nat := 0
  sealBadCnt : Nat := 0
  dropCnt  : Nat := 0
  doneBad  : Bool := false
  sealBad  : Bool := false
  sealcntBad : Bool := false
  full     : Bool := false
  drop     : Bool := false
  written  : Bool := false
  deriving DecidableEq, Repr

/-- KV counters and events (R146). -/
structure KvRegs where
  lookups    : Nat := 0
  hits       : Nat := 0
  registered : Nat := 0
  evicted    : Nat := 0
  cowFrames  : Nat := 0
  fmtStops   : Nat := 0
  divergeCnt : Nat := 0
  dupCnt     : Nat := 0
  nosetCnt   : Nat := 0
  diverge    : Bool := false
  format     : Bool := false
  deriving DecidableEq, Repr

/-- TRP_VCTRL, TRP_FLY_EVT and TRP_CURTAIN_T (R241). -/
structure VRegs where
  throttled  : Bool := false
  alt        : Bool := false
  lagchk     : Bool := false
  maxLag     : Nat := 0
  auto       : Bool := false
  pin        : Bool := false
  waitCnt    : Nat := 0
  skippedCnt : Nat := 0
  nfCnt      : Nat := 0
  throttle   : Bool := false
  flyNf      : Bool := false
  skipped    : Bool := false
  flyWait    : Bool := false
  curtain    : Bool := false
  curtainT   : Nat := 0
  deriving DecidableEq, Repr

/-- The phase of an alternating troupe (R240). -/
structure AltState where
  admitted : Nat := 0
  stopping : Bool := false
  commits  : Nat := 0
  /-- Step 4: the fly-in is armed and the curtain has not fallen. -/
  flying   : Bool := false
  deriving DecidableEq, Repr

/-- What a generator troupe holds. -/
structure Gen where
  cfg     : GenCfg := {}
  queue   : List QReq := []
  jobs    : List PfJob := []
  /-- PF_C as a prefill troupe on another module reports it (R111). -/
  peerPfC : Option Nat := none
  /-- GEN_CANCEL commands of this Cue count that name a sequence of the step in progress: a commit at the same count goes before
  them (R94). -/
  cancels : List (CmdHdr × Nat) := []
  slots   : Map GSlot := []
  /-- REQ_IDs of the last 4,096 completions, newest first (R99). -/
  ended   : List Nat := []
  step    : Option StepRec := none
  /-- Frames that are not on the free list, rows of each model, and reservations. -/
  used    : List Nat := []
  rowsP   : Map (List Nat) := []
  rowsD   : Map (List Nat) := []
  resvs   : Map Resv := []
  nextResv : Nat := 0
  kv      : KvRegs := {}
  vs      : Map VSlot := []
  live    : Nat := 0
  vr      : VRegs := {}
  /-- Registered GEN_CURTAIN commands with their epochs, oldest first (R237). -/
  curtainReqs : List (CmdHdr × Nat) := []
  /-- The epoch of the cohort that ran last in PIN mode (R239). -/
  lastCohort : Nat := 0
  /-- Epochs of fly-ins that wait for a slot, in order (R236). -/
  flyWaits : List Nat := []
  /-- Pieces from this module's learner troupes, in the order of sending. -/
  inbound  : List FlyPiece := []
  ring    : Ring := {}
  alt     : AltState := {}
  /-- The failed-load list: ranges, and its OVERFLOW mark (R256). -/
  failed  : List (Nat × Nat) := []
  overflow : Bool := false
  deriving DecidableEq, Repr

end Sys2Proof.Machine
end

