-- ==== Sys2Proof/Machine/StateLrn.lean ====
section
/-! DEFINITION. The state of a learner troupe (R166 to R219, R233 to R235): bindings, governor, verdict, parameter groups, shards,
NEAR ranges and fly-ins; and the Prompter's slots (R213). -/

namespace Sys2Proof.Machine

/-- The governor state of a binding (R173 to R176); `fmt` is the format code, history oldest first. -/
structure GovState where
  fmt    : Nat := 0x01
  s      : Nat := 0x3F800000
  run    : Nat := 0
  hist   : List Nat := []
  halved : Bool := false
  last   : Nat := 0
  deriving DecidableEq, Repr

/-- A group's state (R203, R216): LAST_STEP and the count of updates. -/
structure GroupState where
  last    : Nat := 0xFFFFFFFFFFFFFFFF
  updates : Nat := 0
  deriving DecidableEq, Repr

/-- Constants of a step for one group (R190); FP32 words. -/
structure GroupConst where
  eta    : BitVec 32 := 0
  lam    : BitVec 32 := 0
  c1     : BitVec 32 := 0
  c2     : BitVec 32 := 0
  bc1    : BitVec 32 := 0
  bc2    : BitVec 32 := 0
  etaFb  : BitVec 32 := 0
  beta1  : BitVec 32 := 0
  beta2  : BitVec 32 := 0
  eps    : BitVec 32 := 0
  oEps   : BitVec 32 := 0
  deriving DecidableEq, Repr

/-- A Whetstone command (R208): its step, whether the group is frozen, the constants of the step and GFAC (R190), and the format and scale
of the reduced gradient (R168, R209). -/
structure WhetCmd where
  step   : Nat
  frozen : Bool := false
  const  : GroupConst := {}
  gfac   : BitVec 32 := 0
  fmt    : Nat := 0x01
  scale  : Nat := 0x3F800000
  deriving DecidableEq, Repr

/-- A NEAR range (R207): binding record, stack, LAST_STEP (R203), the damage mark (R212), and the Whetstone commands that have not
completed, oldest first (R208). -/
structure NearRange where
  record  : Nat
  stack   : Nat
  last    : Nat := 0xFFFFFFFFFFFFFFFF
  damaged : Bool := false
  cmds    : List WhetCmd := []
  deriving DecidableEq, Repr

/-- A change of a group that is held for a step (R189). -/
structure HeldGset where
  hdr   : CmdHdr
  group : Nat
  n     : Nat
  r     : GroupParam
  deriving DecidableEq, Repr

/-- TRP_LRN_STEP, TRP_VERDICT_STEP, TRP_VERDICT, TRP_LRN_EVT (R186) and TRP_OPT_RPT, TRP_OPT_EVT (R217). -/
structure LrnRegs where
  step        : Nat := 0
  vStep       : Nat := 0
  vCount      : Nat := 0
  vReasons    : Nat := 0
  vReason     : Nat := 0
  vValid      : Bool := false
  vSkip       : Bool := false
  skipCnt     : Nat := 0
  lateCnt     : Nat := 0
  halveCnt    : Nat := 0
  verdictLate : Bool := false
  lateLeaf    : Bool := false
  skip        : Bool := false
  commit      : Bool := false
  updatedOps  : Nat := 0
  frozenOps   : Nat := 0
  frozenCnt   : Nat := 0
  gsetCnt     : Nat := 0
  fallbackN   : Nat := 0
  whetMem     : Bool := false
  gsetLate    : Bool := false
  gsetDone    : Bool := false
  fallback    : Bool := false
  frozen      : Bool := false
  /-- TRP_FLY_SRC (R241). -/
  nextEpoch   : Nat := 1
  stallCnt    : Nat := 0
  busy        : Bool := false
  stall       : Bool := false
  deriving DecidableEq, Repr

/-- What a learner troupe holds. -/
structure Lrn where
  cfg      : LrnCfg := {}
  regs     : LrnRegs := {}
  binds    : List BindRecord := []
  gov      : List GovState := []
  /-- Format and scale in which each binding was converted for the latest verdict's step (R168). -/
  used     : List (Nat × Nat) := []
  /-- Statistics gathered in the step in progress, by record (R171). -/
  stats    : Map GovStat := []
  /-- Count and NF of the troupe's reduced shards, by binding (R178). -/
  shardIn  : Map (Nat × Bool) := []
  groups   : List GroupParam := []
  gstates  : Map GroupState := []
  consts   : Map GroupConst := []
  gfac     : BitVec 32 := 0
  shards   : List ShardRec := []
  fallback : List Nat := []
  near     : List NearRange := []
  gsets    : List HeldGset := []
  /-- The step number of the latest step command (R177). -/
  cmdStep  : Nat := 0
  /-- The contribution posted and not answered, with the Cue count of its posting. -/
  posted   : Option (Nat × Nat) := none
  /-- Contributions that wait for the verdict before them, oldest first (R177). -/
  heldPost : List VContrib := []
  /-- The troupe's node of the verdict tree: its own contribution and its children's, by rank. -/
  vOwn     : Option VContrib := none
  vKids    : Map VContrib := []
  /-- The combined contribution at the root, and the decision that has not been applied. -/
  vRoot    : Option VContrib := none
  decided  : Option VerdictRec := none
  /-- Skip registrations at the root (R180), and whether VERDICT_LATE was raised for the contribution posted. -/
  skips    : List (CmdHdr × Nat) := []
  lateSent : Bool := false
  /-- A fly-in is armed (R233). -/
  armed    : Bool := false
  /-- FLY_NOW commands that arm one at the next commit, those whose fly-in is armed or under way, and the status with which it will complete
  (R233, R236). -/
  flyCmds  : List CmdHdr := []
  flyHdrs  : List CmdHdr := []
  flyStatus : Nat := 0
  /-- The armed fly-in was armed by a restore, and starts without FSEM (R366). -/
  flyForce : Bool := false
  /-- A step command was given whose verdict has not been applied (R353). -/
  midStep  : Bool := false
  /-- The fly-in that reads its sources: its epoch. -/
  flying   : Option Nat := none
  /-- Who waits by R234: cores, and 1000 + j for NEAR range j. -/
  stalled  : List Nat := []
  deriving DecidableEq, Repr

end Sys2Proof.Machine
end

