-- ==== Sys2Proof/Machine/Bits.lean ====
section
/-! DEFINITION. Bit fields, saturating counters and small list helpers (R6: a bit range is written high to low). -/

namespace Sys2Proof.Machine

/-- Bits `hi` down to `lo` of a number. -/
def bitsOf (w hi lo : Nat) : Nat := (w / 2 ^ lo) % 2 ^ (hi + 1 - lo)

/-- Bit `i` of a number. -/
def bitOf (w i : Nat) : Bool := Nat.testBit w i

/-- A flag as a number. -/
def b2n (b : Bool) : Nat := if b then 1 else 0

/-- A field placed at bit `lo`. -/
def fieldAt (v lo : Nat) : Nat := v * 2 ^ lo

/-- Set (or clear) bit `i`. -/
def setBitTo (w i : Nat) (b : Bool) : Nat :=
  if bitOf w i == b then w else if b then w + 2 ^ i else w - 2 ^ i

/-- Add one to a counter that stops at `top`. -/
def satInc (top n : Nat) : Nat := if n < top then n + 1 else n

/-- Add `d` to a counter that stops at `top`. -/
def satAdd (top n d : Nat) : Nat := if n + d ≤ top then n + d else top

/-- The 16-bit counters of the registers stop at 0xFFFF. -/
def inc16 (n : Nat) : Nat := satInc 0xFFFF n

/-- The element at index `i`, or `d` beyond the end. -/
def nth {α : Type} (d : α) : List α → Nat → α
  | [], _ => d
  | x :: _, 0 => x
  | _ :: xs, i + 1 => nth d xs i

/-- Replace the element at index `i`; unchanged beyond the end. -/
def setNth {α : Type} : List α → Nat → α → List α
  | [], _, _ => []
  | _ :: xs, 0, v => v :: xs
  | x :: xs, i + 1, v => x :: setNth xs i v

/-- Ceiling of a quotient. -/
def ceilDiv (a b : Nat) : Nat := (a + b - 1) / b

/-- Round up to a multiple of `b`. -/
def roundUp (a b : Nat) : Nat := ceilDiv a b * b

/-- The low `n` bits of an integer in two's complement. -/
def toTwos (n : Nat) (i : Int) : Nat := (i % ((2 : Int) ^ n)).toNat

/-- The signed value of the low `n` bits. -/
def ofTwos (n w : Nat) : Int := if w % 2 ^ n < 2 ^ (n - 1) then (w % 2 ^ n : Nat) else (w % 2 ^ n : Nat) - (2 : Int) ^ n

end Sys2Proof.Machine
end

