-- ==== Sys2Proof/Machine/Float.lean ====
section
/-! DEFINITION. Binary floating point: exact dyadic values, their rounding to FP32, and the IEEE 754 binary32
operations of the vector engine (R22: subnormals kept; R43: every NaN is canonical; R46). -/

namespace Sys2Proof.Machine

/-- A decoded value: NaN, an infinity by sign, or the finite value (-1)^neg * man * 2^exp. -/
inductive FVal where
  | nan
  | inf (neg : Bool)
  | fin (neg : Bool) (man : Nat) (exp : Int)
  deriving DecidableEq, Repr

/-- The canonical FP32 NaN (R43). -/
def f32NaN : F32 := 0x7FC00000
/-- FP32 infinity of the given sign. -/
def f32Inf (neg : Bool) : F32 := if neg then 0xFF800000 else 0x7F800000
/-- The largest finite FP32 magnitude with the given sign (R30). -/
def f32Max (neg : Bool) : F32 := if neg then 0xFF7FFFFF else 0x7F7FFFFF
/-- FP32 zero of the given sign. -/
def f32Zero (neg : Bool) : F32 := if neg then 0x80000000 else 0
/-- FP32 one. -/
def f32One : F32 := 0x3F800000

/-- Decode the word of a binary format with `eb` exponent bits, `mb` mantissa bits and IEEE infinities and NaNs. -/
def decodeIeee (eb mb bias w : Nat) : FVal :=
  let neg := bitOf w (eb + mb)
  let e := bitsOf w (eb + mb - 1) mb
  let m := w % 2 ^ mb
  if e + 1 == 2 ^ eb then (if m == 0 then .inf neg else .nan)
  else if e == 0 then .fin neg m (1 - (bias : Int) - mb)
  else .fin neg (m + 2 ^ mb) ((e : Int) - bias - mb)

/-- The value of an FP32 word. -/
def f32Val (w : F32) : FVal := decodeIeee 8 23 127 w.toNat

/-- Is the word finite? -/
def f32Finite (w : F32) : Bool := bitsOf w.toNat 30 23 != 255
/-- Is the word a NaN? -/
def f32IsNaN (w : F32) : Bool := bitsOf w.toNat 30 23 == 255 && w.toNat % 2 ^ 23 != 0
/-- Is the word an infinity? -/
def f32IsInf (w : F32) : Bool := bitsOf w.toNat 30 23 == 255 && w.toNat % 2 ^ 23 == 0
/-- Is the word a zero of either sign? -/
def f32IsZero (w : F32) : Bool := w.toNat % 2 ^ 31 == 0
/-- The sign bit. -/
def f32Neg (w : F32) : Bool := bitOf w.toNat 31
/-- A positive, finite, normal value. -/
def f32PosNormal (w : F32) : Bool := !f32Neg w && f32Finite w && bitsOf w.toNat 30 23 != 0

/-- Round `m / 2^k` to the nearest natural number, ties to even. -/
def rneShift (m k : Nat) : Nat :=
  let q := m / 2 ^ k
  let r := m % 2 ^ k
  if k == 0 then m
  else if r < 2 ^ (k - 1) then q
  else if 2 ^ (k - 1) < r then q + 1
  else if q % 2 == 0 then q else q + 1

/-- The exponent of the least significant bit that a `p`-bit result with the lowest bit 2^emin keeps of `man * 2^exp`. -/
def gridLsb (p : Nat) (emin : Int) (man : Nat) (exp : Int) : Int :=
  let top : Int := (Nat.log2 man : Int) + exp
  let l := top - ((p : Int) - 1)
  if l < emin then emin else l

/-- Shift a significand left or divide it, to the grid 2^lsb: exact quotient, remainder bits dropped. -/
def cutTo (man : Nat) (exp lsb : Int) : Nat :=
  if lsb ≤ exp then man * 2 ^ (exp - lsb).toNat else man / 2 ^ (lsb - exp).toNat

/-- Round `man * 2^exp` to a multiple of 2^lsb, nearest even; the multiple is answered. -/
def rneTo (man : Nat) (exp lsb : Int) : Nat :=
  if lsb ≤ exp then man * 2 ^ (exp - lsb).toNat else rneShift man (lsb - exp).toNat

/-- The magnitude bits of `m * 2^lsb` in FP32, before the range is checked. -/
def f32Pack (m : Nat) (lsb : Int) : Nat := (lsb + 149).toNat * 2 ^ 23 + m

/-- Round a finite value to FP32, nearest even. Past the largest finite value the answer is that value when `sat`,
else an infinity; the flag says that the range was left. -/
def roundF32 (sat : Bool) (neg : Bool) (man : Nat) (exp : Int) : F32 × Bool :=
  if man == 0 then (f32Zero neg, false)
  else
    let lsb := gridLsb 24 (-149) man exp
    let w := f32Pack (rneTo man exp lsb) lsb
    if 0x7F800000 ≤ w then (if sat then f32Max neg else f32Inf neg, true)
    else (BitVec.ofNat 32 (if neg then w + 0x80000000 else w), false)

/-- The exact sum of two finite values as a signed multiple of a power of two. -/
def dyAdd (na : Bool) (ma : Nat) (ea : Int) (nb : Bool) (mb : Nat) (eb : Int) : Int × Int :=
  let e := if ea ≤ eb then ea else eb
  let a : Int := (ma * 2 ^ (ea - e).toNat : Nat)
  let b : Int := (mb * 2 ^ (eb - e).toNat : Nat)
  ((if na then -a else a) + (if nb then -b else b), e)

/-- FP32 addition, rounded to nearest even; `sat` selects the matrix array's saturation (R33) in place of IEEE overflow. -/
def f32AddWith (sat : Bool) (a b : F32) : F32 × Bool :=
  match f32Val a, f32Val b with
  | .nan, _ => (f32NaN, false)
  | _, .nan => (f32NaN, false)
  | .inf s, .inf t => (if s == t then f32Inf s else f32NaN, false)
  | .inf s, _ => (f32Inf s, false)
  | _, .inf t => (f32Inf t, false)
  | .fin na ma ea, .fin nb mb eb =>
    let (v, e) := dyAdd na ma ea nb mb eb
    if v == 0 then (f32Zero (na && nb), false) else roundF32 sat (v < 0) v.natAbs e

/-- FP32 multiplication, rounded to nearest even. -/
def f32MulWith (sat : Bool) (a b : F32) : F32 × Bool :=
  match f32Val a, f32Val b with
  | .nan, _ => (f32NaN, false)
  | _, .nan => (f32NaN, false)
  | .inf s, .inf t => (f32Inf (s != t), false)
  | .inf s, .fin t m _ => (if m == 0 then f32NaN else f32Inf (s != t), false)
  | .fin s m _, .inf t => (if m == 0 then f32NaN else f32Inf (s != t), false)
  | .fin na ma ea, .fin nb mb eb => roundF32 sat (na != nb) (ma * mb) (ea + eb)

/-- IEEE addition (R46). -/
def f32Add (a b : F32) : F32 := (f32AddWith false a b).1
/-- IEEE multiplication (R46). -/
def f32Mul (a b : F32) : F32 := (f32MulWith false a b).1
/-- Change the sign bit; a NaN becomes the canonical NaN (R43). -/
def f32Negate (a : F32) : F32 := if f32IsNaN a then f32NaN else a ^^^ 0x80000000
/-- Clear the sign bit; a NaN becomes the canonical NaN (R43). -/
def f32Abs (a : F32) : F32 := if f32IsNaN a then f32NaN else a &&& 0x7FFFFFFF
/-- IEEE subtraction (R46). -/
def f32Sub (a b : F32) : F32 := f32Add a (if f32IsNaN b then f32NaN else b ^^^ 0x80000000)

/-- The quotient of two positive significands with enough bits to round, its last bit sticky. -/
def divSticky (ma : Nat) (ea : Int) (mb : Nat) (eb : Int) : Nat × Int :=
  let k := 30 + Nat.log2 mb
  let n := ma * 2 ^ k
  (2 * (n / mb) + b2n (n % mb != 0), ea - eb - k - 1)

/-- FP32 division, rounded to nearest even, with or without saturation (R39 step 1, R46). -/
def f32DivWith (sat : Bool) (a b : F32) : F32 × Bool :=
  match f32Val a, f32Val b with
  | .nan, _ => (f32NaN, false)
  | _, .nan => (f32NaN, false)
  | .inf _, .inf _ => (f32NaN, false)
  | .inf s, .fin t _ _ => (f32Inf (s != t), false)
  | .fin s _ _, .inf t => (f32Zero (s != t), false)
  | .fin na ma ea, .fin nb mb eb =>
    if mb == 0 then (if ma == 0 then f32NaN else f32Inf (na != nb), false)
    else if ma == 0 then (f32Zero (na != nb), false)
    else
      let (q, e) := divSticky ma ea mb eb
      roundF32 sat (na != nb) q e

/-- IEEE division (R46). -/
def f32Div (a b : F32) : F32 := (f32DivWith false a b).1

/-- Integer square root by bits: the largest `r` with `r*r ≤ n`, `k` result bits tried from the top. -/
def isqrtBits : Nat → Nat → Nat → Nat
  | 0, _, r => r
  | k + 1, n, r =>
    let c := r + 2 ^ k
    isqrtBits k n (if c * c ≤ n then c else r)

/-- Integer square root. -/
def isqrt (n : Nat) : Nat := isqrtBits (Nat.log2 n / 2 + 1) n 0

/-- IEEE square root, rounded to nearest even (R46). -/
def f32Sqrt (a : F32) : F32 :=
  match f32Val a with
  | .nan => f32NaN
  | .inf neg => if neg then f32NaN else f32Inf false
  | .fin neg m e =>
    if m == 0 then f32Zero neg
    else if neg then f32NaN
    else
      -- an even exponent and at least 60 significand bits, so the root has 30 bits before the sticky one
      let odd := e % 2 != 0
      let m1 := if odd then m * 2 else m
      let e1 := if odd then e - 1 else e
      let n := m1 * 2 ^ 60
      let r := isqrt n
      (roundF32 false false (2 * r + b2n (r * r != n)) (e1 / 2 - 30 - 1)).1

/-- Fused multiply-add a * b + c, rounded once (R46). -/
def f32Fma (a b c : F32) : F32 :=
  match f32Val a, f32Val b, f32Val c with
  | .nan, _, _ => f32NaN
  | _, .nan, _ => f32NaN
  | _, _, .nan => f32NaN
  | .fin na ma ea, .fin nb mb eb, .fin nc mc ec =>
    let (v, e) := dyAdd (na != nb) (ma * mb) (ea + eb) nc mc ec
    if v == 0 then f32Zero ((na != nb) && nc) else (roundF32 false (v < 0) v.natAbs e).1
  | .fin _ _ _, .fin _ _ _, .inf s => f32Inf s
  | x, y, z =>
    -- the product is an infinity or invalid
    let prod : FVal := match x, y with
      | .inf s, .inf t => .inf (s != t)
      | .inf s, .fin t m _ => if m == 0 then .nan else .inf (s != t)
      | .fin s m _, .inf t => if m == 0 then .nan else .inf (s != t)
      | _, _ => .nan
    match prod, z with
    | .inf s, .inf t => if s == t then f32Inf s else f32NaN
    | .inf s, _ => f32Inf s
    | _, _ => f32NaN

/-- A total order key on words that are not NaN: rises with the value, -0 below +0 (R70). -/
def f32Key (w : F32) : Int :=
  if f32Neg w then -((w.toNat % 2 ^ 31 : Nat) : Int) - 1 else (w.toNat % 2 ^ 31 : Nat)

/-- IEEE equality: false on a NaN, the zeros equal. -/
def f32Eq (a b : F32) : Bool :=
  !f32IsNaN a && !f32IsNaN b && (a == b || (f32IsZero a && f32IsZero b))
/-- IEEE less-than: false on a NaN, the zeros equal. -/
def f32Lt (a b : F32) : Bool :=
  !f32IsNaN a && !f32IsNaN b && !(f32IsZero a && f32IsZero b) && f32Key a < f32Key b
/-- IEEE less-or-equal. -/
def f32Le (a b : F32) : Bool := f32Lt a b || f32Eq a b

/-- The FP32 word of a natural number, rounded to nearest even. -/
def f32OfNat (n : Nat) : F32 := (roundF32 false false n 0).1
/-- The FP32 word of an integer, rounded to nearest even. -/
def f32OfInt (i : Int) : F32 := (roundF32 false (i < 0) i.natAbs 0).1
/-- The power of two 2^k as an FP32 word. -/
def f32Pow2 (k : Int) : F32 := (roundF32 false false 1 k).1

/-- Compare two exact finite values. -/
def dyLe (na : Bool) (ma : Nat) (ea : Int) (nb : Bool) (mb : Nat) (eb : Int) : Bool :=
  (dyAdd na ma ea (!nb) mb eb).1 ≤ 0

/-- The floor of a finite value as an integer; 0 for a value that is not finite. -/
def f32Floor (a : F32) : Int :=
  match f32Val a with
  | .fin neg m e =>
    let num : Int := if neg then -(m : Int) else m
    if 0 ≤ e then num * 2 ^ e.toNat else num / 2 ^ (-e).toNat
  | _ => 0

end Sys2Proof.Machine
end

