-- ==== Sys2Proof/Machine/Tables.lean ====
section
/-! DEFINITION. The built-in tables: EXP (R121), LT and LM (R155, R156), NT (R157) and the cosine table (R215).
Each number holds its entries lowest first; an entry of a cubic table is four FP32 words c0, c1, c2, c3.
Every word is rounded to nearest even from the exact value that the rule's formula gives. -/

namespace Sys2Proof.Machine

/-- Coefficients of 2^f (R121). -/
def tabExp : Nat :=
  0x3DE2BAE83EF553A93FB0F7443FFF4ECB3DE21DF63EF4A9D83FB07CC43FFE9E113DE181713EF4007C3FB0029A3FFDEDD23DE0E5583EF357953FAF88C43FFD3E0C3DE049AB3EF2AF243FAF0F423FFC8EC03DDFAE6A3EF207273FAE96143FFBDFED3DDF13943EF15F9E3FAE1D3B3FFB31943DDE792A3EF0B8893FADA4B53FFA83B33DDDDF2B3EF011E83FAD2C823FF9D64A3DDD45963EEF6BBA3FACB4A33FF9295A3DDCAC6B3EEEC6003FAC3D163FF87CE13DDC13AA3EEE20B83FABC5DD3FF7D0DF3DDB7B543EED7BE23FAB4EF63FF725553DDAE3663EECD77E3FAAD8613FF67A413DDA4BE23EEC338D3FAA621E3FF5CFA43DD9B4C73EEB900D3FA9EC2D3FF5257D3DD91E143EEAECFE3FA9768E3FF47BCC3DD887C93EEA4A5F3FA901403FF3D2903DD7F1E73EE9A8323FA88C433FF329C93DD75C6C3EE906743FA817983FF281773DD6C7593EE865273FA7A33D3FF1D99A3DD632AD3EE7C4493FA72F333FF132313DD59E683EE723DB3FA6BB793FF08B3B3DD50A893EE683DC3FA6480F3FEFE4BA3DD477113EE5E44B3FA5D4F53FEF3EAB3DD3E3FF3EE545293FA5622A3FEE99103DD351533EE4A6753FA4EFAF3FEDF3E73DD2BF0C3EE4082F3FA47D843FED4F303DD22D2B3EE36A563FA40BA73FECAAEC3DD19BAF3EE2CCEB3FA39A193FEC07193DD10A973EE22FED3FA328DA3FEB63B73DD079E33EE1935B3FA2B7E93FEAC0C73DCFE9943EE0F7363FA247473FEA1E473DCF59A93EE05B7C3FA1D6F23FE97C383DCECA213EDFC02F3FA166EB3FE8DA993DCE3AFD3EDF254D3FA0F7323FE8396A3DCDAC3C3EDE8AD63FA087C63FE798AB3DCD1DDE3EDDF0CB3FA018A73FE6F85B3DCC8FE23EDD572A3F9FA9D53FE658793DCC02483EDCBDF33F9F3B503FE5B9073DCB75113EDC25263F9ECD173FE51A033DCAE83B3EDB8CC33F9E5F2A3FE47B6D3DCA5BC73EDAF4CA3F9DF18A3FE3DD443DC9CFB33EDA5D393F9D84363FE33F893DC944013ED9C6123F9D172D3FE2A23C3DC8B8B03ED92F533F9CAA6F3FE2055B3DC82DBF3ED898FD3F9C3DFD3FE168E73DC7A32E3ED8030F3F9BD1D63FE0CCDF3DC718FD3ED76D883F9B65FA3FE031433DC68F2C3ED6D8693F9AFA693FDF96133DC605BA3ED643B13F9A8F223FDEFB4E3DC57CA83ED5AF603F9A24253FDE60F53DC4F3F43ED51B763F99B9723FDDC7063DC46B9F3ED487F23F994F0A3FDD2D823DC3E3A83ED3F4D53F98E4EA3FDC94683DC35C0F3ED3621D3F987B153FDBFBB83DC2D4D43ED2CFCA3F9811883FDB63713DC24DF73ED23DDD3F97A8453FDACB943DC1C7773ED1AC553F973F4A3FDA34213DC141543ED11B323F96D6983FD99D163DC0BB8E3ED08A733F966E2F3FD906733DC036253ECFFA193F96060E3FD870393DBFB1183ECF6A223F959E353FD7DA673DBF2C673ECEDA8F3F9536A43FD744FD3DBEA8123ECE4B5F3F94CF5A3FD6AFFA3DBE24193ECDBC933F9468583FD61B5E3DBDA07B3ECD2E293F94019E3FD587293DBD1D383ECCA0223F939B2A3FD4F35B3DBC9A503ECC127D3F9334FD3FD45FF33DBC17C23ECB853A3F92CF173FD3CCF13DBB958F3ECAF8593F9269783FD33A543DBB13B63ECA6BDA3F92041F3FD2A81E3DBA92373EC9DFBC3F919F0C3FD2164C3DBA11123EC953FF3F913A3F3FD184DF3DB990463EC8C8A23F90D5B83FD0F3D73DB90FD33EC83DA63F9071773FD063343DB88FB93EC7B30A3F900D7A3FCFD2F43DB80FF73EC728CE3F8FA9C33FCF43193DB7908E3EC69EF23F8F46523FCEB3A13DB7117E3EC615753F8EE3243FCE248C3DB692C53EC58C583F8E803C3FCD95DA3DB614643EC503993F8E1D983FCD078C3DB5965A3EC47B393F8DBB383FCC799F3DB518A83EC3F3383F8D591D3FCBEC153DB49B4D3EC36B943F8CF7453FCB5EED3DB41E483EC2E44F3F8C95B13FCAD2263DB3A19A3EC25D673F8C34613FCA45C13DB325433EC1D6DC3F8BD3543FC9B9BE3DB2A9413EC150AF3F8B728A3FC92E1B3DB22D953EC0CADE3F8B12033FC8A2D83DB1B23F3EC0456A3F8AB1BF3FC817F73DB1373E3EBFC0533F8A51BD3FC78D753DB0BC933EBF3B973F89F1FE3FC703533DB0423C3EBEB7383F8992823FC679913DAFC83A3EBE33343F8933473FC5F02E3DAF4E8C3EBDAF8B3F88D44F3FC5672A3DAED5333EBD2C3E3F8875983FC4DE853DAE5C2E3EBCA94B3F8817223FC4563F3DADE37C3EBC26B43F87B8EE3FC3CE573DAD6B1E3EBBA4763F875AFB3FC346CD3DACF3133EBB22933F86FD4A3FC2BFA13DAC7B5C3EBAA1093F869FD93FC238D23DAC03F73EBA1FDA3F8642A93FC1B2613DAB8CE53EB99F033F85E5B93FC12C4D3DAB16253EB91E863F85890A3FC0A6953DAA9FB73EB89E623F852C9A3FC0213B3DAA299C3EB81E973F84D06B3FBF9C3C3DA9B3D23EB79F243F84747C3FBF179A3DA93E5A3EB720093F8418CC3FBE93533DA8C9333EB6A1463F83BD5C3FBE0F683DA8545D3EB622DB3F83622B3FBD8BD83DA7DFD83EB5A4C73F8307393FBD08A43DA76BA43EB5270B3F82AC863FBC85CA3DA6F7C03EB4A9A63F8252123FBC034A3DA6842C3EB42C973F81F7DC3FBB81263DA610E93EB3AFDF3F819DE53FBAFF5B3DA59DF53EB3337E3F81442C3FBA7DEA3DA52B513EB2B7723F80EAB13FB9FCD23DA4B8FC3EB23BBD3F8091753FB97C143DA446F63EB1C05D3F8038763FB8FBAF3DA3D53F3EB145523F7FBF683FB87BA33DA363D73EB0CA9D3F7F0E603FB7FBF03DA2F2BD3EB0503C3F7E5DD33FB77C953DA281F23EAFD6313F7DADC03FB6FD923DA211753EAF5C7A3F7CFE273FB67EE73DA1A1453EAEE3163F7C4F073FB600943DA131643EAE6A083F7BA0603FB582983DA0C1CF3EADF14C3F7AF2333FB504F33DA052883EAD78E53F7A447E3FB487A63D9FE38E3EAD00D03F7997413FB40AAF3D9F74E13EAC890F3F78EA7C3FB38E0E3D9F06803EAC11A13F783E2E3FB311C43D9E986C3EAB9A853F7792583FB295D03D9E2AA43EAB23BC3F76E6F93FB21A323D9DBD283EAAAD453F763C113FB19EE93D9D4FF83EAA37213F75919F3FB123F63D9CE3133EA9C14D3F74E7A23FB0A9573D9C767A3EA94BCC3F743E1C3FB02F0E3D9C0A2C3EA8D69C3F73950B3FAFB5193D9B9E293EA861BD3F72EC6F3FAF3B793D9B32703EA7ED2E3F7244473FAEC22D3D9AC7033EA778F13F719C943FAE49343D9A5BDF3EA705043F70F5553FADD0903D99F1063EA691673F704E8A3FAD583F3D9986773EA61E1A3F6FA8323FACE0413D991C313EA5AB1D3F6F024E3FAC68973D98B2353EA538703F6E5CDC3FABF13F3D9848833EA4C6123F6DB7DD3FAB7A3A3D97DF193EA454033F6D13503FAB03873D9775F93EA3E2433F6C6F353FAA8D263D970D213EA370D23F6BCB8B3FAA17183D96A4923EA2FFAF3F6B28533FA9A15B3D963C4B3EA28EDB3F6A858C3FA92BEF3D95D44C3EA21E553F69E3353FA8B6D53D956C963EA1AE1C3F69414F3FA8420C3D9505273EA13E323F689FD93FA7CD943D949E003EA0CE953F67FED23FA7596C3D9437203EA05F453F675E3C3FA6E5953D93D0873E9FF0423F66BE143FA6720E3D936A363E9F818C3F661E5B3FA5FED73D93042B3E9F13233F657F113FA58BEF3D929E673E9EA5063F64E0353FA519583D9238E93E9E37353F6441C63FA4A70F3D91D3B23E9DC9B03F63A3C63FA435163D916EC03E9D5C773F6306333FA3C36B3D910A153E9CEF8A3F62690D3FA3520F3D90A5AF3E9C82E83F61CC543FA2E1023D90418F3E9C16913F6130073FA270433D8FDDB43E9BAA863F6094273FA1FFD23D8F7A1E3E9B3EC53F5FF8B23FA18FAF3D8F16CD3E9AD34E3F5F5DA93FA11FD93D8EB3C13E9A68223F5EC30B3FA0B0513D8E50F93E99FD413F5E28D93FA041163D8DEE763E9992A93F5D8F113F9FD2283D8D8C373E99285B3F5CF5B33F9F63873D8D2A3C3E98BE573F5C5CC03F9EF5323D8CC8853E98549C3F5BC4363F9E872A3D8C67113E97EB2A3F5B2C163F9E196E3D8C05E13E9782013F5A94603F9DABFE3D8BA4F43E9719213F59FD123F9D3EDA3D8B444A3E96B0893F59662E3F9CD2013D8AE3E33E96483A3F58CFB13F9C65733D8A83BF3E95E0333F58399D3F9BF9313D8A23DE3E9578753F57A3F13F9B8D3A3D89C43E3E9510FE3F570EAC3F9B218D3D8964E13E94A9CE3F5679CF3F9AB62B3D8905C63E9442E63F55E5583F9A4B133D88A6ED3E93DC453F5551493F99E0463D8848563E9375EC3F54BDA03F9975C23D87EA003E930FD93F542A5D3F990B883D878BEB3E92AA0D3F5397803F98A1973D872E173E9244873F5305093F9837F03D86D0853E91DF483F5272F73F97CE923D8673333E917A4E3F51E14A3F97657D3D8616223E91159B3F5150023F96FCB13D85B9513E90B12D3F50BF1F3F96942D3D855CC03E904D053F502EA03F962BF23D85006F3E8FE9223F4F9E853F95C3FF3D84A45F3E8F85843F4F0ECD3F955C533D84488E3E8F222B3F4E7F793F94F4F03D83ECFC3E8EBF173F4DF0893F948DD43D8391AA3E8E5C483F4D61FB3F9426FF3D8336983E8DF9BC3F4CD3D03F93C0723D82DBC43E8D97763F4C46083F935A2B3D82812F3E8D35733F4BB8A13F92F42C3D8226D93E8CD3B43F4B2B9D3F928E723D81CCC13E8C72383F4A9EFA3F9229003D8172E83E8C11013F4A12B83F91C3D33D81194D3E8BB00C3F4986D83F915EED3D80BFF03E8B4F5B3F48FB583F90FA4D3D8066D13E8AEEEC3F4870393F9095F23D800DEF3E8A8EC03F47E57A3F9031DC3D7F6A973E8A2ED73F475B1B3F8FCE0C3D7EB9C93E89CF303F46D11C3F8F6A813D7E09773E896FCC3F46477D3F8F073B3D7D599E3E8910A93F45BE3D3F8EA43A3D7CAA3F3E88B1C83F45355B3F8E417D3D7BFB593E8853293F44ACD93F8DDF043D7B4CEC3E87F4CC3F4424B53F8D7CD03D7A9EF93E8796B03F439CEF3F8D1ADF3D79F17D3E8738D53F4315873F8CB9333D79447A3E86DB3A3F428E7D3F8C57CA3D7897EE3E867DE13F4207D13F8BF6A43D77EBDA3E8620C83F4181823F8B95C23D77403D3E85C3F03F40FB8F3F8B35233D7695173E8567583F4075FA3F8AD4C63D75EA673E850B003F3FF0C13F8A74AD3D75402D3E84AEE83F3F6BE43F8A14D53D7496693E8453103F3EE7633F89B5413D73ED1B3E83F7773F3E633D3F8955EE3D7344423E839C1E3F3DDF743F88F6DD3D729BDE3E8341043F3D5C053F88980F3D71F3EE3E82E6293F3CD8F13F8839813D714C733E828B8D3F3C56393F87DB353D70A56B3E8231303F3BD3DA3F877D2B3D6FFED73E81D7113F3B51D63F871F623D6F58B73E817D313F3AD02C3F86C1D93D6EB3093E81238E3F3A4EDC3F8664913D6E0DCE3E80CA2A3F39CDE53F86078A3D6D69063E8071043F394D473F85AAC33D6CC4AF3E80181C3F38CD033F854E3D3D6C20CB3E7F7EE13F384D173F84F1F63D6B7D573E7ECE063F37CD843F8495F03D6ADA553E7E1DA53F374E493F843A293D6A37C43E7D6DBE3F36CF663F83DEA13D6995A33E7CBE513F3650DB3F8383593D68F3F33E7C0F5E3F35D2A83F8328503D6852B23E7B60E33F3554CC3F82CD873D67B1E13E7AB2E13F34D7473F8272FC3D6711803E7A05583F345A193F8218AF3D66718D3E7958473F33DD413F81BEA13D65D2093E78ABAE3F3360C03F8164D23D6532F43E77FF8C3F32E4963F810B413D64944C3E7753E13F3268C13F80B1ED3D63F6133E76A8AD3F31ED423F8058D83D6358473E75FDF03F3172183F800000

/-- Coefficients of LT (R155). -/
def tabLT : Nat :=
  0x3D803C1EBE27EEBB3F129CEC3F0EB0883D81196EBE28AFBB3F12F1143F0E1DC13D81F8BDBE2972083F13459C3F0D8AA63D82DA0FBE2A35A63F139A863F0CF7363D83BD6CBE2AFA973F13EFD23F0C63703D84A2D8BE2BC0DF3F1445813F0BCF563D858A5BBE2C88813F149B933F0B3AE53D8673F9BE2D517F3F14F2093F0AA61F3D875FBABE2E1BDE3F1548E53F0A11013D884DA3BE2EE79F3F15A0253F097B8D3D893DBBBE2FB4C83F15F7CC3F08E5C13D8A3008BE30835A3F164FDA3F084F9D3D8B2490BE3153593F16A8503F07B9213D8C1B5BBE3224C93F17012E3F07224C3D8D146FBE32F7AC3F175A753F068B1E3D8E0FD3BE33CC073F17B4263F05F3973D8F0D8DBE34A1DD3F180E413F055BB63D900DA5BE3579313F1868C83F04C37A3D911022BE3652073F18C3BB3F042AE43D92150BBE372C623F191F1A3F0391F33D931C67BE3808473F197AE73F02F8A63D94263DBE38E5B93F19D7233F025EFD3D953295BE39C4BB3F1A33CD3F01C4F73D964177BE3AA5523F1A90E83F012A953D9752EABE3B87813F1AEE733F008FD63D9866F7BE3C6B4C3F1B4C703EFFE9703D997DA4BE3D50B73F1BAADF3EFEB2793D9A96FABE3E37C63F1C09C13EFD7AC43D9BB302BE3F207D3F1C69173EFC42523D9CD1C3BE400AE13F1CC8E13EFB09203D9DF346BE40F6F43F1D29223EF9CF2E3D9F1794BE41E4BC3F1D89D93EF8947B3DA03EB4BE42D43C3F1DEB073EF759063DA168B0BE43C5793F1E4CAD3EF61CCF3DA29591BE44B8783F1EAECD3EF4DFD33DA3C55FBE45AD3C3F1F11663EF3A2133DA4F824BE46A3C93F1F747A3EF2638D3DA62DE9BE479C253F1FD80A3EF124413DA766B8BE4896553F203C173EEFE42D3DA8A299BE49925B3F20A0A13EEEA3503DA9E197BE4A903E3F2105A93EED61AA3DAB23BCBE4B90013F216B313EEC1F393DAC6912BE4C91AB3F21D13A3EEADBFD3DADB1A2BE4D953E3F2237C33EE997F43DAEFD77BE4E9AC13F229ECF3EE8531D3DB04C9BBE4FA2383F23065E3EE70D783DB19F19BE50ABA93F236E723EE5C7043DB2F4FCBE51B7173F23D70A3EE47FBE3DB44E4FBE52C4893F2440293EE337A73DB5AB1CBE53D4043F24A9CF3EE1EEBD3DB70B6FBE54E58C3F2513FD3EE0A5003DB86F54BE55F9283F257EB53EDF5A6D3DB9D6D5BE570EDC3F25E9F73EDE0F043DBB41FFBE5826AE3F2655C43EDCC2C53DBCB0DEBE5940A43F26C21E3EDB75AD3DBE237EBE5A5CC33F272F053EDA27BC3DBF99EBBE5B7B103F279C7B3ED8D8F03DC11432BE5C9B933F280A813ED7894A3DC2925EBE5DBE4F3F2879173ED638C63DC4147EBE5EE34C3F28E83F3ED4E7653DC59A9FBE600A8E3F2957FB3ED395253DC724CDBE61341E3F29C84A3ED242053DC8B316BE625FFF3F2A392F3ED0EE033DCA4588BE638E393F2AAAAB3ECF991F3DCBDC31BE64BED23F2B1CBE3ECE43583DCD771EBE65F1D03F2B8F6A3ECCECAC3DCF1660BE6727393F2C02B03ECB951A3DD0BA03BE685F153F2C76923ECA3CA13DD26216BE6999693F2CEB103EC8E33F3DD40EAABE6AD63D3F2D602B3EC788F43DD5BFCDBE6C15983F2DD5E63EC62DBE3DD7758FBE6D577F3F2E4C413EC4D19C3DD92FFFBE6E9BFB3F2EC33E3EC3748D3DDAEF2EBE6FE3113F2F3ADE3EC2168F3DDCB32BBE712CCB3F2FB3223EC0B7A13DDE7C09BE72792D3F302C0B3EBF57C23DE049D6BE73C8413F30A59B3EBDF6F03DE21CA6BE751A0D3F311FD43EBC952B3DE3F488BE766E9A3F319AB63EBB32713DE5D18EBE77C5EE3F3216433EB9CEC03DE7B3CCBE7920113F32927C3EB86A173DE99B52BE7A7D0C3F330F633EB704753DEB8834BE7BDCE63F338CFA3EB59DD93DED7A84BE7D3FA73F340B413EB436413DEF7256BE7EA5583F348A3A3EB2CDAC3DF16FBDBE8007003F3509E73EB164183DF372CDBE80BCD53F358A483EAFF9843DF57B9ABE81742E3F360B613EAE8DEE3DF78A38BE822D103F368D313EAD21563DF99EBDBE82E77F3F370FBB3EABB3B93DFBB93EBE83A37F3F3793013EAA45163DFDD9D0BE8461163F3817033EA8D56C3E000045BE8520483F389BC33EA764BA3E0116C0BE85E1193F3921443EA5F2FD3E023066BE86A38E3F39A7863EA480343E034D41BE8767AB3F3A2E8C3EA30C5E3E046D5EBE882D773F3AB6563EA197793E0590C8BE88F4F53F3B3EE73EA021843E06B78CBE89BE2B3F3BC8413E9EAA7D3E07E1B5BE8A891D3F3C52643E9D32633E090F51BE8B55D23F3CDD533E9BB9333E0A406CBE8C244D3F3D69103E9A3EED3E0B7513BE8CF4953F3DF59D3E98C38E3E0CAD54BE8DC6AE3F3E82FA3E9747163E0DE93BBE8E9A9F3F3F112B3E95C9823E0F28D7BE8F706C3F3FA0303E944AD13E106C36BE90481B3F40300C3E92CB013E11B366BE9121B23F40C0C13E914A103E12FE74BE91FD373F4152503E8FC7FD3E144D71BE92DAB03F41E4BC3E8E44C63E15A06BBE93BA213F4278063E8CC0693E16F771BE949B933F430C313E8B3AE53E185292BE957F0A3F43A13E3E89B4383E19B1DFBE96648D3F4437303E882C603E1B1567BE974C223F44CE083E86A35B3E1C7D3CBE9835CF3F4565C83E8519273E1DE96DBE99219B3F45FE743E838DC33E1F5A0BBE9A0F8E3F46980C3E82012D3E20CF28BE9AFFAC3F4732943E8073623E2248D6BE9BF1FD3F47CE0C3E7DC8C33E23C725BE9CE6893F486A793E7AA8533E254A2ABE9DDD553F4907DA3E77856E3E26D1F6BE9ED66A3F49A6343E7460133E285E9BBE9FD1CD3F4A45883E71383B3E29F02EBEA0CF883F4AE5D83E6E0DE53E2B86C2BEA1CFA03F4B87283E6AE10B3E2D226CBEA2D21F3F4C29783E67B1AA3E2EC33EBEA3D70A3F4CCCCD3E647FBE3E30694FBEA4DE6B3F4D71273E614B433E3214B3BEA5E8493F4E168A3E5E14343E33C580BEA6F4AC3F4EBCF93E5ADA8D3E357BCCBEA8039C3F4F64753E579E4A3E3737AEBEA915223F500D013E545F683E38F93BBEAA29463F50B6A03E511DE13E3AC08CBEAB40113F5161543E4DD9B13E3C8DB8BEAC598B3F520D213E4A92D53E3E60D8BEAD75BD3F52BA083E4749473E403A03BEAE94B03F53680D3E43FD033E421954BEAFB66E3F5417333E40AE053E43FEE3BEB0DAFF3F54C77B3E3D5C483E45EACCBEB2026E3F5578E93E3A07C83E47DD27BEB32CC33F562B813E36B07F3E49D612BEB45A083F56DF443E33566A3E4BD5A7BEB58A483F5794363E2FF9843E4DDC02BEB6BD8D3F584A5A3E2C99C73E4FE941BEB7F3E03F5901B23E29372F3E51FD80BEB92D4C3F59BA423E25D1B83E5418DFBEBA69DC3F5A740E3E22695B3E563B7BBEBBA99A3F5B2F173E1EFE163E586573BEBCEC923F5BEB623E1B8FE13E5A96E8BEBE32CE3F5CA8F13E181EB93E5CCFFABEBF7C5B3F5D67C93E14AA983E5F10C9BEC0C9423F5E27EB3E1133793E615979BEC219913F5EE95C3E0DB9573E63AA2BBEC36D533F5FAC1F3E0A3C2C3E660303BEC4C4933F6070383E06BBF43E686424BEC61F603F6135AA3E0338A93E6ACDB4BEC77DC43F61FC783DFF648A3E6D3FD7BEC8DFCD3F62C4A73DF851863E6FBAB4BECA45883F638E393DF1383B3E723E72BECBAF023F6459333DEA189F3E74CB3ABECD1C483F6525983DE2F2A43E776133BECE8D683F65F36D3DDBC6413E7A0087BED002703F66C2B43DD4936A3E7CA960BED17B6E3F6793733DCD5A123E7F5BEBBED2F8713F6865AC3DC61A2F3E810C2ABED479873F6939653DBED3B33E826F63BED5FEBF3F6A0EA13DB786943E83D7B9BED788283F6AE5643DB032C53E854543BED915D33F6BBDB33DA8D83A3E86B819BEDAA7CD3F6C97913DA176E63E883054BEDC3E293F6D73043D9A0EBD3E89AE0DBEDDD8F53F6E500F3D929FB13E8B315EBEDF78423F6F2EB73D8B29B73E8CBA61BEE11C233F700F013D83ACC23E8E4931BEE2C4A73F70F0F13D7851863E8FDDEABEE471E03F71D48C3D693B5C3E9178A7BEE623E03F72B9D63D5A16EC3E931985BEE7DABA3F73A0D53D4AE4183E94C0A3BEE9967F3F74898D3D3BA2C83E966E1DBEEB57443F7574043D2C52DD3E982212BEED1D1B3F76603E3D1CF43E3E99DCA3BEEEE8173F774E403D0D86CC3E9B9DEFBEF0B84D3F783E103CFC14D83E9D6616BEF28DD13F792FB23CDCFE013E9F353CBEF468B93F7A232D3CBDC8D83EA10B81BEF649183F7B18853C9E75223EA2E90ABEF82F053F7C0FC13C7E05463EA4CDFABEFA1A963F7D08E53C3EE23B3EA6BA76BEFC0BE03F7E03F83BFF01533EA8AEA4BEFE02FC3F7F00FF3B7F80553EAAAAABBF0000003F800000000000003EACAEB1BF0101823F808081BB80402B3EAEBAE1BF0206103F810204BC0080AC3EB0CF62BF030DB73F81848EBC4122453EB2EC60BF0418833F820821BC8102B33EB51205BF0526803F828CC0BCA195493EB7407FBF0637BD3F83126FBCC249293EB977FBBF074C463F839930BCE31E973EBBB8A7BF08642A3F842108BD020AEC3EBE02B4BF097F753F84A9FABD1297993EC05652BF0A9E363F853408BD2335773EC2B3B4BF0BC07D3F85BF37BD33E4A83EC51B0DBF0CE6573F864B8ABD44A5513EC78C92BF0E0FD33F86D905BD5577973ECA0879BF0F3D013F8767ABBD665B9E3ECC8EF8BF106DF23F87F781BD77518E3ECF204ABF11A2B43F888889BD842CC63ED1BCA7BF12DB583F891AC7BD8CB9DF3ED4644DBF1417EF3F89AE41BD9550253ED71777BF15588B3F8A42F8BD9DEFAD3ED9D665BF169D3C3F8AD8F3BDA6988B3EDCA157BF17E6143F8B7034BDAF4AD23EDF788FBF1933263F8C08C1BDB806983EE25C50BF1A84843F8CA29CBDC0CBF13EE54CE1BF1BDA413F8D3DCBBDC99AF33EE84A89BF1D34713F8DDA52BDD273B23EEB5590BF1E93273F8E7835BDDB56443EEE6E42BF1FF6793F8F177ABDE442C03EF194EBBF215E793F8FB824BDED393B3EF4C9DCBF22CB3E3F905A38BDF639CC3EF80D65BF243CDE3F90FDBCBDFF448A3EFB5FD9BF25B36E3F91A2B4BE042CC63EFEC18EBF272F053F924925BE08BC743F01196EBF28AFBB3F92F114BE0D515C3F02DA0FBF2A35A63F939A86BE11EB893F04A2D8BF2BC0DF3F944581BE168B083F0673F9BF2D517F3F94F209BE1B2FE63F084DA3BF2EE79F3F95A025BE1FDA2D3F0A3008BF30835A3F964FDABE2489EC3F0C1B5BBF3224C93F97012EBE293F2F3F0E0FD3BF33CC073F97B426BE2DFA033F100DA5BF3579313F9868C8BE32BA763F12150BBF372C623F991F1ABE3780943F14263DBF38E5B93F99D723BE3C4C6C3F164177BF3AA5523F9A90E8BE411E0B3F1866F7BF3C6B4C3F9B4C70BE45F57F3F1A96FABF3E37C63F9C09C1BE4AD2D73F1CD1C3BF400AE13F9CC8E1BE4FB6203F1F1794BF41E4BC3F9D89D9BE549F6A3F2168B0BF43C5793F9E4CADBE598EC33F23C55FBF45AD3C3F9F1166BE5E843A3F262DE9BF479C253F9FD80ABE637FDE3F28A299BF49925B3FA0A0A1BE6881C03F2B23BCBF4B90013FA16B31BE6D89EE3F2DB1A2BF4D953E3FA237C3BE7298783F304C9BBF4FA2383FA3065EBE77AD6F3F32F4FCBF51B7173FA3D70ABE7CC8E33F35AB1CBF53D4043FA4A9CFBE80F5733F386F54BF55F9283FA57EB5BE8389C33F3B41FFBF5826AE3FA655C4BE86216B3F3E237EBF5A5CC33FA72F05BE88BC743F411432BF5C9B933FA80A81BE8B5AE63F44147EBF5EE34C3FA8E83FBE8DFCCB3F4724CDBF61341E3FA9C84ABE90A22B3F4A4588BF638E393FAAAAABBE934B11

/-- Coefficients of LM (R156). -/
def tabLM : Nat :=
  0xC028AEA4BFFE02FCBFFF00FFBF307298C026BA76BFFC0BE0BFFE03F8BF2F7415C024CDFABFFA1A96BFFD08E5BF2E768FC022E90ABFF82F05BFFC0FC1BF2D7A03C0210B81BFF64918BFFB1885BF2C7E6FC01F353CBFF468B9BFFA232DBF2B83D1C01D6616BFF28DD1BFF92FB2BF2A8A28C01B9DEFBFF0B84DBFF83E10BF299171C019DCA3BFEEE817BFF74E40BF2899ABC0182212BFED1D1BBFF6603EBF27A2D4C0166E1DBFEB5744BFF57404BF26ACEAC014C0A3BFE9967FBFF4898DBF25B7EBC0131985BFE7DABABFF3A0D5BF24C3D6C01178A7BFE623E0BFF2B9D6BF23D0A9C00FDDEABFE471E0BFF1D48CBF22DE62C00E4931BFE2C4A7BFF0F0F1BF21ED00C00CBA61BFE11C23BFF00F01BF20FC80C00B315EBFDF7842BFEF2EB7BF200CE1C009AE0DBFDDD8F5BFEE500FBF1F1E22C0083054BFDC3E29BFED7304BF1E3040C006B819BFDAA7CDBFEC9791BF1D433BC0054543BFD915D3BFEBBDB3BF1C5711C003D7B9BFD78828BFEAE564BF1B6BBFC0026F63BFD5FEBFBFEA0EA1BF1A8145C0010C2ABFD47987BFE93965BF1997A2BFFF5BEBBFD2F871BFE865ACBF18AED2BFFCA960BFD17B6EBFE79373BF17C6D6BFFA0087BFD00270BFE6C2B4BF16DFABBFF76133BFCE8D68BFE5F36DBF15F950BFF4CB3ABFCD1C48BFE52598BF1513C3BFF23E72BFCBAF02BFE45933BF142F04BFEFBAB4BFCA4588BFE38E39BF134B11BFED3FD7BFC8DFCDBFE2C4A7BF1267E7BFEACDB4BFC77DC4BFE1FC78BF118587BFE86424BFC61F60BFE135AABF10A3EEBFE60303BFC4C493BFE07038BF0FC31BBFE3AA2BBFC36D53BFDFAC1FBF0EE30DBFE15979BFC21991BFDEE95CBF0E03C2BFDF10C9BFC0C942BFDE27EBBF0D253ABFDCCFFABFBF7C5BBFDD67C9BF0C4772BFDA96E8BFBE32CEBFDCA8F1BF0B6A6ABFD86573BFBCEC92BFDBEB62BF0A8E20BFD63B7BBFBBA99ABFDB2F17BF09B293BFD418DFBFBA69DCBFDA740EBF08D7C1BFD1FD80BFB92D4CBFD9BA42BF07FDAABFCFE941BFB7F3E0BFD901B2BF07244CBFCDDC02BFB6BD8DBFD84A5ABF064BA6BFCBD5A7BFB58A48BFD79436BF0573B7BFC9D612BFB45A08BFD6DF44BF049C7DBFC7DD27BFB32CC3BFD62B81BF03C5F8BFC5EACCBFB2026EBFD578E9BF02F026BFC3FEE3BFB0DAFFBFD4C77BBF021B06BFC21954BFAFB66EBFD41733BF014697BFC03A03BFAE94B0BFD3680DBF0072D7BFBE60D8BFAD75BDBFD2BA08BEFF3F8CBFBC8DB8BFAC598BBFD20D21BEFD9AC5BFBAC08CBFAB4011BFD16154BEFBF757BFB8F93BBFAA2946BFD0B6A0BEFA553FBFB737AEBFA91522BFD00D01BEF8B47CBFB57BCCBFA8039CBFCF6475BEF7150BBFB3C580BFA6F4ACBFCEBCF9BEF576E9BFB214B3BFA5E849BFCE168ABEF3DA16BFB0694FBFA4DE6BBFCD7127BEF23E8FBFAEC33EBFA3D70ABFCCCCCDBEF0A451BFAD226CBFA2D21FBFCC2978BEEF0B5BBFAB86C2BFA1CFA0BFCB8728BEED73AABFA9F02EBFA0CF88BFCAE5D8BEEBDD3DBFA85E9BBF9FD1CDBFCA4588BEEA4812BFA6D1F6BF9ED66ABFC9A634BEE8B427BFA54A2ABF9DDD55BFC907DABEE72179BFA3C725BF9CE689BFC86A79BEE59007BFA248D6BF9BF1FDBFC7CE0CBEE3FFCEBFA0CF28BF9AFFACBFC73294BEE270CEBF9F5A0BBF9A0F8EBFC6980CBEE0E303BF9DE96DBF99219BBFC5FE74BEDF566DBF9C7D3CBF9835CFBFC565C8BEDDCB09BF9B1567BF974C22BFC4CE08BEDC40D5BF99B1DFBF96648DBFC43730BEDAB7D0BF985292BF957F0ABFC3A13EBED92FF8BF96F771BF949B93BFC30C31BED7A94BBF95A06BBF93BA21BFC27806BED623C7BF944D71BF92DAB0BFC1E4BCBED49F6ABF92FE74BF91FD37BFC15250BED31C33BF91B366BF9121B2BFC0C0C1BED19A20BF906C36BF90481BBFC0300CBED0192FBF8F28D7BF8F706CBFBFA030BECE995FBF8DE93BBF8E9A9FBFBF112BBECD1AAEBF8CAD54BF8DC6AEBFBE82FABECB9D1ABF8B7513BF8CF495BFBDF59DBECA20A2BF8A406CBF8C244DBFBD6910BEC8A543BF890F51BF8B55D2BFBCDD53BEC72AFDBF87E1B5BF8A891DBFBC5264BEC5B1CDBF86B78CBF89BE2BBFBBC841BEC439B3BF8590C8BF88F4F5BFBB3EE7BEC2C2ACBF846D5EBF882D77BFBAB656BEC14CB7BF834D41BF8767ABBFBA2E8CBEBFD7D2BF823066BF86A38EBFB9A786BEBE63FCBF8116C0BF85E119BFB92144BEBCF133BF800045BF852048BFB89BC3BEBB7F76BF7DD9D0BF846116BFB81703BEBA0EC4BF7BB93EBF83A37FBFB79301BEB89F1ABF799EBDBF82E77FBFB70FBBBEB73077BF778A38BF822D10BFB68D31BEB5C2DABF757B9ABF81742EBFB60B61BEB45642BF7372CDBF80BCD5BFB58A48BEB2EAACBF716FBDBF800700BFB509E7BEB18018BF6F7256BF7EA558BFB48A3ABEB01684BF6D7A84BF7D3FA7BFB40B41BEAEADEFBF6B8834BF7BDCE6BFB38CFABEAD4657BF699B52BF7A7D0CBFB30F63BEABDFBBBF67B3CCBF792011BFB2927CBEAA7A19BF65D18EBF77C5EEBFB21643BEA91570BF63F488BF766E9ABFB19AB6BEA7B1BFBF621CA6BF751A0DBFB11FD4BEA64F05BF6049D6BF73C841BFB0A59BBEA4ED40BF5E7C09BF72792DBFB02C0BBEA38C6EBF5CB32BBF712CCBBFAFB322BEA22C8FBF5AEF2EBF6FE311BFAF3ADEBEA0CDA1BF592FFFBF6E9BFBBFAEC33EBE9F6FA3BF57758FBF6D577FBFAE4C41BE9E1294BF55BFCDBF6C1598BFADD5E6BE9CB672BF540EAABF6AD63DBFAD602BBE9B5B3CBF526216BF699969BFACEB10BE9A00F1BF50BA03BF685F15BFAC7692BE98A78FBF4F1660BF672739BFAC02B0BE974F16BF4D771EBF65F1D0BFAB8F6ABE95F784BF4BDC31BF64BED2BFAB1CBEBE94A0D8BF4A4588BF638E39BFAAAAABBE934B11BF48B316BF625FFFBFAA392FBE91F62DBF4724CDBF61341EBFA9C84ABE90A22BBF459A9FBF600A8EBFA957FBBE8F4F0BBF44147EBF5EE34CBFA8E83FBE8DFCCBBF42925EBF5DBE4FBFA87917BE8CAB6ABF411432BF5C9B93BFA80A81BE8B5AE6BF3F99EBBF5B7B10BFA79C7BBE8A0B3FBF3E237EBF5A5CC3BFA72F05BE88BC74BF3CB0DEBF5940A4BFA6C21EBE876E83BF3B41FFBF5826AEBFA655C4BE86216BBF39D6D5BF570EDCBFA5E9F7BE84D52CBF386F54BF55F928BFA57EB5BE8389C3BF370B6FBF54E58CBFA513FDBE823F30BF35AB1CBF53D404BFA4A9CFBE80F573BF344E4FBF52C489BFA44029BE7F5912BF32F4FCBF51B717BFA3D70ABE7CC8E3BF319F19BF50ABA9BFA36E72BE7A3A59BF304C9BBF4FA238BFA3065EBE77AD6FBF2EFD77BF4E9AC1BFA29ECFBE752225BF2DB1A2BF4D953EBFA237C3BE729878BF2C6912BF4C91ABBFA1D13ABE701066BF2B23BCBF4B9001BFA16B31BE6D89EEBF29E197BF4A903EBFA105A9BE6B050CBF28A299BF49925BBFA0A0A1BE6881C0BF2766B8BF489655BFA03C17BE660006BF262DE9BF479C25BF9FD80ABE637FDEBF24F824BF46A3C9BF9F747ABE610145BF23C55FBF45AD3CBF9F1166BE5E843ABF229591BF44B878BF9EAECDBE5C08BABF2168B0BF43C579BF9E4CADBE598EC3BF203EB4BF42D43CBF9DEB07BE571653BF1F1794BF41E4BCBF9D89D9BE549F6ABF1DF346BF40F6F4BF9D2922BE522A04BF1CD1C3BF400AE1BF9CC8E1BE4FB620BF1BB302BF3F207DBF9C6917BE4D43BCBF1A96FABF3E37C6BF9C09C1BE4AD2D7BF197DA4BF3D50B7BF9BAADFBE48636EBF1866F7BF3C6B4CBF9B4C70BE45F57FBF1752EABF3B8781BF9AEE73BE43890ABF164177BF3AA552BF9A90E8BE411E0BBF153295BF39C4BBBF9A33CDBE3EB482BF14263DBF38E5B9BF99D723BE3C4C6CBF131C67BF380847BF997AE7BE39E5C8BF12150BBF372C62BF991F1ABE378094BF111022BF365207BF98C3BBBE351CCFBF100DA5BF357931BF9868C8BE32BA76BF0F0D8DBF34A1DDBF980E41BE305988BF0E0FD3BF33CC07BF97B426BE2DFA03BF0D146FBF32F7ACBF975A75BE2B9BE6BF0C1B5BBF3224C9BF97012EBE293F2FBF0B2490BF315359BF96A850BE26E3DCBF0A3008BF30835ABF964FDABE2489ECBF093DBBBF2FB4C8BF95F7CCBE22315DBF084DA3BF2EE79FBF95A025BE1FDA2DBF075FBABF2E1BDEBF9548E5BE1D845BBF0673F9BF2D517FBF94F209BE1B2FE6BF058A5BBF2C8881BF949B93BE18DCCABF04A2D8BF2BC0DFBF944581BE168B08BF03BD6CBF2AFA97BF93EFD2BE143A9EBF02DA0FBF2A35A6BF939A86BE11EB89BF01F8BDBF297208BF93459CBE0F9DC9BF01196EBF28AFBBBF92F114BE0D515CBF003C1EBF27EEBBBF929CECBE0B0640BEFEC18EBF272F05BF924925BE08BC74BEFD0EC6BF267097BF91F5BDBE0673F6BEFB5FD9BF25B36EBF91A2B4BE042CC6BEF9B4BCBF24F787BF915009BE01E6E0BEF80D65BF243CDEBF90FDBCBDFF448ABEF669C8BF238372BF90ABCCBDFABDE4BEF4C9DCBF22CB3EBF905A38BDF639CCBEF32D96BF221442BF900901BDF1B83FBEF194EBBF215E79BF8FB824BDED393BBEEFFFD3BF20A9E2BF8F67A2BDE8BCBCBEEE6E42BF1FF679BF8F177ABDE442C0BEECE02FBF1F443BBF8EC7ABBDDFCB44BEEB5590BF1E9327BF8E7835BDDB5644BEE9CE5CBF1DE33ABF8E2918BDD6E3BFBEE84A89BF1D3471BF8DDA52BDD273B2BEE6CA0EBF1C86CABF8D8BE3BDCE0619BEE54CE1BF1BDA41BF8D3DCBBDC99AF3BEE3D2FBBF1B2ED5BF8CF009BDC5323CBEE25C50BF1A8484BF8CA29CBDC0CBF1BEE0E8DABF19DB4ABF8C5584BDBC6811BEDF788FBF193326BF8C08C1BDB80698BEDE0B66BF188C15BF8BBC51BDB3A784BEDCA157BF17E614BF8B7034BDAF4AD2BEDB3A59BF174122BF8B246BBDAAF080BED9D665BF169D3CBF8AD8F3BDA6988BBED87571BF15FA5FBF8A8DCDBDA242F0BED71777BF15588BBF8A42F8BD9DEFADBED5BC6DBF14B7BBBF89F874BD999EC0BED4644DBF1417EFBF89AE41BD955025BED30F0DBF137924BF89645CBD9103DBBED1BCA7BF12DB58BF891AC7BD8CB9DFBED06D13BF123E89BF88D181BD88722EBECF204ABF11A2B4BF888889BD842CC6BECDD643BF1107D7BF883FDEBD7FD349BECC8EF8BF106DF2BF87F781BD77518EBECB4A62BF0FD500BF87AF70BD6ED457BECA0879BF0F3D01BF8767ABBD665B9EBEC8C936BF0EA5F3BF872033BD5DE760BEC78C92BF0E0FD3BF86D905BD557797BEC65287BF0D7A9FBF869223BD4D0C3EBEC51B0DBF0CE657BF864B8ABD44A551BEC3E61FBF0C52F6BF86053CBD3C42CBBEC2B3B4BF0BC07DBF85BF37BD33E4A8BEC183C8BF0B2EE8BF85797CBD2B8AE2BEC05652BF0A9E36BF853408BD233577BEBF2B4EBF0A0E66BF84EEDDBD1AE460BEBE02B4BF097F75BF84A9FABD129799BEBCDC7FBF08F161BF84655EBD0A4F1FBEBBB8A7BF08642ABF842108BD020AECBEBA9728BF07D7CCBF83DCF9BCF395F9BEB977FBBF074C46BF839930BCE31E97BEB85B1ABF06C197BF8355ADBCD2AFAABEB7407FBF0637BDBF83126FBCC24929BEB62825BF05AEB6BF82CF75BCB1EB0CBEB51205BF052680BF828CC0BCA19549BEB3FE1BBF049F1ABF824A4EBC9147D9BEB2EC60BF041883BF820821BC8102B3BEB1DCCEBF0392B7BF81C636BC618B9CBEB0CF62BF030DB7BF81848EBC412245BEAFC414BF028980BF814328BC20C950BEAEBAE1BF020610BF810204BC0080ACBEADB3C1BF018367BF80C122BBC09091BEACAEB1BF010182BF808081BB80402BBEABABACBF008060BF804020BB00200BBEAAAAABBF000000BF80000000000000

/-- Coefficients of NT (R157). -/
def tabNT : Nat :=
  0x38C5AEE6BB4223173E3B29D440A966E738C7A480BB434D143E3B8B3040A9093A38C9A10BBB447A083E3BED2240A8AB5C38CBA4A6BB45A9FB3E3C4FAB40A84D4C38CDAF72BB46DCF93E3CB2CC40A7EF0C38CFC18FBB48130D3E3D168840A7909A38D1DB20BB494C423E3D7AE040A731F538D3FC47BB4A88A23E3DDFD540A6D31F38D62526BB4BC83A3E3E456940A6741538D855E3BB4D0B163E3EAB9E40A614D938DA8EA1BB4E51403E3F127540A5B56A38DCCF87BB4F9AC63E3F79F040A555C638DF18BABB50E7B33E3FE21040A4F5EF38E16A63BB5238143E404AD840A495E438E3C4A9BB538BF63E40B44940A435A538E627B5BB54E3663E411E6440A3D53038E893B2BB563E723E41892D40A3748638EB08CABB579D263E41F4A340A313A738ED8729BB58FF913E4260CA40A2B29138F00EFDBB5A65C03E42CDA440A2514638F2A074BB5BCFC33E433B3140A1EFC438F53BBBBB5D3DA63E43A97440A18E0A38F7E105BB5EAF7B3E44186F40A12C1A38FA9082BB60254F3E44882440A0C9F238FD4A65BB619F313E44F89540A0679239000770BB631D333E4569C440A004F939016F15BB649F643E45DBB3409FA2283902DC3DBB6625D33E464E64409F3F1D39044F02BB67B0933E46C1DA409EDBD93905C782BB693FB33E473615409E785B390745D9BB6AD3453E47AB1A409E14A33908CA26BB6C6B5C3E4820E9409DB0B0390A5486BB6E08083E489786409D4C82390BE51ABB6FA95D3E490EF2409CE818390D7C01BB714F6D3E498730409C8373390F195BBB72FA4C3E4A0042409C1E913910BD4CBB74AA0C3E4A7A2B409BB973391267F4BB765EC23E4AF4ED409B541739141979BB7818833E4B708B409AEE7D3915D1FDBB79D7623E4BED07409A88A6391791A5BB7B9B763E4C6A63409A229039195899BB7D64D33E4CE8A34099BC3C391B2700BB7F33913E4D67C9409955A8391CFD00BB8083E23E4DE7D84098EED4391EDAC3BB8170C33E4E68D2409887C03920C074BB8260773E4EEABA4098206B3922AE3EBB8353093E4F6D944097B8D53924A44DBB8448863E4FF161409750FD3926A2CEBB8540FA3E5076264096E8E33928A9F1BB863C723E50FBE440968087392AB9E6BB873AFC3E51829F409617E7392CD2DDBB883CA43E520A5B4095AF04392EF509BB8941793E52931A409545DD3931209EBB8A49883E531CDF4094DC71393355D2BB8B54E03E53A7AE409472BF393594DBBB8C638F3E54338A409408C93937DDF1BB8D75A33E54C07640939E8C393A314FBB8E8B2E3E554E7640933408393C8F30BB8FA43D3E55DD8E4092C93D393EF7D0BB90C0E13E566DC040925E2A39416B6FBB91E12A3E56FF114091F2CF3943EA4CBB9305283E5791844091872B394674ABBB942CEE3E58251C40911B3D39490ACFBB95588C3E58B9DF4090AF06394BACFFBB9688153E594FCF40904283394E5B81BB97BB9A3E59E6F0408FD5B6395116A2BB98F32E3E5A7F47408F689C3953DEACBB9A2EE43E5B18D8408EFB363956B3EEBB9B6ED03E5BB3A6408E8D83395996BABB9CB3063E5C4FB7408E1F82395C8761BB9DFB9B3E5CED0E408DB133395F863ABB9F48A43E5D8BB0408D42953962939CBBA09A353E5E2BA1408CD3A73965AFE3BBA1F0663E5ECCE6408C64693968DB6BBBA34B4C3E5F6F83408BF4DA396C1696BBA4AB003E60137E408B84FA396F61C4BBA60F983E60B8DB408B14C73972BD5EBBA7792E3E615F9F408AA440397629CCBBA8E7D93E6207CF408A33673979A779BBAA5BB43E62B1704089C238397D36D7BBABD4D83E635C88408950B539806C2CBBAD53613E64091C4088DEDC3982463ABBAED76A3E64B73140886CAC398429D1BBB061103E6566CC4087FA2439861732BBB1F06F3E6617F54087874539880E9DBBB385A53E66CAAF4087140C398A1056BBB520D13E677F024086A07A398C1CA2BBB6C2123E6834F340862C8D398E33C9BBB869883E68EC884085B84439905614BBBA17543E69A5C8408543A0399283D0BBBBCB983E6A60B94084CE9E3994BD4CBBBD86763E6B1D614084593F399702D9BBBF48133E6BDBC84083E381399954CBBBC110943E6C9BF440836D63399BB379BBC2E01D3E6D5DEC4082F6E4399E1F3EBBC4B6D63E6E21B64082800539A09875BBC694E63E6EE75C408208C239A31F7FBBC87A763E6FAEE34081911D39A5B4BFBBCA67B13E7078534081191339A8589CBBCC5CC13E7143B54080A0A439AB0B7FBBCE59D43E72110F408027CF39ADCDD8BBD05F163E72E06B407F5D2639B0A018BBD26CB73E73B1D0407E69DD39B382B4BBD482E73E748547407D75C139B67627BBD6A1D83E755AD9407C80D239B97AEEBBD8C9BD3E76328E407B8B0B39BC918DBBDAFACB3E770C70407A946C39BFBA8BBBDD35393E77E88740799CF139C2F675BBDF793D3E78C6DD4078A49A39C645DCBBE1C7133E79A77C4077AB6339C9A957BBE41EF53E7A8A6F4076B14A39CD2183BBE681203E7B6FBE4075B64D39D0AF01BBE8EDD33E7C57744074BA6A39D4527CBBEB65503E7D419D4073BD9E39D80CA1BBEDE7D93E7E2E434072BFE639DBDE25BBF075B33E7F1D714071C14039DFC7C6BBF30F253E8007994070C1AA39E3CA47BBF5B47A3E8081C9406FC12139E7E674BBF865FD3E80FD4F406EBFA239EC1D1FBBFB23FB3E817A31406DBD2B39F06F24BBFDEEC73E81F876406CB9B839F4DD67BC0063593E827822406BB54839F968D7BC01D60A3E82F93F406AAFD739FE1269BC034FA33E837BD14069A9623A016D8FBC04D0513E83FFE04068A1E73A03E201BC0658443E848574406799623A066716BC07E7AE3E850C9340668FD03A08FD5FBC097EC03E8595464065852E3A0BA572BC0B1DB03E861F934064797A3A0E5FEDBC0CC4B33E86AB8440636CAF3A112D74BC0E74023E87391F40625ECA3A140EB2BC102BD83E87C86F40614FC93A170459BC11EC6F3E88597A40603FA83A1A0F24BC13B6073E88EC4B405F2E623A1D2FD3BC1588E03E8980E9405E1BF53A206733BC17653C3E8A175F405D085D3A23B616BC194B623E8AAFB7405BF3963A271D5ABC1B3B993E8B49FA405ADD9D3A2A9DE6BC1D362C3E8BE6324059C66D3A2E38ABBC1F3B673E8C846A4058AE033A31EEA6BC214B9B3E8D24AC4057945A3A35C0DFBC23671B3E8DC7044056796F3A39B06BBC258E3E3E8E6B7E40555D3D3A3DBE6ABC27C15C3E8F122540543FBF3A41EC0DBC2A00D43E8FBB05405320F33A463A90BC2C4D053E90662B405200D23A4AAB41BC2EA6553E9113A34050DF583A4F3F7CBC310D2C3E91C37C404FBC823A53F8AFBC3381F73E9275C2404E98493A58D85BBC3605273E932A85404D72A93A5DE012BC3897313E93E1D2404C4B9D3A63117CBC3B38913E949BB8404B23203A686E56BC3DE9C63E9558484049F92C3A6DF872BC40AB543E9617914048CDBD3A73B1BEBC437DC73E96D9A44047A0CC3A799C3DBC4661B03E979E93404672553A7FBA11BC4957A43E98666E404542503A8306BBBC4C60423E993148404410B93A864C64BC4F7C2D3E99FF354042DD893A89AF42BC52AC113E9AD0474041A8BA3A8D30A4BC55F0A13E9BA494404072463A90D1EDBC594A983E9C7C30403F3A253A949491BC5CBABB3E9D5730403E00533A987A1DBC6041D53E9E35AD403CC4C63A9C8430BC63E0BD3E9F17BC403B877A3AA0B484BC6798543E9FFD76403A48653AA50CECBC6B69843EA0E6F5403907813AA98F54BC6F55433EA1D4524037C4C73AAE3DC8BC735C943EA2C5A94036802D3AB31A72BC7780853EA3BB15403539AD3AB8279DBC7BC2323EA4B4B44033F13E3ABD67B9BC8011633EA5B2A44032A6D83AC2DD5BBC8251BD3EA6B50440315A713AC88B43BC84A2CB3EA7BBF640300C003ACE745ABC87053C3EA8C79B402EBB7E3AD49BBDBC8979C43EA9D817402D68DF3ADB04B9BC8C01243EAAED8E402C141A3AE1B2D3BC8E9C253EAC0828402ABD253AE8A9CBBC914B9D3EAD280D402963F63AEFEDA2BC94106D3EAE4D65402808813AF7829DBC96EB803EAF785D4026AABD3AFF6D4EBC99DDD23EB0A92340254A9C3B03D94ABC9CE86B3EB1DFE54023E8143B082BD3BCA00C613EB31CD5402283183B0CB10FBCA34ADE3EB4602840211B9C3B116BFCBCA6A51A3EB5AA13401FB1933B165FD1BCAA1C603EB6FAD0401E44F03B1B9000BCADB2103EB85299401CD5A33B21003EBCB167A03EB9B1AD401B63A03B26B488BCB53E9B3EBB184E4019EED83B2CB128BCB938A73EBC86BF4018773A3B32FABDBCBD57833EBDFD494016FCB73B399645BCC19D0B3EBF7C3740157F3F3B408921BCC60B3D3EC103D84013FEC13B47D925BCCAA4333EC2948040127B2A3B4F8C9BBCCF6A313EC42E874010F4683B57AA57BCD45F9F3EC5D249400F6A693B6039BEBCD987113EC78027400DDD183B6942D8BCDEE3473EC93888400C4C623B72CE62BCE477373ECAFBD9400AB82F3B7CE5DABCEA460C3ECCCA8C4009206B3B83C9CFBCF0532A3ECEA51B400784FD3B89717CBCF6A23A3ED08C054005E5CE3B8F7022BCFD372A3ED27FD2400442C43B95CC81BD020B1A3ED4811340029BC63B9C8E01BD05A1F53ED6905F4000F0B73BA3BCC1BD09629D3ED8AE5A3FFE82F53BAB61AFBD0D4FBA3EDADBB03FFB1BE63BB386A0BD116C313EDD19173FF7AC023BBC366ABD15BB203EDF67543FF433073BC57D05BD1A3FEB3EE1C7383FF0B0B03BCF67B2BD1EFE443EE439A03FED24B43BDA051FBD23FA2D3EE6BF7C3FE98EC93BE5659ABD2938073EE959CA3FE5EE9D3BF19B4BBD2EBC9A3EEC099B3FE243DE3BFEBA6CBD348D213EEED0143FDE8E323C066CCDBD3AAF573EF1AE713FDACD3D3C0E0915BD4129873EF4A6043FD7009D3C164041BD48029D3EF7B83B3FD327EA3C1F2251BD4F42393EFAE6A13FCF42B63C28C14BBD56F0C83EFE32E13FCB508D3C333195BD5F179D3F00CF643FC750F43C3E8A4EBD67C10F3F0296263FC3436A3C4AE5BFBD70F89E3F046EC73FBF27623C5861E3BD7ACB1B3F065A703FBAFC4B3C672108BD82A36B3F085A643FB6C1853C774A88BD883DEE3F0A70073FB2766B3C8485DBBD8E3E193F0C9CDB3FAE1A473C8E4C79BD94AE123F0EE28C3FA9AC5B3C99177FBD9B99553F1142F03FA52BD73CA50A4CBDA30CE53F13C00D3FA097DF3CB24E3DBDAB17903F165C203F9BEF843CC113E8BDB3CA403F1919A93F9731C43CD194A1BDBD38583F1BFB6C3F925D893CE41461BDC778293F1F04833F8D71A43CF8E42EBDD2A37F3F2238673F886CCE3D083293BDDED8503F259B013F834DA13D15862EBDEC39913F2930BA3F7C252C3D24B3F0BDFAF0453F2CFE943F7174003D36129ABE0596683F310A443F6684103D4A0CE8BE0E944C3F355A4F3F5B514B3D61272FBE1894193F39F6383F4FD7313D7C06E0BE23BF093F3EE6AD3F4410C13D8DBE5ABE30470F3F4435CA3F37F8633DA04949BE3E69303F49EF633F2B87D13DB64F6BBE4E70993F50216A3F1EB7F53DD0AFBABE60BAD33F56DC723F1180C93DF09063BE75BD743F5E34553F03D9233E0BBD7ABE8707083F6641153EEB6CF63E23C31BBE9536A93F6F20033ECE19413E41CAB6BEA5EB853F78F5543EAF9AB43E67DD41BEB9CCC73F81F72B3E8FCFC93E8C748CBED1BC6F3F8822403E5D21313EACA10ABEEEF2513F8F20F73E175A1D3ED7BD67BF09936D3F9723FB3D9BA9DE3F097900BF206C993FA06C9900000000

/-- Cosine table entries 0 to 1023 (R215). -/
def tabCos0 : Nat :=
  0x3F5A943D3F5AA5FE3F5AB7BA3F5AC9743F5ADB293F5AECDC3F5AFE8B3F5B10363F5B21DE3F5B33823F5B45233F5B56C03F5B68593F5B79F03F5B8B823F5B9D113F5BAE9D3F5BC0253F5BD1A93F5BE32A3F5BF4A83F5C06223F5C17983F5C290B3F5C3A7A3F5C4BE63F5C5D4E3F5C6EB23F5C80133F5C91713F5CA2CB3F5CB4213F5CC5743F5CD6C33F5CE80E3F5CF9563F5D0A9B3F5D1BDB3F5D2D193F5D3E523F5D4F883F5D60BB3F5D71E93F5D83153F5D943C3F5DA5603F5DB6813F5DC79D3F5DD8B73F5DE9CC3F5DFADE3F5E0BEC3F5E1CF73F5E2DFE3F5E3F023F5E50013F5E60FE3F5E71F63F5E82EB3F5E93DC3F5EA4CA3F5EB5B43F5EC69A3F5ED77D3F5EE85C3F5EF9373F5F0A0E3F5F1AE23F5F2BB33F5F3C7F3F5F4D483F5F5E0E3F5F6ECF3F5F7F8D3F5F90483F5FA0FE3F5FB1B13F5FC2603F5FD30C3F5FE3B43F5FF4583F6004F83F6015953F60262E3F6036C33F6047553F6057E33F60686D3F6078F33F6089763F6099F53F60AA703F60BAE83F60CB5C3F60DBCC3F60EC383F60FCA13F610D063F611D673F612DC43F613E1E3F614E743F615EC63F616F143F617F5F3F618FA63F619FE93F61B0283F61C0643F61D09C3F61E0D03F61F1003F62012D3F6211553F62217A3F62319C3F6241B93F6251D33F6261E83F6271FA3F6282093F6292133F62A21A3F62B21C3F62C21B3F62D2173F62E20E3F62F2023F6301F13F6311DD3F6321C63F6331AA3F63418A3F6351673F6361403F6371153F6380E63F6390B33F63A07D3F63B0423F63C0043F63CFC23F63DF7C3F63EF333F63FEE53F640E943F641E3E3F642DE53F643D883F644D273F645CC23F646C5A3F647BED3F648B7D3F649B093F64AA903F64BA143F64C9953F64D9113F64E8893F64F7FE3F65076E3F6516DB3F6526443F6535A83F6545093F6554663F6563C03F6573153F6582663F6591B43F65A0FD3F65B0433F65BF843F65CEC23F65DDFC3F65ED323F65FC643F660B923F661ABC3F6629E23F6639043F6648223F66573D3F6666533F6675663F6684743F66937F3F66A2853F66B1883F66C0863F66CF813F66DE783F66ED6B3F66FC593F670B443F671A2B3F67290E3F6737ED3F6746C83F67559F3F6764723F6773413F67820C3F6790D33F679F963F67AE553F67BD103F67CBC73F67DA7A3F67E9293F67F7D43F68067B3F68151E3F6823BD3F6832583F6840EF3F684F823F685E103F686C9B3F687B223F6889A53F6898243F68A69F3F68B5153F68C3883F68D1F73F68E0613F68EEC83F68FD2A3F690B893F6919E33F6928393F69368C3F6944DA3F6953243F69616A3F696FAC3F697DEA3F698C243F699A5A3F69A88C3F69B6BA3F69C4E33F69D3093F69E12B3F69EF483F69FD613F6A0B773F6A19883F6A27953F6A359E3F6A43A33F6A51A33F6A5FA03F6A6D993F6A7B8D3F6A897D3F6A976A3F6AA5523F6AB3363F6AC1163F6ACEF23F6ADCC93F6AEA9D3F6AF86C3F6B06383F6B13FF3F6B21C23F6B2F813F6B3D3C3F6B4AF23F6B58A53F6B66533F6B73FE3F6B81A43F6B8F463F6B9CE43F6BAA7D3F6BB8133F6BC5A43F6BD3313F6BE0BA3F6BEE3F3F6BFBC03F6C093D3F6C16B53F6C24293F6C31993F6C3F053F6C4C6D3F6C59D13F6C67303F6C748B3F6C81E23F6C8F353F6C9C843F6CA9CE3F6CB7153F6CC4573F6CD1943F6CDECE3F6CEC043F6CF9353F6D06623F6D138B3F6D20B03F6D2DD03F6D3AEC3F6D48043F6D55183F6D62283F6D6F333F6D7C3B3F6D893E3F6D963C3F6DA3373F6DB02D3F6DBD1F3F6DCA0D3F6DD6F73F6DE3DC3F6DF0BD3F6DFD9A3F6E0A733F6E17473F6E24173F6E30E33F6E3DAB3F6E4A6E3F6E572E3F6E63E83F6E709F3F6E7D523F6E8A003F6E96AA3F6EA34F3F6EAFF13F6EBC8E3F6EC9273F6ED5BB3F6EE24B3F6EEED73F6EFB5F3F6F07E33F6F14623F6F20DD3F6F2D533F6F39C53F6F46343F6F529D3F6F5F033F6F6B643F6F77C13F6F84193F6F906E3F6F9CBD3F6FA9093F6FB5503F6FC1943F6FCDD23F6FDA0D3F6FE6433F6FF2753F6FFEA23F700ACB3F7016F03F7023113F702F2D3F703B453F7047583F7053673F705F723F706B793F70777B3F7083793F708F733F709B683F70A7593F70B3453F70BF2D3F70CB113F70D6F13F70E2CC3F70EEA33F70FA753F7106433F71120D3F711DD23F7129933F7135503F7141083F714CBC3F71586B3F7164173F716FBD3F717B603F7186FE3F7192983F719E2D3F71A9BE3F71B54A3F71C0D23F71CC563F71D7D63F71E3503F71EEC73F71FA393F7205A73F7211103F721C763F7227D63F7233323F723E8A3F7249DE3F72552D3F7260773F726BBD3F7276FF3F72823C3F728D753F7298AA3F72A3DA3F72AF063F72BA2D3F72C5503F72D06E3F72DB883F72E69E3F72F1AF3F72FCBC3F7307C43F7312C83F731DC73F7328C23F7333B93F733EAB3F7349983F7354813F735F663F736A463F7375223F737FFA3F738ACD3F73959B3F73A0653F73AB2B3F73B5EC3F73C0A83F73CB613F73D6143F73E0C43F73EB6E3F73F6153F7400B73F740B543F7415ED3F7420813F742B113F74359D3F7440243F744AA63F7455243F745F9E3F746A133F7474833F747EF03F7489573F7493BA3F749E193F74A8733F74B2C93F74BD1A3F74C7663F74D1AE3F74DBF23F74E6313F74F06C3F74FAA23F7504D33F750F003F7519293F75234D3F752D6C3F7537873F75419E3F754BB03F7555BD3F755FC63F7569CB3F7573CA3F757DC63F7587BD3F7591AF3F759B9D3F75A5863F75AF6A3F75B94B3F75C3263F75CCFD3F75D6D03F75E09E3F75EA673F75F42C3F75FDEC3F7607A83F76115F3F761B123F7624C03F762E6A3F76380F3F7641AF3F764B4B3F7654E23F765E753F7668033F76718D3F767B123F7684933F768E0F3F7697863F76A0F93F76AA673F76B3D13F76BD363F76C6963F76CFF23F76D94A3F76E29C3F76EBEA3F76F5343F76FE793F7707B93F7710F53F771A2D3F77235F3F772C8D3F7735B73F773EDC3F7747FC3F7751173F775A2F3F7763413F776C4F3F7775583F777E5D3F77875D3F7790583F77994F3F77A2413F77AB2F3F77B4183F77BCFC3F77C5DC3F77CEB73F77D78E3F77E0603F77E92D3F77F1F63F77FABA3F7803793F780C343F7814EA3F781D9B3F7826483F782EF13F7837943F7840333F7848CE3F7851633F7859F43F7862813F786B093F78738C3F787C0A3F7884843F788CF93F78956A3F789DD63F78A63D3F78AEA03F78B6FE3F78BF573F78C7AC3F78CFFC3F78D8473F78E08E3F78E8D03F78F10D3F78F9463F79017A3F7909A93F7911D43F7919FA3F79221B3F792A383F7932503F793A633F7942723F794A7C3F7952813F795A823F79627E3F796A753F7972683F797A563F79823F3F798A243F7992043F7999DF3F79A1B53F79A9873F79B1543F79B91D3F79C0E03F79C89F3F79D05A3F79D80F3F79DFC03F79E76D3F79EF143F79F6B73F79FE553F7A05EF3F7A0D833F7A15133F7A1C9F3F7A24253F7A2BA73F7A33253F7A3A9D3F7A42113F7A49803F7A50EA3F7A58503F7A5FB13F7A670D3F7A6E653F7A75B73F7A7D053F7A844F3F7A8B933F7A92D33F7A9A0E3F7AA1453F7AA8763F7AAFA33F7AB6CC3F7ABDEF3F7AC50E3F7ACC283F7AD33D3F7ADA4E3F7AE15A3F7AE8613F7AEF633F7AF6613F7AFD5A3F7B044E3F7B0B3D3F7B12283F7B190E3F7B1FEF3F7B26CB3F7B2DA33F7B34763F7B3B443F7B420D3F7B48D23F7B4F923F7B564D3F7B5D043F7B63B53F7B6A623F7B710A3F7B77AE3F7B7E4C3F7B84E63F7B8B7B3F7B920C3F7B98973F7B9F1E3F7BA5A03F7BAC1D3F7BB2963F7BB9093F7BBF783F7BC5E33F7BCC483F7BD2A93F7BD9043F7BDF5C3F7BE5AE3F7BEBFB3F7BF2443F7BF8883F7BFEC73F7C05023F7C0B373F7C11683F7C17943F7C1DBC3F7C23DE3F7C29FC3F7C30153F7C36293F7C3C383F7C42433F7C48493F7C4E4A3F7C54463F7C5A3D3F7C60303F7C661E3F7C6C073F7C71EB3F7C77CA3F7C7DA53F7C837B3F7C894C3F7C8F183F7C94E03F7C9AA23F7CA0603F7CA6193F7CABCD3F7CB17D3F7CB7273F7CBCCD3F7CC26E3F7CC80A3F7CCDA13F7CD3343F7CD8C23F7CDE4B3F7CE3CF3F7CE94E3F7CEEC83F7CF43E3F7CF9AF3F7CFF1B3F7D04823F7D09E53F7D0F423F7D149B3F7D19EF3F7D1F3E3F7D24883F7D29CE3F7D2F0E3F7D344A3F7D39813F7D3EB33F7D43E03F7D49093F7D4E2C3F7D534B3F7D58653F7D5D7A3F7D628B3F7D67963F7D6C9D3F7D719F3F7D769C3F7D7B943F7D80873F7D85763F7D8A5F3F7D8F443F7D94243F7D98FF3F7D9DD53F7DA2A73F7DA7733F7DAC3B3F7DB0FE3F7DB5BC3F7DBA753F7DBF2A3F7DC3D93F7DC8843F7DCD2A3F7DD1CA3F7DD6673F7DDAFE3F7DDF903F7DE41E3F7DE8A63F7DED2A3F7DF1A93F7DF6233F7DFA993F7DFF093F7E03753F7E07DB3F7E0C3D3F7E109A3F7E14F23F7E19463F7E1D943F7E21DD3F7E26223F7E2A623F7E2E9D3F7E32D33F7E37043F7E3B313F7E3F583F7E437B3F7E47983F7E4BB13F7E4FC53F7E53D43F7E57DF3F7E5BE43F7E5FE53F7E63E03F7E67D73F7E6BC93F7E6FB63F7E739E3F7E77813F7E7B603F7E7F393F7E830E3F7E86DE3F7E8AA93F7E8E6F3F7E92303F7E95EC3F7E99A33F7E9D563F7EA1043F7EA4AC3F7EA8503F7EABEF3F7EAF893F7EB31E3F7EB6AF3F7EBA3A3F7EBDC13F7EC1423F7EC4BF3F7EC8373F7ECBAA3F7ECF183F7ED2813F7ED5E63F7ED9453F7EDCA03F7EDFF53F7EE3463F7EE6923F7EE9D93F7EED1B3F7EF0583F7EF3913F7EF6C43F7EF9F33F7EFD1C3F7F00413F7F03613F7F067C3F7F09923F7F0CA33F7F0FAF3F7F12B63F7F15B93F7F18B63F7F1BAF3F7F1EA33F7F21923F7F247C3F7F27613F7F2A413F7F2D1C3F7F2FF23F7F32C43F7F35903F7F38583F7F3B1B3F7F3DD83F7F40913F7F43453F7F45F43F7F489F3F7F4B443F7F4DE43F7F50803F7F53163F7F55A83F7F58353F7F5ABD3F7F5D3F3F7F5FBD3F7F62373F7F64AB3F7F671A3F7F69843F7F6BEA3F7F6E4A3F7F70A63F7F72FD3F7F754E3F7F779B3F7F79E33F7F7C263F7F7E653F7F809E3F7F82D23F7F85013F7F872C3F7F89523F7F8B723F7F8D8E3F7F8FA53F7F91B73F7F93C43F7F95CC3F7F97CF3F7F99CD3F7F9BC63F7F9DBB3F7F9FAA3F7FA1953F7FA37A3F7FA55B3F7FA7373F7FA90E3F7FAADF3F7FACAC3F7FAE753F7FB0383F7FB1F63F7FB3AF3F7FB5643F7FB7133F7FB8BE3F7FBA633F7FBC043F7FBDA03F7FBF373F7FC0C93F7FC2563F7FC3DE3F7FC5613F7FC6DF3F7FC8583F7FC9CD3F7FCB3C3F7FCCA73F7FCE0C3F7FCF6D3F7FD0C93F7FD21F3F7FD3713F7FD4BE3F7FD6063F7FD7493F7FD8883F7FD9C13F7FDAF53F7FDC243F7FDD4F3F7FDE743F7FDF953F7FE0B13F7FE1C73F7FE2D93F7FE3E63F7FE4EE3F7FE5F13F7FE6EF3F7FE7E83F7FE8DC3F7FE9CC3F7FEAB63F7FEB9C3F7FEC7C3F7FED583F7FEE2E3F7FEF003F7FEFCD3F7FF0943F7FF1573F7FF2153F7FF2CE3F7FF3823F7FF4323F7FF4DC3F7FF5813F7FF6223F7FF6BD3F7FF7533F7FF7E53F7FF8723F7FF8F93F7FF97C3F7FF9FA3F7FFA733F7FFAE73F7FFB563F7FFBC03F7FFC253F7FFC853F7FFCE13F7FFD373F7FFD883F7FFDD53F7FFE1C3F7FFE5F3F7FFE9D3F7FFED53F7FFF093F7FFF383F7FFF623F7FFF873F7FFFA73F7FFFC23F7FFFD93F7FFFEA3F7FFFF63F7FFFFE3F800000

/-- Cosine table entries 1024 to 2047 (R215). -/
def tabCos1 : Nat :=
  0x3F0019223F0032443F004B663F0064883F007DAA3F0096CC3F00AFEE3F00C9103F00E2313F00FB533F0114753F012D973F0146B83F015FDA3F0178FC3F01921D3F01AB3F3F01C4603F01DD813F01F6A33F020FC43F0228E53F0242063F025B273F0274483F028D683F02A6893F02BFAA3F02D8CA3F02F1EA3F030B0B3F03242B3F033D4B3F03566B3F036F8A3F0388AA3F03A1C93F03BAE93F03D4083F03ED273F0406463F041F643F0438833F0451A13F046AC03F0483DE3F049CFC3F04B6193F04CF373F04E8543F0501713F051A8E3F0533AB3F054CC83F0565E43F057F003F05981C3F05B1383F05CA533F05E36F3F05FC8A3F0615A53F062EBF3F0647D93F0660F43F067A0D3F0693273F06AC403F06C55A3F06DE723F06F78B3F0710A33F0729BB3F0742D33F075BEB3F0775023F078E193F07A72F3F07C0463F07D95C3F07F2713F080B873F08249C3F083DB13F0856C53F086FD93F0888ED3F08A2013F08BB143F08D4273F08ED393F09064B3F091F5D3F09386E3F0951803F096A903F0983A13F099CB13F09B5C03F09CED03F09E7DE3F0A00ED3F0A19FB3F0A33093F0A4C163F0A65233F0A7E303F0A973C3F0AB0473F0AC9533F0AE25E3F0AFB683F0B14723F0B2D7C3F0B46853F0B5F8E3F0B78963F0B919E3F0BAAA53F0BC3AC3F0BDCB33F0BF5B93F0C0EBE3F0C27C43F0C40C83F0C59CC3F0C72D03F0C8BD33F0CA4D63F0CBDD83F0CD6DA3F0CEFDB3F0D08DC3F0D21DD3F0D3ADC3F0D53DC3F0D6CDA3F0D85D93F0D9ED63F0DB7D33F0DD0D03F0DE9CC3F0E02C83F0E1BC33F0E34BD3F0E4DB73F0E66B13F0E7FAA3F0E98A23F0EB19A3F0ECA913F0EE3873F0EFC7D3F0F15733F0F2E683F0F475C3F0F60503F0F79433F0F92353F0FAB273F0FC4183F0FDD093F0FF5F93F100EE93F1027D83F1040C63F1059B33F1072A03F108B8D3F10A4783F10BD633F10D64E3F10EF373F1108213F1121093F1139F13F1152D83F116BBE3F1184A43F119D893F11B66E3F11CF513F11E8343F1201173F1219F93F1232D93F124BBA3F1264993F127D783F1296563F12AF343F12C8103F12E0EC3F12F9C83F1312A23F132B7C3F1344553F135D2D3F1376053F138EDC3F13A7B23F13C0873F13D95C3F13F22F3F140B023F1423D53F143CA63F1455773F146E473F1487163F149FE43F14B8B13F14D17E3F14EA4A3F1503153F151BE03F1534A93F154D723F15663A3F157F013F1597C73F15B08C3F15C9513F15E2143F15FAD73F1613993F162C5A3F16451B3F165DDA3F1676983F168F563F16A8133F16C0CF3F16D98A3F16F2443F170AFE3F1723B63F173C6E3F1755243F176DDA3F17868F3F179F433F17B7F63F17D0A83F17E9593F1802093F181AB93F1833673F184C143F1864C13F187D6D3F1896173F18AEC13F18C76A3F18E0113F18F8B83F19115E3F192A033F1942A73F195B4A3F1973EC3F198C8D3F19A52D3F19BDCC3F19D66A3F19EF073F1A07A33F1A203E3F1A38D83F1A51713F1A6A093F1A82A03F1A9B363F1AB3CB3F1ACC5F3F1AE4F23F1AFD843F1B16143F1B2EA43F1B47333F1B5FC13F1B784D3F1B90D93F1BA9633F1BC1ED3F1BDA753F1BF2FC3F1C0B823F1C24083F1C3C8C3F1C550E3F1C6D903F1C86113F1C9E913F1CB70F3F1CCF8D3F1CE8093F1D00843F1D18FE3F1D31773F1D49EF3F1D62663F1D7ADB3F1D93503F1DABC33F1DC4353F1DDCA63F1DF5163F1E0D853F1E25F33F1E3E5F3F1E56CA3F1E6F343F1E879D3F1EA0053F1EB86B3F1ED0D13F1EE9353F1F01983F1F19F93F1F325A3F1F4AB93F1F63183F1F7B753F1F93D03F1FAC2B3F1FC4843F1FDCDC3F1FF5333F200D893F2025DD3F203E303F2056823F206ED33F2087223F209F703F20B7BD3F20D0093F20E8533F21009C3F2118E43F21312A3F2149703F2161B43F2179F63F2192383F21AA783F21C2B73F21DAF43F21F3303F220B6B3F2223A53F223BDD3F2254143F226C4A3F22847E3F229CB13F22B4E23F22CD133F22E5423F22FD6F3F23159C3F232DC63F2345F03F235E183F23763F3F238E643F23A6883F23BEAB3F23D6CD3F23EEEC3F24070B3F241F283F2437443F244F5E3F2467773F247F8F3F2497A53F24AFBA3F24C7CD3F24DFDF3F24F7F03F250FFF3F25280C3F2540193F2558233F25702D3F2588353F25A03B3F25B8403F25D0443F25E8463F2600463F2618463F2630433F26483F3F26603A3F2678333F26902B3F26A8223F26C0163F26D80A3F26EFFB3F2707EC3F271FDB3F2737C83F274FB43F27679E3F277F873F27976E3F27AF543F27C7383F27DF1A3F27F6FC3F280EDB3F2826B93F283E963F2856713F286E4A3F2886223F289DF83F28B5CD3F28CDA03F28E5713F28FD413F2915103F292CDC3F2944A83F295C713F2974393F298C003F29A3C53F29BB883F29D3493F29EB093F2A02C83F2A1A843F2A32403F2A49F93F2A61B13F2A79673F2A911C3F2AA8CF3F2AC0803F2AD8303F2AEFDE3F2B078A3F2B1F353F2B36DE3F2B4E853F2B662B3F2B7DCF3F2B95713F2BAD123F2BC4B13F2BDC4E3F2BF3EA3F2C0B843F2C231C3F2C3AB33F2C52483F2C69DB3F2C816C3F2C98FC3F2CB08A3F2CC8163F2CDFA03F2CF7293F2D0EB03F2D26363F2D3DB93F2D553B3F2D6CBB3F2D84393F2D9BB63F2DB3313F2DCAAA3F2DE2213F2DF9973F2E110A3F2E287C3F2E3FED3F2E575B3F2E6EC83F2E86323F2E9D9B3F2EB5033F2ECC683F2EE3CC3F2EFB2E3F2F128E3F2F29EC3F2F41483F2F58A33F2F6FFB3F2F87523F2F9EA73F2FB5FB3F2FCD4C3F2FE49C3F2FFBE93F3013353F302A7F3F3041C73F30590E3F3070523F3087953F309ED53F30B6143F30CD513F30E48C3F30FBC53F3112FD3F312A323F3141653F3158973F316FC73F3186F53F319E203F31B54A3F31CC723F31E3993F31FABD3F3211DF3F3228FF3F32401E3F32573A3F326E553F32856D3F329C843F32B3993F32CAAB3F32E1BC3F32F8CB3F330FD83F3326E33F333DEC3F3354F33F336BF83F3382FB3F3399FC3F33B0FB3F33C7F83F33DEF33F33F5EC3F340CE33F3423D83F343ACB3F3451BC3F3468AA3F347F973F3496823F34AD6B3F34C4523F34DB373F34F21A3F3508FA3F351FD93F3536B63F354D903F3564693F357B3F3F3592143F35A8E63F35BFB63F35D6853F35ED513F36041B3F361AE33F3631A93F36486D3F365F2E3F3675EE3F368CAB3F36A3673F36BA203F36D0D73F36E78C3F36FE3F3F3714F03F372B9F3F37424B3F3758F63F376F9E3F3786443F379CE93F37B38A3F37CA2A3F37E0C83F37F7633F380DFD3F3824943F383B293F3851BB3F38684C3F387EDB3F3895673F38ABF13F38C2793F38D8FF3F38EF823F3906033F391C833F3933003F39497A3F395FF33F3976693F398CDD3F39A34F3F39B9BF3F39D02C3F39E6973F39FD003F3A13673F3A29CC3F3A402E3F3A568E3F3A6CEC3F3A83473F3A99A03F3AAFF73F3AC64C3F3ADC9F3F3AF2EF3F3B093D3F3B1F883F3B35D23F3B4C193F3B625E3F3B78A03F3B8EE03F3BA51E3F3BBB5A3F3BD1933F3BE7CA3F3BFDFF3F3C14313F3C2A613F3C408F3F3C56BA3F3C6CE43F3C830A3F3C992F3F3CAF513F3CC5713F3CDB8E3F3CF1A93F3D07C23F3D1DD83F3D33EC3F3D49FE3F3D600D3F3D761A3F3D8C253F3DA22D3F3DB8333F3DCE363F3DE4373F3DFA363F3E10323F3E262C3F3E3C233F3E52183F3E680B3F3E7DFB3F3E93E93F3EA9D53F3EBFBE3F3ED5A43F3EEB893F3F016A3F3F174A3F3F2D273F3F43013F3F58D93F3F6EAF3F3F84823F3F9A533F3FB0213F3FC5ED3F3FDBB63F3FF17D3F4007413F401D033F4032C33F4048803F405E3A3F4073F23F4089A83F409F5B3F40B50B3F40CAB93F40E0653F40F60E3F410BB53F4121593F4136FA3F414C993F4162363F4177D03F418D673F41A2FC3F41B88F3F41CE1E3F41E3AC3F41F9373F420EBF3F4224453F4239C83F424F483F4264C63F427A423F428FBB3F42A5313F42BAA53F42D0163F42E5853F42FAF13F43105A3F4325C13F433B263F4350873F4365E63F437B433F43909D3F43A5F43F43BB493F43D09B3F43E5EA3F43FB373F4410823F4425C93F443B0E3F4450503F4465903F447ACD3F4490083F44A5403F44BA753F44CFA73F44E4D73F44FA043F450F2F3F4524573F45397C3F454E9F3F4563BE3F4578DC3F458DF63F45A30E3F45B8233F45CD363F45E2453F45F7523F460C5D3F4621643F4636693F464B6C3F46606B3F4675683F468A623F469F5A3F46B44E3F46C9403F46DE303F46F31C3F4708063F471CED3F4731D13F4746B33F475B923F47706E3F4785473F479A1D3F47AEF13F47C3C23F47D8903F47ED5C3F4802253F4816EB3F482BAE3F48406E3F48552C3F4869E63F487E9E3F4893543F48A8063F48BCB63F48D1623F48E60C3F48FAB43F490F583F4923F93F4938983F494D343F4961CD3F4976633F498AF73F499F873F49B4153F49C8A03F49DD283F49F1AD3F4A06303F4A1AAF3F4A2F2C3F4A43A63F4A581D3F4A6C913F4A81023F4A95703F4AA9DC3F4ABE443F4AD2AA3F4AE70D3F4AFB6D3F4B0FCA3F4B24243F4B387B3F4B4CCF3F4B61213F4B756F3F4B89BB3F4B9E043F4BB2493F4BC68C3F4BDACC3F4BEF093F4C03433F4C177A3F4C2BAF3F4C3FE03F4C540E3F4C683A3F4C7C623F4C90883F4CA4AA3F4CB8CA3F4CCCE73F4CE1003F4CF5173F4D092B3F4D1D3B3F4D31493F4D45543F4D595C3F4D6D613F4D81633F4D95623F4DA95E3F4DBD573F4DD14C3F4DE53F3F4DF92F3F4E0D1C3F4E21063F4E34ED3F4E48D13F4E5CB23F4E70903F4E846A3F4E98423F4EAC173F4EBFE93F4ED3B73F4EE7833F4EFB4C3F4F0F113F4F22D43F4F36933F4F4A503F4F5E093F4F71BF3F4F85723F4F99233F4FACD03F4FC07A3F4FD4213F4FE7C53F4FFB653F500F033F50229E3F5036353F5049CA3F505D5B3F5070E93F5084743F5097FC3F50AB813F50BF033F50D2823F50E5FD3F50F9763F510CEB3F51205D3F5133CD3F5147393F515AA13F516E073F51816A3F5194C93F51A8253F51BB7E3F51CED43F51E2273F51F5773F5208C33F521C0D3F522F533F5242963F5255D63F5269123F527C4C3F528F823F52A2B53F52B5E53F52C9123F52DC3C3F52EF623F5302853F5315A53F5328C23F533BDB3F534EF23F5362053F5375153F5388213F539B2B3F53AE313F53C1343F53D4343F53E7313F53FA2A3F540D203F5420133F5433023F5445EF3F5458D83F546BBE3F547EA03F5491803F54A45C3F54B7353F54CA0A3F54DCDD3F54EFAC3F5502773F5515403F5528053F553AC73F554D863F5560413F5572F93F5585AE3F55985F3F55AB0D3F55BDB83F55D0603F55E3043F55F5A53F5608423F561ADD3F562D743F5640073F5652983F5665253F5677AE3F568A353F569CB83F56AF373F56C1B43F56D42D3F56E6A23F56F9143F570B833F571DEF3F5730573F5742BC3F57551E3F57677C3F5779D63F578C2E3F579E823F57B0D23F57C3203F57D5693F57E7B03F57F9F33F580C333F581E6F3F5830A83F5842DD3F58550F3F58673E3F5879693F588B913F589DB63F58AFD73F58C1F43F58D40F3F58E6253F58F8393F590A493F591C553F592E5E3F5940643F5952663F5964653F5976603F5988583F599A4C3F59AC3D3F59BE2A3F59D0143F59E1FB3F59F3DE3F5A05BE3F5A179A3F5A29723F5A3B483F5A4D193F5A5EE83F5A70B23F5A827A

/-- Cosine table entries 2048 to 3071 (R215). -/
def tabCos2 : Nat :=
  0x3E163D373E1684623E16CB9B3E1712E13E175A363E17A1993E17E9093E1830883E1878143E18BFAE3E1907563E194F0C3E1996D03E19DEA13E1A26813E1A6E6E3E1AB6693E1AFE713E1B46883E1B8EAC3E1BD6DE3E1C1F1D3E1C676B3E1CAFC63E1CF82F3E1D40A53E1D89293E1DD1BB3E1E1A5A3E1E63083E1EABC23E1EF48B3E1F3D613E1F86443E1FCF353E2018343E2061403E20AA5A3E20F3823E213CB73E2185F93E21CF493E2218A73E2262123E22AB8A3E22F5103E233EA33E2388443E23D1F23E241BAE3E2465773E24AF4E3E24F9313E2543233E258D213E25D72D3E2621473E266B6D3E26B5A13E26FFE33E274A313E27948D3E27DEF63E28296D3E2873F03E28BE813E2909203E2953CB3E299E843E29E9493E2A341C3E2A7EFC3E2AC9EA3E2B14E43E2B5FEC3E2BAB013E2BF6233E2C41523E2C8C8E3E2CD7D73E2D232D3E2D6E903E2DBA013E2E057E3E2E51093E2E9CA03E2EE8453E2F33F63E2F7FB43E2FCB803E3017583E30633E3E30AF303E30FB2F3E31473B3E3193543E31DF7A3E322BAD3E3277ED3E32C4393E3310933E335CF93E33A96C3E33F5EC3E3442783E348F123E34DBB83E35286B3E35752B3E35C1F73E360ED03E365BB63E36A8A93E36F5A83E3742B43E378FCD3E37DCF23E382A243E3877633E38C4AE3E3912063E395F6B3E39ACDC3E39FA593E3A47E43E3A957A3E3AE31E3E3B30CE3E3B7E8A3E3BCC533E3C1A283E3C680A3E3CB5F93E3D03F43E3D51FB3E3DA00F3E3DEE2F3E3E3C5B3E3E8A943E3ED8DA3E3F272B3E3F75893E3FC3F43E40126B3E4060EE3E40AF7D3E40FE193E414CC13E419B763E41EA363E4239033E4287DC3E42D6C23E4325B33E4374B13E43C3BB3E4412D23E4461F43E44B1233E45005D3E454FA43E459EF73E45EE573E463DC23E468D393E46DCBD3E472C4C3E477BE83E47CB8F3E481B433E486B033E48BACE3E490AA63E495A8A3E49AA793E49FA753E4A4A7D3E4A9A903E4AEAAF3E4B3ADB3E4B8B123E4BDB553E4C2BA43E4C7BFF3E4CCC663E4D1CD93E4D6D573E4DBDE13E4E0E773E4E5F193E4EAFC73E4F00803E4F51453E4FA2163E4FF2F33E5043DB3E5094CF3E50E5CF3E5136DB3E5187F23E51D9153E522A433E527B7D3E52CCC33E531E143E536F713E53C0DA3E54124E3E5463CD3E54B5583E5506EF3E5558913E55AA3F3E55FBF93E564DBD3E569F8E3E56F1693E5743503E5795433E57E7413E58394A3E588B5F3E58DD803E592FAB3E5981E23E59D4253E5A26723E5A78CB3E5ACB303E5B1D9F3E5B701A3E5BC2A03E5C15323E5C67CE3E5CBA763E5D0D2A3E5D5FE83E5DB2B23E5E05863E5E58663E5EAB523E5EFE483E5F51493E5FA4563E5FF76E3E604A903E609DBE3E60F0F73E61443B3E61978A3E61EAE53E623E4A3E6291BA3E62E5353E6338BB3E638C4C3E63DFE93E6433903E6487423E64DAFF3E652EC63E6582993E65D6773E662A5F3E667E533E66D2513E67265A3E677A6E3E67CE8D3E6822B63E6876EB3E68CB2A3E691F743E6973C83E69C8283E6A1C923E6A71063E6AC5863E6B1A103E6B6EA53E6BC3453E6C17EF3E6C6CA43E6CC1633E6D162D3E6D6B023E6DBFE13E6E14CB3E6E69BF3E6EBEBE3E6F13C73E6F68DB3E6FBDFA3E7013233E7068563E70BD943E7112DD3E7168303E71BD8D3E7212F43E7268673E72BDE33E73136A3E7368FB3E73BE973E74143D3E7469ED3E74BFA83E75156C3E756B3C3E75C1153E7616F93E766CE73E76C2DF3E7718E13E776EEE3E77C5053E781B263E7871513E78C7863E791DC63E7974103E79CA633E7A20C13E7A77293E7ACD9B3E7B24173E7B7A9E3E7BD12E3E7C27C83E7C7E6C3E7CD51B3E7D2BD33E7D82953E7DD9613E7E30383E7E87183E7EDE023E7F34F63E7F8BF33E7FE2FB3E801D063E8048943E8074273E809FBE3E80CB5B3E80F6FC3E8122A33E814E4E3E8179FE3E81A5B33E81D16D3E81FD2B3E8228EF3E8254B73E8280843E82AC563E82D82D3E8304093E832FEA3E835BCF3E8387B93E83B3A83E83DF9C3E840B943E8437923E8463943E848F9B3E84BBA63E84E7B73E8513CC3E853FE63E856C043E8598283E85C4503E85F07C3E861CAE3E8648E43E86751F3E86A15E3E86CDA23E86F9EB3E8726393E87528B3E877EE23E87AB3D3E87D79E3E8804023E88306C3E885CDA3E88894C3E88B5C43E88E2403E890EC03E893B453E8967CF3E89945D3E89C0EF3E89ED873E8A1A233E8A46C33E8A73683E8AA0113E8ACCBF3E8AF9723E8B26293E8B52E43E8B7FA43E8BAC693E8BD9323E8C05FF3E8C32D13E8C5FA83E8C8C833E8CB9623E8CE6463E8D132E3E8D401A3E8D6D0B3E8D9A013E8DC6FB3E8DF3F93E8E20FC3E8E4E033E8E7B0E3E8EA81E3E8ED5323E8F024B3E8F2F683E8F5C893E8F89AF3E8FB6D93E8FE4073E9011393E903E703E906BAC3E9098EB3E90C62F3E90F3773E9120C33E914E143E917B693E91A8C23E91D6203E9203813E9230E73E925E513E928BC03E92B9323E92E6A93E9314243E9341A43E936F273E939CAF3E93CA3A3E93F7CA3E94255E3E9452F73E9480933E94AE343E94DBD83E9509813E95372E3E9564DF3E9592953E95C04E3E95EE0B3E961BCD3E9649923E96775C3E96A52A3E96D2FB3E9700D13E972EAB3E975C893E978A6B3E97B8513E97E63B3E9814293E98421B3E9870113E989E0B3E98CC093E98FA0B3E9928113E99561B3E9984293E99B23A3E99E0503E9A0E6A3E9A3C883E9A6AA93E9A98CF3E9AC6F83E9AF5253E9B23563E9B518C3E9B7FC43E9BAE013E9BDC423E9C0A873E9C38CF3E9C671B3E9C956B3E9CC3BF3E9CF2173E9D20733E9D4ED23E9D7D353E9DAB9C3E9DDA073E9E08753E9E36E83E9E655E3E9E93D83E9EC2553E9EF0D73E9F1F5C3E9F4DE53E9F7C713E9FAB023E9FD9963EA0082D3EA036C93EA065683EA0940B3EA0C2B13EA0F15B3EA120093EA14EBB3EA17D703EA1AC283EA1DAE53EA209A53EA238683EA267303EA295FB3EA2C4C93EA2F39B3EA322713EA3514A3EA380273EA3AF073EA3DDEB3EA40CD33EA43BBE3EA46AAC3EA4999E3EA4C8943EA4F78D3EA5268A3EA5558A3EA5848E3EA5B3953EA5E29F3EA611AE3EA640BF3EA66FD43EA69EED3EA6CE093EA6FD283EA72C4B3EA75B713EA78A9B3EA7B9C83EA7E8F83EA8182C3EA847633EA8769E3EA8A5DC3EA8D51D3EA904623EA933AA3EA962F53EA992443EA9C1963EA9F0EC3EAA20443EAA4FA03EAA7F003EAAAE623EAADDC83EAB0D313EAB3C9E3EAB6C0E3EAB9B813EABCAF73EABFA713EAC29ED3EAC596D3EAC88F13EACB8773EACE8013EAD178D3EAD471D3EAD76B13EADA6473EADD5E13EAE057D3EAE351D3EAE64C03EAE94673EAEC4103EAEF3BD3EAF236C3EAF531F3EAF82D53EAFB28E3EAFE24A3EB012093EB041CB3EB071903EB0A1593EB0D1243EB100F33EB130C43EB160993EB190703EB1C04B3EB1F0283EB220093EB24FED3EB27FD33EB2AFBD3EB2DFAA3EB30F993EB33F8C3EB36F813EB39F7A3EB3CF753EB3FF733EB42F753EB45F793EB48F803EB4BF8A3EB4EF973EB51FA73EB54FB93EB57FCF3EB5AFE73EB5E0033EB610213EB640423EB670663EB6A08C3EB6D0B63EB700E23EB731113EB761433EB791783EB7C1B03EB7F1EA3EB822273EB852673EB882AA3EB8B2EF3EB8E3373EB913823EB943D03EB974203EB9A4733EB9D4C93EBA05213EBA357D3EBA65DB3EBA963B3EBAC69E3EBAF7043EBB276D3EBB57D83EBB88463EBBB8B63EBBE92A3EBC199F3EBC4A183EBC7A933EBCAB103EBCDB913EBD0C133EBD3C993EBD6D213EBD9DAB3EBDCE383EBDFEC83EBE2F5A3EBE5FEF3EBE90863EBEC1203EBEF1BC3EBF225B3EBF52FC3EBF83A03EBFB4463EBFE4EF3EC0159A3EC046483EC076F83EC0A7AB3EC0D8603EC109173EC139D13EC16A8D3EC19B4C3EC1CC0D3EC1FCD13EC22D963EC25E5F3EC28F293EC2BFF63EC2F0C63EC321983EC3526C3EC383423EC3B41B3EC3E4F63EC415D43EC446B33EC477953EC4A87A3EC4D9603EC50A493EC53B343EC56C223EC59D113EC5CE033EC5FEF83EC62FEE3EC660E73EC691E13EC6C2DF3EC6F3DE3EC724DF3EC755E33EC786E93EC7B7F13EC7E8FB3EC81A083EC84B163EC87C273EC8AD3A3EC8DE4F3EC90F663EC9407F3EC9719A3EC9A2B83EC9D3D73ECA04F93ECA361C3ECA67423ECA986A3ECAC9943ECAFAC03ECB2BEE3ECB5D1E3ECB8E503ECBBF843ECBF0BA3ECC21F23ECC532C3ECC84683ECCB5A63ECCE6E63ECD18283ECD496C3ECD7AB23ECDABFA3ECDDD443ECE0E903ECE3FDD3ECE712D3ECEA27E3ECED3D23ECF05273ECF367E3ECF67D73ECF99323ECFCA8F3ECFFBEE3ED02D4E3ED05EB13ED090153ED0C17B3ED0F2E33ED1244C3ED155B83ED187253ED1B8943ED1EA053ED21B783ED24CEC3ED27E623ED2AFDA3ED2E1543ED312CF3ED3444C3ED375CB3ED3A74C3ED3D8CE3ED40A523ED43BD73ED46D5F3ED49EE83ED4D0733ED501FF3ED5338D3ED5651D3ED596AE3ED5C8413ED5F9D63ED62B6C3ED65D043ED68E9D3ED6C0383ED6F1D53ED723733ED755133ED786B43ED7B8573ED7E9FB3ED81BA13ED84D493ED87EF23ED8B09D3ED8E2493ED913F63ED945A53ED977563ED9A9083ED9DABC3EDA0C713EDA3E273EDA6FDF3EDAA1993EDAD3533EDB05103EDB36CD3EDB688D3EDB9A4D3EDBCC0F3EDBFDD23EDC2F973EDC615D3EDC93253EDCC4ED3EDCF6B83EDD28833EDD5A503EDD8C1E3EDDBDEE3EDDEFBF3EDE21913EDE53653EDE85393EDEB70F3EDEE8E73EDF1ABF3EDF4C993EDF7E753EDFB0513EDFE22F3EE0140E3EE045EE3EE077CF3EE0A9B23EE0DB953EE10D7A3EE13F613EE171483EE1A3313EE1D51A3EE207053EE238F13EE26ADE3EE29CCD3EE2CEBC3EE300AD3EE3329E3EE364913EE396853EE3C87A3EE3FA703EE42C683EE45E603EE490593EE4C2533EE4F44F3EE5264B3EE558493EE58A473EE5BC473EE5EE483EE620493EE6524C3EE6844F3EE6B6543EE6E8593EE71A603EE74C673EE77E703EE7B0793EE7E2833EE8148E3EE8469B3EE878A83EE8AAB63EE8DCC43EE90ED43EE940E53EE972F63EE9A5093EE9D71C3EEA09303EEA3B453EEA6D5B3EEA9F713EEAD1893EEB03A13EEB35BA3EEB67D43EEB99EF3EEBCC0A3EEBFE263EEC30433EEC62613EEC947F3EECC69F3EECF8BF3EED2ADF3EED5D013EED8F233EEDC1463EEDF36A3EEE258E3EEE57B33EEE89D83EEEBBFF3EEEEE263EEF204D3EEF52763EEF849F3EEFB6C83EEFE8F23EF01B1D3EF04D493EF07F753EF0B1A13EF0E3CF3EF115FD3EF1482B3EF17A5A3EF1AC893EF1DEB93EF210EA3EF2431B3EF2754D3EF2A77F3EF2D9B23EF30BE53EF33E193EF3704D3EF3A2823EF3D4B73EF406ED3EF439233EF46B593EF49D903EF4CFC83EF502003EF534383EF566713EF598AA3EF5CAE33EF5FD1D3EF62F583EF661923EF693CD3EF6C6093EF6F8443EF72A813EF75CBD3EF78EFA3EF7C1373EF7F3743EF825B23EF857F03EF88A2F3EF8BC6D3EF8EEAC3EF920EB3EF9532B3EF9856B3EF9B7AB3EF9E9EB3EFA1C2B3EFA4E6C3EFA80AD3EFAB2EE3EFAE52F3EFB17713EFB49B23EFB7BF43EFBAE363EFBE0783EFC12BB3EFC44FD3EFC77403EFCA9833EFCDBC63EFD0E093EFD404C3EFD728F3EFDA4D33EFDD7163EFE095A3EFE3B9D3EFE6DE13EFEA0253EFED2683EFF04AC3EFF36F03EFF69343EFF9B783EFFCDBC3F000000

/-- Cosine table entries 3072 to 4095 (R215). -/
def tabCos3 : Nat :=
  0x341DE9E6351DE9E435B1A71E361DE9DE3676BD6436B1A70F36F1CE03371DE9C63747DBD33776BD29379546E237B1A6D137D07E6137F1CD90380ACA2F381DE964383244673847DB37385EADD33876BC3B388803363895463438A3271538B1A5DA38C0C28338D07D0D38E0D57A38F1CBC83901AFFB390AC902391430F9391DE7DF3927EDB439324277393CE6283947D8C739531A54395EAACD396A8A323976B88439819AE0398800F4398E8E7D3995437B399C1FEE39A323D539AA4F3139B1A20039B91C4339C0BDF939C8872339D077BF39D88FCD39E0CF4E39E9364139F1C4A539FA7A7A3A01ABE03A062E3B3A0AC44E3A0F6E193A142B9C3A18FCD73A1DE1C83A22DA713A27E6D13A2D06E83A323AB53A3782383A3CDD723A424C623A47CF073A4D65623A530F723A58CD383A5E9EB23A6483E13A6A7CC43A70895C3A76A9A73A7CDDA63A8192AC3A84C05F3A87F7EC3A8B39523A8E84913A91D9A93A95389A3A98A1643A9C14073A9F90833AA316D63AA6A7033AAA41073AADE4E43AB192983AB54A243AB90B883ABCD6C33AC0ABD63AC48AC03AC873803ACC66183AD062873AD468CC3AD878E73ADC92D93AE0B6A13AE4E43F3AE91BB23AED5CFB3AF1A81A3AF5FD0E3AFA5BD73AFEC4753B019B743B03D9983B061CA63B08649E3B0AB1803B0D034C3B0F5A023B11B5A23B14162C3B167B9F3B18E5FB3B1B55413B1DC9713B2042893B22C08B3B2543763B27CB493B2A58063B2CE9AB3B2F80393B321BAF3B34BC0E3B3761563B3A0B853B3CBA9D3B3F6E9C3B4227843B44E5533B47A80A3B4A6FA93B4D3C2F3B500D9D3B52E3F23B55BF2E3B589F513B5B845B3B5E6E4C3B615D243B6450E23B6749873B6A47123B6D49843B7050DB3B735D193B766E3C3B7984463B7C9F353B7FBF0A3B8171E23B8306B23B849DF43B8637A93B87D3D03B89726A3B8B13763B8CB6F53B8E5CE53B9005483B91B01D3B935D643B950D1D3B96BF483B9873E43B9A2AF33B9BE4733B9DA0653B9F5EC83BA11F9D3BA2E2E33BA4A89B3BA670C43BA83B5E3BAA086A3BABD7E63BADA9D43BAF7E333BB155023BB32E423BB509F33BB6E8153BB8C8A73BBAABAA3BBC911D3BBE79013BC063553BC250193BC43F4D3BC630F23BC825063BCA1B8A3BCC147F3BCE0FE33BD00DB63BD20DFA3BD410AD3BD615CF3BD81D613BDA27623BDC33D23BDE42B23BE054013BE267BE3BE47DEB3BE696863BE8B1903BEACF093BECEEF13BEF11473BF1360B3BF35D3E3BF586DF3BF7B2EE3BF9E16B3BFC12573BFE45B03C003DBC3C0159D63C0277273C0395AF3C04B56E3C05D6643C06F8903C081BF33C09408C3C0A665C3C0B8D633C0CB5A03C0DDF133C0F09BD3C10359D3C1162B33C1290FF3C13C0823C14F13B3C16232A3C17564F3C188AA93C19C03A3C1AF7013C1C2EFE3C1D68303C1EA2983C1FDE363C211B0A3C2259133C2398513C24D8C63C261A6F3C275D4F3C28A1633C29E6AD3C2B2D2C3C2C74E03C2DBDCA3C2F07E83C30533C3C319FC53C32ED833C343C753C358C9D3C36DDF93C38308A3C3984503C3AD94B3C3C2F7A3C3D86DE3C3EDF763C4039433C4194443C42F0793C444DE33C45AC813C470C543C486D5A3C49CF953C4B33033C4C97A63C4DFD7C3C4F64873C50CCC53C5236373C53A0DD3C550CB63C5679C33C57E8043C5957783C5AC81F3C5C39FA3C5DAD093C5F214A3C6096BF3C620D673C6385423C64FE503C6678913C67F4053C6970AC3C6AEE863C6C6D923C6DEDD23C6F6F433C70F1E83C7275BF3C73FAC83C7581043C7708733C7891133C7A1AE63C7BA5EB3C7D32223C7EBF8C3C8027133C80EEFA3C81B77A3C8280923C834A433C84148D3C84DF703C85AAEC3C8677013C8743AE3C8810F43C88DED33C89AD4A3C8A7C5A3C8B4C023C8C1C433C8CED1D3C8DBE8F3C8E90993C8F633C3C9036773C910A4B3C91DEB73C92B3BB3C9389583C945F8C3C9536593C960DBE3C96E5BB3C97BE513C98977E3C9971433C9A4BA13C9B26963C9C02233C9CDE493C9DBB063C9E985A3C9F76473CA054CC3CA133E83CA2139C3CA2F3E73CA3D4CA3CA4B6453CA598573CA67B013CA75E433CA8421B3CA9268C3CAA0B933CAAF1323CABD7683CACBE363CADA59B3CAE8D973CAF762A3CB05F553CB149163CB2336F3CB31E5E3CB409E53CB4F6033CB5E2B73CB6D0033CB7BDE53CB8AC5E3CB99B6E3CBA8B153CBB7B523CBC6C263CBD5D913CBE4F923CBF422A3CC035593CC1291E3CC21D793CC3126B3CC407F33CC4FE123CC5F4C73CC6EC123CC7E3F43CC8DC6B3CC9D5793CCACF1D3CCBC9573CCCC4283CCDBF8E3CCEBB8A3CCFB81C3CD0B5443CD1B3023CD2B1553CD3B03F3CD4AFBE3CD5AFD33CD6B07E3CD7B1BE3CD8B3943CD9B5FF3CDAB9003CDBBC973CDCC0C33CDDC5843CDECADA3CDFD0C63CE0D7483CE1DE5E3CE2E60A3CE3EE4B3CE4F7213CE6008C3CE70A8C3CE815213CE9204B3CEA2C0A3CEB385E3CEC45473CED52C43CEE60D63CEF6F7E3CF07EB93CF18E8A3CF29EEF3CF3AFE83CF4C1763CF5D3993CF6E6503CF7F99B3CF90D7B3CFA21EF3CFB36F73CFC4C933CFD62C43CFE79893CFF90E23D0054673D00E0A83D016D323D01FA073D0287253D03148E3D03A2403D04303C3D04BE823D054D123D05DBEB3D066B0F3D06FA7C3D078A333D081A343D08AA7E3D093B123D09CBF03D0A5D173D0AEE883D0B80433D0C12473D0CA4953D0D372C3D0DCA0D3D0E5D373D0EF0AB3D0F84683D10186F3D10ACBF3D1141593D11D63B3D126B673D1300DD3D13969C3D142CA43D14C2F53D15598F3D15F0733D1687A03D171F163D17B6D53D184EDD3D18E72E3D197FC93D1A18AC3D1AB1D83D1B4B4E3D1BE50C3D1C7F143D1D19643D1DB3FD3D1E4EDF3D1EEA0A3D1F857E3D20213A3D20BD3F3D21598D3D21F6243D2293043D23302C3D23CD9D3D246B563D2509583D25A7A33D2646363D26E5123D2784373D2823A33D28C3593D2963563D2A039D3D2AA42B3D2B45023D2BE6223D2C87893D2D29393D2DCB313D2E6D723D2F0FFB3D2FB2CC3D3055E53D30F9463D319CF03D3240E13D32E51B3D33899C3D342E663D34D3783D3578D13D361E733D36C45D3D376A8E3D3811083D38B7C93D395ED23D3A06233D3AADBC3D3B559C3D3BFDC43D3CA6343D3D4EEC3D3DF7EB3D3EA1323D3F4AC03D3FF4963D409EB43D4149193D41F3C63D429EBA3D4349F63D43F5793D44A1433D454D553D45F9AE3D46A64E3D4753363D4800653D48ADDB3D495B993D4A099E3D4AB7E93D4B667C3D4C15573D4CC4783D4D73E03D4E238F3D4ED3863D4F83C33D5034473D50E5123D5196253D52477D3D52F91D3D53AB043D545D313D550FA63D55C2613D5675623D5728AB3D57DC3A3D58900F3D59442B3D59F88E3D5AAD383D5B62283D5C175E3D5CCCDB3D5D829E3D5E38A83D5EEEF83D5FA58F3D605C6B3D61138F3D61CAF83D6282A83D633A9E3D63F2DA3D64AB5C3D6564243D661D333D66D6873D6790223D684A033D69042A3D69BE963D6A79493D6B34413D6BEF803D6CAB043D6D66CE3D6E22DE3D6EDF343D6F9BCF3D7058B03D7115D73D71D3443D7290F63D734EEE3D740D2B3D74CBAE3D758A763D7649843D7708D73D77C8703D78884E3D7948723D7A08DB3D7AC9893D7B8A7C3D7C4BB53D7D0D333D7DCEF63D7E90FF3D7F534C3D800AEF3D806C5B3D80CDEA3D812F9B3D81916E3D81F3643D82557C3D82B7B73D831A143D837C943D83DF363D8441FA3D84A4E13D8507EA3D856B163D85CE643D8631D43D8695673D86F91B3D875CF33D87C0EC3D8825073D8889453D88EDA53D8952273D89B6CC3D8A1B923D8A807B3D8AE5863D8B4AB33D8BB0023D8C15733D8C7B073D8CE0BC3D8D46933D8DAC8D3D8E12A83D8E78E63D8EDF453D8F45C73D8FAC6A3D90132F3D907A163D90E11F3D91484A3D91AF973D9217063D927E973D92E6493D934E1D3D93B6133D941E2B3D9486653D94EEC03D95573D3D95BFDC3D96289D3D96917F3D96FA833D9763A83D97CCEF3D9836583D989FE33D99098F3D99735C3D99DD4B3D9A475C3D9AB18E3D9B1BE23D9B86573D9BF0EE3D9C5BA63D9CC6803D9D317B3D9D9C973D9E07D53D9E73343D9EDEB53D9F4A573D9FB61A3DA021FF3DA08E053DA0FA2C3DA166753DA1D2DE3DA23F693DA2AC163DA318E33DA385D23DA3F2E23DA460133DA4CD653DA53AD83DA5A86C3DA616223DA683F83DA6F1F03DA760083DA7CE423DA83C9D3DA8AB183DA919B53DA988723DA9F7513DAA66503DAAD5713DAB44B23DABB4143DAC23973DAC933B3DAD03003DAD72E53DADE2EB3DAE53123DAEC35A3DAF33C23DAFA44C3DB014F63DB085C03DB0F6AC3DB167B83DB1D8E43DB24A313DB2BB9F3DB32D2E3DB39EDD3DB410AC3DB4829C3DB4F4AD3DB566DE3DB5D9303DB64BA23DB6BE343DB730E73DB7A3BA3DB816AE3DB889C23DB8FCF73DB9704C3DB9E3C13DBA57563DBACB0C3DBB3EE23DBBB2D83DBC26EF3DBC9B263DBD0F7D3DBD83F43DBDF88B3DBE6D433DBEE21A3DBF57123DBFCC2A3DC041623DC0B6BA3DC12C323DC1A1CA3DC217823DC28D5A3DC303523DC3796A3DC3EFA23DC465FA3DC4DC723DC5530A3DC5C9C13DC640993DC6B7903DC72EA73DC7A5DE3DC81D353DC894AB3DC90C413DC983F73DC9FBCD3DCA73C23DCAEBD73DCB640B3DCBDC603DCC54D43DCCCD673DCD461A3DCDBEED3DCE37DF3DCEB0F13DCF2A223DCFA3733DD01CE33DD096723DD110213DD189F03DD203DE3DD27DEB3DD2F8183DD372643DD3ECCF3DD4675A3DD4E2033DD55CCD3DD5D7B53DD652BD3DD6CDE43DD7492A3DD7C48F3DD840133DD8BBB73DD937793DD9B35B3DDA2F5C3DDAAB7C3DDB27BB3DDBA4193DDC20963DDC9D323DDD19ED3DDD96C73DDE13C03DDE90D83DDF0E0E3DDF8B643DE008D83DE0866C3DE1041E3DE181EE3DE1FFDE3DE27DED3DE2FC1A3DE37A663DE3F8D03DE4775A3DE4F6023DE574C83DE5F3AD3DE672B13DE6F1D43DE771153DE7F0743DE86FF33DE8EF8F3DE96F4A3DE9EF243DEA6F1C3DEAEF333DEB6F683DEBEFBB3DEC702D3DECF0BD3DED716B3DEDF2383DEE73233DEEF42C3DEF75543DEFF69A3DF077FE3DF0F9803DF17B213DF1FCDF3DF27EBC3DF300B73DF382D03DF405073DF4875D3DF509D03DF58C613DF60F103DF691DE3DF714C93DF797D23DF81AF93DF89E3F3DF921A13DF9A5223DFA28C13DFAAC7E3DFB30583DFBB4503DFC38663DFCBC9A3DFD40EB3DFDC55A3DFE49E73DFECE913DFF53593DFFD83F3E002EA13E0071323E00B3D13E00F67F3E01393C3E017C083E01BEE23E0201CB3E0244C33E0287C93E02CADE3E030E023E0351353E0394763E03D7C63E041B253E045E923E04A20E3E04E5983E0529313E056CD93E05B0903E05F4543E0638283E067C0A3E06BFFB3E0703FA3E0748073E078C243E07D04E3E0814873E0858CF3E089D253E08E18A3E0925FD3E096A7F3E09AF0F3E09F3AD3E0A385A3E0A7D153E0AC1DF3E0B06B73E0B4B9E3E0B90923E0BD5963E0C1AA73E0C5FC73E0CA4F53E0CEA323E0D2F7D3E0D74D63E0DBA3D3E0DFFB33E0E45373E0E8AC93E0ED0693E0F16183E0F5BD53E0FA1A03E0FE7793E102D613E1073563E10B95A3E10FF6C3E11458C3E118BBB3E11D1F73E1218423E125E9A3E12A5013E12EB763E1331F93E13788A3E13BF293E1405D63E144C913E14935A3E14DA313E1521163E1568093E15AF0B3E15F61A

/-- Tail constants of NT (R157): RA, RB, LB. -/
def ntRA : F32 := 0x4018BFBB
/-- NT'(16). -/
def ntRB : F32 := 0x3E3AC90D
/-- NT'(0). -/
def ntLB : F32 := 0x3FA06C99

end Sys2Proof.Machine
end

