-- ==== Sys2Proof/Machine/Ftab.lean ====
section
/-! DEFINITION. Evaluation of cubic tables (R73) and the module's built-in functions EXP (R121) and LN, LM, NT (R155 to R157). -/

namespace Sys2Proof.Machine

/-- A function table (R72): domain, tails and the coefficients as one number, four words a segment, segment 0 lowest. -/
structure FTable where
  lo   : F32 := 0
  wexp : Int := 0
  la   : F32 := 0
  lb   : F32 := 0
  ra   : F32 := 0
  rb   : F32 := 0
  segs : Nat := 0
  deriving DecidableEq, Repr

/-- Coefficient `k` of segment `i`. -/
def FTable.coef (t : FTable) (i k : Nat) : F32 := BitVec.ofNat 32 (t.segs / 2 ^ (128 * i + 32 * k))

/-- Evaluate a table at a finite input of exact value (-1)^nx * mx * 2^ex, whose FP32 word is x (R73). -/
def FTable.evalAt (t : FTable) (nx : Bool) (mx : Nat) (ex : Int) (x : F32) : F32 :=
  match f32Val t.lo with
  | .fin nl ml el =>
    let (v, e) := dyAdd nx mx ex (!nl) ml el
    if v < 0 then f32Fma t.lb x t.la
    else
      -- i = floor(v * 2^e / 2^wexp), and the rest t = v * 2^e - i * 2^wexp on the common exponent
      let m := v.natAbs
      let g := if e ≤ t.wexp then e else t.wexp
      let num := m * 2 ^ (e - g).toNat
      let den := 2 ^ (t.wexp - g).toNat
      let i := num / den
      if 256 ≤ i then f32Fma t.rb x t.ra
      else
        let r := (roundF32 false false (num % den) g).1
        f32Fma (f32Fma (f32Fma (t.coef i 3) r (t.coef i 2)) r (t.coef i 1)) r (t.coef i 0)
  | _ => f32NaN

/-- Evaluate a table at x (R73). -/
def FTable.eval (t : FTable) (x : F32) : F32 :=
  match f32Val x with
  | .nan => f32NaN
  | .inf false => if f32IsZero t.rb then t.ra else f32Fma t.rb x t.ra
  | .inf true => if f32IsZero t.lb then t.la else f32Fma t.lb x t.la
  | .fin nx mx ex => t.evalAt nx mx ex x

/-- The table of 2^f (R121). -/
def ftExp : FTable := { lo := 0, wexp := -8, segs := tabExp }
/-- The table LT (R155). -/
def ftLT : FTable := { lo := 0x3F400000, wexp := -8, segs := tabLT }
/-- The table LM (R156). -/
def ftLM : FTable := { lo := 0, wexp := -9, segs := tabLM }
/-- The table NT (R157). -/
def ftNT : FTable := { lo := 0, wexp := -4, la := 0, lb := ntLB, ra := ntRA, rb := ntRB, segs := tabNT }

/-- Multiply by 2^i, rounding to nearest even into the subnormal range. -/
def f32Ldexp (x : F32) (i : Int) : F32 :=
  match f32Val x with
  | .fin s m e => (roundF32 false s m (e + i)).1
  | _ => x

/-- EXP (R121). -/
def fexp (x : F32) : F32 :=
  match f32Val x with
  | .nan => f32NaN
  | .inf true => 0
  | .inf false => f32Inf false
  | .fin _ _ _ =>
    let y := f32Mul x 0x3FB8AA3B
    match f32Val y with
    | .fin s m e =>
      let i := f32Floor y
      -- past these bounds the result is +∞ or +0
      if 200 < i then f32Inf false
      else if i < -200 then 0
      else
        -- y - i is exact and lies in [0, 1); its FP32 word would matter to tails only, which it does not reach
        let (v, k) := dyAdd s m e (0 ≤ i) i.natAbs 0
        f32Ldexp (ftExp.evalAt false v.natAbs k 0) i
    | .inf true => 0
    | .inf false => f32Inf false
    | .nan => f32NaN

/-- LN (R155). -/
def fln (x : F32) : F32 :=
  match f32Val x with
  | .nan => f32NaN
  | .inf neg => if neg then f32NaN else f32Inf false
  | .fin neg m e =>
    if m == 0 then f32Inf true
    else if neg then f32NaN
    else
      let l := Nat.log2 m
      -- m in [1, 2) is m / 2^l; at 1.5 or more it is halved
      let high := 3 * 2 ^ l ≤ 2 * m
      let ex : Int := e + l + (if high then 1 else 0)
      let mant := (roundF32 false false m (-(l : Int) - (if high then 1 else 0))).1
      f32Fma (f32OfInt ex) 0x3F317218 (ftLT.eval mant)

/-- The uniform value of a 32-bit field (R154). -/
def uniformOf (f : Nat) : F32 := (roundF32 false false (2 * (f / 512 % 2 ^ 23) + 1) (-24)).1

/-- The exponential variate of a field (R156). -/
def expVariate (f : Nat) : F32 :=
  let u := uniformOf f
  if f32Lt u 0x3F000000 then f32Negate (fln u) else f32Negate (ftLM.eval (f32Sub f32One u))

/-- The Gumbel value of a field (R156). -/
def gumbelOf (f : Nat) : F32 := f32Negate (fln (expVariate f))

/-- The normal value of a field (R157). -/
def normalOf (f : Nat) : F32 :=
  let v := bitsOf f 30 8
  let q := (roundF32 false false (2 * v + 1) (-24)).1
  let z := ftNT.eval (f32Negate (fln q))
  let mag := if f32Key z < 0 then 0 else z
  if bitOf f 31 then mag ||| 0x80000000 else mag

/-- The cosine table: entry j, +0 at 4,096 and beyond (R215). -/
def cosTab (j : Nat) : F32 :=
  if 4096 ≤ j then 0
  else
    let t := if j < 1024 then tabCos0 else if j < 2048 then tabCos1 else if j < 3072 then tabCos2 else tabCos3
    BitVec.ofNat 32 (t / 2 ^ (32 * (j % 1024)))

end Sys2Proof.Machine
end

