-- ==== Sys2Proof/Machine/StateCore.lean ====
section
/-! DEFINITION. The state of one compute core (R49): store, registers, tag file, planes, drain buffer, function slots,
descriptor engine and the registers of its core block (R47, R48, R81 to R84, R345). -/

namespace Sys2Proof.Machine

/-- Core states (CORE_STATUS.STATE, R81). -/
inductive CoreState where
  | reset | idle | running | halted | faulted | standby | failed
  deriving DecidableEq, Repr

/-- The code of a core state (R81). -/
def CoreState.code : CoreState → Nat
  | .reset => 0 | .idle => 1 | .running => 2 | .halted => 3 | .faulted => 4 | .standby => 5 | .failed => 6

/-- What a core's sequencer waits for (R50, R76, R78, R182, R315, R328). -/
inductive Wait where
  /-- Nothing: the sequencer issues. -/
  | none
  /-- FENCE.M: every posted descriptor (R78). -/
  | fenceM
  /-- A MOVE that found 32 descriptors outstanding, with the descriptor's bytes (R76). -/
  | move (raw : List Byte)
  /-- SEM.WAIT or SEM.TAKE of a count (R78). -/
  | sem (n count : Nat) (take : Bool)
  /-- QPOP on an empty queue, with its destination register (R328). -/
  | qpop (q rd : Nat)
  /-- CUE.WAIT until an absolute count (R315). -/
  | cue (target : Nat)
  /-- An OPTM instruction that may not issue yet: its OP and its fields (R50, R182, R192, R234). -/
  | optm (op : Nat) (w : VecWord)
  /-- CUE.WAIT at a barrier, with the scalar register that receives T_REL (R316). -/
  | barrier (b sx : Nat)
  deriving DecidableEq, Repr

/-- How far a posted descriptor has come (R77). -/
inductive Stage where
  /-- Posted, not yet carried out. -/
  | posted
  /-- Its packets or contributions are on their way; an answer will complete it (R286, R296). -/
  | sent
  /-- Its writes are under way or done with this status; it completes with it. -/
  | done (status : Nat)
  deriving DecidableEq, Repr

/-- A posted descriptor: its number in posting order, its 64 bytes and its stage (R76). -/
structure Posted where
  id    : Nat
  raw   : List Byte
  stage : Stage
  deriving DecidableEq, Repr

/-- A stationary plane (R56, R61): what it holds, in two chunks when `pair`; empty before the first fill. -/
structure Plane where
  filled : Bool := false
  pair   : Bool := false
  data   : List Byte := []
  deriving DecidableEq, Repr

/-- CORE_ARITH_STATUS and CORE_ARITH_COUNT (R47, R48). -/
structure Arith where
  chunkAlign : Bool := false
  tagInvalid : Bool := false
  convSat    : Bool := false
  awHigh     : Bool := false
  awLow      : Bool := false
  nf         : Bool := false
  nfCount    : Nat := 0
  awCount    : Nat := 0
  satCount   : Nat := 0
  refuseCount : Nat := 0
  deriving DecidableEq, Repr

/-- CORE_STATUS, CORE_PC and CORE_FAULT (R81, R83, R84) and what the sequencer waits for. -/
structure CoreRegs where
  ndCount   : Nat := 0
  lcore     : Nat := 0xFFFF
  troupe    : Nat := 0xFF
  state     : CoreState := .reset
  fault     : Bool := false
  haltEv    : Bool := false
  ndSeen    : Bool := false
  pc        : Nat := 0
  faultCode : Nat := 0
  faultPc   : Nat := 0
  wait      : Wait := .none
  /-- STOP was written and work in flight has not completed (R82). -/
  stopping  : Bool := false
  live0     : Word := 0xFFFFFFFFFFFFFFFF
  live1     : Word := 0x00000000FFFFFFFF
  /-- A CUE.WAIT at a barrier was abandoned by a switch after its core had arrived: barrier and instance (R336). -/
  kept      : Option (Nat × Nat) := none
  deriving DecidableEq, Repr

/-- One physical core. Register tables are keyed 256 r + i (v), 256 p + i (p), 128 row + column (drain) and 2 slot + kind. -/
structure Core where
  store  : Memory := []
  v      : Map F32 := []
  p      : Map Bool := []
  s      : Map Word := []
  f      : Map Word := []
  tags   : Map Word := []
  planeA : Plane := {}
  planeB : Plane := {}
  drain  : Map F32 := []
  slots  : Map FTable := []
  descs  : List Posted := []
  nextId : Nat := 0
  /-- A suspended instruction of a restored image: SUSP_NEXT and SUSP_INSN (R340). -/
  susp   : Option (Nat × Nat) := none
  arith  : Arith := {}
  regs   : CoreRegs := {}
  deriving DecidableEq, Repr

/-- Vector element. -/
def Core.vGet (k : Core) (r i : Nat) : F32 := mapGet 0 k.v (256 * r + i)
/-- Predicate bit; p0 is read as all ones (R71). -/
def Core.pGet (k : Core) (r i : Nat) : Bool := if r == 0 then true else mapGet false k.p (256 * r + i)
/-- Scalar register. -/
def Core.sGet (k : Core) (r : Nat) : Word := mapGet 0 k.s r
/-- Flint stream register. -/
def Core.fGet (k : Core) (r : Nat) : Word := mapGet 0 k.f r
/-- Tag-file entry. -/
def Core.tagGet (k : Core) (r : Nat) : Word := mapGet 0 k.tags r

end Sys2Proof.Machine
end

