-- ==== Sys2Proof/Machine/StateTroupe.lean ====
section
/-! DEFINITION. The state of one troupe: its registers (R344), queues (R328), Flint registers (R160) and context area (R339). -/

namespace Sys2Proof.Machine

/-- Troupe states (R322). -/
inductive TrpState where
  | absent | resident | waitPort | saving | off | restoring | teardown
  deriving DecidableEq, Repr

/-- The code of a troupe state (R322). -/
def TrpState.code : TrpState → Nat
  | .absent => 0 | .resident => 1 | .waitPort => 2 | .saving => 3 | .off => 4 | .restoring => 5 | .teardown => 6

/-- The accounting counters (R332, R344). -/
structure Acct where
  core  : Nat := 0
  array : Nat := 0
  vec   : Nat := 0
  stkRd : Nat := 0
  stkWr : Nat := 0
  fabTx : Nat := 0
  fabRx : Nat := 0
  thl   : Nat := 0
  deriving DecidableEq, Repr

/-- TRP_STATE, TRP_EVT, TRP_XLAT_FAULT and TRP_SWITCH_T (R344). -/
structure TrpRegs where
  state      : TrpState := .absent
  role       : Nat := 0
  held       : Bool := false
  opened     : Bool := false
  /-- Unopened since a restore (R366): no WT_READY with VSLOT 0 opens it (R482). -/
  shut       : Bool := false
  xlatCnt    : Nat := 0
  switchCnt  : Nat := 0
  dclassDiff : Bool := false
  torn       : Bool := false
  restored   : Bool := false
  saved      : Bool := false
  semSat     : Bool := false
  xlat       : Bool := false
  xfValid    : Bool := false
  xfKind     : Nat := 0
  xfAddr     : Nat := 0
  switchT    : Nat := 0
  acct       : Acct := {}
  /-- The lead ordered the module to stop its troupes: none starts until it is torn down or restored (R371, R394). -/
  stopped    : Bool := false
  deriving DecidableEq, Repr

/-- A TRP_MAP whose new entry is in force and that waits for the accesses through the old one (R326): the page that the old entry mapped, if
it mapped one. -/
structure HeldMap where
  hdr  : CmdHdr
  page : Option Nat
  deriving DecidableEq, Repr

/-- The head and the number of entries of a troupe queue; the entries lie in the troupe's memory (R328). -/
structure TrpQueue where
  head  : Nat := 0
  count : Nat := 0
  deriving DecidableEq, Repr

/-- The Flint registers and key of a troupe (R147, R160); seeds are 32-byte little-endian numbers. -/
structure TrpFlint where
  staged  : Nat := 0
  seed    : Nat := 0
  key     : Nat := 0
  keychk  : Nat := 0
  busyCnt : Nat := 0
  busy    : Bool := false
  loaded  : Bool := false
  deriving DecidableEq, Repr

end Sys2Proof.Machine
end

