-- ==== Sys2Proof/Machine/StateCkpt.lean ====
section
/-! DEFINITION. The state of checkpoints, the error watch and understudy modules (R346 to R373). -/

namespace Sys2Proof.Machine

/-- The states of a job's checkpoint (R352, WCH_CKPT_STATUS.STATE). -/
inductive CkptSt where
  | idle | armed | paused | copying | draining
  deriving DecidableEq, Repr

/-- The code of a checkpoint state. -/
def CkptSt.code : CkptSt → Nat
  | .idle => 0 | .armed => 1 | .paused => 2 | .copying => 3 | .draining => 4

/-- The content of a LEARNER piece (R347). -/
structure LearnerImg where
  step      : Nat
  vStep     : Nat
  vCount    : Nat
  vReasons  : Nat
  vReason   : Nat
  vValid    : Bool
  vSkip     : Bool
  nextEpoch : Nat
  gstates   : Map GroupState
  gsets     : List HeldGset
  gov       : List GovState
  deriving DecidableEq, Repr

/-- The content of a TROUPE piece (R347): semaphores, queues with their entries, Flint seed, stream registers by logical core,
TRP_VCTRL, the LIVE epoch and the scorer's counts. -/
structure TroupeImg where
  sems    : List Nat
  queues  : List (Nat × List Nat)
  seed    : Nat
  streams : List (Nat × List Nat)
  pin     : Bool
  auto    : Bool
  maxLag  : Nat
  lagchk  : Bool
  alt     : Bool
  epoch   : Nat
  sHandCnt : Nat
  sealCnt  : Nat
  deriving DecidableEq, Repr

/-- The content of a GROUPS piece (R347). -/
structure GroupsImg where
  groups   : List GroupRec
  trees    : List TreeRec
  barriers : List BarrierEnt
  members  : List (Nat × Nat)
  prompter : List (Nat × PromSlot)
  deriving DecidableEq, Repr

/-- What a piece holds: stored bytes, register images or logical records. A RING piece also holds the engine's own state. -/
inductive PieceVal where
  | bytes (b : List Byte)
  | learner (x : LearnerImg)
  | ring (b : List Byte) (r : Ring)
  | troupe (x : TroupeImg)
  | groups (x : GroupsImg)
  deriving DecidableEq, Repr

/-- A piece of an image (R347, R360). `addr` and `len` give the live data; `digest` is what its entry says of its stored bytes. -/
structure Piece where
  kind     : Nat
  troupe   : Nat
  fmt      : Nat := 0xFF
  liveFmt  : Nat := 0xFF
  record   : Nat := 0
  firstBlk : Nat := 0
  nblk     : Nat := 0
  addr     : Nat := 0
  len      : Nat := 0
  val      : PieceVal
  digest   : Nat := 0
  deriving DecidableEq, Repr

/-- A stratum 0 or stratum 1 image: what its manifest says (R360) and its pieces. -/
structure CkptImage where
  job      : Nat
  lmid     : Nat
  no       : Nat
  step     : Nat
  tCut     : Nat
  cl       : Nat := 1
  complete : Bool := false
  skewed   : Bool := false
  narrow   : Bool := false
  /-- IMAGE_BYTES, PART_OFF and DIGEST of the manifest. -/
  bytes    : Nat := 0
  offs     : List Nat := []
  digest   : Nat := 0
  dclass   : Nat := 0
  castDigest : Nat := 0
  cursor   : List Byte := []
  pieces   : List Piece := []
  deriving DecidableEq, Repr

/-- A catalogue entry of a restore (R364) with the image it names. `layoutOk`: its reserved bytes and SOURCE are right. For the LMID
of another module, `ok` says whether apply_one succeeds there with the entry; `image` is read for this module's own LMID. -/
structure CatEntry where
  step     : Nat
  lmid     : Nat
  source   : Nat
  layoutOk : Bool := true
  ok       : Bool := true
  image    : Option CkptImage := none
  deriving DecidableEq, Repr

/-- A drain buffer that the host supplied (R362). -/
structure DrainBuf where
  hdr  : CmdHdr
  addr : Nat
  len  : Nat
  deriving DecidableEq, Repr

/-- A replica comparison that waits, with what the job's other modules report (R368). -/
structure Compare where
  hdr    : CmdHdr
  others : List ReplDigest
  pairs  : List (Nat × Nat)
  deriving DecidableEq, Repr

/-- One job of this module: WCH_CKPT registers (R373), the checkpoint in progress and the stratum 0 image. -/
structure Job where
  plan     : JobPlan
  st       : CkptSt := .idle
  held     : Bool := false
  no       : Nat := 0
  step     : Nat := 0
  tCut     : Nat := 0
  abortCnt : Nat := 0
  heldCnt  : Nat := 0
  stallCnt : Nat := 0
  ue       : Bool := false
  abort    : Bool := false
  heldEv   : Bool := false
  s1Done   : Bool := false
  s0Done   : Bool := false
  cut      : Bool := false
  cursor   : List Byte := []
  /-- A cursor that came at T_REL or later, for the next cut (R361). -/
  later    : Option (List Byte) := none
  /-- Troupes of this module that stand at their cut point. -/
  atCut    : List Nat := []
  /-- Stack pages of the job whose copy is outstanding. -/
  pages    : List Nat := []
  /-- A source unit was poisoned (R358). -/
  bad      : Bool := false
  image    : Option CkptImage := none
  bufs     : List DrainBuf := []
  /-- Bytes of the image that have been drained. -/
  drained  : Nat := 0
  /-- At the coordinator: modules whose drain has not ended. -/
  waitDrain : List Nat := []
  /-- Replica comparisons that wait, and the troupes held for them at a cut point (R368). -/
  cmp      : List Compare := []
  cmpAt    : List Nat := []
  deriving DecidableEq, Repr

/-- What the error watch measures (R351). -/
inductive WatchCause where
  | ce | retry | retrain | therm | reg
  deriving DecidableEq, Repr

/-- What the error watch has counted of a cause at a stack or port in one bin of 1 s (R351). -/
structure WatchMark where
  cause : WatchCause
  unit  : Nat
  sec   : Nat
  n     : Nat
  deriving DecidableEq, Repr

/-- WCH_THRESH, WCH_EVT (R351, R373) and the hold-off. -/
structure Watch where
  ceRate    : Nat := 0
  retryRate : Nat := 0
  retrainHr : Nat := 0
  regWarn   : Nat := 0
  thermMargin : Nat := 0
  holdoffS  : Nat := 1
  auto      : Bool := false
  reqCnt    : Nat := 0
  suppCnt   : Nat := 0
  reg       : Bool := false
  therm     : Bool := false
  retrain   : Bool := false
  retry     : Bool := false
  ce        : Bool := false
  holdUntil : Option Nat := none
  /-- The counts of the latest hour, newest bin first. -/
  marks     : List WatchMark := []
  deriving DecidableEq, Repr

/-- WCH_SUB (R373): the LMID held, the state of the substitution, staged images by LMID, and whether one is under way on another
module of this module's jobs. `t` holds the Cue counts of the steps passed (R371). -/
structure Sub where
  lmid    : Nat := 0xFFF
  state   : Nat := 0
  staged  : Map CastImage := []
  subDone : Bool := false
  away    : Bool := false
  waits   : List Nat := []
  t       : List Nat := []
  /-- Learner troupes that were not filled: they post no contribution until a restore (R372). -/
  unfilled : List Nat := []
  deriving DecidableEq, Repr

/-- Jobs by local number, the error watch and the understudy. -/
structure Ckpt where
  jobs  : Map Job := []
  watch : Watch := {}
  sub   : Sub := {}
  deriving DecidableEq, Repr

end Sys2Proof.Machine
end

