-- ==== Sys2Proof/Machine/StateCtx.lean ====
section
/-! DEFINITION. Context images (R339, R340) and the switches and teardowns that are under way (R335, R342). -/

namespace Sys2Proof.Machine

/-- Section 0x03 of a context image (R339): the request queue and the slots, the version slots, TRP_VCTRL and TRP_FLY_EVT, with
the block tables and frames that the slots hold. -/
structure GenCtx where
  queue    : List QReq
  slots    : Map GSlot
  vs       : Map VSlot
  live     : Nat
  vr       : VRegs
  used     : List Nat
  rowsP    : Map (List Nat)
  rowsD    : Map (List Nat)
  resvs    : Map Resv
  nextResv : Nat
  deriving DecidableEq, Repr

/-- Section 0x04 (R339): TRP_LRN_STEP, TRP_VERDICT_STEP, TRP_VERDICT, TRP_FLY_SRC, held OPT_GSET changes and group states. -/
structure LrnCtx where
  step      : Nat
  vStep     : Nat
  vCount    : Nat
  vReasons  : Nat
  vReason   : Nat
  vValid    : Bool
  vSkip     : Bool
  nextEpoch : Nat
  stallCnt  : Nat
  busy      : Bool
  stall     : Bool
  gsets     : List HeldGset
  gstates   : Map GroupState
  deriving DecidableEq, Repr

/-- A context image (R339, R340) by its header fields and sections; `extra` are sections of a KIND that the table does not name. Cores are by
logical number; `queues` holds head, entries, ring address and length; suspended descriptors
are logical core number and 64 bytes; the scorer's section holds its hand and seal counts. -/
structure CtxImage where
  magic    : Nat := 0x5854434B
  version  : Nat := 1
  digest   : Nat := 0
  cl       : Nat := 1
  role     : Nat := 0
  tenant   : Nat := 0
  troupe   : Nat := 0
  tSave    : Nat := 0
  dclass   : Nat := 0
  sems     : List Nat := []
  queues   : List (Nat × Nat × Nat × Nat) := []
  seed     : Nat := 0
  descs    : List (Nat × List Byte) := []
  gen      : Option GenCtx := none
  lrn      : Option LrnCtx := none
  scorer   : Option (Nat × Nat) := none
  cores    : Map Core := []
  extra    : List (Nat × List Byte) := []
  deriving DecidableEq, Repr

/-- A switch of cores (R335, R336): its command, OUT and IN, the Cue count of its registration, and whether OUT has drained. -/
structure Switch where
  hdr     : CmdHdr
  out     : Option Nat
  inn     : Option Nat
  t0      : Nat
  drained : Bool := false
  deriving DecidableEq, Repr

end Sys2Proof.Machine
end

