-- ==== Sys2Proof/Machine/StateFab.lean ====
section
/-! DEFINITION. The state of the fabric: ports (R269 to R301), routes and peers (R279, R285), packets under way, and the nodes of
collectives (R296 to R300). -/

namespace Sys2Proof.Machine

/-- Port states (R272). -/
inductive PortSt where
  | off | detect | equalize | map | ident | up | held | refused
  deriving DecidableEq, Repr

/-- The code of a port state. -/
def PortSt.code : PortSt → Nat
  | .off => 0 | .detect => 1 | .equalize => 2 | .map => 3 | .ident => 4 | .up => 5 | .held => 6 | .refused => 7

/-- The part of a packet that waits to be sent: `len` bytes from byte `off` of its header and data, the port it has been given to
(R279), the Cue count since which its destination has had no usable port (R280), and, of the last part of a flit in transit, the port
whose landing slot that flit still holds (R283). -/
structure TxFlit where
  dest   : Nat
  ltag   : Nat
  troupe : Nat
  pkt    : Packet
  off    : Nat := 0
  len    : Nat := 32
  port   : Option Nat := none
  since  : Option Nat := none
  owed   : Option Nat := none
  deriving DecidableEq, Repr

/-- A flit that a port has sent and that has not been acknowledged (R277, R287): what its header says, the parts of packets it carries,
and its payload as it was first sent (R291). -/
structure SentFlit where
  seqNo   : Nat
  last    : Bool
  keysel  : Nat
  ltag    : Nat
  dest    : Nat
  troupe  : Nat
  segs    : List Seg
  payload : List Byte
  deriving DecidableEq, Repr

/-- One port. Keys are keyed by 2 tag + slot (R292), credits by tag. -/
structure Port where
  cfg        : PortCfg := {}
  st         : PortSt := .off
  width      : Nat := 0
  quarters   : Nat := 0
  polarity   : Nat := 0
  dirswap    : Bool := false
  reversed   : Bool := false
  peerLmid   : Nat := 0
  peerPort   : Nat := 0
  peerSerial : Nat := 0
  retrainCnt : Nat := 0
  tagCnt     : Nat := 0
  authCnt    : Nat := 0
  rangeShift : Bool := false
  lrWindow   : Bool := false
  lrAuth     : Bool := false
  tag        : Bool := false
  miswire    : Bool := false
  belowMin   : Bool := false
  down       : Bool := false
  up         : Bool := false
  replayFlits : Nat := 0
  fecCorr    : Nat := 0
  rate       : Nat := 0
  rttNs      : Nat := 0
  delayPs    : Nat := 0
  lenMm      : Nat := 0
  rangeS     : Nat := 1
  refMm      : Nat := 0
  gidx       : Nat := 0x3FBBEDFA
  extPs      : Nat := 0
  /-- The reference was set since the casting, and RANGE_SHIFT was raised for it (R295). -/
  refSet     : Bool := false
  shifted    : Bool := false
  /-- The latest 4,096 one-way delays in ps, newest first, and the Cue count of the latest result (R294). -/
  delays     : List Int := []
  resultAt   : Nat := 0
  txSeq      : Nat := 0
  rxSeq      : Nat := 0
  credits    : Map Nat := []
  sent       : List SentFlit := []
  landing    : List RxFlit := []
  keys       : Map Nat := []
  active     : Map Nat := []
  /-- Frames sent and received, by tag: the counters in the IV of each direction (R291). -/
  frames     : Map Nat := []
  rxFrames   : Map Nat := []
  /-- Bytes given to the port since a port last changed state, by which a route's shares are kept (R279). -/
  load       : Nat := 0
  /-- Cue counts of the flits replayed within the last millisecond (R277). -/
  replays    : List Nat := []
  /-- Failures of the oldest frame of a tag, and tags that are not accepted any more (R293). -/
  authFails  : Map Nat := []
  barred     : List Nat := []
  /-- Cue count of the end of the last attempt, and since when the port is out of UP. -/
  tryAt      : Nat := 0
  downAt     : Nat := 0
  /-- Acknowledgements are sent up to this SEQ (R289). -/
  acked      : Nat := 0
  /-- In-order flits of a long-reach port that wait for their frame to authenticate (R291). -/
  inord      : List RxFlit := []
  /-- Flits of collectives that wait for the core stores of a troupe that is away, with their credits (R336). -/
  waiting    : List RxFlit := []
  /-- The LMID that the understudy of this UNDERSTUDY link has taken over (R274). -/
  subLmid    : Option Nat := none
  /-- Fenced off by a substitution: HELD, without retries, until a casting changes its role or peer (R371). -/
  fenced     : Bool := false
  deriving DecidableEq, Repr

/-- The end-to-end identity of a packet (R278): its source module, core, descriptor, kind, address and offset. -/
abbrev PktIdent := Nat × Nat × Nat × Nat × Nat × Nat

/-- A packet that has arrived in part: its end-to-end identity, and the spans of its header and data that have arrived. -/
structure PktPart where
  ident : PktIdent
  spans : List (Nat × Nat)
  deriving DecidableEq, Repr

/-- A credit to be returned once the writes of its flit are done and the collectives of its flit are posted (R283, R290, R296): writes by
source LMID, core and descriptor, collectives by troupe, tree and instance. -/
structure Owed where
  port   : Nat
  ltag   : Nat
  writes : List (Nat × Nat × Nat) := []
  nodes  : List (Nat × Nat × Nat) := []
  deriving DecidableEq, Repr

/-- Bytes gathered for a packet stream: source, core, descriptor, kind and address, the parts by offset, and the target. -/
structure Gather where
  key    : Nat × Nat × Nat × Nat × Nat
  parts  : Map (List Byte × List Bool) := []
  got    : Nat := 0
  status : Nat := 0
  deriving DecidableEq, Repr

/-- An acknowledgement that waits until its writes are readable (R286, R357). -/
structure AckDue where
  dest   : Nat
  ltag   : Nat
  core   : Nat
  desc   : Nat
  status : Nat
  troupe : Nat
  nsem   : Option Nat
  deriving DecidableEq, Repr

/-- One rank's contribution to a reduction: its count, the bytes of its data and their poison flags (none: no byte is poisoned). -/
structure RedIn where
  count : Nat
  data  : List Byte
  bad   : List Bool := []
  deriving DecidableEq, Repr

/-- A node of one tree for one instance (R298, R300). `own` is the node's own input once its troupe has posted: present or not;
`kids` holds the children that have arrived (present or not), `late` those of them that came after the node's time was over or their
module was marked failed, which ABSENT_OK discards. -/
structure CollNode where
  core     : Nat := 0
  desc     : Nat := 0
  posted   : Bool := false
  red      : Nat := 0
  coll     : Nat := 0
  elems    : Nat := 0
  flags    : Nat := 0
  stag     : Word := 0
  dtag     : Word := 0
  own      : Option RedIn := none
  kids     : Map (Option RedIn) := []
  late     : List Nat := []
  tFirst   : Option Nat := none
  /-- Bytes that came down the tree before the descriptor was posted, with their flags, the rank they came from and their count. -/
  down     : Option (List Byte × List Bool) := none
  downFrom : Nat := 0
  downCnt  : Nat := 0
  done     : Bool := false
  mismatch : Bool := false
  deriving DecidableEq, Repr

/-- A collective descriptor that is being carried out: what is still missing before it completes. -/
structure CollRun where
  core   : Nat
  desc   : Nat
  troupe : Nat
  coll   : Nat
  tree   : Nat
  inst   : Nat
  n      : Nat
  rank   : Nat
  /-- Blocks still to come (ranks or trees), and flooded or reduced parts still to be sent. -/
  waits  : List Nat
  status : Nat := 0
  deriving DecidableEq, Repr

end Sys2Proof.Machine
end

