-- ==== Sys2Proof/Machine/StateTab.lean ====
section
/-! DEFINITION. The state of the Tableau (R451 to R459). -/

namespace Sys2Proof.Machine

/-- THL_TAB_STATUS.STATE (R459). -/
inductive TabState where
  | running | freezing | frozen | resuming
  deriving DecidableEq, Repr

/-- The code of a Tableau state (R459). -/
def TabState.code : TabState → Nat
  | .running => 0 | .freezing => 1 | .frozen => 2 | .resuming => 3

/-- What is being read out: nothing, the scan image to the host or by IEEE 1149.1, or stack pages (R455, R456). -/
inductive ReadOut where
  | none | scan | jtag | pages
  deriving DecidableEq, Repr

/-- A scan image (R455): the host address, or `none` for IEEE 1149.1, the fields of its header, and its units by what the model holds of
them (assumption 20: the spec gives no bit layout of a unit). -/
structure ScanImage where
  addr   : Option Nat
  serial : Nat
  tF     : Nat
  src    : Nat
  dclass : Nat
  cores  : Map Core
  tbuf   : Memory
  ports  : Map Port
  deriving DecidableEq, Repr

/-- HUB_TAB_TRIG, HUB_TAB_CUE and the THL Tableau registers. -/
structure Tab where
  evCode  : Nat := 0
  ignCnt  : Nat := 0
  arm     : Bool := false
  enFault : Bool := false
  enCue   : Bool := false
  enEvent : Bool := false
  cueAt   : Nat := 0
  state   : TabState := .running
  src     : Nat := 0
  /-- The read-out in progress (BUSY), and a wake signal that waits for its end. -/
  job     : ReadOut := .none
  wake    : Bool := false
  bad     : Bool := false
  done    : Bool := false
  tF      : Nat := 0
  dma     : Nat := 0
  memStack : Nat := 0
  memPages : Nat := 0
  memPage  : Nat := 0
  /-- Ports that were in UP at the freeze, which get the wake signal (R458). -/
  upPorts : List Nat := []
  /-- Cue count until which no slot is marked FAILED after a resume (R458). -/
  graceTo : Nat := 0
  deriving DecidableEq, Repr

end Sys2Proof.Machine
end

