-- ==== Sys2Proof/Machine/StateThl.lean ====
section
/-! DEFINITION. The state of the host link, its queues, the event table, notices and the ensemble table (R374 to R400). -/

namespace Sys2Proof.Machine

/-- A command queue (R377, R378): ring, weight, bound completion queue, the host's tail and the fetch position. -/
structure CmdQueue where
  tenant : Nat := 255
  log2n  : Nat := 4
  weight : Nat := 1
  cqid   : Nat := 0
  base   : Nat := 0
  tail   : Nat := 0
  fetch  : Nat := 0
  deriving DecidableEq, Repr

/-- A completion queue (R377, R385, R389): `unread` entries are written and not passed by the head, `reserved` are promised. -/
structure CplQueue where
  tenant   : Nat := 255
  log2n    : Nat := 4
  base     : Nat := 0
  vector   : Nat := 0
  head     : Nat := 0
  tail     : Nat := 0
  unread   : Nat := 0
  reserved : Nat := 0
  phase    : Bool := true
  armed    : Bool := false
  deriving DecidableEq, Repr

/-- An event queue (R377, R387, R389). -/
structure EvtQueue where
  tenant : Nat := 255
  log2n  : Nat := 4
  base   : Nat := 0
  vector : Nat := 0
  head   : Nat := 0
  tail   : Nat := 0
  unread : Nat := 0
  phase  : Bool := true
  lost   : Bool := false
  armed  : Bool := false
  deriving DecidableEq, Repr

/-- A completion on its way to its ring (R384): header, opcode, status, RECORD flag, body bytes and T_DONE. -/
structure Cpl where
  hdr    : CmdHdr
  opcode : Nat
  status : Nat
  isRec  : Bool := false
  body   : List Byte := []
  tDone  : Nat
  deriving DecidableEq, Repr

/-- A completion entry as written into its ring (R384). -/
structure CplEntry where
  cq     : Nat
  addr   : Nat
  phase  : Bool
  sqHead : Nat
  cpl    : Cpl
  deriving DecidableEq, Repr

/-- The 128 bytes of a completion entry (R384). -/
def CplEntry.bytes (e : CplEntry) : List Byte :=
  let c := e.cpl
  leBytes 8 c.hdr.cmdId ++ leBytes 2 c.opcode ++ leBytes 2 c.status ++ leBytes 1 c.hdr.slot ++ leBytes 1 c.hdr.troupe ++
    leBytes 1 c.hdr.sq ++ leBytes 1 (b2n e.phase + 2 * b2n c.isRec) ++ leBytes 4 e.sqHead ++ leBytes 4 0 ++ leBytes 8 c.tDone ++
    leBytes 32 0 ++ c.body.take 64 ++ List.replicate (64 - c.body.length) 0

/-- An event message or notice (R387, R388). -/
structure EvMsg where
  code   : Nat
  slot   : Nat
  troupe : Nat
  lost   : Bool := false
  notice : Bool := false
  t      : Nat
  count  : Nat
  data   : List Byte
  deriving DecidableEq, Repr

/-- An event message as written into its ring. -/
structure EvEntry where
  eq    : Nat
  addr  : Nat
  phase : Bool
  msg   : EvMsg
  deriving DecidableEq, Repr

/-- The 64 bytes of an event message (R387). -/
def EvEntry.bytes (e : EvEntry) : List Byte :=
  let m := e.msg
  leBytes 2 m.code ++ leBytes 1 m.slot ++ leBytes 1 m.troupe ++ leBytes 1 (b2n e.phase + 2 * b2n m.lost + 4 * b2n m.notice) ++
    leBytes 3 0 ++ leBytes 8 m.t ++ leBytes 2 m.count ++ leBytes 6 0 ++ m.data.take 40 ++ List.replicate (40 - m.data.length) 0

/-- What a module's event interface takes: an occurrence of its own, or a message or notice of a follower (R387, R395). -/
inductive EventIn where
  | raised (code troupe : Nat) (data : List Byte)
  | relayed (m : EvMsg) (key : Option Nat)
  deriving DecidableEq, Repr

/-- A waiting notice: its event queue, its message and, for GEN_PROGRESS, its REQ_ID (R388). -/
structure Notice where
  eq  : Nat
  key : Option Nat
  msg : EvMsg
  deriving DecidableEq, Repr

/-- A fetched command that has not completed (R382, R383): its place in its queue's order is its place in the list. -/
structure Fetched where
  hdr      : CmdHdr
  opcode   : Nat
  fence    : Bool := false
  deriving DecidableEq, Repr

/-- An entry of the event table (R400). -/
structure EvOcc where
  count : Nat := 0
  mask  : Bool := false
  pend  : Bool := false
  deriving DecidableEq, Repr

/-- A slot of the ensemble (THL_SLOT, R399), with its role and understudy group (R390), the membership version of its LMID and the
Cue count of its latest heartbeat (R393). -/
structure EnsSlot where
  lmid    : Nat := 0xFFF
  state   : Nat := 0
  bulk    : Bool := false
  serial  : Nat := 0
  role    : Nat := 0
  group   : Nat := 0
  version : Nat := 0
  beatAt  : Nat := 0
  deriving DecidableEq, Repr

/-- The THL registers and link (R374, R399). -/
structure ThlRegs where
  prsnt   : Bool := false
  link    : Nat := 0
  width   : Nat := 0
  enable  : Bool := false
  eq0Vec  : Nat := 0
  cq0Vec  : Nat := 0
  aqCmd   : Word := 0
  aqCpl   : Word := 0
  aqEvq   : Word := 0
  evqDropCnt : Nat := 0
  dbBadCnt   : Nat := 0
  regFailCnt : Nat := 0
  hostFault  : Bool := false
  regFail    : Bool := false
  dbBad      : Bool := false
  evqDrop    : Bool := false
  narrow     : Bool := false
  deriving DecidableEq, Repr

/-- The ensemble as this module holds it (R390, R391): its own slot, the table, and the standing of the lead. -/
structure Ens where
  standalone : Bool := true
  mySlot     : Nat := 0
  slots      : Nat := 1
  hbTimeout  : Nat := 0
  table      : Map EnsSlot := []
  peerLeads  : List Nat := []
  /-- LMIDs of other ensembles: state and version of their membership (R393). -/
  others     : Map (Nat × Nat) := []
  /-- Cue count of the lead's casting (R392). -/
  castAt     : Nat := 0
  deriving DecidableEq, Repr

/-- Host link, queues and events. -/
structure Thl where
  regs     : ThlRegs := {}
  ens      : Ens := {}
  cmdQs    : Map CmdQueue := []
  cplQs    : Map CplQueue := []
  evtQs    : Map EvtQueue := []
  /-- The command queue the round robin serves next (R379). -/
  wrrNext  : Nat := 0
  fetched  : List Fetched := []
  /-- Completions that are not yet written, oldest first (R385). -/
  cplWait  : List Cpl := []
  /-- Bindings: key 256 slot + troupe (255 for module-wide), value the event queue (R387). -/
  bindings : Map Nat := []
  events   : Map EvOcc := []
  /-- Event messages that wait for the link, oldest first (R374, R387). -/
  msgWait  : List EvMsg := []
  /-- Notices in the buffers of their event queues, oldest first (R388). -/
  buffers  : List Notice := []
  /-- Notices that wait at this module for a full buffer, oldest first (R388). -/
  atModule : List Notice := []
  deriving DecidableEq, Repr

/-- An interrupt message (R389). -/
structure Irq where
  isEvq  : Bool
  q      : Nat
  vector : Nat
  deriving DecidableEq, Repr

/-- A message to another module over the fabric: destination LMID or port, kind and words (R279, R316, R393, R395). -/
structure FabMsg where
  kind : String
  dest : Nat
  vals : List Nat := []
  data : List Byte := []
  deriving DecidableEq, Repr

/-- What the module has sent to the outside, newest first. -/
structure Outbox where
  completions : List CplEntry := []
  events      : List EvEntry := []
  irqs        : List Irq := []
  /-- Bytes written to host memory: address and bytes (R375). -/
  hostWrites  : List (Nat × List Byte) := []
  /-- Context images written to host memory, by host address (R341). -/
  images      : List (Nat × CtxImage) := []
  /-- Scan images read out (R455). -/
  scans       : List ScanImage := []
  /-- Records in force written to host memory by REC_GET, by host address (R433). -/
  records     : List (Nat × Option ModuleRec × Option OwnerRec × Option BundleRec) := []
  /-- Messages, flits and markers sent to other modules. -/
  fabric      : List FabMsg := []
  /-- Completed descriptors: core, number and status (R76, R77). -/
  descs       : List (Nat × Nat × Nat) := []
  /-- Values answered to register reads and SMBus reads. -/
  reads       : List Nat := []
  deriving DecidableEq, Repr

end Sys2Proof.Machine
end

