-- ==== Sys2Proof/Syntax.lean ====
section
/-! DEFINITION. The commands of the module: one constructor of Instr per row of the operation and event table, with the
operands the row's rule gives it. -/

namespace Sys2Proof

open Sys2Proof.Machine

/-- The commands of the module (R5; the operation and event table). -/
inductive Instr where
  /-- NOP (R52). -/
  | nop (c : Nat) (nd : Bool)
  /-- HALT (R81). -/
  | halt (c : Nat) (nd : Bool)
  /-- BRANCH (R52). -/
  | branch (c : Nat) (nd : Bool) (target : Nat)
  /-- LOOP (R52). -/
  | loop (c : Nat) (nd : Bool) (r : Nat) (target : Nat)
  /-- SCALAR_ARITH (R52). -/
  | scalarArith (c : Nat) (nd : Bool) (op : ScalarOp) (rd ra rb : Nat)
  /-- TAG_LOAD (R52). -/
  | tagLoad (c : Nat) (nd : Bool) (tag addr : Nat)
  /-- TAG_STORE (R52). -/
  | tagStore (c : Nat) (nd : Bool) (tag addr : Nat)
  /-- MFILL (R61). -/
  | mfill (c : Nat) (w : MatWord)
  /-- MMUL (R61). -/
  | mmul (c : Nat) (w : MatWord)
  /-- MMULX (R61). -/
  | mmulx (c : Nat) (w : MatWord)
  /-- MZERO (R61). -/
  | mzero (c : Nat) (w : MatWord)
  /-- ADD (R69). -/
  | vadd (c : Nat) (w : VecWord)
  /-- SUB (R69). -/
  | vsub (c : Nat) (w : VecWord)
  /-- MUL (R69). -/
  | vmul (c : Nat) (w : VecWord)
  /-- FMA (R46). -/
  | vfma (c : Nat) (w : VecWord)
  /-- MIN (R70). -/
  | vmin (c : Nat) (w : VecWord)
  /-- MAX (R70). -/
  | vmax (c : Nat) (w : VecWord)
  /-- ABS (R69). -/
  | vabs (c : Nat) (w : VecWord)
  /-- NEG (R69). -/
  | vneg (c : Nat) (w : VecWord)
  /-- INT_ADD (R71). -/
  | vintAdd (c : Nat) (w : VecWord)
  /-- INT_SHIFT (R71). -/
  | vintShift (c : Nat) (w : VecWord)
  /-- DIV (R69). -/
  | vdiv (c : Nat) (w : VecWord)
  /-- SQRT (R69). -/
  | vsqrt (c : Nat) (w : VecWord)
  /-- RSQRT (R70). -/
  | vrsqrt (c : Nat) (w : VecWord)
  /-- EQ (R71). -/
  | veq (c : Nat) (w : VecWord)
  /-- LT (R71). -/
  | vlt (c : Nat) (w : VecWord)
  /-- LE (R71). -/
  | vle (c : Nat) (w : VecWord)
  /-- ISNAN (R71). -/
  | visNan (c : Nat) (w : VecWord)
  /-- ISINF (R71). -/
  | visInf (c : Nat) (w : VecWord)
  /-- RSUM (R70). -/
  | rsum (c : Nat) (w : VecWord)
  /-- RMAX (R70). -/
  | rmax (c : Nat) (w : VecWord)
  /-- RMIN (R70). -/
  | rmin (c : Nat) (w : VecWord)
  /-- RAMAX (R70). -/
  | ramax (c : Nat) (w : VecWord)
  /-- GATHER (R71). -/
  | gather (c : Nat) (w : VecWord)
  /-- SCATTER (R71). -/
  | scatter (c : Nat) (w : VecWord)
  /-- SCATADD_O (R71). -/
  | scataddO (c : Nat) (w : VecWord)
  /-- SCATADD_U (R53). -/
  | scataddU (c : Nat) (w : VecWord)
  /-- VMEM_LOAD (R71). -/
  | vmemLoad (c : Nat) (w : VecWord)
  /-- VMEM_STORE (R71). -/
  | vmemStore (c : Nat) (w : VecWord)
  /-- FUNC (R73). -/
  | func (c : Nat) (w : VecWord) (fs : Nat)
  /-- FUNCD (R74). -/
  | funcd (c : Nat) (w : VecWord) (fs : Nat)
  /-- FLOAD (R75). -/
  | fload (c : Nat) (nd : Bool) (fs addr : Nat)
  /-- XPOSE (R68). -/
  | xpose (c : Nat) (w : XposeWord)
  /-- MOVE (R76). -/
  | move (c : Nat) (nd : Bool) (addr : Nat)
  /-- FENCE_L (R78). -/
  | fenceL (c : Nat) (nd : Bool)
  /-- FENCE_M (R78). -/
  | fenceM (c : Nat) (nd : Bool)
  /-- SEM_SIG (R78). -/
  | semSig (c : Nat) (nd : Bool) (sem count : Nat)
  /-- SEM_WAIT (R78). -/
  | semWait (c : Nat) (nd : Bool) (sem count : Nat)
  /-- SEM_TAKE (R78). -/
  | semTake (c : Nat) (nd : Bool) (sem count : Nat)
  /-- QPOP (R328). -/
  | qpop (c : Nat) (nd : Bool) (q rd : Nat)
  /-- CUE_WAIT (R315). -/
  | cueWait (c : Nat) (w : CueWord)
  /-- SEM_WAIT_SATISFIED (R78). -/
  | semWaitSatisfied (c : Nat)
  /-- QUEUE_ENTRY_AVAILABLE (R328). -/
  | queueEntryAvailable (c : Nat)
  /-- CUE_WAIT_RELEASE (R315). -/
  | cueWaitRelease (c : Nat)
  /-- FSTR (R152). -/
  | fstr (c : Nat) (w : VecWord)
  /-- FRAW (R153). -/
  | fraw (c : Nat) (w : VecWord)
  /-- FUNI (R154). -/
  | funi (c : Nat) (w : VecWord)
  /-- FBER (R158). -/
  | fber (c : Nat) (w : VecWord)
  /-- FGUM (R156). -/
  | fgum (c : Nat) (w : VecWord)
  /-- FNRM (R157). -/
  | fnrm (c : Nat) (w : VecWord)
  /-- FDISC (R159). -/
  | fdisc (c : Nat) (w : VecWord)
  /-- ASTEP (R126). -/
  | astep (c : Nat) (w : AttnWord)
  /-- AMERGE (R127). -/
  | amerge (c : Nat) (w : AttnWord)
  /-- KVPUT (R127). -/
  | kvput (c : Nat) (w : AttnWord)
  /-- OSGDM (R193). -/
  | osgdm (c : Nat) (w : VecWord)
  /-- OADAM (R193). -/
  | oadam (c : Nat) (w : VecWord)
  /-- OLION (R193). -/
  | olion (c : Nat) (w : VecWord)
  /-- OMOM (R195). -/
  | omom (c : Nat) (w : VecWord)
  /-- OORTH (R195). -/
  | oorth (c : Nat) (w : VecWord)
  /-- SAMP_MASK (R103). -/
  | sampMask (c : Nat) (w : VecWord) (slot n src dst : Nat)
  /-- SAMP_DRAW (R103). -/
  | sampDraw (c : Nat) (w : VecWord) (slot n scores masked : Nat) (draft : Bool)
  /-- SAMP_ACCEPT (R109). -/
  | sampAccept (c : Nat) (w : VecWord) (slot n drafts policies : Nat)
  /-- CORE_START (R82). -/
  | coreStart (c : Nat)
  /-- CORE_STOP (R82). -/
  | coreStop (c : Nat)
  /-- ND_CLR (R82). -/
  | ndClr (c : Nat)
  /-- CORE_PC_WRITE (R83). -/
  | corePcWrite (c : Nat) (value : Word)
  /-- FAULT_CLEAR (R84). -/
  | faultClear (c : Nat)
  /-- ARITH_CNT_CLR (R48). -/
  | arithCntClr (c : Nat)
  /-- CLUSTER_START (R80). -/
  | clusterStart (tile cluster mask : Nat)
  /-- MOVE_COPY (R76). -/
  | moveCopy (c id : Nat)
  /-- MOVE_COPY_TAG (R76). -/
  | moveCopyTag (c id : Nat)
  /-- MOVE_CONVERT (R76). -/
  | moveConvert (c id : Nat)
  /-- REMOTE_WRITE (R285). -/
  | remoteWrite (c id : Nat)
  /-- REMOTE_READ (R285). -/
  | remoteRead (c id : Nat)
  /-- COLLECTIVE (R296). -/
  | collective (c id : Nat)
  /-- DESCRIPTOR_COMPLETE (R77). -/
  | descriptorComplete (c id : Nat)
  /-- NO_ROUTE (R280). -/
  | noRoute (c id : Nat)
  /-- GEN_SUBMIT (R90). -/
  | genSubmit (h : CmdHdr) (body : List Byte)
  /-- GEN_CANCEL (R99). -/
  | genCancel (h : CmdHdr) (reqId : Nat)
  /-- GEN_CURTAIN (R237). -/
  | genCurtain (h : CmdHdr) (epoch : Nat)
  /-- STEP_BOUNDARY (R141). -/
  | stepBoundary (t : Nat) (m : PassIn)
  /-- ADMISSION_PASS_IDLE (R91). -/
  | admissionPassIdle (t : Nat) (m : PassIn)
  /-- COMMIT (R95). -/
  | commit (t : Nat)
  /-- SHIP_ARRIVAL (R112). -/
  | shipArrival (t slot : Nat) (d : ShipData)
  /-- KV_EVT_CLR (R146). -/
  | kvEvtClr (t : Nat)
  /-- FLINT_LOAD (R160). -/
  | flintLoad (t : Nat)
  /-- FLINT_CNT_CLR (R160). -/
  | flintCntClr (t : Nat)
  /-- LRN_BIND (R167). -/
  | lrnBind (h : CmdHdr) (r : BindRecord)
  /-- REDUCTION_CONTRIBUTION (R298). -/
  | reductionContribution (t : Nat) (m : UpMsg)
  /-- COLLECTIVE_TIMEOUT (R300). -/
  | collectiveTimeout (t tree inst : Nat)
  /-- VERDICT_CONTRIBUTION (R177). -/
  | verdictContribution (t : Nat) (sumsq : Nat)
  /-- ROOT_DECISION (R179). -/
  | rootDecision (t : Nat)
  /-- VERDICT_APPLY (R181). -/
  | verdictApply (t : Nat) (v : VerdictRec)
  /-- VERDICT_LATE (R183). -/
  | verdictLate (t : Nat)
  /-- LRN_SKIP (R180). -/
  | lrnSkip (h : CmdHdr) (job n : Nat)
  /-- LRN_EVT_CLR (R186). -/
  | lrnEvtClr (t : Nat)
  /-- OPT_GSET (R189). -/
  | optGset (h : CmdHdr) (g n : Nat) (r : GroupParam)
  /-- WHETSTONE_COMPLETE (R210). -/
  | whetstoneComplete (t j : Nat)
  /-- OPT_EVT_CLR (R217). -/
  | optEvtClr (t : Nat)
  /-- WHET_STATUS_CLR (R218). -/
  | whetStatusClr (n : Nat)
  /-- FLY_NOW (R233). -/
  | flyNow (h : CmdHdr)
  /-- FLY_IN_START (R233). -/
  | flyInStart (t : Nat)
  /-- FLY_SOURCE_READ_DONE (R234). -/
  | flySourceReadDone (t away : Nat)
  /-- FLY_PIECE_ARRIVAL (R236). -/
  | flyPieceArrival (t epoch : Nat) (away : Option (Nat × Bool × List (Nat × Nat × Nat)))
  /-- FLY_RESUME (R236). -/
  | flyResume (t : Nat)
  /-- ROLE_SWITCH (R240). -/
  | roleSwitch (h : CmdHdr)
  /-- FLY_EVT_CLR (R241). -/
  | flyEvtClr (t : Nat)
  /-- EXP_EVT_CLR (R241). -/
  | expEvtClr (t : Nat)
  /-- RING_RECORD_WRITE (R223). -/
  | ringRecordWrite (t : Nat)
  /-- SCORER_HAND (R225). -/
  | scorerHand (t : Nat)
  /-- EXP_SEAL (R226). -/
  | expSeal (h : CmdHdr) (seqNo reward reward2 : Nat) (drop : Bool)
  /-- RING_POLL (R226). -/
  | ringPoll (t : Nat)
  /-- CONSUMER_HAND (R227). -/
  | consumerHand (t : Nat)
  /-- MEMORY_ZEROING (R248). -/
  | memoryZeroing
  /-- PATROL_SCRUB (R251). -/
  | patrolScrub (a found : Nat) (passEnd : Bool)
  /-- STK_ECC_CLR (R249). -/
  | stkEccClr (n : Nat)
  /-- WT_LOAD (R255). -/
  | wtLoad (h : CmdHdr) (r : LoadRecord)
  /-- LOAD_TURN (R255). `scales`: bit SCALES of the header of a compressed source stream, which the module reads as the load runs
  (R259). -/
  | loadTurn (scales : Bool)
  /-- LOAD_END (R256). -/
  | loadEnd (src : List Byte)
  /-- WT_READY (R482). -/
  | wtReady (h : CmdHdr) (slot : Nat)
  /-- WT_RELEASE (R258). -/
  | wtRelease (h : CmdHdr) (shard : Bool) (n : Nat)
  /-- WT_TABLE (R264). -/
  | wtTable (h : CmdHdr) (addr : Nat)
  /-- DIGEST_SCRUB (R266). -/
  | digestScrub (rec : Nat) (passEnd : Bool)
  /-- SCRUB_EVT_CLR (R267). -/
  | scrubEvtClr
  /-- PORT_SIGNAL_DETECT (R272). -/
  | portSignalDetect (p : Nat)
  /-- PORT_EQUALIZE_DONE (R272). -/
  | portEqualizeDone (p quarters : Nat)
  /-- PORT_MAP (R273). -/
  | portMap (p : Nat) (reversed crossed : Bool) (polarity bad : Nat)
  /-- PORT_IDENT (R274). -/
  | portIdent (p lmid port serial rtt : Nat)
  /-- PORT_HELD_RETRY (R276). -/
  | portHeldRetry (p : Nat)
  /-- PORT_RETRAIN_TRIGGER (R277). -/
  | portRetrainTrigger (p : Nat)
  /-- PORT_SIGNAL_LOSS (R272). -/
  | portSignalLoss (p : Nat)
  /-- PORT_OUTAGE_TIMEOUT (R278). -/
  | portOutageTimeout (p : Nat)
  /-- RETRAIN (R277). -/
  | retrain (p : Nat)
  /-- RELEASE (R274). -/
  | release (p : Nat)
  /-- ACCEPT (R295). -/
  | accept (p : Nat)
  /-- PORT_CLR (R301). -/
  | portClr (p : Nat)
  /-- REF_MM_WRITE (R295). -/
  | refMmWrite (p v : Nat)
  /-- FLIT_RECEIVE (R284). -/
  | flitReceive (p : Nat) (f : RxFlit)
  /-- REPLAY_REQUEST (R289). -/
  | replayRequest (p seqNo : Nat)
  /-- CREDIT_RETURN (R283). -/
  | creditReturn (p : Nat) (ack : Option Nat) (ltag n : Nat)
  /-- LR_ACK_TIMER (R289). -/
  | lrAckTimer (p : Nat)
  /-- FRAME_AUTHENTICATE (R293). -/
  | frameAuthenticate (p ltag : Nat) (ok : Bool)
  /-- LR_KEY (R292). -/
  | lrKey (h : CmdHdr) (p ltag slot : Nat) (activate : Bool) (w : Wrapped)
  /-- RANGING_EXCHANGE (R294). -/
  | rangingExchange (p t1 t2 t3 t4 : Nat)
  /-- RANGING_RESULT (R294). -/
  | rangingResult (p : Nat)
  /-- CUE_EXCHANGE (R311). -/
  | cueExchange (t1 t2 t3 t4 : Nat)
  /-- CUE_EXCHANGE_TIMEOUT (R312). -/
  | cueExchangeTimeout
  /-- BARRIER_ARRIVAL (R316). -/
  | barrierArrival (t b child : Nat) (steps : Option (Nat × Nat))
  /-- BARRIER_T_REL_ARRIVAL (R317). -/
  | barrierTRelArrival (t b rel : Nat) (steps : Option (Nat × Nat))
  /-- BARRIER_RELEASE (R316). -/
  | barrierRelease (t b : Nat)
  /-- CUE_STALL (R318). -/
  | cueStall (t b : Nat)
  /-- CUE_EVT_CLR (R319). -/
  | cueEvtClr
  /-- TRP_MAP (R326). -/
  | trpMap (h : CmdHdr) (page entry : Nat)
  /-- TRP_QPUSH (R328). -/
  | trpQpush (h : CmdHdr) (q value : Nat)
  /-- TRP_SWITCH (R336). -/
  | trpSwitch (h : CmdHdr) (out inn : Option Nat)
  /-- SWITCH_DRAIN_DONE (R336). -/
  | switchDrainDone (t : Nat)
  /-- SWITCH_COMPLETE (R336). -/
  | switchComplete (t : Nat)
  /-- TRP_CTX_PUT (R341). -/
  | trpCtxPut (h : CmdHdr) (img : CtxImage)
  /-- TRP_CTX_GET (R341). -/
  | trpCtxGet (h : CmdHdr) (addr : Nat)
  /-- TRP_RESTORE (R341). -/
  | trpRestore (h : CmdHdr)
  /-- TRP_TEARDOWN (R342). -/
  | trpTeardown (h : CmdHdr)
  /-- TEARDOWN_DONE (R343). -/
  | teardownDone (t : Nat)
  /-- TRP_EVT_CLR (R344). -/
  | trpEvtClr (t : Nat)
  /-- CKPT_TAKE (R349). -/
  | ckptTake (h : CmdHdr) (job : Nat)
  /-- CKPT_REQUEST (R351). -/
  | ckptRequest (c : WatchCause)
  /-- HOLDOFF_EXPIRY (R351). -/
  | holdoffExpiry
  /-- CKPT_ARM (R352). -/
  | ckptArm (j : Nat) (m : JobMsg)
  /-- CKPT_CUT_POINT (R354). -/
  | ckptCutPoint (t : Nat)
  /-- CKPT_CUT (R355). -/
  | ckptCut (j : Nat)
  /-- CKPT_ABORT (R355). -/
  | ckptAbort (j : Nat) (ordered : Bool)
  /-- SNAPSHOT_PAGE_COPY (R356). -/
  | snapshotPageCopy (n : Nat)
  /-- STALLED_WRITE_PROCEED (R357). -/
  | stalledWriteProceed
  /-- CKPT_S0_DONE (R358). -/
  | ckptS0Done (j : Nat)
  /-- CKPT_BUF (R362). -/
  | ckptBuf (h : CmdHdr) (job no addr len : Nat)
  /-- CKPT_BUFFER_FILLED (R362). -/
  | ckptBufferFilled (j : Nat)
  /-- CKPT_STORED (R363). -/
  | ckptStored (h : CmdHdr) (job no : Nat)
  /-- CKPT_DISCARD (R363). -/
  | ckptDiscard (h : CmdHdr) (job no : Nat)
  /-- CKPT_CURSOR (R361). -/
  | ckptCursor (h : CmdHdr) (job : Nat) (bytes : List Byte)
  /-- CKPT_RESTORE (R365). -/
  | ckptRestore (h : CmdHdr) (job : Nat) (cat : List CatEntry) (busy : Bool)
  /-- RPL_COMPARE (R368). -/
  | rplCompare (h : CmdHdr) (job : Nat) (others : List ReplDigest) (pairs : List (Nat × Nat))
  /-- UND_STAGE (R369). -/
  | undStage (h : CmdHdr) (l len : Nat) (img : CastImage) (agree : Bool)
  /-- ENS_SUBSTITUTE (R370). -/
  | ensSubstitute (h : CmdHdr) (l : Nat) (image : Option (Nat × CastImage)) (agree : Bool)
  /-- AUTO_SUBSTITUTION (R370). -/
  | autoSubstitution (l : Nat)
  /-- SUBSTITUTION_FILL (R372). -/
  | substitutionFill (t : Nat) (pieces : List Machine.Piece) (bars : List (Nat × Nat))
  /-- WCH_EVT_CLR (R373). -/
  | wchEvtClr
  /-- WCH_CKPT_EVT_CLR (R373). -/
  | wchCkptEvtClr (j : Nat)
  /-- THL_TRAINING (R374). -/
  | thlTraining (lo hi : Bool)
  /-- THL_LOCK_LOSS (R374). -/
  | thlLockLoss (ms : Nat)
  /-- HOST_FAULT (R375). -/
  | hostFault (h : CmdHdr) (opcode : Nat)
  /-- ENABLE (R377). -/
  | enable (v : Nat)
  /-- ADMIN_QUEUE_WRITE (R377). -/
  | adminQueueWrite (which v : Nat)
  /-- QUEUE_CREATE (R378). -/
  | queueCreate (h : CmdHdr) (r : QueueRec)
  /-- QUEUE_DELETE (R378). -/
  | queueDelete (h : CmdHdr) (qid kind : Nat)
  /-- EVQ_BIND (R387). -/
  | evqBind (h : CmdHdr) (slot troupe eqid : Nat) (tenants : List (Nat × Nat))
  /-- DOORBELL (R379). -/
  | doorbell (kind q v : Nat)
  /-- COMMAND_FETCH (R382). -/
  | commandFetch (mem : List (Nat × List Byte)) (tenants : List (Nat × Nat))
  /-- COMMAND_RELAY (R395). -/
  | commandRelay (h : CmdHdr) (opcode : Nat) (fence : Bool)
  /-- COMPLETION_WRITE (R385). -/
  | completionWrite (c : Option Cpl)
  /-- EVENT_RAISE (R387). -/
  | eventRaise (e : EventIn)
  /-- NOTICE_BUFFER_DRAIN (R388). -/
  | noticeBufferDrain (q : Nat)
  /-- PEND_CLEAR (R386). -/
  | pendClear (code : Nat)
  /-- EVT_CNT_CLR (R386). -/
  | evtCntClr (code : Nat)
  /-- THL_EVT_CLR (R399). -/
  | thlEvtClr
  /-- MEMBER_JOINED (R392). -/
  | memberJoined (lmid serial : Nat)
  /-- JOIN_TIMEOUT (R392). -/
  | joinTimeout (slot : Nat)
  /-- HEARTBEAT_SEND (R393). -/
  | heartbeatSend
  /-- HEARTBEAT_RECEIVE (R393). -/
  | heartbeatReceive (slot : Nat) (stop : Bool)
  /-- MEMBER_FAILED (R393). -/
  | memberFailed (slot : Nat)
  /-- MEMBERSHIP_CHANGE (R393). -/
  | membershipChange (m : MemberMsg)
  /-- ENS_READMIT (R394). -/
  | ensReadmit (h : CmdHdr) (lmid : Nat)
  /-- REGISTER_ACCESS_RELAY (R398). -/
  | registerAccessRelay (n off : Nat) (wr answer : Option Nat)
  /-- REJECTED_ACCESS (R462). -/
  | rejectedAccess (off : Nat) (wr : Bool)
  /-- ACC_ERR_CLR (R462). -/
  | accErrClr
  /-- REGISTER_WRITE (R8). -/
  | registerWrite (off v : Nat)
  /-- HUB_RESET_RELEASE (R411). -/
  | hubResetRelease
  /-- HUB_FIRMWARE_START (R411). -/
  | hubFirmwareStart (rpfOk : Bool)
  /-- CORE_FW_BROADCAST_ROUND (R417). -/
  | coreFwBroadcastRound (missing silent badDigest : List Nat)
  /-- BOOT_CASTING_APPLY (R411). -/
  | bootCastingApply
  /-- HUB_WATCHDOG (R413). -/
  | hubWatchdog
  /-- HUB_ECC (R413). -/
  | hubEcc
  /-- CAST_APPLY (R425). -/
  | castApply (h : CmdHdr) (len : Nat) (img : CastImage) (agree : Bool)
  /-- CAST_STORE (R427). -/
  | castStore (h : CmdHdr) (len : Nat) (img : CastImage) (flashOk : Bool)
  /-- FW_STAGE (R433). -/
  | fwStage (h : CmdHdr) (type len : Nat) (x : FwObject) (flashOk : Bool)
  /-- FW_SELECT (R433). -/
  | fwSelect (h : CmdHdr) (hub core link bundle : Bool)
  /-- REC_GET (R433). -/
  | recGet (h : CmdHdr) (addr : Nat)
  /-- ATT_REPORT (R428). -/
  | attReport (h : CmdHdr) (nonce addr : Nat)
  /-- KEY_SESSION (R429). -/
  | keySession (h : CmdHdr) (n tenant shared : Nat)
  /-- OWN_INSTALL (R407). -/
  | ownInstall (h : CmdHdr) (len : Nat) (x : OwnerRec) (flashOk : Bool)
  /-- RESET (R431). -/
  | reset (h : CmdHdr) (level target : Nat) (keep : Bool)
  /-- CORE_RETIRE (R421). -/
  | coreRetire (h : CmdHdr) (l : Nat)
  /-- RPF_COMMIT (R408). -/
  | rpfCommit (h : CmdHdr) (ok : Bool)
  /-- RESET_PIN (R431). -/
  | resetPin
  /-- INPUT_QUALIFY (R436). -/
  | inputQualify
  /-- INPUT_UV (R436). -/
  | inputUv
  /-- INPUT_OV (R436). -/
  | inputOv
  /-- INPUT_OVERVOLTAGE_TRIP (R436). -/
  | inputOvervoltageTrip
  /-- INPUT_LOST (R437). -/
  | inputLost (removed : Bool)
  /-- INPUT_REVERSED (R436). -/
  | inputReversed
  /-- POWER_MEASURE (R438). -/
  | powerMeasure (vin iin pin : Nat)
  /-- RAIL_POWER_GOOD (R439). -/
  | railPowerGood (r : Nat)
  /-- RAIL_SHORT (R440). -/
  | railShort (r : Nat)
  /-- RAIL_RESTART_TIMER (R440). -/
  | railRestartTimer
  /-- SENSE_OPEN (R441). -/
  | senseOpen (r : Nat)
  /-- RAIL_OC_WARN (R442). -/
  | railOcWarn (r : Nat)
  /-- REG_HOT (R442). -/
  | regHot (r : Nat)
  /-- PWR_EVT_CLR (R459). -/
  | pwrEvtClr
  /-- CLK_REF_LOST (R444). -/
  | clkRefLost
  /-- REFERENCE_RETURN (R444). -/
  | referenceReturn
  /-- CLK_FAIL (R445). -/
  | clkFail
  /-- THERMAL_SAMPLE (R446). -/
  | thermalSample (sample : List (Nat × Int)) (inlet outlet : Nat)
  /-- THERM_TRIP (R448). -/
  | thermTrip (die : Nat)
  /-- COOLANT_HOT (R449). -/
  | coolantHot
  /-- COOLANT_FLOW (R449). -/
  | coolantFlow
  /-- THERM_CLR (R459). -/
  | thermClr
  /-- SMB_READ_STATUS (R450). -/
  | smbReadStatus
  /-- SMB_READ_LOG (R450). -/
  | smbReadLog
  /-- SMB_RESTART (R450). -/
  | smbRestart
  /-- FREEZE_PIN (R451). -/
  | freezePin
  /-- FREEZE (R451). -/
  | freeze
  /-- FREEZE_CUE_TRIGGER (R451). -/
  | freezeCueTrigger
  /-- FREEZE_MARKER_RECEIVE (R458). -/
  | freezeMarkerReceive (p : Nat)
  /-- FREEZE_STOP (R452). -/
  | freezeStop
  /-- TAB_IGN_CLR (R459). -/
  | tabIgnClr
  /-- READ (R455). -/
  | read
  /-- TAB_READ (R455). -/
  | tabRead
  /-- MEMREAD (R456). -/
  | memread
  /-- TAB_READOUT_DONE (R455). -/
  | tabReadoutDone
  /-- RESUME (R457). -/
  | resume
  /-- TAB_RESUME (R457). -/
  | tabResume
  /-- WAKE_SIGNAL_RECEIVE (R458). -/
  | wakeSignalReceive (p : Nat)
  /-- CABLE_DETECT (R472). -/
  | cableDetect (low : Bool)
  /-- REFCLK_QUALIFY (R473). -/
  | refclkQualify
  /-- THL_PRESENT (R474). -/
  | thlPresent (low : Bool)
  /-- PLUGIN_INSERT (R475). -/
  | pluginInsert (p watts : Nat)
  /-- CLK_FAIL_RESTART_TIMER (R445). -/
  | clkFailRestartTimer
  /-- DIVIDER_RESTART (R457). -/
  | dividerRestart
  /-- LEARNER_STEP_COMMAND (R177). -/
  | learnerStepCommand (t n : Nat)
  deriving DecidableEq, Repr

end Sys2Proof
end

