-- ==== Sys2Proof/Decode.lean ====
section
/-! DEFINITION. The reader of instruction words. No row of the operation and event table gives bits; the spec lays out the 128-bit words of the
classes MAT (R61), SYNC's CUE.WAIT (R315), FLINT (R71, R153), ATTN (R126, R127) and OPTM (R71, R199), and those are read here. -/

namespace Sys2Proof

open Sys2Proof.Machine

/-- Bits `hi` to `lo` of a word. -/
def field (w hi lo : Nat) : Nat := w / 2 ^ lo % 2 ^ (hi + 1 - lo)

/-- Bit `i` of a word. -/
def flag (w i : Nat) : Bool := field w i i == 1

/-- The class of an instruction word (R52). -/
def wordClass (w : Nat) : Nat := field w 126 123
/-- The operation of an instruction word within its class (R52). -/
def wordOp (w : Nat) : Nat := field w 122 116

/-- Is the operation of an instruction word undefined: a class of 0xC to 0xF, or an OP that is not in the table of a class whose table gives the
codes (R52, R61, R127, R153, R199)? The classes whose operation codes the spec does not list are not judged. -/
def undefinedWord (w : Nat) : Bool :=
  let c := wordClass w
  let op := wordOp w
  0xC ≤ c || (c == 0x1 && 0x03 < op) || (c == 0x8 && 0x06 < op) || (c == 0x9 && 0x02 < op) || (c == 0xA && 0x04 < op)

/-- The fields of a matrix word (R61). -/
def matWord (w : Nat) : MatWord :=
  { nd := flag w 127, pl := flag w 115, pre := flag w 114, ax := flag w 113, chord := flag w 112, tsc := flag w 111, rnd := field w 110 109
    inc := flag w 108, ofs := flag w 107, fch := field w 106 95, nch := field w 94 87, mrows := field w 86 79, abase := field w 78 65
    bbase := field w 64 51, dbase := field w 50 37, ibase := field w 36 23, ta := field w 22 17, tb := field w 16 11, td := field w 10 5
    sri := field w 4 1, lst := flag w 0 }

/-- The fields of a vector word (R71). -/
def vecWord (w : Nat) : VecWord :=
  { nd := flag w 127, vl := field w 115 107, vd := field w 106 102, va := field w 101 97, vb := field w 96 92, vc := field w 91 87
    pred := field w 86 84, pz := flag w 83, rnd := field w 82 81, sri := field w 80 77, six := field w 76 73, addr := field w 72 59
    tg := field w 58 53, rsv := field w 52 32, imm := field w 31 0 }

/-- The fields of an attention word (R126). -/
def attnWord (w : Nat) : AttnWord :=
  { nd := flag w 127, mode := field w 115 114, causal := flag w 113, ofs := flag w 112, split := field w 111 108, srb := field w 107 104
    fb := field w 103 88, nb := field w 87 72, mrows := field w 71 64, qbase := field w 63 50, obase := field w 49 36, sbase := field w 35 22
    tq := field w 21 16, td := field w 15 10, fin := flag w 9, rsv := field w 8 0 }

/-- The fields of a CUE.WAIT word (R315). -/
def cueWord (w : Nat) : CueWord :=
  { nd := flag w 127, mode := flag w 115, bar := field w 114 107, sx := field w 106 103, rsv := field w 102 0 }

/-- The MAT operation of a code (R61). -/
def matOp (c : Nat) (x : MatWord) (op : Nat) : Option Instr :=
  if op == 0 then some (.mfill c x) else if op == 1 then some (.mmul c x) else if op == 2 then some (.mmulx c x)
  else if op == 3 then some (.mzero c x) else none

/-- The FLINT operation of a code (R153). -/
def flintOp (c : Nat) (x : VecWord) (op : Nat) : Option Instr :=
  if op == 0 then some (.fstr c x) else if op == 1 then some (.fraw c x) else if op == 2 then some (.funi c x)
  else if op == 3 then some (.fber c x) else if op == 4 then some (.fgum c x) else if op == 5 then some (.fnrm c x)
  else if op == 6 then some (.fdisc c x) else none

/-- The ATTN operation of a code (R127). -/
def attnOp (c : Nat) (x : AttnWord) (op : Nat) : Option Instr :=
  if op == 0 then some (.astep c x) else if op == 1 then some (.amerge c x) else if op == 2 then some (.kvput c x) else none

/-- The OPTM operation of a code (R199). -/
def optOp (c : Nat) (x : VecWord) (op : Nat) : Option Instr :=
  if op == 0 then some (.osgdm c x) else if op == 1 then some (.oadam c x) else if op == 2 then some (.olion c x)
  else if op == 3 then some (.omom c x) else if op == 4 then some (.oorth c x) else none

/-- The instruction that a 128-bit word spells on core `c`, for the classes whose words the spec lays out; none for the other classes and for an
undefined operation. -/
def decodeCoreWord (c w : Nat) : Option Instr :=
  let op := wordOp w
  if wordClass w == 0x1 then matOp c (matWord w) op
  else if wordClass w == 0x7 && op == 0x06 then some (.cueWait c (cueWord w))
  else if wordClass w == 0x8 then flintOp c (vecWord w) op
  else if wordClass w == 0x9 then attnOp c (attnWord w) op
  else if wordClass w == 0xA then optOp c (vecWord w) op
  else none

/-- The command that a word of `nbits` bits spells: a 128-bit instruction word, read as core 0's (assumption 7); the rows of the table give no
other bits. -/
def decodeTableWord (nbits w : Nat) : Option Instr := if nbits == 128 then decodeCoreWord 0 w else none

end Sys2Proof
end

