-- ==== Sys2Proof/Machine/Formats.lean ====
section
/-! DEFINITION. The element formats, format tags, packing and the conversion step (R20 to R25, R38 to R45, R480). -/

namespace Sys2Proof.Machine

/-- The element formats of R20. -/
inductive Fmt where
  | fp32 | bf16 | fp16 | e4m3 | e5m2 | e3m2 | e2m3 | e2m1 | int8 | int4 | e8m0
  deriving DecidableEq, Repr

/-- The format of a code (R20). -/
def Fmt.ofCode (c : Nat) : Option Fmt :=
  if c == 0x00 then some .fp32 else if c == 0x01 then some .bf16 else if c == 0x02 then some .fp16
  else if c == 0x10 then some .e4m3 else if c == 0x11 then some .e5m2 else if c == 0x12 then some .e3m2
  else if c == 0x13 then some .e2m3 else if c == 0x14 then some .e2m1 else if c == 0x20 then some .int8
  else if c == 0x21 then some .int4 else if c == 0x30 then some .e8m0 else none

/-- Bits of one element. -/
def Fmt.bits : Fmt → Nat
  | .fp32 => 32 | .bf16 => 16 | .fp16 => 16 | .e4m3 => 8 | .e5m2 => 8 | .e3m2 => 6 | .e2m3 => 6 | .e2m1 => 4
  | .int8 => 8 | .int4 => 4 | .e8m0 => 8

/-- Exponent bits, mantissa bits and bias of the floating formats. -/
def Fmt.shape : Fmt → Nat × Nat × Nat
  | .fp32 => (8, 23, 127) | .bf16 => (8, 7, 127) | .fp16 => (5, 10, 15) | .e4m3 => (4, 3, 7) | .e5m2 => (5, 2, 15)
  | .e3m2 => (3, 2, 3) | .e2m3 => (2, 3, 1) | .e2m1 => (2, 1, 1) | .int8 => (0, 7, 0) | .int4 => (0, 3, 0) | .e8m0 => (8, 0, 127)

/-- The lowest-bit figure of R20. -/
def Fmt.lsb : Fmt → Int
  | .fp32 => -149 | .bf16 => -133 | .fp16 => -24 | .e4m3 => -9 | .e5m2 => -16 | .e3m2 => -4 | .e2m3 => -3 | .e2m1 => -1
  | .int8 => 0 | .int4 => 0 | .e8m0 => -127
/-- The highest-bit figure of R20. -/
def Fmt.msb : Fmt → Int
  | .fp32 => 127 | .bf16 => 127 | .fp16 => 15 | .e4m3 => 8 | .e5m2 => 15 | .e3m2 => 4 | .e2m3 => 2 | .e2m1 => 2
  | .int8 => 7 | .int4 => 3 | .e8m0 => 127
/-- The exponent emax of R41. -/
def Fmt.emax : Fmt → Int
  | .e4m3 => 8 | .e5m2 => 15 | .e3m2 => 4 | .e2m3 => 2 | .e2m1 => 2 | .int8 => 6 | .int4 => 2 | _ => 0

/-- The integer formats. -/
def Fmt.isInt (f : Fmt) : Bool := f == .int8 || f == .int4
/-- The FP8, FP6 and FP4 formats, which carry block scales (R25). -/
def Fmt.isMx (f : Fmt) : Bool := f == .e4m3 || f == .e5m2 || f == .e3m2 || f == .e2m3 || f == .e2m1
/-- FP32, BF16 and FP16, which never carry block scales (R25). -/
def Fmt.isWide (f : Fmt) : Bool := f == .fp32 || f == .bf16 || f == .fp16

/-- Bytes that `n` elements take, packed as R21 states. -/
def Fmt.bytes (f : Fmt) (n : Nat) : Nat := ceilDiv (n * f.bits) 8

/-- The value of an element word (R20). -/
def Fmt.decode (f : Fmt) (w : Nat) : FVal :=
  match f with
  | .fp32 => decodeIeee 8 23 127 w
  | .bf16 => decodeIeee 8 7 127 w
  | .fp16 => decodeIeee 5 10 15 w
  | .e5m2 => decodeIeee 5 2 15 w
  | .int8 => let v := ofTwos 8 w; .fin (v < 0) v.natAbs 0
  | .int4 => let v := ofTwos 4 w; .fin (v < 0) v.natAbs 0
  | .e8m0 => if w == 0xFF then .nan else .fin false 1 ((w : Int) - 127)
  | .e4m3 | .e3m2 | .e2m3 | .e2m1 =>
    let (eb, mb, bias) := f.shape
    let neg := bitOf w (eb + mb)
    let e := bitsOf w (eb + mb - 1) mb
    let m := w % 2 ^ mb
    if f == .e4m3 && e == 15 && m == 7 then .nan
    else if e == 0 then .fin neg m (1 - (bias : Int) - mb)
    else .fin neg (m + 2 ^ mb) ((e : Int) - bias - mb)

/-- The magnitude bits of the largest finite value of a floating format. -/
def Fmt.maxBits : Fmt → Nat
  | .fp32 => 0x7F7FFFFF | .bf16 => 0x7F7F | .fp16 => 0x7BFF | .e4m3 => 0x7E | .e5m2 => 0x7B | .e3m2 => 0x1F | .e2m3 => 0x1F
  | .e2m1 => 0x7 | .int8 => 127 | .int4 => 7 | .e8m0 => 0xFE

/-- The canonical NaN of a format that has one (R43). -/
def Fmt.nanBits : Fmt → Nat
  | .fp32 => 0x7FC00000 | .bf16 => 0x7FC0 | .fp16 => 0x7E00 | .e4m3 => 0x7F | .e5m2 => 0x7E | .e8m0 => 0xFF | _ => 0
/-- The positive infinity of a format that has one. -/
def Fmt.infBits : Fmt → Nat
  | .fp32 => 0x7F800000 | .bf16 => 0x7F80 | .fp16 => 0x7C00 | .e5m2 => 0x7C | _ => 0

/-! ### Format tags (R23) -/

/-- Tag field FMT. -/
def tagFmt (t : Word) : Nat := t.toNat % 256
/-- Tag bit BS: block scales present. -/
def tagBS (t : Word) : Bool := bitOf t.toNat 8
/-- Tag bit PS: paired scale in use. -/
def tagPS (t : Word) : Bool := bitOf t.toNat 9
/-- Tag bit BAX: the block axis. -/
def tagBAX (t : Word) : Bool := bitOf t.toNat 10
/-- The reserved bits [29:11]. -/
def tagRsv (t : Word) : Nat := bitsOf t.toNat 29 11
/-- Tag bit AW. -/
def tagAW (t : Word) : Bool := bitOf t.toNat 30
/-- Tag bit NF. -/
def tagNF (t : Word) : Bool := bitOf t.toNat 31
/-- The TSCALE word. -/
def tagTS (t : Word) : F32 := BitVec.ofNat 32 (bitsOf t.toNat 63 32)
/-- The tensor scale, read as 1.0 when PS is 0. -/
def tagScale (t : Word) : F32 := if tagPS t then tagTS t else f32One
/-- OR the sticky bits into a tag (R23: only NF and AW are written, by atomic OR). -/
def tagOr (t : Word) (nf aw : Bool) : Word :=
  t ||| (if nf then 0x80000000 else 0) ||| (if aw then 0x40000000 else 0)
/-- A tag word from its fields. -/
def tagMake (fmt : Nat) (bs ps bax : Bool) (ts : F32) : Word :=
  BitVec.ofNat 64 (fmt + 256 * b2n bs + 512 * b2n ps + 1024 * b2n bax + ts.toNat * 2 ^ 32)

/-- The conditions of R25 that one tag can break by itself. -/
def tagInvalid (t : Word) : Bool :=
  match Fmt.ofCode (tagFmt t) with
  | none => true
  | some f =>
    f == .e8m0 || (f.isMx && !tagBS t) || (f.isWide && tagBS t) ||
      (tagPS t && !f32PosNormal (tagTS t)) || tagRsv t != 0

/-- The format a tag names, FP32 where the code is no format (such a tag is refused before this is read). -/
def tagFormat (t : Word) : Fmt :=
  match Fmt.ofCode (tagFmt t) with
  | some f => f
  | none => .fp32

/-- The operand pairs a matrix instruction accepts (R26). -/
def pairListed (a b : Fmt) : Bool :=
  (a.isMx && b.isMx) || (a.isInt && b.isInt) || (a == .bf16 && b == .bf16) || (a == .fp16 && b == .fp16)

/-! ### Packing (R21) -/

/-- Element `i` of a packed byte list. -/
def unpackElt (f : Fmt) (bytes : List Byte) (i : Nat) : Nat :=
  match f.bits with
  | 4 => let b := (nth 0 bytes (i / 2)).toNat; if i % 2 == 0 then b % 16 else b / 16
  | 6 =>
    let g := i / 4
    let w := leNat3 (nth 0 bytes (3 * g)) (nth 0 bytes (3 * g + 1)) (nth 0 bytes (3 * g + 2))
    (w / 2 ^ (6 * (i % 4))) % 64
  | 8 => (nth 0 bytes i).toNat
  | 16 => (nth 0 bytes (2 * i)).toNat + 256 * (nth 0 bytes (2 * i + 1)).toNat
  | _ => (nth 0 bytes (4 * i)).toNat + 256 * (nth 0 bytes (4 * i + 1)).toNat + 65536 * (nth 0 bytes (4 * i + 2)).toNat
      + 16777216 * (nth 0 bytes (4 * i + 3)).toNat
where
  /-- Three bytes as one little-endian word. -/
  leNat3 (a b c : Byte) : Nat := a.toNat + 256 * b.toNat + 65536 * c.toNat

/-- The little-endian number that a list of `bits`-bit elements spells, first element lowest. -/
def packNat (bits : Nat) : List Nat → Nat
  | [] => 0
  | x :: xs => x % 2 ^ bits + 2 ^ bits * packNat bits xs

/-- The bytes of `n`, `k` of them, lowest first. -/
def natBytes : Nat → Nat → List Byte
  | 0, _ => []
  | k + 1, n => BitVec.ofNat 8 (n % 256) :: natBytes k (n / 256)

/-- Pack a list of elements into bytes (R21). Every packing of R21 is the little-endian concatenation of the elements. -/
def packElts (f : Fmt) (xs : List Nat) : List Byte := natBytes (f.bytes xs.length) (packNat f.bits xs)

/-- The little-endian number of a byte list. -/
def bytesNat : List Byte → Nat
  | [] => 0
  | b :: bs => b.toNat + 256 * bytesNat bs

/-- Split a number into `n` fields of `bits` bits, lowest first. -/
def splitNat (bits : Nat) : Nat → Nat → List Nat
  | 0, _ => []
  | k + 1, w => w % 2 ^ bits :: splitNat bits k (w / 2 ^ bits)

/-- The first `n` elements of a packed byte list. -/
def unpackElts (f : Fmt) (bytes : List Byte) (n : Nat) : List Nat := splitNat f.bits n (bytesNat bytes)

/-! ### The conversion step -/

/-- Rounding modes of a conversion (R39). -/
inductive Rnd where
  | rne | rz | sr
  deriving DecidableEq, Repr

/-- What a conversion reports. -/
structure ConvFlags where
  sat : Bool := false
  nf  : Bool := false
  deriving DecidableEq, Repr

/-- Join two reports. -/
def ConvFlags.or (a b : ConvFlags) : ConvFlags := { sat := a.sat || b.sat, nf := a.nf || b.nf }

/-- Multiply a value by a power of two, exactly. -/
def FVal.scale (v : FVal) (k : Int) : FVal :=
  match v with
  | .fin s m e => .fin s m (e + k)
  | x => x

/-- Round a finite magnitude to a multiple of 2^lsb in a mode; `r` is the element's random byte (R40). -/
def roundMode (mode : Rnd) (r : Nat) (man : Nat) (exp lsb : Int) : Nat :=
  match mode with
  | .rne => rneTo man exp lsb
  | .rz => cutTo man exp lsb
  | .sr =>
    let t := cutTo man exp lsb
    if lsb ≤ exp then t
    else
      let k := (lsb - exp).toNat
      let f8 := (man % 2 ^ k) * 256 / 2 ^ k
      if r < f8 then t + 1 else t

/-- Convert a finite value into a format (R39 steps 3 and 4): the element word and whether it saturated.
The rounding grid goes on past the largest finite value, so that step 4 decides what lies above it (assumption 3). -/
def convFinite (f : Fmt) (mode : Rnd) (r : Nat) (neg : Bool) (man : Nat) (exp : Int) : Nat × Bool :=
  if f.isInt then
    let m := roundMode mode r man exp 0
    let hi := f.maxBits
    if neg then (if hi + 1 < m then (toTwos f.bits (-((hi : Int) + 1)), true) else (toTwos f.bits (-(m : Int)), false))
    else (if hi < m then (hi, true) else (m, false))
  else
    let (eb, mb, bias) := f.shape
    let s := if neg then 2 ^ (eb + mb) else 0
    if man == 0 then (s, false)
    else
      let emin : Int := 1 - (bias : Int) - mb
      let lsb := gridLsb (mb + 1) emin man exp
      let w := (lsb - emin).toNat * 2 ^ mb + roundMode mode r man exp lsb
      if f.maxBits < w then (s + f.maxBits, true) else (s + w, false)

/-- Convert one value into a format without block scales, or one element of a block whose scale is applied (R39, R44). -/
def convElt (f : Fmt) (bs : Bool) (mode : Rnd) (r : Nat) (v : FVal) : Nat × ConvFlags :=
  match v with
  | .nan => (if f.isInt && !bs then 0 else f.nanBits, { nf := true })
  | .inf neg =>
    if f.isInt then (if neg then toTwos f.bits (-((f.maxBits : Int) + 1)) else f.maxBits, { nf := true })
    else if f == .e4m3 then (f.nanBits, { nf := true })
    else
      let (eb, mb, _) := f.shape
      (f.infBits + (if neg then 2 ^ (eb + mb) else 0), { nf := true })
  | .fin neg m e => let (w, sat) := convFinite f mode r neg m e; (w, { sat := sat })

/-- Is the value finite? -/
def FVal.isFin : FVal → Bool
  | .fin _ _ _ => true
  | _ => false
/-- Is the value a zero? -/
def FVal.isZero : FVal → Bool
  | .fin _ m _ => m == 0
  | _ => false
/-- floor(log2) of a finite nonzero magnitude. -/
def FVal.log2 : FVal → Int
  | .fin _ m e => (Nat.log2 m : Int) + e
  | _ => 0

/-- The largest floor(log2) over a block's finite nonzero values, if it has one. -/
def blockTop : List FVal → Option Int
  | [] => none
  | v :: vs =>
    let rest := blockTop vs
    if v.isFin && !v.isZero then
      match rest with
      | none => some v.log2
      | some t => some (if t < v.log2 then v.log2 else t)
    else rest

/-- Block scale selection (R41). -/
def blockScale (f : Fmt) (vs : List FVal) : Nat :=
  match blockTop vs with
  | none => 0x7F
  | some t =>
    let e := 127 + t - f.emax
    if e < 0 then 0 else if 254 < e then 254 else e.toNat

/-- Step 1 of R39: divide by the tensor scale when the destination is paired. -/
def convPair (t : Word) (x : F32) : FVal × Bool :=
  if tagPS t then
    let (y, sat) := f32DivWith true x (tagTS t)
    (f32Val y, sat && f32Finite x)
  else (f32Val x, false)

/-- Convert the elements of a list by `convElt`, each with its random byte. -/
def convList (f : Fmt) (bs : Bool) (mode : Rnd) : List (FVal × Nat) → List Nat × ConvFlags
  | [] => ([], {})
  | (v, r) :: rest =>
    let (w, fl) := convElt f bs mode r v
    let (ws, fls) := convList f bs mode rest
    (w :: ws, fl.or fls)

/-- Convert one block of values into a block-scaled format: scale, elements, report (R39 steps 2 to 4, R41, R44). -/
def convBlock (f : Fmt) (mode : Rnd) (xs : List (FVal × Nat)) : Nat × List Nat × ConvFlags :=
  if !f.isMx && !f.isInt then (0x7F, convList f true mode xs)
  else if (f == .e3m2 || f == .e2m3 || f == .e2m1 || f.isInt) && xs.any (fun x => !x.1.isFin) then
    (0xFF, xs.map (fun _ => 0), { nf := true })
  else
    let e := blockScale f (xs.map (·.1))
    (e, convList f true mode (xs.map (fun x => (x.1.scale (127 - (e : Int)), x.2))))

/-- Convert FP32 values that share one block (or carry none) into the format a tag names: scale byte, elements, report.
`rs` holds the random bytes of stochastic rounding, one per element. -/
def convertBlock (t : Word) (mode : Rnd) (xs : List (F32 × Nat)) : Nat × List Nat × ConvFlags :=
  let ys := xs.map (fun x => (convPair t x.1, x.2))
  let sat1 := ys.any (fun y => y.1.2)
  let vs := ys.map (fun y => (y.1.1, y.2))
  let f := tagFormat t
  if tagBS t then
    let (e, ws, fl) := convBlock f mode vs
    (e, ws, fl.or { sat := sat1 })
  else
    let (ws, fl) := convList f false mode vs
    (0x7F, ws, fl.or { sat := sat1 })

/-- The exact value of an element with its block scale field (R20): NaN when the scale is 0xFF (R42). -/
def scaledVal (f : Fmt) (w e : Nat) : FVal :=
  if e == 0xFF then .nan else (f.decode w).scale ((e : Int) - 127)

/-- The FP32 word of an exact value; nearest even, saturating as a conversion's division does when `sat`. -/
def valF32 (v : FVal) : F32 :=
  match v with
  | .nan => f32NaN
  | .inf s => f32Inf s
  | .fin s m e => (roundF32 false s m e).1

/-- Block index of element (r, c) of an R x C tensor (R480). -/
def blockIndex (bax : Bool) (C r c : Nat) : Nat := if bax then (r / 32) * C + c else r * ceilDiv C 32 + c / 32

/-- Number of block scale bytes of an R x C tensor (R480). -/
def blockCount (bax : Bool) (R C : Nat) : Nat := if bax then ceilDiv R 32 * C else R * ceilDiv C 32

end Sys2Proof.Machine
end

