-- ==== Sys2Proof/Machine/Accum.lean ====
section
/-! DEFINITION. Exact block accumulation and the combination of chunks (R26 to R37, R42). -/

namespace Sys2Proof.Machine

/-- One term of a chunk: the two elements' words with their block scale fields (127 when the operand's BS is 0). -/
structure Term where
  a  : Nat
  ea : Nat
  b  : Nat
  eb : Nat
  deriving DecidableEq, Repr

/-- What a matrix instruction's cells report. -/
structure AccFlags where
  low  : Bool := false
  high : Bool := false
  deriving DecidableEq, Repr

/-- Join two reports. -/
def AccFlags.or (x y : AccFlags) : AccFlags := { low := x.low || y.low, high := x.high || y.high }

/-- The term's value, block scales applied, by the table of R42. -/
def termVal (fa fb : Fmt) (t : Term) : FVal :=
  match scaledVal fa t.a t.ea, scaledVal fb t.b t.eb with
  | .nan, _ => .nan
  | _, .nan => .nan
  | .inf s, .inf u => .inf (s != u)
  | .inf s, .fin u m _ => if m == 0 then .nan else .inf (s != u)
  | .fin s m _, .inf u => if m == 0 then .nan else .inf (s != u)
  | .fin s m e, .fin u n k => .fin (s != u) (m * n) (e + k)

/-- The non-finite result of a list of terms, if it has one (R42). -/
def nonFinite (vs : List FVal) : Option FVal :=
  let pos := vs.any (fun v => v == .inf false)
  let neg := vs.any (fun v => v == .inf true)
  if vs.any (fun v => v == .nan) || (pos && neg) then some .nan
  else if pos then some (.inf false)
  else if neg then some (.inf true)
  else none

/-- The scale exponent s(k) of a term (R27). -/
def termScale (t : Term) : Int := ((t.ea : Int) - 127) + ((t.eb : Int) - 127)

/-- The largest scale exponent of a chunk's terms, zero elements counted (R27). -/
def emaxOf : List Term → Int
  | [] => 0
  | [t] => termScale t
  | t :: ts => let r := emaxOf ts; if r < termScale t then termScale t else r

/-- The integer multiple of 2^b that a finite value is cut to, toward zero, and whether a bit was discarded (R29). -/
def cutTerm (b : Int) (v : FVal) : Int × Bool :=
  match v with
  | .fin s m e =>
    let q := cutTo m e b
    let lost := if b ≤ e then false else m % 2 ^ (b - e).toNat != 0
    (if s then -(q : Int) else q, lost)
  | _ => (0, false)

/-- Sum of the cut terms and whether any bit was discarded. -/
def sumCut (b : Int) : List FVal → Int × Bool
  | [] => (0, false)
  | v :: vs =>
    let (q, l) := cutTerm b v
    let (s, ls) := sumCut b vs
    (q + s, l || ls)

/-- A chunk's result for an 8-, 6- or 4-bit floating or integer pair (R28 to R30, R42). -/
def chunkExact (fa fb : Fmt) (ts : List Term) : F32 × AccFlags :=
  let vs := ts.map (termVal fa fb)
  match nonFinite vs with
  | some v => (valF32 v, {})
  | none =>
    let b := emaxOf ts + fa.msb + fb.msb + 1 - 87
    let (s, low) := sumCut b vs
    let (w, high) := if s == 0 then (f32Zero false, false) else roundF32 true (s < 0) s.natAbs b
    (w, { low := low, high := high })

/-- The least exponent of a list of finite values. -/
def minExp : List FVal → Int
  | [] => 0
  | [.fin _ _ e] => e
  | .fin _ _ e :: vs => let r := minExp vs; if e < r then e else r
  | _ :: vs => minExp vs

/-- The exact sum of a group of 8 terms, rounded once (R32). -/
def groupSum (fa fb : Fmt) (ts : List Term) : F32 × Bool :=
  let vs := ts.map (termVal fa fb)
  match nonFinite vs with
  | some v => (valF32 v, false)
  | none =>
    let b := minExp vs
    let s := (sumCut b vs).1
    if s == 0 then (f32Zero false, false) else roundF32 true (s < 0) s.natAbs b

/-- Combine the group sums of a chunk in ascending order (R32). -/
def groupFold (acc : F32) (high : Bool) : List (F32 × Bool) → F32 × Bool
  | [] => (acc, high)
  | (g, h) :: gs => let (r, o) := f32AddWith true acc g; groupFold r (high || h || o) gs

/-- Split a list into pieces of `n`, by fuel. -/
def piecesOf {α : Type} (n : Nat) : Nat → List α → List (List α)
  | 0, _ => []
  | k + 1, xs => if xs.isEmpty then [] else xs.take n :: piecesOf n k (xs.drop n)

/-- A chunk's result for a BF16 or FP16 pair (R32). -/
def chunkWide (fa fb : Fmt) (ts : List Term) : F32 × AccFlags :=
  match (piecesOf 8 (ts.length + 1) ts).map (groupSum fa fb) with
  | [] => (f32Zero false, {})
  | (g, h) :: gs =>
    let (r, high) := groupFold g h gs
    (r, { high := high && f32Finite r })

/-- A chunk's result (R28 to R32). -/
def chunkResult (fa fb : Fmt) (ts : List Term) : F32 × AccFlags :=
  if fa.isWide then chunkWide fa fb ts else chunkExact fa fb ts

/-- Sequential combination (CHORD 0, R33). -/
def combineSeq (acc : F32) (high : Bool) : List F32 → F32 × Bool
  | [] => (acc, high)
  | c :: cs => let (r, o) := f32AddWith true acc c; combineSeq r (high || o) cs

/-- One level of the tree combination (CHORD 1, R33). -/
def combineLevel : List F32 → List F32 × Bool
  | x :: y :: rest =>
    let (s, o) := f32AddWith true x y
    let (l, os) := combineLevel rest
    (s :: l, o || os)
  | l => (l, false)

/-- The tree combination, by fuel (the list's length suffices). -/
def combineTree : Nat → List F32 → F32 × Bool
  | _, [] => (f32Zero false, false)
  | _, [x] => (x, false)
  | 0, x :: _ => (x, false)
  | k + 1, xs =>
    let (l, o) := combineLevel xs
    let (r, o2) := combineTree k l
    (r, o || o2)

/-- The chunk results of a cell combined in the order that CHORD names, with the incoming value (R33). The flag is ACC_WINDOW cause high. -/
def cellCombined (chunks : List F32) (incoming : Option F32) (tree : Bool) : F32 × Bool :=
  if tree then
    let (t, h) := combineTree chunks.length chunks
    match incoming with
    | none => (t, h)
    | some v => let (r, o) := f32AddWith true v t; (r, h || o)
  else
    match incoming, chunks with
    | some v, cs => combineSeq v false cs
    | none, c :: cs => combineSeq c false cs
    | none, [] => (f32Zero false, false)

/-- The cell's result: the combined value, scaled when TSC is 1 (R33, R34). -/
def cellResult (chunks : List F32) (incoming : Option F32) (tree : Bool) (tsc : Bool) (tsa tsb : F32) : F32 × Bool :=
  let (r, h) := cellCombined chunks incoming tree
  if tsc then
    let (p, o1) := f32MulWith true tsa tsb
    let (r2, o2) := f32MulWith true r p
    (r2, h || o1 || o2)
  else (r, h)

/-- The least m with `n ≤ 2^m`, by fuel. -/
def ceilLog2 : Nat → Nat → Nat
  | 0, _ => 0
  | k + 1, n => if n ≤ 1 then 0 else ceilLog2 k (ceilDiv n 2) + 1

/-- May an instruction in tree order cover `len` chunks from `first` (R35)? -/
def chunkAligned (first len : Nat) (lst : Bool) : Bool :=
  let p := 2 ^ ceilLog2 16 len
  if lst then first % p == 0 else p == len && first % p == 0

end Sys2Proof.Machine
end

