-- ==== Sys2Proof/Config.lean ====
section
/-! DEFINITION. What the spec leaves free: constants without a body, of which no proof can see a value. -/

namespace Sys2Proof

/-- The low bits of an integer sum, difference or product whose exact value is in no number format of the width (R52, R71
state no result there): width, operation, operands (assumption 8). -/
opaque Config.intBeyond : Nat → Nat → Nat → Nat → Nat

/-- The vector integer shift, whose direction and count operand R71 does not state: IMM and the two elements (assumption 10). -/
opaque Config.intShift : Nat → Nat → Nat → Nat

/-- The element that a permute reads or writes for an index of 256 or more (R71 states none): the index (assumption 10). -/
opaque Config.permuteBeyond : Nat → Nat

/-- The order in which the banks accept the adds of a SCATADD.U: draw number and element give a rank, lower first (R71). -/
opaque Config.bankOrder : Nat → Nat → Nat

/-- Which of several equal choices the hub takes where no rule orders them (a free frame, a free row): draw number
(assumption 16). -/
opaque Config.pick : Nat → Nat

/-- An entry of the masked row of scores that R104 would stop, for which R103 states no masks: draw number and entry (assumption 79). -/
opaque Config.maskBeyond : Nat → Nat → BitVec 32

/-- A stored error that comes about in a core cycle, which no rule foretells: draw number; a physical address, and whether the code of R249
cannot correct it (assumption 61). -/
opaque Config.strike : Nat → Option (Nat × Bool)

/-- The calibrated internal delay of a port in ps, which the module's ranging subtracts (R294 gives no figure): port. -/
opaque Config.portDelay : Nat → Nat

/-- A byte of a packet's 32-byte header, of which R271 gives the contents and no layout: kind, source LMID, core, descriptor, address, offset,
length, NOTIFY and further fields, and the place of the byte (assumption 75). -/
opaque Config.packetHeader : List Nat → Nat → BitVec 8

/-- A byte of a signature that the module makes under its identity key, which no rule lets another agent compute (R406, R428): draw number
and place. -/
opaque Config.signByte : Nat → Nat → BitVec 8

end Sys2Proof
end

