-- ==== Sys2Proof/Machine/Codes.lean ====
section
/-! DEFINITION. The codes of statuses (R465), events (R466), generation outcomes (R102) and core refusals (R84, R468). -/

namespace Sys2Proof.Machine

/-- Status OK (R465). -/
def stOk : Nat := 0x0000
/-- Status CMD_INVALID (R465). -/
def stCmdInvalid : Nat := 0x0001
/-- Status SLOT_INVALID (R465). -/
def stSlotInvalid : Nat := 0x0002
/-- Status SLOT_FAILED (R465). -/
def stSlotFailed : Nat := 0x0003
/-- Status CMD_TENANT (R465). -/
def stCmdTenant : Nat := 0x0004
/-- Status QUEUE_INVALID (R465). -/
def stQueueInvalid : Nat := 0x0005
/-- Status QUEUE_BUSY (R465). -/
def stQueueBusy : Nat := 0x0006
/-- Status QUEUE_FULL (R465). -/
def stQueueFull : Nat := 0x0007
/-- Status HOST_FAULT (R465). -/
def stHostFault : Nat := 0x0008
/-- Status BOOT_STATE (R465). -/
def stBootState : Nat := 0x0009
/-- Status READMIT_STATE (R465). -/
def stReadmitState : Nat := 0x000A
/-- Status ROM_FAIL (R465). -/
def stRomFail : Nat := 0x0010
/-- Status SIG_INVALID (R465). -/
def stSigInvalid : Nat := 0x0011
/-- Status ROLLBACK (R465). -/
def stRollback : Nat := 0x0012
/-- Status RECORD_INVALID (R465). -/
def stRecordInvalid : Nat := 0x0013
/-- Status OWNER_INVALID (R465). -/
def stOwnerInvalid : Nat := 0x0014
/-- Status FW_BUNDLE (R465). -/
def stFwBundle : Nat := 0x0015
/-- Status FW_INTERFACE (R465). -/
def stFwInterface : Nat := 0x0016
/-- Status FW_UNLISTED (R465). -/
def stFwUnlisted : Nat := 0x0017
/-- Status RPF_FAIL (R465). -/
def stRpfFail : Nat := 0x0018
/-- Status PUF_FAIL (R465). -/
def stPufFail : Nat := 0x0019
/-- Status FLASH_FAIL (R465). -/
def stFlashFail : Nat := 0x001A
/-- Status CAST_DONE (R465). -/
def stCastDone : Nat := 0x0020
/-- Status CAST_STORED (R465). -/
def stCastStored : Nat := 0x0021
/-- Status FW_STAGED (R465). -/
def stFwStaged : Nat := 0x0022
/-- Status FW_SELECTED (R465). -/
def stFwSelected : Nat := 0x0023
/-- Status REC_DONE (R465). -/
def stRecDone : Nat := 0x0024
/-- Status ATT_DONE (R465). -/
def stAttDone : Nat := 0x0025
/-- Status KEY_DONE (R465). -/
def stKeyDone : Nat := 0x0026
/-- Status OWN_STAGED (R465). -/
def stOwnStaged : Nat := 0x0027
/-- Status RESET_DONE (R465). -/
def stResetDone : Nat := 0x0028
/-- Status RETIRED (R465). -/
def stRetired : Nat := 0x0029
/-- Status RPF_DONE (R465). -/
def stRpfDone : Nat := 0x002A
/-- Status KEY_SESSION (R465). -/
def stKeySession : Nat := 0x002B
/-- Status KEY_REPLAY (R465). -/
def stKeyReplay : Nat := 0x002C
/-- Status KEY_UNWRAP (R465). -/
def stKeyUnwrap : Nat := 0x002D
/-- Status RESET_STATE (R465). -/
def stResetState : Nat := 0x002E
/-- Status CL_MISMATCH (R465). -/
def stClMismatch : Nat := 0x0030
/-- Status CAST_INVALID (R465). -/
def stCastInvalid : Nat := 0x0031
/-- Status BUNDLE_MISMATCH (R465). -/
def stBundleMismatch : Nat := 0x0032
/-- Status OVERRIDE_DENIED (R465). -/
def stOverrideDenied : Nat := 0x0033
/-- Status CAST_BUSY (R465). -/
def stCastBusy : Nat := 0x0034
/-- Status VARIANT_LIMIT (R465). -/
def stVariantLimit : Nat := 0x0035
/-- Status SLOT_LIMIT (R465). -/
def stSlotLimit : Nat := 0x0036
/-- Status KV_SHAPE (R465). -/
def stKvShape : Nat := 0x0037
/-- Status DIR_LIMIT (R465). -/
def stDirLimit : Nat := 0x0038
/-- Status BIND_TWICE (R465). -/
def stBindTwice : Nat := 0x0039
/-- Status BIND_INVALID (R465). -/
def stBindInvalid : Nat := 0x003A
/-- Status LRN_PARAM (R465). -/
def stLrnParam : Nat := 0x003B
/-- Status OPT_PARAM (R465). -/
def stOptParam : Nat := 0x003C
/-- Status NEAR_PLACE (R465). -/
def stNearPlace : Nat := 0x003D
/-- Status EXP_SHAPE (R465). -/
def stExpShape : Nat := 0x003E
/-- Status MEM_PLAN (R465). -/
def stMemPlan : Nat := 0x003F
/-- Status PORT_PLAN (R465). -/
def stPortPlan : Nat := 0x0040
/-- Status TREE_SHAPE (R465). -/
def stTreeShape : Nat := 0x0041
/-- Status CUE_PLAN (R465). -/
def stCuePlan : Nat := 0x0042
/-- Status TROUPE_PLAN (R465). -/
def stTroupePlan : Nat := 0x0043
/-- Status XLAT_PLAN (R465). -/
def stXlatPlan : Nat := 0x0044
/-- Status CKPT_PLAN (R465). -/
def stCkptPlan : Nat := 0x0045
/-- Status ENS_PLAN (R465). -/
def stEnsPlan : Nat := 0x0046
/-- Status GEN_PARAM (R465). -/
def stGenParam : Nat := 0x0047
/-- Status BIND_FULL (R465). -/
def stBindFull : Nat := 0x0048
/-- Status CANCEL_TAKEN (R465). -/
def stCancelTaken : Nat := 0x0050
/-- Status CANCEL_LATE (R465). -/
def stCancelLate : Nat := 0x0051
/-- Status CANCEL_UNKNOWN (R465). -/
def stCancelUnknown : Nat := 0x0052
/-- Status CURTAIN_DONE (R465). -/
def stCurtainDone : Nat := 0x0053
/-- Status CURTAIN_NOT_READY (R465). -/
def stCurtainNotReady : Nat := 0x0054
/-- Status SEAL_DONE (R465). -/
def stSealDone : Nat := 0x0055
/-- Status SEAL_UNKNOWN (R465). -/
def stSealUnknown : Nat := 0x0056
/-- Status SEAL_SOURCE (R465). -/
def stSealSource : Nat := 0x0057
/-- Status SEAL_TWICE (R465). -/
def stSealTwice : Nat := 0x0058
/-- Status SEAL_VALUE (R465). -/
def stSealValue : Nat := 0x0059
/-- Status ROLE_BUSY (R465). -/
def stRoleBusy : Nat := 0x005A
/-- Status FLY_EPOCH (R465). -/
def stFlyEpoch : Nat := 0x005B
/-- Status SKIP_TAKEN (R465). -/
def stSkipTaken : Nat := 0x0060
/-- Status SKIP_LATE (R465). -/
def stSkipLate : Nat := 0x0061
/-- Status GSET_DONE (R465). -/
def stGsetDone : Nat := 0x0062
/-- Status GSET_FIXED (R465). -/
def stGsetFixed : Nat := 0x0063
/-- Status GROUP_INVALID (R465). -/
def stGroupInvalid : Nat := 0x0064
/-- Status GSET_LATE (R465). -/
def stGsetLate : Nat := 0x0065
/-- Status GSET_FULL (R465). -/
def stGsetFull : Nat := 0x0066
/-- Status LOAD_DONE (R465). -/
def stLoadDone : Nat := 0x0070
/-- Status LOAD_DIGEST (R465). -/
def stLoadDigest : Nat := 0x0071
/-- Status LOAD_STORED (R465). -/
def stLoadStored : Nat := 0x0072
/-- Status DECOMP_FORMAT (R465). -/
def stDecompFormat : Nat := 0x0073
/-- Status DECOMP_TABLE (R465). -/
def stDecompTable : Nat := 0x0074
/-- Status DECOMP_DATA (R465). -/
def stDecompData : Nat := 0x0075
/-- Status LOAD_INVALID (R465). -/
def stLoadInvalid : Nat := 0x0076
/-- Status LOAD_RANGE (R465). -/
def stLoadRange : Nat := 0x0077
/-- Status SHARD_RO (R465). -/
def stShardRo : Nat := 0x0078
/-- Status LOAD_FULL (R465). -/
def stLoadFull : Nat := 0x0079
/-- Status SHARD_FULL (R465). -/
def stShardFull : Nat := 0x007A
/-- Status LOAD_PENDING (R465). -/
def stLoadPending : Nat := 0x007B
/-- Status LOAD_FAILED (R465). -/
def stLoadFailed : Nat := 0x007C
/-- Status LOAD_EPOCH (R465). -/
def stLoadEpoch : Nat := 0x007D
/-- Status VSLOT_BUSY (R465). -/
def stVslotBusy : Nat := 0x007E
/-- Status MAP_DONE (R465). -/
def stMapDone : Nat := 0x0080
/-- Status SWITCH_STATE (R465). -/
def stSwitchState : Nat := 0x0081
/-- Status SWITCH_SHAPE (R465). -/
def stSwitchShape : Nat := 0x0082
/-- Status RESTORE_DIGEST (R465). -/
def stRestoreDigest : Nat := 0x0083
/-- Status RESTORE_TENANT (R465). -/
def stRestoreTenant : Nat := 0x0084
/-- Status RESTORE_SHAPE (R465). -/
def stRestoreShape : Nat := 0x0085
/-- Status RESTORE_DONE (R465). -/
def stRestoreDone : Nat := 0x0086
/-- Status TROUPE_GONE (R465). -/
def stTroupeGone : Nat := 0x0087
/-- Status CLUSTER_DEGRADED (R465). -/
def stClusterDegraded : Nat := 0x0088
/-- Status ADDR_HOLE (R465). -/
def stAddrHole : Nat := 0x0090
/-- Status XLAT_FAULT (R465). -/
def stXlatFault : Nat := 0x0091
/-- Status NO_ROUTE (R465). -/
def stNoRoute : Nat := 0x0092
/-- Status REMOTE_RANGE (R465). -/
def stRemoteRange : Nat := 0x0093
/-- Status COLL_GROUP (R465). -/
def stCollGroup : Nat := 0x0094
/-- Status TREE_MISMATCH (R465). -/
def stTreeMismatch : Nat := 0x0095
/-- Status MEM_UE (R465). -/
def stMemUe : Nat := 0x0096
/-- Status OP_INVALID (R465). -/
def stOpInvalid : Nat := 0x0097
/-- Status STORE_RANGE (R465). -/
def stStoreRange : Nat := 0x0098
/-- Status CKPT_PARTIAL (R465). -/
def stCkptPartial : Nat := 0x00A0
/-- Status RESTORE_MIXED (R465). -/
def stRestoreMixed : Nat := 0x00A1
/-- Status CATALOGUE_INVALID (R465). -/
def stCatalogueInvalid : Nat := 0x00A2
/-- Status REPLICA_MATCH (R465). -/
def stReplicaMatch : Nat := 0x00A3
/-- Status REPLICA_DIFF (R465). -/
def stReplicaDiff : Nat := 0x00A4
/-- Status SUB_NONE (R465). -/
def stSubNone : Nat := 0x00A5
/-- Status SUB_STATE (R465). -/
def stSubState : Nat := 0x00A6
/-- Status SUB_IMAGE (R465). -/
def stSubImage : Nat := 0x00A7
/-- Status CKPT_UE (R465). -/
def stCkptUe : Nat := 0x00A8
/-- Event INPUT_REVERSED (R466). -/
def evInputReversed : Nat := 0x0000
/-- Event INPUT_UV (R466). -/
def evInputUv : Nat := 0x0001
/-- Event INPUT_OV (R466). -/
def evInputOv : Nat := 0x0002
/-- Event INPUT_LOST (R466). -/
def evInputLost : Nat := 0x0003
/-- Event POWER_CAP (R466). -/
def evPowerCap : Nat := 0x0004
/-- Event RAIL_SHORT (R466). -/
def evRailShort : Nat := 0x0005
/-- Event SENSE_OPEN (R466). -/
def evSenseOpen : Nat := 0x0006
/-- Event RAIL_OC_WARN (R466). -/
def evRailOcWarn : Nat := 0x0007
/-- Event REG_HOT (R466). -/
def evRegHot : Nat := 0x0008
/-- Event CLK_REF_LOST (R466). -/
def evClkRefLost : Nat := 0x0009
/-- Event CLK_FAIL (R466). -/
def evClkFail : Nat := 0x000A
/-- Event THERM_THROTTLE (R466). -/
def evThermThrottle : Nat := 0x000B
/-- Event THERM_TRIP (R466). -/
def evThermTrip : Nat := 0x000C
/-- Event COOLANT_HOT (R466). -/
def evCoolantHot : Nat := 0x000D
/-- Event COOLANT_FLOW (R466). -/
def evCoolantFlow : Nat := 0x000E
/-- Event PUF_FAIL (R466). -/
def evPufFail : Nat := 0x0010
/-- Event HUB_WATCHDOG (R466). -/
def evHubWatchdog : Nat := 0x0011
/-- Event HUB_ECC (R466). -/
def evHubEcc : Nat := 0x0012
/-- Event CORE_FAILED (R466). -/
def evCoreFailed : Nat := 0x0013
/-- Event CLUSTER_DEGRADED (R466). -/
def evClusterDegraded : Nat := 0x0014
/-- Event CORE_FAULT (R466). -/
def evCoreFault : Nat := 0x0020
/-- Event ACC_WINDOW (R466). -/
def evAccWindow : Nat := 0x0021
/-- Event ARITH_NF (R466). -/
def evArithNf : Nat := 0x0022
/-- Event FLINT_BUSY (R466). -/
def evFlintBusy : Nat := 0x0023
/-- Event MEM_UE (R466). -/
def evMemUe : Nat := 0x0030
/-- Event SHARD_DIGEST (R466). -/
def evShardDigest : Nat := 0x0031
/-- Event WHET_MEM (R466). -/
def evWhetMem : Nat := 0x0032
/-- Event WAIT_PORT (R466). -/
def evWaitPort : Nat := 0x0040
/-- Event TEARDOWN_DONE (R466). -/
def evTeardownDone : Nat := 0x0041
/-- Event VERDICT_LATE (R466). -/
def evVerdictLate : Nat := 0x0042
/-- Event FLY_WAIT (R466). -/
def evFlyWait : Nat := 0x0043
/-- Event FLY_NF (R466). -/
def evFlyNf : Nat := 0x0044
/-- Event PORT_MISWIRE (R466). -/
def evPortMiswire : Nat := 0x0050
/-- Event LR_WINDOW (R466). -/
def evLrWindow : Nat := 0x0051
/-- Event LR_AUTH (R466). -/
def evLrAuth : Nat := 0x0052
/-- Event RANGE_SHIFT (R466). -/
def evRangeShift : Nat := 0x0053
/-- Event CUE_UNLOCK (R466). -/
def evCueUnlock : Nat := 0x0054
/-- Event CUE_LATE (R466). -/
def evCueLate : Nat := 0x0055
/-- Event CUE_STALL (R466). -/
def evCueStall : Nat := 0x0056
/-- Event TREE_MISMATCH (R466). -/
def evTreeMismatch : Nat := 0x0057
/-- Event CKPT_REQUEST (R466). -/
def evCkptRequest : Nat := 0x0060
/-- Event CKPT_HELD (R466). -/
def evCkptHeld : Nat := 0x0061
/-- Event CKPT_ABORT (R466). -/
def evCkptAbort : Nat := 0x0062
/-- Event CKPT_S0_DONE (R466). -/
def evCkptS0Done : Nat := 0x0063
/-- Event CKPT_STORED (R466). -/
def evCkptStored : Nat := 0x0064
/-- Event CKPT_UE (R466). -/
def evCkptUe : Nat := 0x0065
/-- Event REPLICA_DIFF (R466). -/
def evReplicaDiff : Nat := 0x0066
/-- Event SUB_DONE (R466). -/
def evSubDone : Nat := 0x0067
/-- Event THL_NARROW (R466). -/
def evThlNarrow : Nat := 0x0070
/-- Event THL_BULK_DOWN (R466). -/
def evThlBulkDown : Nat := 0x0071
/-- Event MEMBER_JOINED (R466). -/
def evMemberJoined : Nat := 0x0072
/-- Event MEMBER_FAILED (R466). -/
def evMemberFailed : Nat := 0x0073
/-- Event MEMBER_BACK (R466). -/
def evMemberBack : Nat := 0x0074
/-- Notice EXP_WRITTEN (R466). -/
def evExpWritten : Nat := 0x0200
/-- Notice GEN_PROGRESS (R466). -/
def evGenProgress : Nat := 0x0201
/-- Is an event code assigned (R466)? -/
def evAssigned (c : Nat) : Bool :=
  c ≤ 0x0E || (0x10 ≤ c && c ≤ 0x14) || (0x20 ≤ c && c ≤ 0x23) || (0x30 ≤ c && c ≤ 0x32) || (0x40 ≤ c && c ≤ 0x44) || (0x50 ≤ c && c ≤ 0x57) ||
    (0x60 ≤ c && c ≤ 0x67) || (0x70 ≤ c && c ≤ 0x74)
/-- Generation outcome COMPLETE (R102). -/
def genComplete : Nat := 0x00
/-- Generation outcome CANCELLED (R102). -/
def genCancelled : Nat := 0x01
/-- Generation outcome DEADLINE (R102). -/
def genDeadline : Nat := 0x02
/-- Generation outcome ABORTED (R102). -/
def genAborted : Nat := 0x03
/-- Generation outcome ADMIT_MEMORY (R102). -/
def genAdmitMemory : Nat := 0x10
/-- Generation outcome ADMIT_TIME (R102). -/
def genAdmitTime : Nat := 0x11
/-- Generation outcome ADMIT_QUEUE (R102). -/
def genAdmitQueue : Nat := 0x12
/-- Generation outcome REQ_INVALID (R102). -/
def genReqInvalid : Nat := 0x13
/-- Generation outcome KV_FORMAT (R102). -/
def genKvFormat : Nat := 0x20
/-- Generation outcome SCORE_NF (R102). -/
def genScoreNf : Nat := 0x21
/-- CORE_FAULT.CODE OP_INVALID (R84, R468). -/
def rfOpInvalid : Nat := 0x01
/-- CORE_FAULT.CODE ND_REQUIRED (R84, R468). -/
def rfNdRequired : Nat := 0x02
/-- CORE_FAULT.CODE TAG_INVALID (R84, R468). -/
def rfTagInvalid : Nat := 0x03
/-- CORE_FAULT.CODE CHUNK_ALIGN (R84, R468). -/
def rfChunkAlign : Nat := 0x04
/-- CORE_FAULT.CODE STORE_RANGE (R84, R468). -/
def rfStoreRange : Nat := 0x05
/-- CORE_FAULT.CODE XPOSE_FORMAT (R84, R468). -/
def rfXposeFormat : Nat := 0x06
/-- CORE_FAULT.CODE XPOSE_ALIGN (R84, R468). -/
def rfXposeAlign : Nat := 0x07
/-- CORE_FAULT.CODE DRAIN_SPACE (R84, R468). -/
def rfDrainSpace : Nat := 0x08
/-- CORE_FAULT.CODE FTAB_INVALID (R84, R468). -/
def rfFtabInvalid : Nat := 0x09
/-- CORE_FAULT.CODE ATTN_ALIGN (R84, R468). -/
def rfAttnAlign : Nat := 0x10
/-- CORE_FAULT.CODE ATTN_SLOT (R84, R468). -/
def rfAttnSlot : Nat := 0x11
/-- CORE_FAULT.CODE ATTN_RANGE (R84, R468). -/
def rfAttnRange : Nat := 0x12
/-- CORE_FAULT.CODE VERDICT_STEP (R84, R468). -/
def rfVerdictStep : Nat := 0x18
/-- CORE_FAULT.CODE GROUP_RULE (R84, R468). -/
def rfGroupRule : Nat := 0x19
/-- Opcode of QUEUE_CREATE (R381, R433). -/
def opQueueCreate : Nat := 0x0001
/-- Opcode of QUEUE_DELETE (R381, R433). -/
def opQueueDelete : Nat := 0x0002
/-- Opcode of EVQ_BIND (R381, R433). -/
def opEvqBind : Nat := 0x0003
/-- Opcode of GEN_SUBMIT (R381, R433). -/
def opGenSubmit : Nat := 0x0100
/-- Opcode of GEN_CANCEL (R381, R433). -/
def opGenCancel : Nat := 0x0101
/-- Opcode of GEN_CURTAIN (R381, R433). -/
def opGenCurtain : Nat := 0x0102
/-- Opcode of EXP_SEAL (R381, R433). -/
def opExpSeal : Nat := 0x0200
/-- Opcode of FLY_NOW (R381, R433). -/
def opFlyNow : Nat := 0x0201
/-- Opcode of ROLE_SWITCH (R381, R433). -/
def opRoleSwitch : Nat := 0x0202
/-- Opcode of LRN_BIND (R381, R433). -/
def opLrnBind : Nat := 0x0300
/-- Opcode of LRN_SKIP (R381, R433). -/
def opLrnSkip : Nat := 0x0301
/-- Opcode of OPT_GSET (R381, R433). -/
def opOptGset : Nat := 0x0302
/-- Opcode of WT_LOAD (R381, R433). -/
def opWtLoad : Nat := 0x0400
/-- Opcode of WT_READY (R381, R433). -/
def opWtReady : Nat := 0x0401
/-- Opcode of WT_RELEASE (R381, R433). -/
def opWtRelease : Nat := 0x0402
/-- Opcode of WT_TABLE (R381, R433). -/
def opWtTable : Nat := 0x0403
/-- Opcode of TRP_MAP (R381, R433). -/
def opTrpMap : Nat := 0x0500
/-- Opcode of TRP_QPUSH (R381, R433). -/
def opTrpQpush : Nat := 0x0501
/-- Opcode of TRP_SWITCH (R381, R433). -/
def opTrpSwitch : Nat := 0x0502
/-- Opcode of TRP_CTX_PUT (R381, R433). -/
def opTrpCtxPut : Nat := 0x0503
/-- Opcode of TRP_CTX_GET (R381, R433). -/
def opTrpCtxGet : Nat := 0x0504
/-- Opcode of TRP_RESTORE (R381, R433). -/
def opTrpRestore : Nat := 0x0505
/-- Opcode of TRP_TEARDOWN (R381, R433). -/
def opTrpTeardown : Nat := 0x0506
/-- Opcode of LR_KEY (R381, R433). -/
def opLrKey : Nat := 0x0600
/-- Opcode of CKPT_TAKE (R381, R433). -/
def opCkptTake : Nat := 0x0700
/-- Opcode of CKPT_BUF (R381, R433). -/
def opCkptBuf : Nat := 0x0701
/-- Opcode of CKPT_STORED (R381, R433). -/
def opCkptStored : Nat := 0x0702
/-- Opcode of CKPT_DISCARD (R381, R433). -/
def opCkptDiscard : Nat := 0x0703
/-- Opcode of CKPT_CURSOR (R381, R433). -/
def opCkptCursor : Nat := 0x0704
/-- Opcode of CKPT_RESTORE (R381, R433). -/
def opCkptRestore : Nat := 0x0705
/-- Opcode of RPL_COMPARE (R381, R433). -/
def opRplCompare : Nat := 0x0706
/-- Opcode of ENS_SUBSTITUTE (R381, R433). -/
def opEnsSubstitute : Nat := 0x0800
/-- Opcode of UND_STAGE (R381, R433). -/
def opUndStage : Nat := 0x0801
/-- Opcode of ENS_READMIT (R381, R433). -/
def opEnsReadmit : Nat := 0x0802
/-- Opcode of CAST_APPLY (R381, R433). -/
def opCastApply : Nat := 0x0900
/-- Opcode of CAST_STORE (R381, R433). -/
def opCastStore : Nat := 0x0901
/-- Opcode of FW_STAGE (R381, R433). -/
def opFwStage : Nat := 0x0902
/-- Opcode of FW_SELECT (R381, R433). -/
def opFwSelect : Nat := 0x0903
/-- Opcode of REC_GET (R381, R433). -/
def opRecGet : Nat := 0x0904
/-- Opcode of ATT_REPORT (R381, R433). -/
def opAttReport : Nat := 0x0905
/-- Opcode of KEY_SESSION (R381, R433). -/
def opKeySession : Nat := 0x0906
/-- Opcode of OWN_INSTALL (R381, R433). -/
def opOwnInstall : Nat := 0x0907
/-- Opcode of RESET (R381, R433). -/
def opReset : Nat := 0x0908
/-- Opcode of CORE_RETIRE (R381, R433). -/
def opCoreRetire : Nat := 0x0909
/-- Opcode of RPF_COMMIT (R381, R433). -/
def opRpfCommit : Nat := 0x090A

end Sys2Proof.Machine
end

