-- ==== Sys2Proof/Machine/StateCue.lean ====
section
/-! DEFINITION. The Cue registers and the follower (R311, R312, R319). -/

namespace Sys2Proof.Machine

/-- CUE_STATUS, CUE_EVT, CUE_ND_MAP. -/
structure CueRegs where
  offsetPs  : Int := 0
  parent    : Nat := 31
  master    : Bool := false
  lock      : Bool := false
  lateCnt   : Nat := 0
  stallCnt  : Nat := 0
  unlockCnt : Nat := 0
  tree      : Bool := false
  stall     : Bool := false
  late      : Bool := false
  unlock    : Bool := false
  ndMap     : Nat := 0
  /-- The follower (R311, R312): exchanges in a row within 1 cycle, Cue counts of the latest exchange and correction, a count to
  withhold, whether an estimate has been made since the casting, and whether a troupe has started since. -/
  good      : Nat := 0
  lastX     : Nat := 0
  slewed    : Nat := 0
  withhold  : Bool := false
  estimated : Bool := false
  started   : Bool := false
  deriving DecidableEq, Repr

/-- One member's node of a Cue barrier (R316): the instance in progress, the member's own arrival, the children that have
arrived for it and for the next one, whether the arrival was sent on, and the release. -/
structure BarState where
  instNo    : Nat := 0
  arrived   : Bool := false
  arrivedAt : Nat := 0
  kids      : List Nat := []
  nextKids  : List Nat := []
  sent      : Bool := false
  tRel      : Option Nat := none
  stalled   : Bool := false
  /-- Least and largest learner step of the arrivals, for a checkpoint barrier (R354). -/
  steps     : Option (Nat × Nat) := none
  nextSteps : Option (Nat × Nat) := none
  /-- The steps that the release in force carries. -/
  relSteps  : Option (Nat × Nat) := none
  /-- T_REL of the release that ended the instance before. -/
  lastRel   : Nat := 0
  deriving DecidableEq, Repr

/-- The tables a casting gives for groups, trees and barriers, and the barrier nodes: keyed by group, by tree and by
256 troupe + barrier; ports, routes and peer tables (R269, R279, R285), and what is under way on the fabric. -/
structure Fab where
  groups   : Map GroupRec := []
  trees    : Map TreeRec := []
  barriers : List BarrierEnt := []
  nodes    : Map BarState := []
  ports    : Map Port := []
  /-- Next-hop ports by destination LMID (R279). -/
  routes   : Map (List Nat) := []
  /-- ROUTE_TIMEOUT in ms (R280). -/
  routeTimeout : Nat := 1
  /-- Peer tables by troupe: LMID and LTAG of each entry (R285). -/
  peers    : Map (List (Nat × Nat)) := []
  /-- Parts of packets that wait to be sent, oldest first. -/
  tx       : List TxFlit := []
  /-- Packets of collectives between troupes of this module. -/
  within   : List Packet := []
  /-- Packets that have arrived in part. -/
  parts    : List PktPart := []
  /-- Credits that wait for the landing slots of their flits (R283). -/
  owed     : List Owed := []
  /-- End-to-end identities applied (R278): source, core, descriptor, kind, address and offset. -/
  seen     : List (PktIdent) := []
  gathers  : List Gather := []
  acks     : List AckDue := []
  /-- Nodes of collectives, by troupe, tree and instance. -/
  colls    : List ((Nat × Nat × Nat) × CollNode) := []
  runs     : List CollRun := []
  deriving DecidableEq, Repr

end Sys2Proof.Machine
end

