-- ==== Sys2Proof/Machine/StateHw.lean ====
section
/-! DEFINITION. The state of the input controller and of what is plugged in (R435 to R441, R448, R450, R472 to R475), which a module
reset does not touch, and the hub's power, clock and thermal registers (R459). -/

namespace Sys2Proof.Machine

/-- How far the input controller has brought the module up (R436, R437, R439, R440, R445, R448). -/
inductive PwrPhase where
  /-- No rail is on, and the input has not qualified. -/
  | off
  /-- A step of the rail sequence is under way. -/
  | rising
  /-- Every rail reports power-good, and hub reset is still held. -/
  | good
  /-- Hub reset has been released since the power-up. -/
  | up
  /-- A rail was shorted; one power-up follows after 2 s. -/
  | shortWait
  /-- The root PLL lost lock; a power-up follows after 100 ms. -/
  | clkWait
  /-- A fault stop: the rails stay off. -/
  | faultStop
  deriving DecidableEq, Repr

/-- The code of a phase in a READ_STATUS answer (R450: the spec names the rail state and gives no codes). -/
def PwrPhase.code : PwrPhase → Nat
  | .off => 0 | .rising => 1 | .good => 2 | .up => 3 | .shortWait => 4 | .clkWait => 5 | .faultStop => 6

/-- An entry of the fault log (R435): an event code, a rail or die number, and the count of power-ups. -/
structure LogEnt where
  code : Nat
  num  : Nat := 0
  ups  : Nat := 0
  deriving DecidableEq, Repr

/-- The input controller, the reference, and what is plugged in. -/
structure Hw where
  /-- The input is present at the blade connector, with correct polarity. -/
  present    : Bool := false
  phase      : PwrPhase := .off
  /-- Sequence step under way, 1 to 7 (R439). -/
  seqStep    : Nat := 0
  /-- Rails that report power-good. -/
  railsOn    : List Nat := []
  /-- The rail whose short this power-up follows (R440). -/
  retryOf    : Option Nat := none
  /-- The fault stop in force: event code and rail or die (R440, R448). -/
  stopAt     : Option (Nat × Nat) := none
  /-- The non-volatile log, oldest first, and its OVERFLOW mark (R435). -/
  log        : List LogEnt := []
  logOvf     : Bool := false
  /-- Power-ups so far. -/
  ups        : Nat := 0
  /-- Rails on local sense (R441). -/
  onLocal    : List Nat := []
  /-- The latest measurement: 10 mV, 10 mA, W. -/
  vin        : Nat := 0
  iin        : Nat := 0
  pin        : Nat := 0
  /-- The input power of the latest ten measurements, newest first (R438). -/
  pins       : List Nat := []
  /-- Crossings that may be reported (R436, R449). -/
  uvArmed    : Bool := true
  ovArmed    : Bool := true
  hotArmed   : Bool := true
  flowArmed  : Bool := true
  /-- CBL_DET# is low (R472); the reference is present and within 500 ppm (R444). -/
  cable      : Bool := false
  refOk      : Bool := false
  /-- Plug-ins by port: the power that they declare, in W (R475). -/
  plugs      : Map Nat := []
  deriving DecidableEq, Repr

/-- HUB_PWR_STATUS, HUB_PWR_CAP, HUB_PWR_EVT, HUB_CLK, HUB_THERM, HUB_THROT (R459). -/
structure HubPwr where
  vin       : Nat := 0
  iin       : Nat := 0
  pin       : Nat := 0
  capW      : Nat := 4400
  warnCnt   : Nat := 0
  capCnt    : Nat := 0
  logOvf    : Bool := false
  powerCap  : Bool := false
  regHot    : Bool := false
  ocWarn    : Bool := false
  senseOpen : Bool := false
  inputOv   : Bool := false
  inputUv   : Bool := false
  /-- The mean input power is above CAP_W (R438). -/
  capping   : Bool := false
  /-- The boot ROM waits for the reference (R473). -/
  waitRef   : Bool := false
  /-- The PLLs are locked. -/
  locked    : Bool := false
  holdover  : Bool := false
  refLost   : Bool := false
  margin    : Int := 0
  hottest   : Nat := 0
  inlet     : Nat := 0
  outlet    : Nat := 0
  throtCnt  : Nat := 0
  flowEv    : Bool := false
  hotEv     : Bool := false
  throttle  : Bool := false
  /-- The power term and the thermal term of each tile (R447). -/
  power     : Nat := 0
  terms     : Map Nat := []
  deriving DecidableEq, Repr

end Sys2Proof.Machine
end

