-- ==== Sys2Proof/Machine/StateMem.lean ====
section
/-! DEFINITION. The state of memory: stack contents, tile buffers, poison marks, error counters, map registers and the
pages and writes held by a snapshot (R242 to R251, R356, R357). -/

namespace Sys2Proof.Machine

/-- Who waits for a write: nobody the model tracks, a core's descriptor (R77, R357), or a descriptor of another module, by its
LMID, core and number (R286). -/
inductive Owner where
  | none
  | desc (core id : Nat)
  | remote (src core id : Nat)
  deriving DecidableEq, Repr

/-- A write that waits for a pending stack page (R357). -/
structure Stalled where
  key   : Nat
  addr  : Nat
  bytes : List Byte
  owner : Owner
  deriving DecidableEq, Repr

/-- Per-stack registers: STK_MAP, STK_ECC, STK_ECC_ADDR, STK_SNAP (R247, R251, 18), and the Whetstone window (R218). -/
structure Stack where
  spare      : Nat := 0
  replay     : Nat := 0
  ceCnt      : Nat := 0
  ueCnt      : Nat := 0
  patrolDone : Bool := false
  ue         : Bool := false
  ce         : Bool := false
  eccValid   : Bool := false
  eccAddr    : Nat := 0
  stallCnt   : Nat := 0
  snapBusy   : Bool := false
  whetBase   : Nat := 0
  whetSize   : Nat := 0
  memErrCnt  : Nat := 0
  whetRanges : Nat := 0
  memErr     : Bool := false
  whetBusy   : Bool := false
  whetElems  : Nat := 0
  deriving DecidableEq, Repr

/-- Memory and its controllers. Memory bytes are keyed by physical address, tile buffer bytes by tile * 0x2000000 + offset,
pending pages by stack * 12288 + page, poisoned units by physical address. `weak` holds the units with a stored error that no read has found or
that is not yet corrected: whether the code cannot correct it (R249). -/
structure Mem where
  bytes    : Memory := []
  tbuf     : Memory := []
  poison   : List Nat := []
  weak     : Map Bool := []
  zeroed   : Bool := false
  ilBase   : Nat := 0
  ilTop    : Nat := 0
  hubStack : Nat := 0
  stks     : Map Stack := []
  pages    : List Nat := []
  stalled  : List Stalled := []
  deriving DecidableEq, Repr

end Sys2Proof.Machine
end

