-- ==== Sys2Proof/Machine/StateWt.lean ====
section
/-! DEFINITION. The state of weight loading (R252 to R256), the shard table (R264) and the digest scrub (R266, R267). -/

namespace Sys2Proof.Machine

/-- A load held by the module (R255): its command, its record, and, of a load whose turn has come, SCALES of its compressed stream (R259). -/
structure HeldLoad where
  hdr     : CmdHdr
  record  : LoadRecord
  running : Bool := false
  scales  : Bool := false
  deriving DecidableEq, Repr

/-- An entry of the shard table (R264). The key of the table is the entry's index. -/
structure Shard where
  digest  : Nat
  dst     : Nat
  bytes   : Nat
  tCheck  : Nat
  troupe  : Nat
  damaged : Bool := false
  dpitchU : Nat
  loadId  : Nat
  /-- Offsets and lengths of the bytes that the digest covers: the gaps of DPITCH are left out (R263). -/
  parts   : List (Nat × Nat) := []
  deriving DecidableEq, Repr

/-- Loads, shards, WCH_SCRUB and WCH_SCRUB_EVT. -/
structure Wt where
  loads      : List HeldLoad := []
  shards     : Map Shard := []
  digestMin  : Nat := 10
  patrolH    : Nat := 24
  damageHold : Bool := false
  failCnt    : Nat := 0
  round      : Bool := false
  fail       : Bool := false
  deriving DecidableEq, Repr

end Sys2Proof.Machine
end

