-- ==== Sys2Proof/Machine/State.lean ====
section
/-! DEFINITION. The whole state of the module, the reasons a command can stop, and the state after reset. -/

namespace Sys2Proof.Machine

/-- HUB_BOOT.STATE (R410). -/
inductive BootState where
  | reset | rom | recovery | hubfw | stopped | uncast | ready
  deriving DecidableEq, Repr

/-- Why a command faults. No rule of the spec stops the module: every hardware refusal is a status, an event or a
CORE_FAULT code and so a next state. The constructor stands for no command's outcome and is raised by none (safe). -/
inductive Fault where
  /-- Raised by no command. -/
  | none
  deriving DecidableEq, Repr

/-- Why a command is refused by the model. -/
inductive Refusal where
  /-- No meaning is given to the row yet: raised by an arm of exec (safe: nothing can be proved of the row). -/
  | notModelled (mnemonic : String)
  deriving DecidableEq, Repr

/-- One troupe: its casting parameters and everything it holds. -/
structure Troupe where
  cfg    : TroupeCfg := {}
  regs   : TrpRegs := {}
  queues : Map TrpQueue := []
  flint  : TrpFlint := {}
  gen    : Gen := {}
  lrn    : Lrn := {}
  /-- The image in the context area: the last one saved, or one that TRP_CTX_PUT placed (R339, R341). -/
  area   : Option CtxImage := none
  /-- An accepted image that the next switch in restores (R341). -/
  toRestore : Option CtxImage := none
  /-- Changes of translation entries that wait for accesses through the old ones (R326). -/
  maps   : List HeldMap := []
  /-- Teardowns registered and not complete (R342, R343), and level 2 resets (R431): command, opcode and status. -/
  tears  : List (CmdHdr × Nat × Nat) := []
  /-- A teardown has scrubbed the troupe, and nothing of it has run since (R342). -/
  scrubbed : Bool := false
  deriving DecidableEq, Repr

/-- HUB_ACC_ERR (R462). -/
structure AccErr where
  cnt    : Nat := 0
  offset : Nat := 0
  kind   : Bool := false
  err    : Bool := false
  deriving DecidableEq, Repr

/-- The module. -/
structure State where
  /-- Commands that wait, oldest first. -/
  pending : List Instr := []
  /-- CUE_COUNT (R319). -/
  cue     : Nat := 0
  cueRegs : CueRegs := {}
  fab     : Fab := {}
  boot    : BootState := .reset
  bt      : Boot := {}
  record  : ModRecord := {}
  lmid    : Nat := 0xFFF
  accErr  : AccErr := {}
  tab     : Tab := {}
  hw      : Hw := {}
  pwr     : HubPwr := {}
  mem     : Mem := {}
  wt      : Wt := {}
  /-- The Prompter's slots (R213). -/
  prm     : Map PromSlot := []
  ckpt    : Ckpt := {}
  /-- The casting image in force (R424). -/
  cast    : Option CastImage := none
  troupes : Map Troupe := []
  /-- The semaphore store: 16,384 counters of 32 bits (R327). -/
  sems    : Map Nat := []
  thl     : Thl := {}
  /-- Cores: physical core 68 t + p, and at 512 (t + 1) + l the saved context of logical core l of troupe t, whose cores another
  troupe holds (R336). -/
  cores   : Map Core := []
  /-- Switches under way, and those that wait for an earlier one that names a troupe of theirs (R335). -/
  switches : List Switch := []
  waitSw   : List Switch := []
  /-- Cores whose SEM.TAKE waits, in the order in which the semaphore store accepted them (R78). -/
  takers  : List Nat := []
  /-- Cores that a cluster sequencer reported as not started, newest first (R80). -/
  notStarted : List Nat := []
  out     : Outbox := {}
  /-- Counter of the model's own: how many free values have been drawn. -/
  fresh   : Nat := 0
  deriving DecidableEq, Repr

/-- The configuration flash of a full-variant module as it ships: its module record, and the vendor's firmware and bundle record in bank A, with
no owner record and no casting image (R404, R479). The serial number, the RELEASE values and the interface version, each 1, are the
model's (assumption 32). -/
def flashShipped : Flash :=
  { hub := { a := some { sig := { type := 1 }, release := 1, ifv := 1 } },
    core := { a := some { sig := { type := 2 }, release := 1, ifv := 1, needs := 1 } },
    link := { a := some { sig := { type := 3 }, release := 1, ifv := 1, needs := 1 } },
    bundle := { a := some { sig := { type := 4 }, entries := [(1, 1, 1, 1)] } },
    modRec := some { sig := { type := 5, serial := 1 }, body := recordK640 1 } }

/-- The module right after reset: as shipped, with hub reset asserted, no input power, no cable and no reference. -/
def State.reset : State := { bt := { flash := flashShipped } }

end Sys2Proof.Machine
end

