-- ==== Sys2Proof/Machine/Ops.lean ====
section
/-! DEFINITION. The shared operations: parts of the state, events (R386, R387), freeze triggers (R451), completions (R385),
refusals of core instructions (R84), and the wrappers that every command's meaning goes through. -/

namespace Sys2Proof.Machine

/-! ### Parts of the state -/

/-- Physical cores of the module (R10). -/
def physCores : Nat := 272
/-- Physical core `c` (68 t + p), or a saved context. -/
def State.core (s : State) (c : Nat) : Core := mapGet {} s.cores c
/-- Replace physical core `c`. -/
def State.setCore (s : State) (c : Nat) (k : Core) : State := { s with cores := mapPut s.cores c k }
/-- Change physical core `c`. -/
def State.modCore (s : State) (c : Nat) (f : Core → Core) : State := s.setCore c (f (s.core c))
/-- Troupe `t`. -/
def State.troupe (s : State) (t : Nat) : Troupe := mapGet {} s.troupes t
/-- Replace troupe `t`. -/
def State.setTroupe (s : State) (t : Nat) (x : Troupe) : State := { s with troupes := mapPut s.troupes t x }
/-- Change troupe `t`. -/
def State.modTroupe (s : State) (t : Nat) (f : Troupe → Troupe) : State := s.setTroupe t (f (s.troupe t))
/-- Stack `n`. -/
def State.stack (s : State) (n : Nat) : Stack := mapGet {} s.mem.stks n
/-- Change stack `n`. -/
def State.modStack (s : State) (n : Nat) (f : Stack → Stack) : State :=
  { s with mem.stks := mapPut s.mem.stks n (f (s.stack n)) }
/-- Change the registers of core `c`. -/
def State.modRegs (s : State) (c : Nat) (f : CoreRegs → CoreRegs) : State := s.modCore c (fun k => { k with regs := f k.regs })

/-- Is troupe `t` in the casting image in force? -/
def State.hasTroupe (s : State) (t : Nat) : Bool := (s.troupe t).regs.state != .absent

/-- Does the module hold its state still: from T_F of a freeze until the dividers restart (R453, R457)? -/
def State.held (s : State) : Bool :=
  match s.tab.state with
  | .running => false
  | .freezing => s.tab.tF ≤ s.cue
  | .frozen => true
  | .resuming => true

/-- Does troupe `t` stand at a cut point, paused until the release of its checkpoint (R353, R355) or the end of a comparison (R368)? -/
def State.paused (s : State) (t : Nat) : Bool := s.ckpt.jobs.any (fun e => e.2.atCut.contains t || e.2.cmpAt.contains t)

/-- Do the hub and its engines run: out of hub reset, with its clocks (R473), and not held by a freeze? -/
def State.alive (s : State) : Bool := s.boot != .reset && !s.held && !s.pwr.waitRef

/-- The next free value's number, and the state after it is drawn. -/
def State.draw (s : State) : Nat × State := (s.fresh, { s with fresh := s.fresh + 1 })

/-! ### The error watch's counts (R351) -/

/-- The 1 s bin of a Cue count (850 MHz). -/
def watchSec (cue : Nat) : Nat := cue / 850000000

/-- The error watch counts one occurrence of a cause at a stack, a port, or the module (unit 0); bins older than an hour are dropped. -/
def countWatch (c : WatchCause) (unit : Nat) (s : State) : State :=
  let now := watchSec s.cue
  let old := s.ckpt.watch.marks.filter (fun m => now < m.sec + 3600)
  let mine := fun (m : WatchMark) => m.cause == c && m.unit == unit && m.sec == now
  let marks := match old.find? mine with
    | some m => { m with n := m.n + 1 } :: old.filter (fun m => !mine m)
    | none => { cause := c, unit := unit, sec := now, n := 1 } :: old
  { s with ckpt.watch.marks := marks }

/-! ### Freeze triggers (R451) -/

/-- A freeze source fires. In a boot state that accepts no trigger, or while the module freezes or is frozen, it is
counted and discarded; else the freeze begins, T_F is 64 cycles on, and ARM is cleared. -/
def freezeTrigger (src : Nat) (s : State) : State :=
  let accepts := s.boot == .hubfw || s.boot == .stopped || s.boot == .uncast || s.boot == .ready
  if accepts && s.tab.state == .running then
    { s with tab.state := .freezing, tab.src := src, tab.tF := s.cue + 64, tab.arm := false }
  else { s with tab.ignCnt := inc16 s.tab.ignCnt }

/-! ### Events (R386, R387) -/

/-- The event-table entry of a code. -/
def State.occ (s : State) (code : Nat) : EvOcc := mapGet {} s.thl.events code

/-- The event queue that a slot's and troupe's binding gives (R387). -/
def boundQueue (s : State) (slot troupe : Nat) : Nat :=
  match mapFind s.thl.bindings (256 * slot + troupe) with
  | some q => q
  | none =>
    match mapFind s.thl.bindings (256 * slot + 255) with
    | some q => q
    | none => 0

/-- Event queue `q`, if there is one. Messages of commands fetched before ENABLE was cleared still go to admin queue 0 (R377). -/
def evtQueue? (s : State) (q : Nat) : Option EvtQueue := mapFind s.thl.evtQs q

/-- Is this module the one whose THL carries the queues? -/
def isLead (s : State) : Bool := s.thl.ens.standalone || s.thl.ens.mySlot == 0

/-- Write one message into event queue `q`, which has a free entry; an armed queue interrupts and is disarmed (R389). -/
def writeEvent (s : State) (q : Nat) (e : EvtQueue) (m : EvMsg) : State :=
  let n := 2 ^ e.log2n
  let ent : EvEntry := { eq := q, addr := e.base + 64 * e.tail, phase := e.phase, msg := { m with lost := e.lost } }
  let wrap := e.tail + 1 == n
  let e' := { e with tail := (if wrap then 0 else e.tail + 1), unread := e.unread + 1,
                     phase := (if wrap then !e.phase else e.phase), lost := false, armed := false }
  let s1 := { s with thl.evtQs := mapPut s.thl.evtQs q e', out.events := ent :: s.out.events,
                      out.hostWrites := (ent.addr, ent.bytes) :: s.out.hostWrites }
  if e.armed then { s1 with out.irqs := { isEvq := true, q := q, vector := e.vector } :: s1.out.irqs } else s1

/-- Drop one message: counted in THL_EVT, and LOST in the next message of the queue (R387). -/
def dropEvent (s : State) (q : Nat) : State :=
  let s1 := { s with thl.regs.evqDropCnt := inc16 s.thl.regs.evqDropCnt, thl.regs.evqDrop := true }
  match mapFind s.thl.evtQs q with
  | some e => { s1 with thl.evtQs := mapPut s1.thl.evtQs q { e with lost := true } }
  | none => s1

/-- Post an event message at the lead (R387). A queue that does not exist has no free entry, so the message is dropped. -/
def postAtLead (s : State) (m : EvMsg) : State :=
  let q := boundQueue s m.slot m.troupe
  match evtQueue? s q with
  | none => dropEvent s q
  | some e => if e.unread < 2 ^ e.log2n then writeEvent s q e m else dropEvent s q

/-- Post an event message: at the lead into its queue, or waiting for the link while it is down (R374); at a follower over
tag 0xFFF to the lead (R395), dropped and counted while the lead is FAILED (R397). -/
def postEvent (s : State) (m : EvMsg) : State :=
  if isLead s then
    if s.thl.regs.link == 2 then postAtLead s m else { s with thl.msgWait := s.thl.msgWait ++ [m] }
  else
    let lead := mapGet {} s.thl.ens.table 0
    if lead.state == 3 then dropEvent s (boundQueue s m.slot m.troupe)
    else { s with out.fabric := { kind := "event", dest := lead.lmid, vals := [m.code, m.slot, m.troupe, m.t, m.count], data := m.data } :: s.out.fabric }

/-- Raise an event of an assigned code to the host (R386): PEND, COUNT, and a message unless masked. With ARM and EN_EVENT set, the code EV_CODE triggers a freeze (R451). -/
def raiseEvent (code troupe : Nat) (data : List Byte) (s : State) : State :=
  let o := s.occ code
  let o' := { o with pend := true, count := inc16 o.count }
  let s1 := { s with thl.events := mapPut s.thl.events code o' }
  let s2 := if o.mask then s1
    else postEvent s1 { code := code, slot := s.thl.ens.mySlot, troupe := troupe, t := s.cue, count := o'.count, data := data }
  if s.tab.arm && s.tab.enEvent && s.tab.evCode == code then freezeTrigger 3 s2 else s2

/-- Raise a module-wide event. -/
def raiseModule (code : Nat) (data : List Byte) (s : State) : State := raiseEvent code 0xFF data s

/-! ### Notices (R388) -/

/-- Is the event queue of a notice able to take it at once: it exists, the link is up, it has a free entry and no earlier notice
of it waits? -/
def noticeFits (s : State) (q : Nat) : Option EvtQueue :=
  match evtQueue? s q with
  | none => none
  | some e =>
    if s.thl.regs.link == 2 && e.unread < 2 ^ e.log2n && !s.thl.buffers.any (fun n => n.eq == q) then some e else none

/-- Replace the waiting notice of the same queue and REQ_ID, keeping its place; the flag says that there was one. -/
def replaceNotice (n : Notice) : List Notice → List Notice × Bool
  | [] => ([], false)
  | x :: xs =>
    if n.key.isSome && x.key == n.key && x.eq == n.eq && x.msg.slot == n.msg.slot && x.msg.troupe == n.msg.troupe then (n :: xs, true)
    else let (ys, b) := replaceNotice n xs; (x :: ys, b)

/-- Is this module a follower whose lead is FAILED: what it has for the host waits in its hub area (R397)? -/
def leadLost (s : State) : Bool := !isLead s && (mapGet {} s.thl.ens.table 0).state == 3

/-- Post a notice at the lead: into its queue, the queue's buffer of 4,096, or waiting for a full buffer (R388). `key` is the REQ_ID of
a GEN_PROGRESS. -/
def noticeAtLead (m : EvMsg) (key : Option Nat) (s : State) : State :=
  let q := boundQueue s m.slot m.troupe
  match noticeFits s q with
  | some e => writeEvent s q e m
  | none =>
    let n : Notice := { eq := q, key := key, msg := m }
    let (b, hit) := replaceNotice n s.thl.buffers
    if hit then { s with thl.buffers := b }
    else if (s.thl.buffers.filter (fun x => x.eq == q)).length < 4096 then { s with thl.buffers := s.thl.buffers ++ [n] }
    else
      let (w, hit2) := replaceNotice n s.thl.atModule
      { s with thl.atModule := if hit2 then w else s.thl.atModule ++ [n] }

/-- A follower sends a notice to the lead (R395). -/
def relayNotice (m : EvMsg) (key : Option Nat) (s : State) : State :=
  { s with out.fabric := { kind := "notice", dest := (mapGet {} s.thl.ens.table 0).lmid
                           vals := [m.code, m.slot, m.troupe, m.t] ++ key.toList, data := m.data } :: s.out.fabric }

/-- Post a notice of troupe `t` (R388): at the lead, or over the fabric to it; while the lead is FAILED it waits (R397). -/
def postNotice (code t : Nat) (key : Option Nat) (data : List Byte) (s : State) : State :=
  let m : EvMsg := { code := code, slot := s.thl.ens.mySlot, troupe := t, notice := true, t := s.cue, count := 0, data := data }
  if isLead s then noticeAtLead m key s
  else if leadLost s then
    let n : Notice := { eq := boundQueue s m.slot t, key := key, msg := m }
    let (w, hit) := replaceNotice n s.thl.atModule
    { s with thl.atModule := if hit then w else s.thl.atModule ++ [n] }
  else relayNotice m key s

/-- Does a notice of this module's troupe `t` wait at the module for a full buffer (R388)? -/
def noticeWaits (s : State) (t : Nat) : Bool :=
  !leadLost s && s.thl.atModule.any (fun n => n.msg.troupe == t && n.msg.slot == s.thl.ens.mySlot)

/-- Does a notice of the event queue of troupe `t` wait at the module (R388)? -/
def noticeHolds (s : State) (t : Nat) : Bool :=
  let q := boundQueue s s.thl.ens.mySlot t
  !leadLost s && s.thl.atModule.any (fun n => n.eq == q)

/-- The membership state of an LMID as this module holds it (R393): in its ensemble, or in another one; a module that no table names
is present to itself. -/
def lmidState (s : State) (l : Nat) : Nat :=
  match s.thl.ens.table.find? (fun e => e.2.lmid == l) with
  | some e => e.2.state
  | none => match mapFind s.thl.ens.others l with
    | some o => o.1
    | none => if l == s.lmid then 2 else 0

/-! ### Completions (R384, R385) -/

/-- Complete a host command: its completion waits to be written into the entry reserved for it. -/
def complete (h : CmdHdr) (opcode status : Nat) (s : State) : State :=
  { s with thl.cplWait := s.thl.cplWait ++ [{ hdr := h, opcode := opcode, status := status, tDone := s.cue }] }

/-- Complete a host command with a record in the entry's body. -/
def completeRec (h : CmdHdr) (opcode status : Nat) (body : List Byte) (s : State) : State :=
  { s with thl.cplWait := s.thl.cplWait ++
      [{ hdr := h, opcode := opcode, status := status, isRec := true, body := body, tDone := s.cue }] }

/-- Write bytes into host memory. -/
def hostWrite (addr : Nat) (bytes : List Byte) (s : State) : State :=
  { s with out.hostWrites := (addr, bytes) :: s.out.hostWrites }

/-- Send a message to another module. -/
def sendFab (m : FabMsg) (s : State) : State := { s with out.fabric := m :: s.out.fabric }

/-! ### Wrappers of the meanings -/

/-- The next state, as every meaning answers it. -/
def nextS (s : State) : Host.Outcome State Fault Refusal := .next s

/-- The state that a command's meaning answers; a fault or refusal leaves it. -/
def stateAfter (s : State) : Host.Outcome State Fault Refusal → State
  | .next t => t
  | _ => s

/-- Commands that a boot state accepts (R410). -/
def bootAccepts (b : BootState) (opcode : Nat) : Bool :=
  match b with
  | .reset => false
  | .rom => false
  | .hubfw => false
  | .recovery => opcode == opFwStage || opcode == opReset
  | .stopped => opcode == opRecGet || opcode == opAttReport || opcode == opFwStage || opcode == opFwSelect ||
      opcode == opOwnInstall || opcode == opCastStore || opcode == opRpfCommit || opcode == opReset
  | .uncast => (0x0900 ≤ opcode && opcode ≤ 0x090A) || opcode == opQueueCreate || opcode == opQueueDelete || opcode == opEvqBind
  | .ready => true

/-- Is a fetched command of the same queue and slot, earlier than `h`, still without its completion (R383)? -/
def earlierOpen (h : CmdHdr) : List Fetched → Bool
  | [] => false
  | f :: fs => if f.hdr == h then false else (f.hdr.sq == h.sq && f.hdr.slot == h.slot) || earlierOpen h fs

/-- Must the command wait for its FENCE (R383)? -/
def fenced (s : State) (h : CmdHdr) : Bool :=
  match s.thl.fetched.find? (fun f => f.hdr == h) with
  | some f => f.fence && earlierOpen h s.thl.fetched
  | none => false

/-- A host command reaches the module that owns its slot and is registered there (R383). The hub answers no command while
frozen or in hub reset (R454, R410); a fenced command is not registered before the earlier ones have completed; commands wait while
a casting image takes effect (R426), but for another CAST_APPLY, which is refused (R425); a command
that the boot state does not accept completes with BOOT_STATE. -/
def hostCmd (h : CmdHdr) (opcode : Nat) (f : State → State) (s : State) : Host.Outcome State Fault Refusal :=
  if !s.alive then nextS s
  else if fenced s h || (s.bt.applying.isSome && opcode != opCastApply) then nextS s
  else if !bootAccepts s.boot opcode then nextS (complete h opcode stBootState s)
  else nextS (f s)

/-- A register write: the hub answers none while frozen or held in reset (R454). -/
def regWrite (f : State → State) (s : State) : Host.Outcome State Fault Refusal :=
  if s.alive then nextS (f s) else nextS s

/-- A step of one of the module's own units, which runs while the hub is out of reset and the module is not frozen. -/
def engine (f : State → State) (s : State) : Host.Outcome State Fault Refusal :=
  if s.alive then nextS (f s) else nextS s

/-! ### Core instructions -/

/-- What an issued instruction does: the state after it, or its refusal with a CORE_FAULT code. -/
inductive Issue where
  | ok (s : State)
  | refuse (code : Nat)

/-- DATA of a core's events (R467): logical number, tile and physical core. -/
def coreData (c : Nat) (k : Core) : List Byte :=
  leBytes 2 k.regs.lcore ++ leBytes 1 (c / 68) ++ leBytes 1 (c % 68)

/-- The bits of CORE_ARITH that a refusal sets (R47, R48, R84). -/
def refuseArith (code : Nat) (a : Arith) : Arith :=
  if code == rfTagInvalid then { a with tagInvalid := true, refuseCount := inc16 a.refuseCount }
  else if code == rfChunkAlign then { a with chunkAlign := true, refuseCount := inc16 a.refuseCount }
  else a

/-- An instruction is refused: the list halts at it, STATE becomes faulted, CORE_FAULT records the first refusal since FAULT
was cleared, the event is raised when FAULT rises and, armed, a freeze is triggered (R84, R467, R451). -/
def refuseCore (c code : Nat) (s : State) : State :=
  let k := s.core c
  let r := k.regs
  let r' := { r with state := .faulted, fault := true,
                     faultCode := (if r.fault then r.faultCode else code),
                     faultPc := (if r.fault then r.faultPc else r.pc) }
  let s1 := s.setCore c { k with regs := r', arith := refuseArith code k.arith }
  let s2 := if r.fault then s1 else raiseEvent evCoreFault r.troupe (coreData c k) s1
  if s.tab.arm && s.tab.enFault && !r.fault then freezeTrigger 5 s2 else s2

/-- An ND-marked instruction has issued on core `c`: ND_SEEN and ND_COUNT (R54), and the troupe's bit of CUE_ND_MAP (R305). -/
def markNd (c : Nat) (s : State) : State :=
  let t := (s.core c).regs.troupe
  let s1 := s.modRegs c (fun r => { r with ndSeen := true, ndCount := inc16 r.ndCount })
  if t < 64 then { s1 with cueRegs.ndMap := setBitTo s1.cueRegs.ndMap t true } else s1

/-- The state in which an instruction of core `c` takes effect: CORE_PC past it, its ND mark recorded. -/
def issueState (c : Nat) (nd : Bool) (s : State) : State :=
  let s1 := s.modRegs c (fun r => { r with pc := r.pc + 16 })
  if nd then markNd c s1 else s1

/-- Do cores of troupe `t` issue: it is resident, not leaving its cores (R322, R336, R342)? A core without a troupe is not restrained. -/
def mayIssue (s : State) (t : Nat) : Bool :=
  if 64 ≤ t then true
  else (s.troupe t).regs.state == .resident || (s.troupe t).regs.state == .waitPort

/-- Does core `c` issue now: running, not stopping, waiting for nothing, the module not held (R50, R82)? -/
def issues (s : State) (c : Nat) : Bool :=
  let r := (s.core c).regs
  s.alive && r.state == .running && !r.stopping && r.wait == .none && mayIssue s r.troupe

/-- Issue one instruction on core `c` (R50): the body runs in the state in which CORE_PC has moved past the instruction and
the ND mark is recorded (R54); a refused instruction does neither (R54, R84). The command has no effect while the core does
not issue. -/
def coreIssue (c : Nat) (nd : Bool) (body : State → Issue) (s : State) : Host.Outcome State Fault Refusal :=
  if issues s c then
    match body (issueState c nd s) with
    | .ok s' => nextS s'
    | .refuse code => nextS (refuseCore c code s)
  else nextS s

/-! ### Sticky arithmetic conditions (R47, R48, R467) -/

/-- What an instruction's arithmetic raised. -/
structure ArithRep where
  nf   : Bool := false
  low  : Bool := false
  high : Bool := false
  sat  : Bool := false
  deriving DecidableEq, Repr

/-- Record the conditions of one instruction of core `c`: sticky bits, one count per condition, and the events of the bits that
rise (R467). -/
def noteArith (c : Nat) (a : ArithRep) (s : State) : State :=
  let k := s.core c
  let o := k.arith
  let n := { o with nf := o.nf || a.nf, awLow := o.awLow || a.low, awHigh := o.awHigh || a.high, convSat := o.convSat || a.sat,
                    nfCount := (if a.nf then inc16 o.nfCount else o.nfCount),
                    awCount := (if a.low || a.high then inc16 o.awCount else o.awCount),
                    satCount := (if a.sat then inc16 o.satCount else o.satCount) }
  let s1 := s.setCore c { k with arith := n }
  let s2 := if (a.low || a.high) && !o.awLow && !o.awHigh then raiseEvent evAccWindow k.regs.troupe (coreData c k) s1 else s1
  if a.nf && !o.nf then raiseEvent evArithNf k.regs.troupe (coreData c k) s2 else s2

/-! ### Register sets of a core -/

/-- Write a vector element. -/
def Core.vPut (k : Core) (r i : Nat) (x : F32) : Core := { k with v := mapPut k.v (256 * r + i) x }
/-- Write a predicate bit. -/
def Core.pPut (k : Core) (r i : Nat) (b : Bool) : Core := { k with p := mapPut k.p (256 * r + i) b }
/-- Write a scalar register. -/
def Core.sPut (k : Core) (r : Nat) (x : Word) : Core := { k with s := mapPut k.s r x }
/-- Write a tag-file entry. -/
def Core.tagPut (k : Core) (r : Nat) (x : Word) : Core := { k with tags := mapPut k.tags r x }

/-- Bytes in the core store (R64). -/
def storeBytes : Nat := 0x180000

end Sys2Proof.Machine
end

