-- ==== Sys2Proof/Machine/MemOps.lean ====
section
/-! DEFINITION. The address map (R242 to R245), translation (R323, R324) and reads and writes of memory, core stores and
tile buffers, with poisoned units (R250) and pending pages (R357). -/

namespace Sys2Proof.Machine

/-- Bytes of one stack (24 GiB, R242). -/
def stackBytes : Nat := 0x600000000
/-- A stack page and a troupe page: 2 MiB. -/
def pageBytes : Nat := 0x200000

/-- Is stack `n` enabled by the variant record (R17, R405)? -/
def stackEnabled (s : State) (n : Nat) : Bool := bitOf s.record.stackMask n

/-- Enabled stacks in ascending number. -/
def enabledStacks (s : State) : List Nat := (List.range 20).filter (stackEnabled s)

/-- The position of `x` in a list. -/
def indexIn (x : Nat) : List Nat → Nat
  | [] => 0
  | y :: ys => if x == y then 0 else indexIn x ys + 1

/-- The stack and offset that hold physical memory address `a` (R244). -/
def stackOf (s : State) (a : Nat) : Nat × Nat :=
  let n := a / stackBytes
  let o := a % stackBytes
  if s.mem.ilBase * pageBytes ≤ o && o < s.mem.ilTop * pageBytes then
    let en := enabledStacks s
    (nth n en ((indexIn n en + o / 4096) % (if en.length == 0 then 1 else en.length)), o)
  else (n, o)

/-- The physical memory address of offset `o` of stack `n` (R244). -/
def stackAt (s : State) (n o : Nat) : Nat :=
  if s.mem.ilBase * pageBytes ≤ o && o < s.mem.ilTop * pageBytes then
    let en := enabledStacks s
    let k := if en.length == 0 then 1 else en.length
    nth n en ((indexIn n en + k - o / 4096 % k) % k) * stackBytes + o
  else n * stackBytes + o

/-- The physical core that holds a logical number (R13), if one does. -/
def coreOfLogical (s : State) (l : Nat) : Option Nat :=
  match s.cores.find? (fun e => e.1 < physCores && e.2.regs.lcore == l) with
  | some e => some e.1
  | none => none

/-- What a physical address reaches. -/
inductive Loc where
  | mem (a : Nat)
  | store (c off : Nat)
  | tbuf (tile off : Nat)
  deriving DecidableEq, Repr

/-- The target of a physical address, or the status that refuses it (R243, R66). -/
def physLoc (s : State) (a : Nat) : Except Nat Loc :=
  if a < 0x7800000000 then
    if stackEnabled s (a / stackBytes) then .ok (.mem a) else .error stAddrHole
  else if 0xE00000000000 ≤ a && a < 0xE00000000000 + 256 * 0x1000000 then
    let o := a - 0xE00000000000
    match coreOfLogical s (o / 0x1000000) with
    | none => .error stAddrHole
    | some c => if o % 0x1000000 < storeBytes then .ok (.store c (o % 0x1000000)) else .error stStoreRange
  else if 0xE10000000000 ≤ a && a < 0xE10000000000 + 4 * 0x4000000 then
    let o := a - 0xE10000000000
    if o % 0x4000000 < 0x2000000 then .ok (.tbuf (o / 0x4000000) (o % 0x4000000)) else .error stAddrHole
  else .error stAddrHole

/-- The translation entry of troupe page `i` as a number, read from the troupe's table (R323). -/
def xlatEntry (s : State) (t i : Nat) : Nat := s.mem.bytes.nat ((s.troupe t).cfg.xlatBase + 8 * i) 8

/-- The physical address of a troupe memory address, or a fault of the translation (R324 step 2). -/
def xlate (s : State) (t a : Nat) (write : Bool) : Option Nat :=
  let i := a / pageBytes
  if (s.troupe t).cfg.xlatPages ≤ i then none
  else
    let e := xlatEntry s t i
    if bitOf e 63 && (if write then bitOf e 61 else bitOf e 62) then some (bitsOf e 47 21 * pageBytes + a % pageBytes) else none

/-- Does the troupe hold the core (R323)? It does until the switch has saved it, so that started packets complete (R336). -/
def holdsCore (s : State) (t c : Nat) : Bool := (s.core c).regs.troupe == t

/-- Tile of a quad (R10, R320). -/
def tileOfQuad (q : Nat) : Nat := q / 16

/-- Does the troupe's slice of tile `t`'s buffer hold the offset (R323)? -/
def inSlice (s : State) (t tile off : Nat) : Bool :=
  let c := (s.troupe t).cfg
  bitsOf c.quads (16 * tile + 15) (16 * tile) != 0 && c.tbBase * 65536 ≤ off && off < (c.tbBase + c.tbSize) * 65536

/-- Where a refused access leaves its mark: the status and, for XLAT_FAULT, the KIND and address (R324, R344). -/
structure AccFault where
  status : Nat
  kind   : Nat := 0
  addr   : Nat := 0
  deriving DecidableEq, Repr

/-- The target of an address that troupe `t` names (R324). -/
def troupeLoc (s : State) (t a : Nat) (write : Bool) : Except AccFault Loc :=
  if a < 0x10000000000 then
    match xlate s t a write with
    | none => .error { status := stXlatFault, kind := b2n write, addr := a }
    | some p =>
      match physLoc s p with
      | .error st => .error { status := st }
      | .ok l => .ok l
  else
    match physLoc s a with
    | .error st => .error { status := st }
    | .ok (.mem _) => .error { status := stAddrHole }
    | .ok (.store c o) =>
      if holdsCore s t c then .ok (.store c o) else .error { status := stXlatFault, kind := 2, addr := a }
    | .ok (.tbuf ti o) =>
      if inSlice s t ti o then .ok (.tbuf ti o) else .error { status := stXlatFault, kind := 2, addr := a }

/-- Record a translation fault of troupe `t` (R324, R344). -/
def noteXlat (t : Nat) (f : AccFault) (s : State) : State :=
  if f.status == stXlatFault then
    s.modTroupe t (fun x =>
      { x with
        regs.xlat := true, regs.xlatCnt := inc16 x.regs.xlatCnt, regs.xfValid := true, regs.xfKind := f.kind
        regs.xfAddr := f.addr })
  else s

/-- The pieces of a byte range that lie in one 2 MiB page each: start and length; by fuel. -/
def pagePieces : Nat → Nat → Nat → List (Nat × Nat)
  | 0, _, _ => []
  | k + 1, a, n =>
    if n == 0 then []
    else
      let room := pageBytes - a % pageBytes
      if n ≤ room then [(a, n)] else (a, room) :: pagePieces k (a + room) (n - room)

/-- The targets of a byte range that troupe `t` names, page by page. -/
def rangeLocs (s : State) (t : Nat) (write : Bool) : List (Nat × Nat) → Except AccFault (List (Loc × Nat))
  | [] => .ok []
  | (a, n) :: rest =>
    match troupeLoc s t a write, troupeLoc s t (a + n - 1) write with
    | .ok l, .ok _ =>
      match rangeLocs s t write rest with
      | .ok ls => .ok ((l, n) :: ls)
      | .error f => .error f
    | .error f, _ => .error f
    | _, .error f => .error f

/-- The read-only windows of troupe `t`, a learner's at GOV_ADDR and OPT_ADDR: address and length (R176, R185, R188, R216). -/
def roWindows (s : State) (t : Nat) : List (Nat × Nat) :=
  let l := (s.troupe t).lrn
  if l.cfg.present then [(l.cfg.govAddr, 80 * l.binds.length), (l.cfg.optAddr, 0x1A00)] else []

/-- The targets of `n` bytes from address `a` of troupe `t`. A write into a read-only window is refused as one to a page whose entry lacks W
(R324; assumption 77). -/
def troupeRange (s : State) (t a n : Nat) (write : Bool) : Except AccFault (List (Loc × Nat)) :=
  match (if write then (roWindows s t).find? (fun w => a < w.1 + w.2 && w.1 < a + n) else none) with
  | some w => .error { status := stXlatFault, kind := 1, addr := max a w.1 }
  | none => rangeLocs s t write (pagePieces (n / pageBytes + 2) a n)

/-- Read `n` bytes at a target. -/
def readLoc (s : State) (l : Loc) (n : Nat) : List Byte :=
  match l with
  | .mem a => s.mem.bytes.readN a n
  | .store c o => (s.core c).store.readN o n
  | .tbuf ti o => s.mem.tbuf.readN (ti * 0x2000000 + o) n

/-- Read the bytes of a list of targets. -/
def readLocs (s : State) (ls : List (Loc × Nat)) : List Byte := ls.flatMap (fun l => readLoc s l.1 l.2)

/-- Units of 64 bytes that a physical range touches, by physical address. -/
def unitsOf (a n : Nat) : List Nat :=
  if n == 0 then [] else (List.range ((a + n - 1) / 64 + 1 - a / 64)).map (fun i => (a / 64 + i) * 64)

/-- Does the physical range touch a poisoned unit (R250)? -/
def poisoned (s : State) (a n : Nat) : Bool :=
  s.mem.poison.any (fun u => a < u + 64 && u < a + n)

/-- Is the content of the unit at `u` lost: it is poisoned, or the read that finds its stored error poisons it (R249)? -/
def unitLost (s : State) (u : Nat) : Bool := s.mem.poison.contains u || mapGet false s.mem.weak u

/-- Lost bytes of a target, one flag a byte. -/
def poisonFlags (s : State) (l : Loc) (n : Nat) : List Bool :=
  match l with
  | .mem a => (List.range n).map (fun i => unitLost s ((a + i) / 64 * 64))
  | _ => List.replicate n false

/-- The key of the stack page that holds a physical address. -/
def stackPage (s : State) (a : Nat) : Nat :=
  let (n, o) := stackOf s a
  n * 12288 + o / pageBytes

/-- The stored errors that a write of `n` bytes at `a` leaves: one of a unit written whole goes, and so does a correctable one of a unit written
in part (R249). -/
def weakAfter (m : Map Bool) (a n : Nat) : Map Bool :=
  m.filter (fun e => !(a < e.1 + 64 && e.1 < a + n) || (e.2 && !(a ≤ e.1 && e.1 + 64 ≤ a + n)))

/-- The bytes of a range that a write may store: partial writes of poisoned units are discarded, whole ones clear the mark. -/
def storeUnits (m : Mem) (a : Nat) (bytes : List Byte) : Mem × Bool :=
  let n := bytes.length
  let hit := m.poison.filter (fun u => a < u + 64 && u < a + n)
  let whole := hit.filter (fun u => a ≤ u && u + 64 ≤ a + n)
  let part := hit.filter (fun u => !(a ≤ u && u + 64 ≤ a + n))
  let go := fun (x : Memory × Nat) (b : Byte) =>
    (if part.contains (x.2 / 64 * 64) then x.1 else x.1.write x.2 b, x.2 + 1)
  ({ m with bytes := (bytes.foldl go (m.bytes, a)).1, poison := m.poison.filter (fun u => !whole.contains u), weak := weakAfter m.weak a n },
    !part.isEmpty)

/-- Write bytes at physical memory within one stack page: stalled while the page is pending (R357), else stored.
The flag says that a part was discarded at a poisoned unit (R250). -/
def writeMemPiece (owner : Owner) (s : State) (a : Nat) (bytes : List Byte) : State × Bool :=
  let key := stackPage s a
  if s.mem.pages.contains key then
    let s1 := { s with mem.stalled := s.mem.stalled ++ [({ key := key, addr := a, bytes := bytes, owner := owner } : Stalled)] }
    let s2 := { s1 with ckpt.jobs := s1.ckpt.jobs.map (fun (e : Nat × Job) =>
      if e.2.pages.contains key then (e.1, { e.2 with stallCnt := inc16 e.2.stallCnt }) else e) }
    (s2.modStack (key / 12288) (fun (k : Stack) => { k with stallCnt := inc16 k.stallCnt }), false)
  else
    let (m, bad) := storeUnits s.mem a bytes
    (({ s with mem := m } : State), bad)

/-- Pieces of 4 KiB of a byte list at an address, by fuel: each lies in one stack page whatever the interleave (R244). -/
def memPieces : Nat → Nat → List Byte → List (Nat × List Byte)
  | 0, _, _ => []
  | k + 1, a, bs =>
    if bs.isEmpty then []
    else
      let room := 4096 - a % 4096
      (a, bs.take room) :: memPieces k (a + room) (bs.drop room)

/-- Write bytes into physical memory. -/
def writeMem (owner : Owner) (s : State) (a : Nat) (bytes : List Byte) : State × Bool :=
  (memPieces (bytes.length / 4096 + 2) a bytes).foldl
    (fun x p => let (s', bad) := writeMemPiece owner x.1 p.1 p.2; (s', x.2 || bad)) (s, false)

/-- Write bytes into physical memory by one of the module's own units, which no discarded part concerns. -/
def hubWrite (s : State) (a : Nat) (bytes : List Byte) : State := (writeMem .none s a bytes).1

/-- Write bytes at a target. -/
def writeLoc (owner : Owner) (s : State) (l : Loc) (bytes : List Byte) : State × Bool :=
  match l with
  | .mem a => writeMem owner s a bytes
  | .store c o => (s.modCore c (fun (k : Core) => { k with store := k.store.writeN o bytes }), false)
  | .tbuf ti o => (({ s with mem.tbuf := s.mem.tbuf.writeN (ti * 0x2000000 + o) bytes } : State), false)

/-- Write bytes over a list of targets. -/
def writeLocs (owner : Owner) : State → List (Loc × Nat) → List Byte → State × Bool
  | s, [], _ => (s, false)
  | s, (l, n) :: rest, bs =>
    let (s1, b1) := writeLoc owner s l (bs.take n)
    let (s2, b2) := writeLocs owner s1 rest (bs.drop n)
    (s2, b1 || b2)

/-- The state as the module's own units see memory: their own stalled writes are seen by their later reads, which would
otherwise wait for them (R357; assumption 15). -/
def hubView (s : State) : State :=
  { s with mem.bytes := (s.mem.stalled.filter (fun w => w.owner == .none)).foldl (fun m w => m.writeN w.addr w.bytes) s.mem.bytes }

/-- Read `n` bytes at a troupe address for one of the module's units, if every one may be read. -/
def troupeRead (s : State) (t a n : Nat) : Option (List Byte) :=
  match troupeRange s t a n false with
  | .ok ls => some (readLocs (hubView s) ls)
  | .error _ => none

/-- The little-endian number at a troupe address; 0 where it may not be read. -/
def troupeNat (s : State) (t a n : Nat) : Nat :=
  match troupeRead s t a n with
  | some bs => leNat bs
  | none => 0

/-! ### Stored errors (R249) -/

/-- The troupe that owns a physical page: the first whose table maps it; 255 for none (R249). -/
def pageOwner (s : State) (a : Nat) : Nat :=
  match s.troupes.find? (fun e => (List.range e.2.cfg.xlatPages).any (fun i =>
    let x := xlatEntry s e.1 i
    bitOf x 63 && bitsOf x 47 21 == a / pageBytes)) with
  | some e => e.1
  | none => 255

/-- A read finds a unit correctable: the corrected data is delivered, and the error counted (R249). -/
def unitWeak (a : Nat) (s : State) : State :=
  let n := (stackOf s a).1
  (countWatch .ce n s).modStack n (fun (k : Stack) => { k with ce := true, ceCnt := satInc 0xFFFFFFFF k.ceCnt })

/-- A read finds a unit uncorrectable: it is poisoned, counted and reported (R249). -/
def unitBad (a : Nat) (s : State) : State :=
  let u := a / 64 * 64
  let n := (stackOf s a).1
  let s1 := s.modStack n (fun (k : Stack) => { k with ue := true, ueCnt := inc16 k.ueCnt, eccValid := true, eccAddr := u })
  raiseEvent evMemUe (pageOwner s a) (leBytes 1 n ++ leBytes 8 u ++ leBytes 1 (pageOwner s a))
    { s1 with mem.poison := (if s1.mem.poison.contains u then s1.mem.poison else u :: s1.mem.poison) }

/-- A read comes upon a unit with a stored error: one that cannot be corrected poisons the unit; another stays until the patrol or a write
corrects the stored copy (R249). -/
def findUnit (s : State) (e : Nat × Bool) : State :=
  if e.2 then unitBad e.1 { s with mem.weak := mapDel s.mem.weak e.1 } else unitWeak e.1 s

/-- Is the unit at `u` among those that a read of the targets touches? -/
def readsUnit (ls : List (Loc × Nat)) (u : Nat) : Bool :=
  ls.any (fun l => match l.1 with
    | .mem a => a < u + 64 && u < a + l.2
    | _ => false)

/-- A read of the targets finds the stored errors of its units (R249). -/
def findErrors (ls : List (Loc × Nat)) (s : State) : State := (s.mem.weak.filter (fun e => readsUnit ls e.1)).foldl findUnit s

/-- The targets of ranges that troupe `t` names, as far as it may read them. -/
def readTargets (s : State) (t : Nat) (rs : List (Nat × Nat)) : List (Loc × Nat) :=
  rs.flatMap (fun r => match troupeRange s t r.1 r.2 false with
    | .ok ls => ls
    | .error _ => [])

/-! ### Charging (R331) -/

/-- Bytes of a list of targets that lie in stacks. -/
def stackBytesOf (ls : List (Loc × Nat)) : Nat :=
  ls.foldl (fun n l => match l.1 with
    | .mem _ => n + l.2
    | _ => n) 0

/-- Charge stack traffic to troupe `t` (R331, R344). -/
def chargeStacks (t rd wr : Nat) (s : State) : State :=
  if t < 64 then
    s.modTroupe t (fun (x : Troupe) =>
      { x with
        regs.acct.stkRd := (x.regs.acct.stkRd + rd) % 2 ^ 64
        regs.acct.stkWr := (x.regs.acct.stkWr + wr) % 2 ^ 64 })
  else s

/-- The read of ranges of troupe `t` by one of the module's units: it is charged to the troupe, and finds the stored errors of its units (R331,
R249). -/
def chargeReads (t : Nat) (rs : List (Nat × Nat)) (s : State) : State :=
  let ls := readTargets s t rs
  chargeStacks t (stackBytesOf ls) 0 (findErrors ls s)

/-- The same of `n` bytes at a troupe address. -/
def chargeRead (t a n : Nat) (s : State) : State := chargeReads t [(a, n)] s

/-- Write bytes at a troupe address by one of the module's units, which charges nothing; an address outside the translation writes nothing. -/
def troupePut (s : State) (t a : Nat) (bytes : List Byte) : State :=
  match troupeRange s t a bytes.length true with
  | .ok ls => (writeLocs .none s ls bytes).1
  | .error _ => s

/-- The same for work that is the troupe's own, which is charged to it (R331). -/
def troupeWrite (s : State) (t a : Nat) (bytes : List Byte) : State :=
  match troupeRange s t a bytes.length true with
  | .ok ls => chargeStacks t 0 (stackBytesOf ls) (writeLocs .none s ls bytes).1
  | .error _ => s

/-- May troupe `t` read (and, when asked, write) the whole range? -/
def troupeMapped (s : State) (t a n : Nat) (read write : Bool) : Bool :=
  a + n ≤ 0x10000000000 &&
  (!read || (match troupeRange s t a n false with | .ok _ => true | .error _ => false)) &&
  (!write || (match troupeRange s t a n true with | .ok _ => true | .error _ => false))

end Sys2Proof.Machine
end

