-- ==== Sys2Proof/Machine/CueOps.lean ====
section
/-! DEFINITION. Shared operations of semaphores and queues (R327, R328), of trees (R307, R308) and of Cue barriers (R316, R317). -/

namespace Sys2Proof.Machine

/-! ### Semaphores -/

/-- The largest semaphore count (R327). -/
def semMax : Nat := 0xFFFFFFFF

/-- Does troupe `t` have semaphore `n` (R327)? -/
def semNamed (s : State) (t n : Nat) : Bool := n < (s.troupe t).cfg.semCount

/-- The count of troupe `t`'s semaphore `n`. -/
def semGet (s : State) (t n : Nat) : Nat := mapGet 0 s.sems ((s.troupe t).cfg.semBase + n)

/-- Set the count of troupe `t`'s semaphore `n`. -/
def semSet (t n v : Nat) (s : State) : State := { s with sems := mapPut s.sems ((s.troupe t).cfg.semBase + n) v }

/-- Add to a semaphore; a count that would pass 2^32 - 1 stays there and SEM_SAT is set (R327). -/
def semAdd (t n d : Nat) (s : State) : State :=
  let v := semGet s t n + d
  if v ≤ semMax then semSet t n v s
  else (semSet t n semMax s).modTroupe t (fun (x : Troupe) => { x with regs.semSat := true })

/-! ### Trees -/

/-- The rank of a member in a group, if it is one. -/
def rankOf (g : GroupRec) (lmid troupe : Nat) : Option Nat :=
  if g.members.contains (lmid, troupe) then
    some ((g.members.takeWhile (fun m => !(m.1 == lmid && m.2 == troupe))).length)
  else none

/-- Tree entry of rank `r`. -/
def TreeRec.ent (t : TreeRec) (r : Nat) : TreeEnt :=
  nth { parent := 0xFFFF, first := 0xFFFF, next := 0xFFFF, selfPos := 0 } t.entries r

/-- Siblings from rank `r` on, by fuel (R307). -/
def siblings (t : TreeRec) : Nat → Nat → List Nat
  | 0, _ => []
  | k + 1, r => if r == 0xFFFF then [] else r :: siblings t k (t.ent r).next

/-- Children of rank `r` in logical child order (R308). -/
def treeKids (t : TreeRec) (r : Nat) : List Nat := siblings t t.n (t.ent r).first

/-- The record of tree `n` and this module's rank in it for troupe `t`. -/
def treeAt (s : State) (n t : Nat) : Option (TreeRec × GroupRec × Nat) :=
  match mapFind s.fab.trees n with
  | none => none
  | some tr =>
    match mapFind s.fab.groups tr.group with
    | none => none
    | some g =>
      match rankOf g s.lmid t with
      | none => none
      | some r => some (tr, g, r)

/-! ### The follower (R312) -/

/-- The follower loses LOCK (R312). -/
def unlockCue (s : State) : State :=
  if s.cueRegs.master || !s.cueRegs.lock then { s with cueRegs.good := 0 }
  else
    raiseModule evCueUnlock []
      { s with cueRegs.good := 0, cueRegs.lock := false, cueRegs.unlock := true, cueRegs.unlockCnt := inc16 s.cueRegs.unlockCnt }

/-- An offset in whole cycles of 850 MHz, to the nearest. -/
def offsetCycles (ps : Int) : Int := (ps * 850 + 500000) / 1000000

/-- Is an offset within `n` cycles? -/
def withinCycles (ps : Int) (n : Nat) : Bool := ps.natAbs * 850 ≤ n * 1000000

/-- The first estimate before any troupe has started sets the count in one step; a later one adds or withholds one count, at most
once in 1,024 cycles (R312). The offset is the follower's count less its parent's (assumption 24). -/
def correctCue (ps : Int) (s : State) : State :=
  let n := offsetCycles ps
  if !s.cueRegs.estimated && !s.cueRegs.started then { s with cue := (((s.cue : Int) - n) % (2 ^ 64 : Int)).toNat }
  else if n == 0 || s.cue < s.cueRegs.slewed + 1024 then s
  else if n < 0 then { s with cue := (s.cue + 1) % 2 ^ 64, cueRegs.slewed := (s.cue + 1) % 2 ^ 64 }
  else { s with cueRegs.withhold := true, cueRegs.slewed := s.cue }

/-- LOCK after an estimate: 64 in a row within 1 cycle set it, one beyond 2 cycles clears it (R312). -/
def judgeLock (ps : Int) (s : State) : State :=
  if !withinCycles ps 2 then unlockCue s
  else if withinCycles ps 1 then
    let g := if s.cueRegs.good < 64 then s.cueRegs.good + 1 else 64
    { s with cueRegs.good := g, cueRegs.lock := s.cueRegs.lock || g == 64 }
  else { s with cueRegs.good := 0 }

/-- The follower's count less its parent's, in ps, from the four timestamps of an exchange that it began at t1 (R294, R311): its count at the
answer's arrival, less the parent's at the answer's sending and the one-way delay, of which its own internal delay is calibrated
(assumption 24). -/
def cueOffset (p : Nat) (t1 t2 t3 t4 : Int) : Int := (t4 - t3) - (((t4 - t1) - (t3 - t2)) / 2 - Config.portDelay p)

/-- A follower's exchange with its parent gives an estimate (R311, R312). -/
def takeEstimate (ps : Int) (s : State) : State :=
  let s1 := judgeLock ps (correctCue ps { s with cueRegs.offsetPs := ps })
  { s1 with cueRegs.lastX := s1.cue, cueRegs.estimated := true }

/-! ### Cue barriers -/

/-- The barrier node of troupe `t` for barrier `b`. -/
def State.bar (s : State) (t b : Nat) : BarState := mapGet {} s.fab.nodes (256 * t + b)
/-- Replace a barrier node. -/
def State.setBar (s : State) (t b : Nat) (x : BarState) : State := { s with fab.nodes := mapPut s.fab.nodes (256 * t + b) x }

/-- The barrier table's entry for a troupe and number (R314). -/
def barrierEnt (s : State) (t b : Nat) : Option BarrierEnt := s.fab.barriers.find? (fun e => e.b == b && e.troupe == t)

/-- Physical cores of troupe `t` that hold a logical number. -/
def troupeCores (s : State) (t : Nat) : List Nat :=
  (s.cores.filter (fun e => e.1 < physCores && e.2.regs.troupe == t && e.2.regs.lcore != 0xFFFF)).map (·.1)

/-- Does core `c` wait at barrier `b`? -/
def waitsAt (s : State) (b c : Nat) : Bool :=
  match (s.core c).regs.wait with
  | .barrier b' _ => b' == b
  | _ => false

/-- Has troupe `t` arrived at `b` (R316 step 1): a core waits there, and every other one waits there or is idle or halted? -/
def coresArrived (s : State) (t b : Nat) : Bool :=
  let cs := troupeCores s t
  cs.any (waitsAt s b) &&
    cs.all (fun c => waitsAt s b c || (s.core c).regs.state == .idle || (s.core c).regs.state == .halted)

/-- Join the learner steps of two arrivals (R354). -/
def joinSteps (x y : Option (Nat × Nat)) : Option (Nat × Nat) :=
  match x, y with
  | none, z => z
  | z, none => z
  | some (a, b), some (c, d) => some (if a ≤ c then a else c, if b ≤ d then d else b)

/-- Numbers that carry the joined steps in a message: presence, least, largest. -/
def stepVals (x : Option (Nat × Nat)) : List Nat :=
  match x with
  | none => [0, 0, 0]
  | some (a, b) => [1, a, b]

/-- Send the release down to the children of a node, and make room for the next instance (R316 steps 3 and 4). -/
def sendRelease (t b rel : Nat) (steps : Option (Nat × Nat)) (tr : TreeRec) (g : GroupRec) (r : Nat) (s : State) : State :=
  let kids := treeKids tr r
  let send := fun (s : State) (k : Nat) =>
    let m := nth (0, 0) g.members k
    sendFab { kind := "barrier_rel", dest := m.1, vals := [m.2, b, rel] ++ stepVals steps } s
  let x := s.bar t b
  let s1 := kids.foldl send s
  s1.setBar t b { x with tRel := some rel, kids := x.nextKids, nextKids := []
                         steps := x.nextSteps, nextSteps := none, relSteps := steps, sent := false }

/-- Forward a node's arrival once it and all its children have arrived: up the tree, or, at the root, the release (R316). -/
def barrierForward (t b : Nat) (s : State) : State :=
  match barrierEnt s t b with
  | none => s
  | some e =>
    match treeAt s e.tree t with
    | none => s
    | some (tr, g, r) =>
      let x := s.bar t b
      if x.arrived && !x.sent && x.tRel.isNone && (treeKids tr r).all (fun k => x.kids.contains k) then
        if r == tr.root then
          sendRelease t b (s.cue + e.lead) x.steps tr g r s
        else
          let p := nth (0, 0) g.members (tr.ent r).parent
          sendFab { kind := "barrier_arr", dest := p.1, vals := [p.2, b, r] ++ stepVals x.steps }
            (s.setBar t b { x with sent := true })
      else s

/-- The member arrives at `b` at the current count, with its learner step where it carries one (R316, R354). -/
def memberArrive (t b : Nat) (step : Option (Nat × Nat)) (s : State) : State :=
  let x := s.bar t b
  if x.arrived then s
  else barrierForward t b (s.setBar t b { x with arrived := true, arrivedAt := s.cue, stalled := false, steps := joinSteps x.steps step })

/-- After a core of troupe `t` waits, stops or halts: the troupe arrives at each barrier whose cores have all arrived. -/
def checkBarriers (t : Nat) (s : State) : State :=
  (s.fab.barriers.filter (fun e => e.troupe == t)).foldl
    (fun s e => if !(s.bar t e.b).arrived && coresArrived s t e.b then memberArrive t e.b none s else s) s

/-! ### Stopping cores (R82) -/

/-- A core after a level 0 reset (R431): everything zero; its logical number, troupe and firmware kept. -/
def resetCore (k : Core) : Core :=
  { nextId := k.nextId
    regs := { lcore := k.regs.lcore, troupe := k.regs.troupe, state := (if k.regs.state == .failed then .failed else .idle) } }

/-- Does a reason for failure outlive a reset of the cluster (R431): repair failures do? -/
def keptFailure (reason : Nat) : Bool := reason == 4

/-- Carry out one reset of cores whose descriptors have completed (R431): the cores start empty, or, for a cluster, take part in a
firmware broadcast that completes the command; all but the cores of repair entries take part. -/
def finishReset (s : State) (r : CoreReset) : State :=
  match r.cluster with
  | none =>
    let s1 := complete r.hdr opReset stResetDone (r.cores.foldl (fun s c => s.modCore c resetCore) s)
    r.cores.foldl (fun s c => checkBarriers (s.core c).regs.troupe s) s1
  | some cl =>
    let failed := s.bt.failed.filter (fun e => !r.cores.contains e.1 || keptFailure e.2)
    let part := r.cores.filter (fun c => (mapFind failed c).isNone)
    let s1 := part.foldl (fun s c =>
      s.modCore c (fun k => let k1 := resetCore k; { k1 with regs := { k1.regs with state := .reset } })) { s with bt.failed := failed }
    { s1 with bt.bcast := { on := true, cores := part, hdr := some r.hdr, cluster := some cl } }

/-- Resets go on once no descriptor of their cores is outstanding; a cluster's waits for a broadcast under way (R417, R431). -/
def settleResets (s : State) : State :=
  s.bt.resets.foldl (fun s r =>
    if r.cores.all (fun c => (s.core c).descs.isEmpty) && (r.cluster.isNone || !s.bt.bcast.on) then finishReset s r
    else { s with bt.resets := s.bt.resets ++ [r] }) { s with bt.resets := [] }

/-- Does no issued instruction of a core wait? An OPTM instruction that may not issue yet is none (R50, R82). -/
def waitOver (w : Wait) : Bool :=
  match w with
  | .none | .optm _ _ => true
  | _ => false

/-- A core whose STOP waits becomes halted once no issued instruction waits and no descriptor is outstanding (R82). -/
def settleStop (c : Nat) (s : State) : State :=
  let k := s.core c
  if k.regs.stopping && waitOver k.regs.wait && k.descs.isEmpty then
    s.setCore c { k with regs := { k.regs with stopping := false, state := .halted, wait := .none } }
  else if s.bt.resets.isEmpty then s
  else settleResets s

/-- A wait of core `c` ends. -/
def endWait (c : Nat) (s : State) : State := settleStop c (s.modRegs c (fun (r : CoreRegs) => { r with wait := .none }))

/-! ### Waits that are satisfied (R78, R315, R328) -/

/-- The counter of the semaphore store that core `c` waits to take from. -/
def takesFrom (s : State) (c : Nat) : Option Nat :=
  match (s.core c).regs.wait with
  | .sem n _ true => some ((s.troupe (s.core c).regs.troupe).cfg.semBase + n)
  | _ => none

/-- Is a SEM.TAKE of the semaphore waiting that was accepted before core `c`'s (R78)? -/
def earlierTaker (s : State) (c counter : Nat) : Bool :=
  (s.takers.takeWhile (fun x => x != c)).any (fun x => takesFrom s x == some counter)

/-- A waiting SEM.WAIT or SEM.TAKE of core `c` completes if its count is reached, a SEM.TAKE in the order of acceptance (R78). -/
def semWaitDone (c : Nat) (s : State) : State :=
  let r := (s.core c).regs
  match r.wait with
  | .sem n count take =>
    if semGet s r.troupe n < count then s
    else if !take then endWait c s
    else if earlierTaker s c ((s.troupe r.troupe).cfg.semBase + n) then s
    else endWait c (semSet r.troupe n (semGet s r.troupe n - count) { s with takers := s.takers.filter (fun x => x != c) })
  | _ => s

/-- Queue `q` of troupe `t`. -/
def State.queue (s : State) (t q : Nat) : TrpQueue := mapGet {} (s.troupe t).queues q

/-- Take the oldest entry of a queue that is not empty into a scalar register (R328). -/
def popQueue (c q rd : Nat) (s : State) : State :=
  let t := (s.core c).regs.troupe
  let (ring, len) := nth (0, 1) (s.troupe t).cfg.queues q
  let x := s.queue t q
  let v := troupeNat s t (ring + 8 * x.head) 8
  let s1 := s.modTroupe t (fun (y : Troupe) =>
    { y with queues := mapPut y.queues q { head := if x.head + 1 < len then x.head + 1 else 0, count := x.count - 1 } })
  (chargeRead t (ring + 8 * x.head) 8 s1).modCore c (fun k => k.sPut rd (BitVec.ofNat 64 v))

/-- A waiting QPOP of core `c` completes if its queue holds an entry (R328). -/
def qpopDone (c : Nat) (s : State) : State :=
  let r := (s.core c).regs
  match r.wait with
  | .qpop q rd => if (s.queue r.troupe q).count == 0 then s else endWait c (popQueue c q rd s)
  | _ => s

/-- A waiting absolute CUE.WAIT of core `c` completes once the count has reached its target (R315). -/
def cueWaitDone (c : Nat) (s : State) : State :=
  match (s.core c).regs.wait with
  | .cue target => if target ≤ s.cue then endWait c s else s
  | _ => s

/-- Is `b` the checkpoint barrier of a job of troupe `t` that has its troupe at the cut (R354)? -/
def cutBarrier (s : State) (t b : Nat) : Bool :=
  s.ckpt.jobs.any (fun e => e.2.plan.bar == b && e.2.atCut.contains t)

/-- A core's CUE.WAIT at a barrier completes once its member's release is due (R316). -/
def barWaitDone (c : Nat) (s : State) : State :=
  let t := (s.core c).regs.troupe
  match (s.core c).regs.wait with
  | .barrier b sx =>
    match (s.bar t b).tRel with
    | some rel =>
      if rel ≤ s.cue && !cutBarrier s t b then endWait c (s.modCore c (fun k => k.sPut sx (BitVec.ofNat 64 rel))) else s
    | none => s
  | _ => s

/-- A wait of core `c` that is satisfied now completes (R336 step 1). -/
def waitDone (c : Nat) (s : State) : State :=
  match (s.core c).regs.wait with
  | .sem _ _ _ => semWaitDone c s
  | .qpop _ _ => qpopDone c s
  | .cue _ => cueWaitDone c s
  | .barrier _ _ => barWaitDone c s
  | _ => s

/-! ### Releases of barriers -/

/-- A release reaches its member, or the member's cores, after its count: LATE (R317). -/
def lateCue (t b rel : Nat) (s : State) : State :=
  raiseEvent evCueLate t (leBytes 1 b ++ leBytes 8 rel) { s with cueRegs.late := true, cueRegs.lateCnt := inc16 s.cueRegs.lateCnt }

/-- Release the waiting cores of troupe `t` at `b` with T_REL in their registers (R316 step 4). -/
def releaseCores (t b rel : Nat) (s : State) : State :=
  (troupeCores s t).foldl (fun s c =>
    match (s.core c).regs.wait with
    | .barrier b' sx =>
      if b' == b then endWait c (s.modCore c (fun k => k.sPut sx (BitVec.ofNat 64 rel))) else s
    | _ => s) s

end Sys2Proof.Machine
end

