-- ==== Sys2Proof/Machine/Shake.lean ====
section
/-! DEFINITION. SHAKE256, the digest of the module (R12), which R136, R147, R263, R306 and others name. -/

namespace Sys2Proof.Machine

/-- 2^64. -/
def keccakMod : Nat := 0x10000000000000000

/-- Rotate a 64-bit lane left. -/
def rotl64 (w n : Nat) : Nat := (w * 2 ^ n) % keccakMod + w / 2 ^ (64 - n)

/-- One step of the 8-bit feedback register whose low bit feeds the round constants. -/
def feedback (r : Nat) : Nat := if r < 128 then 2 * r else (2 * r - 256) ^^^ 0x71

/-- The next round constant from a feedback register: its bits stand at places 0, 1, 3, 7, 15, 31 and 63, one a step. The register goes on. -/
def iotaWord (r : Nat) : Nat × Nat :=
  (List.range 7).foldl (fun (x : Nat × Nat) j => (x.1 + x.2 % 2 * 2 ^ (2 ^ j - 1), feedback x.2)) (0, r)

/-- Column parities spread over the lanes. -/
def thetaLanes (a : List Nat) : List Nat :=
  let col := fun x => (List.range 5).foldl (fun n y => n ^^^ nth 0 a (x % 5 + 5 * y)) 0
  (List.range 25).map (fun i => nth 0 a i ^^^ col (i + 4) ^^^ rotl64 (col (i + 1)) 1)

/-- Carry a lane along the walk (x, y) to (y, 2 x + 3 y) for `k` more steps: step t leaves it, rotated by the t-th triangle number, where the next
one is picked up. -/
def walkLanes : Nat → Nat → Nat → Nat → Nat → List Nat → List Nat
  | 0, _, _, _, _, a => a
  | k + 1, t, x, y, lane, a =>
    let z := (2 * x + 3 * y) % 5
    walkLanes k (t + 1) y z (nth 0 a (y + 5 * z)) (setNth a (y + 5 * z) (rotl64 lane (t * (t + 1) / 2 % 64)))

/-- The row step: a lane changes where the next lane of its row is clear and the one after it set. -/
def chiLanes (a : List Nat) : List Nat :=
  (List.range 25).map (fun i =>
    let at_ := fun k => nth 0 a (i / 5 * 5 + (i + k) % 5)
    at_ 0 ^^^ at_ 2 ^^^ (at_ 1 &&& at_ 2))

/-- One round on the 25 lanes, lane x + 5 y at that index, with the feedback register before and after it. -/
def keccakRound (s : List Nat × Nat) : List Nat × Nat :=
  let a := thetaLanes s.1
  let c := iotaWord s.2
  let b := chiLanes (walkLanes 24 1 1 0 (nth 0 a 1) a)
  (setNth b 0 (nth 0 b 0 ^^^ c.1), c.2)

/-- The permutation Keccak-f[1600]: 24 rounds from the register's first state. -/
def keccakF (a : List Nat) : List Nat := ((List.range 24).foldl (fun s _ => keccakRound s) (a, 1)).1

/-- The lanes of one 136-byte block of input, zero beyond it. -/
def keccakLanes (block : List Byte) : List Nat :=
  (List.range 25).map (fun i => leNat ((block.drop (8 * i)).take 8))

/-- XOR one block into the state. -/
def keccakXor (a : List Nat) (block : List Byte) : List Nat :=
  List.zipWith (· ^^^ ·) a (keccakLanes block)

/-- Pad the last block of SHAKE256 (domain bits 1111, rate 136 bytes). -/
def shakePad (last : List Byte) : List Byte :=
  let n := last.length
  if n == 135 then last ++ [0x9F]
  else last ++ [0x1F] ++ List.replicate (134 - n) 0 ++ [0x80]

/-- Absorb the message, by fuel. -/
def shakeAbsorb : Nat → List Nat → List Byte → List Nat
  | 0, a, _ => a
  | k + 1, a, m =>
    if m.length < 136 then keccakF (keccakXor a (shakePad m))
    else shakeAbsorb k (keccakF (keccakXor a (m.take 136))) (m.drop 136)

/-- The bytes of the lanes. -/
def keccakBytes (a : List Nat) : List Byte := a.flatMap (fun w => leBytes 8 w)

/-- Squeeze `n` bytes, by fuel. -/
def shakeSqueeze : Nat → List Nat → Nat → List Byte
  | 0, _, _ => []
  | k + 1, a, n =>
    if n ≤ 136 then (keccakBytes a).take n
    else (keccakBytes a).take 136 ++ shakeSqueeze k (keccakF a) (n - 136)

/-- The first `n` bytes of SHAKE256 of a message. -/
def shake256 (msg : List Byte) (n : Nat) : List Byte :=
  shakeSqueeze (n / 136 + 1) (shakeAbsorb (msg.length / 136 + 1) (List.replicate 25 0) msg) n

/-- The first 32 bytes of SHAKE256 of a message as a number, little-endian. -/
def digest32 (msg : List Byte) : Nat := leNat (shake256 msg 32)

end Sys2Proof.Machine
end

