-- ==== Sys2Proof/Machine/FlintFn.lean ====
section
/-! DEFINITION. Flint as a pure function: key derivation (R147), the mixer (R148) and field packing (R150). -/

namespace Sys2Proof.Machine

/-- A word modulo 2^32. -/
def w32 (n : Nat) : Nat := n % 4294967296

/-- Rotate a 32-bit word left. -/
def rotl32 (w n : Nat) : Nat := w32 (w * 2 ^ n) + w / 2 ^ (32 - n)

/-- The eight ASCII bytes FLINTKEY. -/
def flintLabel : List Byte := [0x46, 0x4C, 0x49, 0x4E, 0x54, 0x4B, 0x45, 0x59]

/-- The digest bytes of a 32-byte seed given as a little-endian number (R147). -/
def flintDigest (seed : Nat) : List Byte := shake256 (leBytes 32 seed ++ flintLabel) 20

/-- The 128-bit key of a seed (R147). -/
def flintKey (seed : Nat) : Nat := leNat ((flintDigest seed).take 16)

/-- The key check value of a seed (R147). -/
def flintKeyChk (seed : Nat) : Nat := leNat ((flintDigest seed).drop 16)

/-- Key word i. -/
def keyWord (key i : Nat) : Nat := key / 2 ^ (32 * i) % 4294967296

/-- The rotations of each round (R148). -/
def flintRot : List (Nat × Nat) := [(11, 24), (5, 19), (27, 14), (8, 21), (17, 3), (29, 12)]

/-- One round on the four words (R148). -/
def flintRound (key : Nat) (r : Nat) (x : Nat × Nat × Nat × Nat) : Nat × Nat × Nat × Nat :=
  let (x0, x1, x2, x3) := x
  let (a, b) := nth (0, 0) flintRot (r % 6)
  let rk := w32 (keyWord key (r % 4) + (r + 1) * 0x6C8E9CF5)
  let y0 := w32 (x0 + (x3 ^^^ rk))
  let y1 := rotl32 (x1 ^^^ y0) a
  let y2 := w32 (x2 + y1)
  let y3 := rotl32 (x3 ^^^ y2) b
  (y1, y2, y3, y0)

/-- Rounds `r` onward, `k` of them. -/
def flintRounds (key : Nat) : Nat → Nat → Nat × Nat × Nat × Nat → Nat × Nat × Nat × Nat
  | 0, _, x => x
  | k + 1, r, x => flintRounds key k (r + 1) (flintRound key r x)

/-- One invocation: 128 output bits (R148). -/
def flint (key stream index : Nat) : Nat :=
  let (x0, x1, x2, x3) := flintRounds key 12 0 (w32 index, w32 (index / 4294967296), w32 stream, w32 (stream / 4294967296))
  w32 (x0 + keyWord key 2) + 2 ^ 32 * w32 (x1 + keyWord key 3) + 2 ^ 64 * w32 (x2 + keyWord key 0) + 2 ^ 96 * w32 (x3 + keyWord key 1)

/-- The `w`-bit field of logical element `i` (R150; indices are modulo 2^64). -/
def flintField (key stream i w : Nat) : Nat :=
  let n := 128 / w
  let i := i % 2 ^ 64
  (flint key stream (i - i % n)) / 2 ^ (w * (i % n)) % 2 ^ w

end Sys2Proof.Machine
end

