-- ==== Sys2Proof/Machine/Operands.lean ====
section
/-! DEFINITION. Operand forms shared by instructions: tensors laid out with their block scales (R62, R480), their conversion,
random bytes of stochastic rounding (R40), and vector operands under the predicate (R69). -/

namespace Sys2Proof.Machine

/-- The first `n` columns of a list of rows. -/
def colsOf {α : Type} (d : α) : Nat → List (List α) → List (List α)
  | 0, _ => []
  | k + 1, rows => rows.map (fun r => r.headD d) :: colsOf d k (rows.map (fun r => r.drop 1))

/-- The block scale fields of row `r` of a tensor of `cols` columns, one a column (R480); 127 when no scales are stored. -/
def scaleRow (bs bax : Bool) (scales : List Byte) (cols r : Nat) : List Nat :=
  if !bs then List.replicate cols 127
  else if bax then ((scales.drop (r / 32 * cols)).take cols).map (·.toNat)
  else
    let q := ceilDiv cols 32
    (((scales.drop (r * q)).take q).flatMap (fun b => List.replicate 32 b.toNat)).take cols

/-- Element words with their block scale fields of a stored tensor: rows of `cols` elements, then the scales (R62). -/
def tensorRows (t : Word) (rows cols : Nat) (elems scales : List Byte) : List (List (Nat × Nat)) :=
  let f := tagFormat t
  let rb := f.bytes cols
  (List.range rows).map (fun r =>
    List.zip (unpackElts f ((elems.drop (r * rb)).take rb) cols) (scaleRow (tagBS t) (tagBAX t) scales cols r))

/-- Bytes of the elements of a tensor, each row packed by itself. -/
def elemBytes (t : Word) (rows cols : Nat) : Nat := rows * (tagFormat t).bytes cols
/-- Bytes of the block scales of a tensor (R480); none when BS is 0. -/
def scaleBytes (t : Word) (rows cols : Nat) : Nat := if tagBS t then blockCount (tagBAX t) rows cols else 0

/-- Convert the blocks of one row of a tensor whose blocks run along its rows. -/
def convRowBlocks (t : Word) (mode : Rnd) : Nat → List (F32 × Nat) → List Nat × List Nat × ConvFlags
  | 0, _ => ([], [], {})
  | k + 1, xs =>
    if xs.isEmpty then ([], [], {})
    else
      let (e, ws, fl) := convertBlock t mode (xs.take 32)
      let (es, wss, fls) := convRowBlocks t mode k (xs.drop 32)
      (e :: es, ws ++ wss, fl.or fls)

/-- Convert a tensor of FP32 values into the format of its tag (R39 to R45): element rows, block scales in the order of R480,
and what the conversion reports. Each value comes with its random byte. -/
def convertTensor (t : Word) (mode : Rnd) (cols : Nat) (rows : List (List (F32 × Nat))) : List (List Nat) × List Nat × ConvFlags :=
  if tagBS t && tagBAX t then
    let bands := piecesOf 32 (rows.length + 1) rows
    let done := bands.map (fun band => (colsOf (0, 0) cols band).map (convertBlock t mode) |> fun cs =>
      (colsOf 0 band.length (cs.map (·.2.1)), cs.map (·.1), cs.foldl (fun (fl : ConvFlags) c => fl.or c.2.2) {}))
    (done.flatMap (·.1), done.flatMap (·.2.1), done.foldl (fun (fl : ConvFlags) d => fl.or d.2.2) {})
  else
    let done := rows.map (fun r => convRowBlocks t mode (r.length + 1) r)
    (done.map (·.2.1), if tagBS t then done.flatMap (·.1) else [], done.foldl (fun (fl : ConvFlags) d => fl.or d.2.2) {})

/-- The bytes of a converted tensor: its rows packed one by one. -/
def packRows (t : Word) (rows : List (List Nat)) : List Byte := rows.flatMap (fun r => packElts (tagFormat t) r)

/-- The conversion mode of an RND field; 3 is refused before it is read. -/
def rndMode (r : Nat) : Rnd := if r == 0 then .rne else if r == 1 then .rz else .sr

/-- The Flint key of the troupe of core `c` (R152). -/
def coreKey (s : State) (c : Nat) : Nat := (s.troupe (s.core c).regs.troupe).flint.key

/-- The random byte of stochastic rounding of logical element `i` on a stream; 0 in the other modes, which do not read it (R40). -/
def srByte (mode : Rnd) (key stream i : Nat) : Nat :=
  match mode with
  | .sr => flintField key stream i 8
  | _ => 0

/-- Change an accounting counter of the core's troupe (R331, R332). -/
def chargeTroupe (c : Nat) (f : Acct → Acct) (s : State) : State :=
  let t := (s.core c).regs.troupe
  if t < 64 then s.modTroupe t (fun (x : Troupe) => { x with regs.acct := f x.regs.acct }) else s

/-- Charge vector engine cycles (R332, R344). -/
def chargeVec (c cycles : Nat) (s : State) : State :=
  chargeTroupe c (fun a => { a with vec := (a.vec + cycles) % 2 ^ 64 }) s

/-- Charge streaming rows (R332, R344). -/
def chargeArray (c rows : Nat) (s : State) : State :=
  chargeTroupe c (fun a => { a with array := (a.array + rows) % 2 ^ 64 }) s

/-- Is the VL field legal (R71)? -/
def vlOk (w : VecWord) : Bool := 1 ≤ w.vl && w.vl ≤ 256

/-- Write elements 0 to VL - 1 of the destination under the predicate (R69): a masked element keeps its value, or becomes +0.0
with PZ; elements from VL on keep theirs. -/
def vecWrite (k : Core) (w : VecWord) (val : Nat → F32) : Core :=
  (List.range w.vl).foldl (fun (k' : Core) i =>
    if k.pGet w.pred i then k'.vPut w.vd i (val i) else if w.pz then k'.vPut w.vd i 0 else k') k

/-- The elements 0 to VL - 1 that the predicate selects. -/
def selected (k : Core) (w : VecWord) : List Nat := (List.range w.vl).filter (fun i => k.pGet w.pred i)

end Sys2Proof.Machine
end

