-- ==== Sys2Proof/Machine/Flags.lean ====
section
/-! DEFINITION. Results that decide flags and predicates: the compares (R71), minimum and maximum (R70), and the reduction
trees over logical element indices (R70). The sticky arithmetic conditions are recorded by noteArith (R47, R48). -/

namespace Sys2Proof.Machine

/-- Minimum (R70): a NaN operand gives the canonical NaN, -0 lies below +0. -/
def f32Min (a b : F32) : F32 :=
  if f32IsNaN a || f32IsNaN b then f32NaN else if f32Key a ≤ f32Key b then a else b
/-- Maximum (R70). -/
def f32Max2 (a b : F32) : F32 :=
  if f32IsNaN a || f32IsNaN b then f32NaN else if f32Key a ≤ f32Key b then b else a

/-- A value with every NaN made canonical (R43). -/
def f32Canon (x : F32) : F32 := if f32IsNaN x then f32NaN else x

/-- One level of a reduction tree: neighbours are paired, an unpaired last value passes up (R33, R70). -/
def pairLevel (f : F32 → F32 → F32) : List F32 → List F32
  | x :: y :: rest => f x y :: pairLevel f rest
  | l => l

/-- A reduction tree over a list, by fuel (its length suffices); `d` for an empty list. A NaN result is the canonical one, also of a single
element (R43). -/
def treeReduce (f : F32 → F32 → F32) (d : F32) : Nat → List F32 → F32
  | _, [] => d
  | _, [x] => f32Canon x
  | 0, x :: _ => f32Canon x
  | k + 1, xs => treeReduce f d k (pairLevel f xs)

/-- The sum tree of R70 over a list of values. -/
def treeSum (xs : List F32) : F32 := treeReduce f32Add 0 xs.length xs
/-- The maximum of a list (R70): the canonical NaN when nothing is selected. -/
def treeMax (xs : List F32) : F32 := treeReduce f32Max2 f32NaN xs.length xs
/-- The minimum of a list (R70). -/
def treeMin (xs : List F32) : F32 := treeReduce f32Min f32NaN xs.length xs

/-- Write a compare's results into the predicate register that the low bits of VD name, under the predicate; a masked element keeps its bit, or
becomes false with PZ (assumption 10). -/
def predWrite (k : Core) (w : VecWord) (val : Nat → Bool) : Core :=
  (List.range w.vl).foldl (fun (k' : Core) i =>
    if k.pGet w.pred i then k'.pPut (w.vd % 8) i (val i) else if w.pz then k'.pPut (w.vd % 8) i false else k') k

end Sys2Proof.Machine
end

