-- ==== Sys2Proof/Machine/KvOps.lean ====
section
/-! DEFINITION. Page frames, rows and block tables (R116 to R120, R132 to R135), reservations (R92), the prefix hash chain
(R136, R137) and the prefix directory (R138 to R140). -/

namespace Sys2Proof.Machine

/-! ### Parts of a generator troupe -/

/-- The generator part of troupe `t`. -/
def State.gen (s : State) (t : Nat) : Gen := (s.troupe t).gen
/-- Change the generator part of troupe `t`. -/
def State.modGen (s : State) (t : Nat) (f : Gen → Gen) : State := s.modTroupe t (fun (x : Troupe) => { x with gen := f x.gen })
/-- Change the KV registers. -/
def State.modKv (s : State) (t : Nat) (f : KvRegs → KvRegs) : State := s.modGen t (fun (g : Gen) => { g with kv := f g.kv })
/-- Change generation slot `i`, if it holds a sequence. -/
def State.modSlot (s : State) (t i : Nat) (f : GSlot → GSlot) : State :=
  s.modGen t (fun (g : Gen) => match mapFind g.slots i with
    | some x => { g with slots := mapPut g.slots i (f x) }
    | none => g)

/-- A counter of 32 bits that stops at its largest value (R146). -/
def inc32 (n d : Nat) : Nat := if n + d ≤ 0xFFFFFFFF then n + d else 0xFFFFFFFF

/-- The model `m` of a troupe: 0 policy, 1 draft. -/
def GenCfg.model (c : GenCfg) (m : Nat) : KvModel := if m == 0 then c.policy else c.draft

/-! ### Headers (R118, R119) -/

/-- The troupe address of frame `f`. -/
def frameAddr (c : GenCfg) (f : Nat) : Nat := c.poolBase + f * 0x20000
/-- Bytes of a section. -/
def sectionBytes (m : KvModel) : Nat := 131072 / m.ppf
/-- The troupe address of a header: frame and section. -/
def headerAddr (c : GenCfg) (m : KvModel) (f k : Nat) : Nat := frameAddr c f + k * sectionBytes m

/-- REF of a frame, in the header of section 0 (R119, R133). -/
def frameRef (s : State) (t f : Nat) : Nat := troupeNat s t (frameAddr (s.gen t).cfg f + 0x10) 2
/-- FLAGS of a frame: REG is bit 0 (R119). -/
def frameReg (s : State) (t f : Nat) : Bool := bitOf (troupeNat s t (frameAddr (s.gen t).cfg f + 0x13) 1) 0
/-- BLOCK of a frame. -/
def frameBlock (s : State) (t f : Nat) : Nat := troupeNat s t (frameAddr (s.gen t).cfg f + 0x18) 4
/-- Write REF. -/
def setRef (t f v : Nat) (s : State) : State := troupeWrite s t (frameAddr (s.gen t).cfg f + 0x10) (leBytes 2 v)
/-- Write REG. -/
def setReg (t f : Nat) (b : Bool) (s : State) : State := troupeWrite s t (frameAddr (s.gen t).cfg f + 0x13) (leBytes 1 (b2n b))
/-- Write HASH. -/
def setHash (t f h : Nat) (s : State) : State := troupeWrite s t (frameAddr (s.gen t).cfg f + 0x20) (leBytes 16 h)

/-- The tag of a page the troupe draws, with the tensor scale of keys (k = 0) or values (k = 1) of a layer (R120). -/
def drawTag (s : State) (t : Nat) (m : KvModel) (layer k : Nat) : Word :=
  if m.fmt == 0x01 then tagMake 0x01 false false false 0
  else tagMake m.fmt true true false (BitVec.ofNat 32 (troupeNat s t (m.kvsAddr + 8 * layer + 4 * k) 4))

/-- The 256 bytes of a fresh header (R119, R134): REF 1 in section 0, FILL 0. -/
def freshHeader (s : State) (t : Nat) (m : KvModel) (layer k block epoch : Nat) : List Byte :=
  leBytes 8 (drawTag s t m layer 0).toNat ++ leBytes 8 (drawTag s t m layer 1).toNat ++
    leBytes 2 (if k == 0 then 1 else 0) ++ leBytes 1 0 ++ leBytes 1 0 ++ leBytes 2 layer ++ leBytes 1 m.headBase ++
    leBytes 1 m.heads ++ leBytes 4 block ++ leBytes 4 epoch ++ List.replicate 224 0

/-! ### The free list and reservations -/

/-- Are frames on the free list: not in use. -/
def freeList (g : Gen) : List Nat := (List.range g.cfg.poolFrames).filter (fun f => !g.used.contains f)

/-- Unreferenced frames, those that the directory holds with REF 0 included, less all reservations (R92). -/
def freeFrames (s : State) (t : Nat) : Nat :=
  let g := s.gen t
  let held := (g.used.filter (fun f => frameRef s t f != 0)).length
  g.cfg.poolFrames - held - (g.resvs.foldl (fun n r => n + r.2.left) 0)

/-- A frame joins the free list. -/
def freeFrame (t f : Nat) (s : State) : State :=
  s.modGen t (fun (g : Gen) => { g with used := g.used.filter (fun x => x != f) })

/-- Lower REF by one; at 0 a frame with REG stays with the directory, another returns to the free list (R133). -/
def dropRef (t : Nat) (s : State) (f : Nat) : State :=
  let r := frameRef s t f - 1
  let s1 := setRef t f r s
  if r == 0 && !frameReg s t f then freeFrame t f s1 else s1

/-- Raise REF by one. -/
def takeRef (t : Nat) (s : State) (f : Nat) : State := setRef t f (frameRef s t f + 1) s

/-- Rows of a model. -/
def Gen.rows (g : Gen) (m : Nat) : Map (List Nat) := if m == 0 then g.rowsP else g.rowsD
/-- The frames of row `r` of model `m`. -/
def rowFrames (s : State) (t m r : Nat) : List Nat := mapGet [] ((s.gen t).rows m) r
/-- Replace the rows of a model. -/
def Gen.setRows (g : Gen) (m : Nat) (x : Map (List Nat)) : Gen := if m == 0 then { g with rowsP := x } else { g with rowsD := x }

/-- Take one of a list by a free choice (assumption 16). -/
def pickOf (xs : List Nat) (s : State) : Nat × State :=
  let (n, s1) := s.draw
  (nth 0 xs (Config.pick n % (if xs.length == 0 then 1 else xs.length)), s1)

/-- Rows of the row pool of a model (R132). -/
def rowPool (c : GenCfg) (m : Nat) : Nat := c.poolFrames / (if (c.model m).g == 0 then 1 else (c.model m).g) + c.slotCount

/-- A new row that holds frames. -/
def newRow (t m : Nat) (fs : List Nat) (s : State) : Nat × State :=
  let g := s.gen t
  let free := (List.range (rowPool g.cfg m)).filter (fun r => (mapFind (g.rows m) r).isNone)
  let (r, s1) := pickOf free s
  (r, s1.modGen t (fun (g : Gen) => g.setRows m (mapPut (g.rows m) r fs)))

/-! ### The prefix directory -/

/-- The physical address of the prefix directory: the lowest 32 MiB of the hub area (R245, R138). -/
def dirBaseAddr (s : State) : Nat :=
  let k := s.stack s.mem.hubStack
  s.mem.hubStack * stackBytes + (stackBytes - (k.spare + k.replay) * 0x10000000 - 0x4000000)

/-- A directory entry (R138). -/
structure DirEnt where
  hash    : Nat
  row     : Nat
  troupe  : Nat
  valid   : Bool
  lastUse : Nat
  deriving DecidableEq, Repr

/-- Read entry `i` (8 set + way). -/
def dirGet (s : State) (i : Nat) : DirEnt :=
  let m := (hubView s).mem.bytes
  let a := dirBaseAddr s + 32 * i
  { hash := m.nat a 16, row := m.nat (a + 0x10) 4, troupe := m.nat (a + 0x14) 1, valid := m.nat (a + 0x15) 1 == 1
    lastUse := m.nat (a + 0x18) 8 }

/-- Write entry `i`. -/
def dirPut (i : Nat) (e : DirEnt) (s : State) : State :=
  hubWrite s (dirBaseAddr s + 32 * i)
    (leBytes 16 e.hash ++ leBytes 4 e.row ++ leBytes 1 e.troupe ++ leBytes 1 (b2n e.valid) ++ leBytes 2 0 ++ leBytes 8 e.lastUse)

/-- The first entry of the set that a hash falls in (R138). -/
def dirSet (c : GenCfg) (h : Nat) : Nat := 8 * (c.dirBase + h % c.dirSets)

/-- The entry of the troupe's set that holds a hash (R137: all 128 bits and the troupe). -/
def dirFind (s : State) (t h : Nat) : Option Nat :=
  let b := dirSet (s.gen t).cfg h
  ((List.range 8).map (fun w => b + w)).find? (fun i => let e := dirGet s i; e.valid && e.troupe == t && e.hash == h)

/-- Model that an entry's row belongs to: the one whose row pool holds the row with the hash in its headers. -/
def rowHash (s : State) (t f : Nat) : Nat := troupeNat s t (frameAddr (s.gen t).cfg f + 0x20) 16

/-- The frames that a directory entry of the troupe holds, and the model of its row. -/
def dirFrames (s : State) (t : Nat) (e : DirEnt) : Nat × List Nat :=
  let p := rowFrames s t 0 e.row
  if !p.isEmpty && p.all (fun f => rowHash s t f == e.hash && frameReg s t f) then (0, p) else (1, rowFrames s t 1 e.row)

/-- Entries of the troupe that an eviction may take: their frames have REF 0. -/
def evictable (s : State) (t : Nat) (idx : List Nat) : List (Nat × DirEnt) :=
  (idx.map (fun i => (i, dirGet s i))).filter (fun x =>
    x.2.valid && x.2.troupe == t && (dirFrames s t x.2).2.all (fun f => frameRef s t f == 0))

/-- Does entry x go before y: older LAST_USE, then the higher BLOCK, then the lower place (R139, R140)? -/
def evictFirst (s : State) (t : Nat) (x y : Nat × DirEnt) : Bool :=
  let bx := frameBlock s t (((dirFrames s t x.2).2).headD 0)
  let bdy := frameBlock s t (((dirFrames s t y.2).2).headD 0)
  if x.2.lastUse != y.2.lastUse then x.2.lastUse < y.2.lastUse
  else if bx != bdy then bdy < bx else x.1 < y.1

/-- The entry to evict among candidates. -/
def evictPick (s : State) (t : Nat) : List (Nat × DirEnt) → Option (Nat × DirEnt)
  | [] => none
  | x :: xs =>
    match evictPick s t xs with
    | none => some x
    | some y => some (if evictFirst s t x y then x else y)

/-- Evict an entry: its frames lose REG and join the free list (R140). -/
def evict (t : Nat) (x : Nat × DirEnt) (s : State) : State :=
  let (m, fs) := dirFrames s t x.2
  let s1 := fs.foldl (fun s f => freeFrame t f (setReg t f false s)) s
  let s2 := dirPut x.1 { x.2 with valid := false } s1
  (s2.modGen t (fun (g : Gen) => g.setRows m (mapDel (g.rows m) x.2.row))).modKv t
    (fun (k : KvRegs) => { k with evicted := inc32 k.evicted 1 })

/-- All entries of the troupe's sets. -/
def dirAll (c : GenCfg) : List Nat := (List.range (8 * c.dirSets)).map (fun i => 8 * c.dirBase + i)

/-- Draw one frame for a sequence from its reservation: from the free list, else after an eviction (R92, R134, R140). -/
def drawFrame (t resv : Nat) (s : State) : Nat × State :=
  let s0 := if (freeList (s.gen t)).isEmpty then
      match evictPick s t (evictable s t (dirAll (s.gen t).cfg)) with
      | some x => evict t x s
      | none => s
    else s
  let (f, s1) := pickOf (freeList (s0.gen t)) s0
  (f, s1.modGen t (fun (g : Gen) =>
    { g with used := f :: g.used
             resvs := mapMod ({ left := 0, holders := 0 } : Resv) g.resvs resv (fun r => { r with left := r.left - 1 }) }))

/-- Draw `n` frames. -/
def drawFrames (t resv : Nat) : Nat → State → List Nat × State
  | 0, s => ([], s)
  | n + 1, s =>
    let (f, s1) := drawFrame t resv s
    let (fs, s2) := drawFrames t resv n s1
    (f :: fs, s2)

/-! ### The hash chain (R136, R137) -/

/-- The identity fields of the hash message: MODEL_ID, EPOCH and the shape bytes. -/
def hashIdent (m : KvModel) (epoch : Nat) : List Byte :=
  leBytes 8 m.modelId ++ leBytes 4 (if m.epochKey then epoch else 0) ++
    leBytes 1 m.headBase ++ leBytes 1 m.heads ++ leBytes 1 m.ppf ++ leBytes 1 (if m.hw == 128 then 1 else 0) ++ leBytes 1 m.fmt

/-- The hash of one block after the hash before it: 16 bytes of SHAKE256 as a number. -/
def blockHash (m : KvModel) (epoch prev : Nat) (toks : List Nat) : Nat :=
  leNat (shake256 (leBytes 16 prev ++ toks.flatMap (leBytes 4) ++ hashIdent m epoch) 16)

/-- The hashes of the first `k` blocks of a token list. -/
def hashChain (m : KvModel) (epoch : Nat) : Nat → Nat → List Nat → List Nat
  | 0, _, _ => []
  | k + 1, prev, toks =>
    let h := blockHash m epoch prev (toks.take 32)
    h :: hashChain m epoch k h (toks.drop 32)

/-- The epoch that enters a model's hashes: none for a draft model or in a scorer troupe (R136). -/
def hashEpoch (s : State) (t m epoch : Nat) : Nat := if m == 0 && (s.troupe t).cfg.role != 3 then epoch else 0

/-- Look up hashes in order until the first miss: the entries found and the number of lookups (R137). -/
def lookupRun (s : State) (t : Nat) : List Nat → List Nat × Nat
  | [] => ([], 0)
  | h :: hs =>
    match dirFind s t h with
    | none => ([], 1)
    | some i => let (xs, n) := lookupRun s t hs; (i :: xs, n + 1)

/-- The directory entries found for a prompt of `p` tokens in a model, and the number of lookups (R137). -/
def foundBlocks (s : State) (t m p epoch : Nat) (prompt : List Nat) : List Nat × Nat :=
  lookupRun s t (hashChain ((s.gen t).cfg.model m) (hashEpoch s t m epoch) ((p - 1) / 32) 0 prompt)

/-- Frames of the found blocks whose REF is 0 (R92). -/
def foundFree (s : State) (t : Nat) (idx : List Nat) : Nat :=
  idx.foldl (fun n i => n + ((dirFrames s t (dirGet s i)).2.filter (fun f => frameRef s t f == 0)).length) 0

/-- Take the found blocks for a sequence: REF rises, LAST_USE is now, and the block table reaches their rows (R92, R133). -/
def takeBlocks (t : Nat) : List Nat → Nat → State → Map Nat × State
  | [], _, s => ([], s)
  | i :: rest, b, s =>
    let e := dirGet s i
    let s1 := (dirFrames s t e).2.foldl (takeRef t) s
    let s2 := dirPut i { e with lastUse := s.cue } s1
    let (tab, s3) := takeBlocks t rest (b + 1) s2
    (mapPut tab b e.row, s3)

/-! ### Block tables of a slot -/

/-- The block table of model `m`. -/
def GSlot.table (x : GSlot) (m : Nat) : Map Nat := if m == 0 then x.pol else x.dra
/-- Replace the block table of a model. -/
def GSlot.setTable (x : GSlot) (m : Nat) (tab : Map Nat) : GSlot := if m == 0 then { x with pol := tab } else { x with dra := tab }

/-- Give a row back once no sequence reaches it: when none of its frames is in use or registered with it. -/
def dropRow (t m r : Nat) (s : State) : State :=
  let fs := rowFrames s t m r
  if fs.all (fun f => !(s.gen t).used.contains f) then s.modGen t (fun (g : Gen) => g.setRows m (mapDel (g.rows m) r)) else s

/-- Release the rows of a block table (R133). -/
def releaseTable (t m : Nat) (tab : Map Nat) (s : State) : State :=
  tab.foldl (fun s e => dropRow t m e.2 ((rowFrames s t m e.2).foldl (dropRef t) s)) s

/-- Give up a share of a reservation: the rest returns to the pool with the last of its sequences (R92). -/
def dropResv (t r : Nat) (s : State) : State :=
  s.modGen t (fun (g : Gen) => match mapFind g.resvs r with
    | some x => { g with resvs := (if x.holders ≤ 1 then mapDel g.resvs r else mapPut g.resvs r { x with holders := x.holders - 1 }) }
    | none => g)

/-! ### Pages -/

/-- The header address of the page of layer `l` in block `b` of a slot's model, if the block has a row. -/
def pageAddr (s : State) (t m : Nat) (x : GSlot) (b l : Nat) : Option Nat :=
  let c := (s.gen t).cfg
  let k := c.model m
  match mapFind (x.table m) b with
  | none => none
  | some r => some (headerAddr c k (nth 0 (rowFrames s t m r) (l / k.ppf)) (l % k.ppf))

/-- Lower FILL of every page of a block to at most `n` (R145). -/
def trimBlock (t m n : Nat) (x : GSlot) (b : Nat) (s : State) : State :=
  (List.range ((s.gen t).cfg.model m).layers).foldl (fun s l =>
    match pageAddr s t m x b l with
    | some a => if n < troupeNat s t (a + 0x12) 1 then troupeWrite s t (a + 0x12) (leBytes 1 n) else s
    | none => s) s

/-- Keep exactly the first `n` positions of a slot's pages (R145). -/
def trimPages (t m n : Nat) (x : GSlot) (s : State) : State :=
  (x.table m).foldl (fun s e => trimBlock t m (if 32 * e.1 + 32 ≤ n then 32 else n - 32 * e.1) x e.1 s) s

/-- Have all pages of a block FILL = 32 (R139)? -/
def blockFull (s : State) (t m : Nat) (x : GSlot) (b : Nat) : Bool :=
  (List.range ((s.gen t).cfg.model m).layers).all (fun l =>
    match pageAddr s t m x b l with
    | some a => troupeNat s t (a + 0x12) 1 == 32
    | none => false)

/-- Are the block's format, PPF and held heads the troupe's own (R139 case 4)? -/
def ownFormat (s : State) (t m : Nat) (x : GSlot) (b : Nat) : Bool :=
  let k := (s.gen t).cfg.model m
  (List.range k.layers).all (fun l =>
    match pageAddr s t m x b l with
    | some a => troupeNat s t a 1 == k.fmt && troupeNat s t (a + 0x16) 1 == k.headBase && troupeNat s t (a + 0x17) 1 == k.heads
    | none => false)

/-- Register one block by the first case of R139 that holds. -/
def registerBlock (t m b h : Nat) (x : GSlot) (s : State) : State :=
  match mapFind (x.table m) b with
  | none => s
  | some r =>
    let fs := rowFrames s t m r
    if !blockFull s t m x b || fs.any (frameReg s t) || !ownFormat s t m x b then s
    else if (dirFind s t h).isSome then s.modKv t (fun (k : KvRegs) => { k with dupCnt := inc16 k.dupCnt })
    else
      let put := fun (i : Nat) (s : State) =>
        let s1 := dirPut i { hash := h, row := r, troupe := t, valid := true, lastUse := s.cue } s
        let s2 := fs.foldl (fun s f => setHash t f h (setReg t f true s)) s1
        s2.modKv t (fun (k : KvRegs) => { k with registered := inc32 k.registered 1 })
      let ways := (List.range 8).map (fun w => dirSet (s.gen t).cfg h + w)
      match ways.find? (fun i => !(dirGet s i).valid) with
      | some i => put i s
      | none =>
        match evictPick s t (evictable s t ways) with
        | none => s.modKv t (fun (k : KvRegs) => { k with nosetCnt := inc16 k.nosetCnt })
        | some y => put y.1 (evict t y s)

/-- Register the full blocks of a committed sequence in a model, in block order (R139). -/
def registerSeq (t m epoch : Nat) (x : GSlot) (s : State) : State :=
  let k := (s.gen t).cfg.model m
  let toks := x.prompt ++ x.toks.map (·.token)
  let hs := hashChain k (hashEpoch s t m epoch) (toks.length / 32) 0 toks
  (List.range hs.length).foldl (fun s b => registerBlock t m b (nth 0 hs b) x s) s

/-- Draw a block of G frames for a slot and write their headers (R134). -/
def drawBlock (t m epoch i b : Nat) (s : State) : State :=
  match mapFind (s.gen t).slots i with
  | none => s
  | some x =>
    let c := (s.gen t).cfg
    let k := c.model m
    let (fs, s1) := drawFrames t x.resv k.g s
    let s2 := (List.range k.layers).foldl (fun s l =>
      troupeWrite s t (headerAddr c k (nth 0 fs (l / k.ppf)) (l % k.ppf)) (freshHeader s t k l (l % k.ppf) b epoch)) s1
    let (r, s3) := newRow t m fs s2
    s3.modSlot t i (fun y => y.setTable m (mapPut (y.table m) b r))

/-- Copy a shared block into frames of the slot's own (R134): REF of the old frames falls, the copies hold REF 1. -/
def copyBlock (t m i b r : Nat) (s : State) : State :=
  match mapFind (s.gen t).slots i with
  | none => s
  | some x =>
    let c := (s.gen t).cfg
    let old := rowFrames s t m r
    let (fs, s1) := drawFrames t x.resv old.length s
    let s2 := (List.zip old fs).foldl (fun s e =>
      match troupeRead s t (frameAddr c e.1) 0x20000 with
      | none => s
      | some bs => setReg t e.2 false (setRef t e.2 1 (troupeWrite (chargeRead t (frameAddr c e.1) 0x20000 s) t (frameAddr c e.2) bs))) s1
    let s3 := old.foldl (dropRef t) s2
    let (r', s4) := newRow t m fs s3
    (s4.modSlot t i (fun y => y.setTable m (mapPut (y.table m) b r'))).modKv t
      (fun (k : KvRegs) => { k with cowFrames := inc32 k.cowFrames old.length })

/-- The row that another slot coalesced with slot `i` has for a block of the prompt (R135): coalesced slots hold one reservation. -/
def joinedRow (g : Gen) (m i b : Nat) (x : GSlot) : Option Nat :=
  if x.joined then
    (g.slots.find? (fun e => e.1 != i && e.2.joined && e.2.resv == x.resv && (mapFind (e.2.table m) b).isSome)).bind
      (fun e => mapFind (e.2.table m) b)
  else none

/-- Slot `i` reaches row `r` for block `b`: REF of its frames rises (R133, R135). -/
def shareRow (t m i b r : Nat) (s : State) : State :=
  ((rowFrames s t m r).foldl (takeRef t) s).modSlot t i (fun y => y.setTable m (mapPut (y.table m) b r))

/-- Prepare one block that the step writes for slot `i` (R134); a coalesced slot takes the row of the one before it (R135). -/
def prepBlock (t m epoch i : Nat) (s : State) (b : Nat) : State :=
  match mapFind (s.gen t).slots i with
  | none => s
  | some x =>
    match mapFind (x.table m) b with
    | some r => if (rowFrames s t m r).any (fun f => 1 < frameRef s t f) then copyBlock t m i b r s else s
    | none =>
      match joinedRow (s.gen t) m i b x with
      | some r => shareRow t m i b r s
      | none => drawBlock t m epoch i b s

/-- The blocks that hold positions `a` to `b`. -/
def blocksOf (a b : Nat) : List Nat := (List.range (b / 32 + 1 - a / 32)).map (fun k => a / 32 + k)

end Sys2Proof.Machine
end

