-- ==== Sys2Proof/Machine/GenOps.lean ====
section
/-! DEFINITION. Request service of a generator troupe: checks (R87), the decision (R89), admission passes (R91, R92, R135,
R142), the curtain (R237, R238), cohorts (R239), step starts (R134, R232), cancels (R96, R100) and completion records (R101). -/

namespace Sys2Proof.Machine

/-- The class of a request. -/
def GenCfg.cls (c : GenCfg) (n : Nat) : ClassCfg := nth {} c.classes n
/-- FLAGS.CANCEL: 1 for an immediate cancel (R86). -/
def reqImm (r : ReqRecord) : Bool := bitOf r.flags 0
/-- FLAGS.LPMODE. -/
def reqLp (r : ReqRecord) : Nat := bitsOf r.flags 2 1
/-- FLAGS.SPEC. -/
def reqSpec (r : ReqRecord) : Bool := bitOf r.flags 3

/-- Version slot `k`. -/
def Gen.vslot (g : Gen) (k : Nat) : VSlot := mapGet {} g.vs k
/-- Change version slot `k`. -/
def Gen.modVslot (g : Gen) (k : Nat) (f : VSlot → VSlot) : Gen := { g with vs := mapPut g.vs k (f (g.vslot k)) }
/-- The epoch of the LIVE slot. -/
def Gen.liveEpoch (g : Gen) : Nat := (g.vslot g.live).epoch

/-- Does the slot hold a running sequence: from admission to its end (R93)? -/
def GSlot.running (x : GSlot) : Bool :=
  !x.zombie && (x.st == .prefill || x.st == .ship || x.st == .await || x.st == .decode)

/-- The sequences that steps serve. -/
def GSlot.stepping (x : GSlot) : Bool := !x.zombie && (x.st == .prefill || x.st == .decode)

/-- Number of running sequences. -/
def Gen.runCount (g : Gen) : Nat := (g.slots.filter (fun e => e.2.running)).length

/-- The lowest free slot (R92). -/
def Gen.freeSlot (g : Gen) : Option Nat :=
  ((List.range g.cfg.slotCount).map (fun i => g.cfg.slotBase + i)).find? (fun i => (mapFind g.slots i).isNone)

/-! ### The request record (R86) -/

/-- The field of `n` bytes at an offset of a record. -/
def fieldOf (b : List Byte) (off n : Nat) : Nat := leNat ((b.drop off).take n)

/-- A request record read from its 128 bytes (R86). -/
def reqOfBytes (b : List Byte) : ReqRecord :=
  { reqId := fieldOf b 0x00 8, prompt := fieldOf b 0x08 8, p := fieldOf b 0x10 4, n := fieldOf b 0x14 4, out := fieldOf b 0x18 8
    deadline := fieldOf b 0x20 8, sstream := fieldOf b 0x28 8, temp := fieldOf b 0x30 4, topP := fieldOf b 0x34 4, topK := fieldOf b 0x38 4
    cls := fieldOf b 0x3C 1, flags := fieldOf b 0x3D 1, specD := fieldOf b 0x3E 1, rsvA := fieldOf b 0x3F 1
    stop := [fieldOf b 0x40 4, fieldOf b 0x44 4, fieldOf b 0x48 4, fieldOf b 0x4C 4], hostTag := fieldOf b 0x50 8, rsvB := fieldOf b 0x58 40 }

/-- The 128 bytes of a request record (R86). -/
def reqBytes (r : ReqRecord) : List Byte :=
  leBytes 8 r.reqId ++ leBytes 8 r.prompt ++ leBytes 4 r.p ++ leBytes 4 r.n ++ leBytes 8 r.out ++ leBytes 8 r.deadline ++
    leBytes 8 r.sstream ++ leBytes 4 r.temp ++ leBytes 4 r.topP ++ leBytes 4 r.topK ++ leBytes 1 r.cls ++ leBytes 1 r.flags ++
    leBytes 1 r.specD ++ leBytes 1 r.rsvA ++ (List.range 4).flatMap (fun i => leBytes 4 (nth 0xFFFFFFFF r.stop i)) ++
    leBytes 8 r.hostTag ++ leBytes 40 r.rsvB

/-! ### Request checks (R87) -/

/-- Are the fields of a request record in range and its reserved fields 0 (R86, R87, R105)? -/
def reqFieldsOk (c : GenCfg) (r : ReqRecord) : Bool :=
  1 ≤ r.p && r.p + 1 ≤ c.ctxLimit && 1 ≤ r.n && r.n + r.p ≤ c.ctxLimit && r.out % 16 == 0 &&
  (r.temp % 0x80000000 == 0 || r.temp < 0x7F800000) && 0 < r.topP && r.topP ≤ 0x3F800000 && r.topK ≤ 4096 && r.cls ≤ 7 &&
  r.flags < 16 && reqLp r != 3 && (!reqSpec r || (1 ≤ r.specD && r.specD ≤ 8)) && r.rsvA == 0 && r.rsvB == 0 && !(reqSpec r && c.draft.g == 0)

/-- Is the REQ_ID queued or running in the troupe? -/
def reqActive (g : Gen) (n : Nat) : Bool :=
  g.queue.any (fun q => q.record.reqId == n) || g.slots.any (fun e => e.2.running && e.2.record.reqId == n)

/-- Is a request acceptable (R87)? -/
def reqOk (s : State) (t : Nat) (r : ReqRecord) : Bool :=
  let g := s.gen t
  reqFieldsOk g.cfg r && troupeMapped s t r.prompt (4 * r.p) true false && troupeMapped s t r.out (16 * r.n) false true &&
    !reqActive g r.reqId

/-! ### Completion records (R101) -/

/-- The 64-byte completion record of a request with its outcome. -/
def genRecord (s : State) (r : ReqRecord) (x : Option (Nat × GSlot)) (status : Nat) : List Byte :=
  match x with
  | none =>
    leBytes 8 r.reqId ++ leBytes 1 status ++ leBytes 1 0 ++ leBytes 2 0xFFFF ++ List.replicate 44 0 ++ leBytes 8 s.cue
  | some (i, y) =>
    let fe := match y.toks with
      | [] => 0
      | k :: _ => k.epoch
    let le := match y.toks.reverse with
      | [] => 0
      | k :: _ => k.epoch
    leBytes 8 r.reqId ++ leBytes 1 status ++ leBytes 1 y.endCode ++ leBytes 2 i ++ leBytes 4 y.toks.length ++ leBytes 4 fe ++
      leBytes 4 le ++ leBytes 4 y.ht ++ leBytes 4 y.proposed ++ leBytes 4 y.accepted ++ leBytes 4 0 ++ leBytes 8 y.tAdmit ++
      leBytes 8 y.tFirst ++ leBytes 8 y.tEnd

/-- A request ends: its record completes the GEN_SUBMIT, and its REQ_ID joins the last 4,096 (R99, R101). -/
def finishReq (t : Nat) (h : CmdHdr) (r : ReqRecord) (x : Option (Nat × GSlot)) (status : Nat) (s : State) : State :=
  let s1 := completeRec h opGenSubmit (0x100 + status) (genRecord s r x status) s
  s1.modGen t (fun (g : Gen) => { g with ended := (r.reqId :: g.ended).take 4096 })

/-! ### Giving a slot's holdings back -/

/-- Lower the pinned count of a version slot. -/
def unpin (k : Nat) (g : Gen) : Gen :=
  if g.vr.pin && k < 3 then g.modVslot k (fun v => { v with pinned := v.pinned - 1 }) else g

/-- Frames, reservation and pin of slot `i` return (R92, R133, R238). -/
def releaseSeq (t i : Nat) (s : State) : State :=
  match mapFind (s.gen t).slots i with
  | none => s
  | some x =>
    if x.released then s
    else
      let s1 := releaseTable t 1 x.dra (releaseTable t 0 x.pol s)
      let s2 := (dropResv t x.resv s1).modGen t (unpin x.vslot)
      s2.modSlot t i (fun y => { y with released := true, pol := [], dra := [] })

/-- Slot `i` becomes FREE. -/
def clearSlot (t i : Nat) (s : State) : State := s.modGen t (fun (g : Gen) => { g with slots := mapDel g.slots i })

/-- HELD version slots whose pinned count is 0 become FREE at the end of a step (R238). -/
def freeHeld (g : Gen) : Gen :=
  { g with vs := g.vs.map (fun e => if e.2.st == .held && e.2.pinned == 0 then (e.1, ({} : VSlot)) else e) }

/-! ### Cancels (R96, R100, R114) -/

/-- The prefill troupe on this module that serves troupe `t`, if its partner is here. -/
def prefillHere (s : State) (t : Nat) : Option Nat :=
  match (s.gen t).cfg.partner with
  | .prefill sl tr => if sl == s.thl.ens.mySlot then some tr else none
  | _ => none

/-- The slot of troupe `pt` that computes the prompt for a client. -/
def clientSlot (s : State) (pt : Nat) (cl : Nat × Nat × Nat) : Option (Nat × GSlot) :=
  (s.gen pt).slots.find? (fun e => e.2.client == some cl)

/-- Has the step in progress not committed yet? -/
def Gen.uncommitted (g : Gen) : Bool :=
  match g.step with
  | some st => !st.committed
  | none => false

/-- The prefill of a client's cancelled sequence stops at troupe `tr` (R96, R114): its job leaves the queue, its row in the step in progress
is dropped at the commit, and else its slot is freed. Answers the first token when it had been written. -/
def dropClient (tr : Nat) (cl : Nat × Nat × Nat) (s : State) : State × List Tok × Nat :=
  let s1 := s.modGen tr (fun (g : Gen) => { g with jobs := g.jobs.filter (fun j => j.client != cl) })
  match clientSlot s1 tr cl with
  | none => (s1, [], 0)
  | some (k, y) =>
    if y.inStep && (s1.gen tr).uncommitted then
      (s1.modSlot tr k (fun z => { z with cancelled := true, client := some (cl.1, 255, 0) }), [], 0)
    else if y.st == .ending then (s1, [], 0)
    else (clearSlot tr k (releaseSeq tr k s1), y.toks, y.tFirst)

/-- The prefill of the cancelled sequence in slot `i` in AWAIT stops, at a prefill troupe here or by a message to its module (R114). -/
def stopPrefill (t i : Nat) (s : State) : State × List Tok × Nat :=
  match (s.gen t).cfg.partner with
  | .prefill sl tr =>
    if sl == s.thl.ens.mySlot then dropClient tr (sl, t, i) s
    else (sendFab { kind := "prefill_cancel", dest := sl, vals := [tr, s.thl.ens.mySlot, t, i] } s, [], 0)
  | _ => (s, [], 0)

/-- A cancel of the sequence in slot `i` is registered (R96, R98, R100). -/
def cancelSlot (t i : Nat) (s : State) : State :=
  match mapFind (s.gen t).slots i with
  | none => s
  | some x0 =>
    let (s, fs, tf) := if x0.st == .await then stopPrefill t i s else (s, [], 0)
    let x := { x0 with toks := x0.toks ++ fs, tFirst := (if fs.isEmpty then x0.tFirst else tf) }
    let serving := x.inStep && (s.gen t).uncommitted
    let done := { x with status := genCancelled, tEnd := s.cue }
    let put := fun (y : GSlot) (s : State) => s.modGen t (fun (g : Gen) => { g with slots := mapPut g.slots i y })
    if reqImm x.record then
      if serving then put { done with zombie := true, st := .free, cancelled := true } s
      else if x.inStep then
        finishReq t x.hdr x.record (some (i, done)) genCancelled (put { done with zombie := true, st := .free, cancelled := true } s)
      else
        finishReq t x.hdr x.record (some (i, done)) genCancelled (clearSlot t i (releaseSeq t i (put done s)))
    else if serving then put { x with cancelled := true } s
    else if (s.gen t).step.isSome then put { done with st := .ending, lateRec := true } s
    else finishReq t x.hdr x.record (some (i, done)) genCancelled (clearSlot t i (releaseSeq t i (put done s)))

/-! ### The decision (R89) -/

/-- What `decide` answers. -/
inductive Decision where
  | refuse (code : Nat)
  | hold
  | enter (frames : Nat) (found foundD : List Nat)
  deriving DecidableEq, Repr

/-- The prompt of a request as memory holds it (R88). -/
def readPrompt (s : State) (t : Nat) (r : ReqRecord) : List Nat :=
  match troupeRead s t r.prompt (4 * r.p) with
  | some bs => (List.range r.p).map (fun i => leNat ((bs.drop (4 * i)).take 4))
  | none => List.replicate r.p 0

/-- Does the troupe hold every request: throttled (R230), unopened (R257), held by a damaged shard (R266), or ending its
generate phase (R240)? -/
def holdsAll (s : State) (t : Nat) : Bool :=
  let x := s.troupe t
  x.gen.vr.throttled || !x.regs.opened || x.regs.held || x.gen.alt.stopping

/-- PF_C of the decision: that of the prefill troupe which serves the troupe (R111), for a partner on another module as it has reported it,
and before its report the troupe's own parameter (assumption 53). -/
def prefillTime (s : State) (t : Nat) : Nat :=
  match prefillHere s t, (s.gen t).cfg.partner, (s.gen t).peerPfC with
  | some tr, _, _ => (s.gen tr).cfg.pfC
  | none, .prefill _ _, some v => v
  | _, _, _ => (s.gen t).cfg.pfC

/-- The decision on a request, with the runs of found blocks limited to `lim` (R89, R92, R142): the decision and the lookups. -/
def decideReq (s : State) (t : Nat) (r : ReqRecord) (lim : Option (Nat × Nat)) : Decision × Nat × Nat :=
  let g := s.gen t
  let c := g.cfg
  let pr := readPrompt s t r
  let (f0, n0) := foundBlocks s t 0 r.p g.liveEpoch pr
  let (d0, m0) := if reqSpec r then foundBlocks s t 1 r.p g.liveEpoch pr else ([], 0)
  let (f, d) := match lim with
    | some (a, b) => (f0.take a, d0.take b)
    | none => (f0, d0)
  let blocks := ceilDiv (r.p + r.n) 32
  let frames := c.policy.g * (blocks - f.length) + (if reqSpec r then c.draft.g * (blocks - d.length) else 0)
  let steps := if reqSpec r then ceilDiv (r.n * 256) c.specY else r.n
  let tEnd := s.cue + prefillTime s t * (r.p - 32 * f.length) + steps * (c.stepA + c.stepB * (g.runCount + 1))
  let dec :=
    if c.poolFrames < frames then Decision.refuse genAdmitMemory
    else if r.deadline != 0 && r.deadline < tEnd then .refuse genAdmitTime
    else if holdsAll s t || g.freeSlot.isNone || freeFrames s t < frames + (foundFree s t f + foundFree s t d) then .hold
    else .enter frames f d
  (dec, n0 + m0, f0.length + d0.length)

/-- Count the lookups of a decision (R146). -/
def countLooks (t looks hits : Nat) (s : State) : State :=
  s.modKv t (fun (k : KvRegs) => { k with lookups := inc32 k.lookups looks, hits := inc32 k.hits hits })

/-! ### Admission (R92, R221, R240) -/

/-- Bytes of a token log (R221). -/
def logStride (c : GenCfg) : Nat := roundUp (16 * c.ctxLimit) 4096
/-- The troupe address of the token log of slot `i`. -/
def logAddr (c : GenCfg) (i : Nat) : Nat := c.ring.logBase + (i - c.slotBase) * logStride c
/-- The offset of the token entries in a log: the prompt's words, filled up to 16 bytes as in a record (R222; assumption 17). -/
def logTokOff (p : Nat) : Nat := roundUp (4 * p) 16

/-- Is the class of the request an EXP class of a troupe with a ring? -/
def isExp (c : GenCfg) (r : ReqRecord) : Bool := (c.cls r.cls).exp && c.ring.present

/-- Append token entries to a log, the first of them being the sequence's entry `k` (R221). -/
def logToks (t i p k : Nat) (ts : List Tok) (s : State) : State :=
  troupeWrite s t (logAddr (s.gen t).cfg i + logTokOff p + 16 * k)
    (ts.flatMap (fun x => leBytes 4 x.token ++ leBytes 4 x.epoch ++ leBytes 4 x.logp ++ leBytes 4 x.pos))

/-- A registered deferred cancel for every running sequence (R240, DRAIN). -/
def drainAll (t : Nat) (s : State) : State :=
  ((s.gen t).slots.filter (fun e => e.2.running)).foldl (fun s e =>
    cancelSlot t e.1 (s.modSlot t e.1 (fun x => { x with record := { x.record with flags := x.record.flags / 2 * 2 } }))) s

/-- The generate role of an alternating troupe takes no more requests; with DRAIN its running sequences are cancelled (R240). -/
def stopPhase (t : Nat) (s : State) : State :=
  let s1 := s.modGen t (fun (g : Gen) => { g with alt := { g.alt with stopping := true } })
  if (s.gen t).cfg.drain then drainAll t s1 else s1

/-- Does the troupe log its sequences itself? One that serves a decode troupe does not: the sequence is the decode troupe's (R111, R113). -/
def ownsLog (c : GenCfg) : Bool :=
  match c.partner with
  | .decode _ _ => false
  | _ => true

/-- A sequence goes to the prefill troupe that serves troupe `t`: into its queue when it is here, else by a message with the request, the
prompt and the decode troupe's runs (R111, R112). -/
def passToPrefill (t i ht hd : Nat) (h : CmdHdr) (r : ReqRecord) (pr : List Nat) (s : State) : State :=
  match (s.gen t).cfg.partner with
  | .prefill sl tr =>
    if sl == s.thl.ens.mySlot then
      s.modGen tr (fun (g : Gen) => { g with jobs := g.jobs ++ [{ client := (sl, t, i), hdr := h, record := r, prompt := pr, ht := ht, hd := hd }] })
    else sendFab { kind := "prefill_job", dest := sl, vals := [tr, s.thl.ens.mySlot, t, i, ht, hd], data := reqBytes r ++ pr.flatMap (leBytes 4) } s
  | _ => s

/-- Admit a request with the prompt that was read for it into slot `i` with its found blocks (R88, R92, R93, R111, R221, R238). -/
def admitReq (t i frames : Nat) (f d : List Nat) (h : CmdHdr) (r : ReqRecord) (pr : List Nat) (s : State) : State :=
  let g := s.gen t
  let c := g.cfg
  let (tp, s1) := takeBlocks t f 0 (chargeRead t r.prompt (4 * r.p) s)
  let (td, s2) := takeBlocks t d 0 s1
  let served := match c.partner with
    | .prefill _ _ => true
    | _ => false
  let x : GSlot :=
    { st := (if served then .await else .prefill), hdr := h, record := r, prompt := pr, ht := f.length, hd := d.length,
      tAdmit := s.cue, admEpoch := g.liveEpoch, vslot := (if served then 3 else g.live), pol := tp, dra := td, resv := g.nextResv }
  let s3 := s2.modGen t (fun (g : Gen) =>
    { g with slots := mapPut g.slots i x
             resvs := mapPut g.resvs g.nextResv { left := frames, holders := 1 }
             nextResv := g.nextResv + 1 })
  let s4 := if !served && g.vr.pin then
      s3.modGen t (fun (g : Gen) => g.modVslot g.live (fun v => { v with pinned := v.pinned + 1 }))
    else s3
  let s5 := if ownsLog c && isExp c r then
      (troupeWrite s4 t (logAddr c i) (pr.flatMap (leBytes 4))).modGen t
        (fun (g : Gen) => { g with alt := { g.alt with admitted := g.alt.admitted + 1 } })
    else s4
  let s6 := passToPrefill t i f.length d.length h r pr s5
  let g6 := s6.gen t
  if g6.vr.alt && !g6.alt.stopping && c.altRecords ≤ g6.alt.admitted then stopPhase t s6 else s6

/-- Member 0 of a head group: the member in the lowest module slot (R142). -/
def memberZero : List (Nat × Nat) → Option (Nat × Nat)
  | [] => none
  | a :: rest =>
    match memberZero rest with
    | none => some a
    | some b => some (if b.1 < a.1 then b else a)

/-- Is this troupe member 0 of a head group of several (R142)? -/
def leadsGroup (s : State) (t : Nat) : Bool :=
  let hg := (s.gen t).cfg.headGroup
  2 ≤ hg.length && memberZero hg == some (s.thl.ens.mySlot, t)

/-- Is it another member of a head group? -/
def followsGroup (s : State) (t : Nat) : Bool := 2 ≤ (s.gen t).cfg.headGroup.length && !leadsGroup s t

/-- The other members of the head group of troupe `t`. -/
def otherMembers (s : State) (t : Nat) : List (Nat × Nat) := (s.gen t).cfg.headGroup.filter (fun m => m != (s.thl.ens.mySlot, t))

/-- Member 0 asks the other members for their runs of a request (R142). -/
def askRuns (t : Nat) (r : ReqRecord) (s : State) : State :=
  if leadsGroup s t then
    (otherMembers s t).foldl (fun s m => sendFab { kind := "head_ask", dest := m.1, vals := [m.2], data := reqBytes r } s) s
  else s

/-- Another member reports its run of found blocks for a request to member 0 (R142). -/
def reportRun (t : Nat) (s : State) (r : ReqRecord) : State :=
  match memberZero (s.gen t).cfg.headGroup with
  | none => s
  | some z =>
    let pr := readPrompt s t r
    let e := (s.gen t).liveEpoch
    let ht := (foundBlocks s t 0 r.p e pr).1.length
    let hd := if reqSpec r then (foundBlocks s t 1 r.p e pr).1.length else 0
    sendFab { kind := "head_run", dest := z.1, vals := [z.2, s.thl.ens.mySlot, t, r.reqId, ht, hd] } (chargeRead t r.prompt (4 * r.p) s)

/-- What a pass has done so far: the class PRIO at or below which nothing is admitted any more (R91), and the slots admitted. -/
structure PassAcc where
  s      : State
  block  : Option Nat := none
  slots  : List Nat := []

/-- Is a request of this PRIO barred by one held in 64 passes (R91)? -/
def barred (block : Option Nat) (prio : Nat) : Bool :=
  match block with
  | none => false
  | some b => prio ≤ b

/-- The runs that the other members have reported for a request. -/
def runsFor (s : State) (t reqId : Nat) (runs : List PeerRun) : List PeerRun :=
  runs.filter (fun r => r.reqId == reqId && (otherMembers s t).contains r.member)

/-- May member 0 decide a request: every other member has reported its run (R142)? -/
def gathered (s : State) (t reqId : Nat) (runs : List PeerRun) : Bool :=
  !leadsGroup s t || (otherMembers s t).all (fun m => runs.any (fun r => r.reqId == reqId && r.member == m))

/-- Judge one queued request in a pass (R91, R92, R142). -/
def passReq (t : Nat) (runs : List PeerRun) (a : PassAcc) (q : QReq) : PassAcc :=
  let s := a.s
  let c := (s.gen t).cfg
  let prio := (c.cls q.record.cls).prio
  let mine := runsFor s t q.record.reqId runs
  let lim := if leadsGroup s t then
      mine.foldl (fun (o : Option (Nat × Nat)) r => match o with
        | none => some (r.ht, r.hd)
        | some (x, y) => some (if r.ht < x then r.ht else x, if r.hd < y then r.hd else y)) none
    else none
  let (dec, looks, hits) := decideReq s t q.record lim
  let s1 := countLooks t looks hits s
  let drop := fun (s : State) => s.modGen t (fun (g : Gen) =>
    { g with queue := g.queue.filter (fun x => x.record.reqId != q.record.reqId) })
  let keep := fun (s : State) => s.modGen t (fun (g : Gen) =>
    { g with queue := g.queue.map (fun x => if x.record.reqId == q.record.reqId then { x with held := x.held + 1 } else x) })
  let held : PassAcc :=
    { a with
      s := keep s1
      block := (if 64 ≤ q.held + 1 then some (match a.block with
        | none => prio
        | some b => if b < prio then prio else b) else a.block) }
  match dec with
  | .refuse code => { a with s := finishReq t q.hdr q.record none code (drop s1) }
  | .hold => held
  | .enter frames f d =>
    if barred a.block prio then held
    else
      match (s1.gen t).freeSlot with
      | none => held
      | some i =>
        let s2 := admitReq t i frames f d q.hdr q.record (readPrompt s t q.record) (drop s1)
        let s3 := if mine.any (fun r => r.ht != f.length || r.hd != d.length) || (lim.isSome && hits != f.length + d.length) then
            s2.modKv t (fun (k : KvRegs) => { k with diverge := true, divergeCnt := inc16 k.divergeCnt })
          else s2
        let s4 := if leadsGroup s t then
            (otherMembers s t).foldl (fun s m =>
              sendFab { kind := "head_admit", dest := m.1, vals := [m.2, i, f.length, d.length], data := reqBytes q.record } s) s3
          else s3
        { a with s := s4, slots := a.slots ++ [i] }

/-- Admit what member 0 orders at another member (R142). -/
def passOrder (t : Nat) (a : PassAcc) (o : GroupAdmit) : PassAcc :=
  let s := a.s
  let g := s.gen t
  if (mapFind g.slots o.slot).isSome || o.slot < g.cfg.slotBase || g.cfg.slotBase + g.cfg.slotCount ≤ o.slot then a
  else
    let pr := readPrompt s t o.record
    let (f0, n) := foundBlocks s t 0 o.record.p g.liveEpoch pr
    let (d0, m) := if reqSpec o.record then foundBlocks s t 1 o.record.p g.liveEpoch pr else ([], 0)
    let f := f0.take o.ht
    let d := d0.take o.hd
    let blocks := ceilDiv (o.record.p + o.record.n) 32
    let frames := g.cfg.policy.g * (blocks - f.length) + (if reqSpec o.record then g.cfg.draft.g * (blocks - d.length) else 0)
    { a with
      s := admitReq t o.slot frames f d o.hdr o.record pr (countLooks t (n + m) (f0.length + d0.length) s)
      slots := a.slots ++ [o.slot] }

/-- Take prefill jobs in order while a slot and the frames for each are free (R111). -/
def passJobs (t : Nat) : List PfJob → PassAcc → PassAcc
  | [], a => a
  | j :: js, a =>
    let s := a.s
    let g := s.gen t
    let c := g.cfg
    let (f, n) := foundBlocks s t 0 j.record.p g.liveEpoch j.prompt
    let (d, m) := if reqSpec j.record then foundBlocks s t 1 j.record.p g.liveEpoch j.prompt else ([], 0)
    let need := ceilDiv j.record.p 32 * (c.policy.g + c.draft.g) - (f.length * c.policy.g + d.length * c.draft.g)
    match g.freeSlot with
    | none => a
    | some i =>
      if holdsAll s t || freeFrames s t < need + (foundFree s t f + foundFree s t d) then a
      else
        let s1 := admitReq t i need f d j.hdr j.record j.prompt (countLooks t (n + m) (f.length + d.length) s)
        let s2 := s1.modSlot t i (fun x => { x with client := some j.client, haveP := j.ht, haveD := j.hd })
        passJobs t js { a with s := s2.modGen t (fun (g : Gen) => { g with jobs := g.jobs.drop 1 }), slots := a.slots ++ [i] }

/-- The staleness bound at an admission pass (R230). -/
def judgeLag (t : Nat) (s : State) : State :=
  let g := s.gen t
  if !g.vr.lagchk || !g.cfg.ring.present then
    s.modGen t (fun (g : Gen) => { g with vr := { g.vr with throttled := false } })
  else
    let recs := (g.ring.recs.filter (fun r => r.state != 4 && r.state != 5)).map (·.epoch)
    let wait := g.ring.waiting.filterMap (fun i => match mapFind g.slots i with
      | some x => x.toks.head?.map (fun (k : Tok) => k.epoch)
      | none => none)
    let run := (g.slots.filter (fun e => e.2.running && (g.cfg.cls e.2.record.cls).exp)).map (fun e =>
      match e.2.toks with
      | [] => e.2.admEpoch
      | k :: _ => k.epoch)
    match recs ++ wait ++ run with
    | [] => s.modGen t (fun (g : Gen) => { g with vr := { g.vr with throttled := false }, ring := { g.ring with oldValid := false } })
    | e :: es =>
      let old := es.foldl (fun a b => if b < a then b else a) e
      let thr := !g.vr.alt && g.vr.maxLag + old < g.liveEpoch
      s.modGen t (fun (g : Gen) =>
        { g with vr := { g.vr with throttled := thr, throttle := g.vr.throttle || (thr && !g.vr.throttled) }
                 ring := { g.ring with oldValid := true, oldEpoch := old } })

/-- Coalesce the slots of one pass that have the same SPEC and prompt: each joins the lowest, and their reservations are one (R135). -/
def coalesce (t : Nat) (slots : List Nat) (s : State) : State :=
  slots.foldl (fun s i =>
    match mapFind (s.gen t).slots i with
    | none => s
    | some x =>
      match slots.find? (fun j => j < i && (match mapFind (s.gen t).slots j with
        | some y => reqSpec y.record == reqSpec x.record && y.prompt == x.prompt && y.st == x.st
        | none => false)) with
      | none => s
      | some l =>
        match mapFind (s.gen t).slots l with
        | none => s
        | some y =>
          s.modGen t (fun (g : Gen) =>
            let rx := mapGet { left := 0, holders := 1 } g.resvs x.resv
            let ry := mapGet { left := 0, holders := 1 } g.resvs y.resv
            { g with resvs := mapPut (mapDel g.resvs x.resv) y.resv { left := rx.left + ry.left, holders := ry.holders + 1 }
                     slots := mapPut (mapPut g.slots l { y with joined := true }) i { x with resv := y.resv, joined := true } })) s

/-- What other modules have sent for the troupe is taken in: sequences to prefill, cancels of such, PF_C (R111, R114), and the requests
whose runs member 0 asks for (R142). -/
def takePeers (t : Nat) (m : PassIn) (s : State) : State :=
  let s1 := m.stops.foldl (fun s cl => (dropClient t cl s).1) s
  let s2 := s1.modGen t (fun (g : Gen) =>
    { g with jobs := g.jobs ++ m.jobs.filter (fun j => !m.stops.contains j.client), peerPfC := m.pfC.or g.peerPfC })
  if followsGroup s2 t then m.asks.foldl (reportRun t) s2 else s2

/-- The requests, orders and jobs of an admission pass, taken in their order (R91, R111, R142). -/
def passAll (t : Nat) (m : PassIn) (s : State) : PassAcc :=
  let g := s.gen t
  let byPrio := [7, 6, 5, 4, 3, 2, 1, 0].flatMap (fun p => g.queue.filter (fun q => (g.cfg.cls q.record.cls).prio == p))
  passJobs t g.jobs (if followsGroup s t then m.orders.foldl (passOrder t) { s := s }
    else (byPrio.filter (fun q => gathered s t q.record.reqId m.runs)).foldl (passReq t m.runs) { s := s })

/-- The end of a pass: prompts that are alike are coalesced, and a head group's members are asked for what is still queued (R135, R142). -/
def passEnd (t : Nat) (a : PassAcc) : State :=
  (a.s.gen t).queue.foldl (fun s q => askRuns t q.record s) (coalesce t a.slots a.s)

/-- One admission pass (R91): queued requests by PRIO and arrival, then the coalescing of those it admitted. Member 0 of a head group asks
for the runs of the requests that stay queued (R142). -/
def admissionPass (t : Nat) (m : PassIn) (s : State) : State := passEnd t (passAll t m (judgeLag t (takePeers t m s)))

/-! ### The curtain (R237, R238) -/

/-- The curtain falls to version slot `k`. -/
def takeCurtain (t k : Nat) (s : State) : State :=
  let g := s.gen t
  let old := g.vslot g.live
  let oldTo : VSlot := if g.vr.pin && old.pinned != 0 && !old.void then { old with st := .held } else {}
  let s1 := s.modTroupe t (fun (x : Troupe) =>
    { x with
      gen := { (x.gen.modVslot g.live (fun _ => oldTo)).modVslot k (fun v => { v with st := .live, byLoads := false }) with
                live := k, vr := { x.gen.vr with curtain := true, curtainT := s.cue } }
      regs.opened := x.regs.opened || old.void
      regs.shut := x.regs.shut && !old.void })
  if g.vr.alt && g.alt.flying then
    s1.modTroupe t (fun (x : Troupe) => { x with regs.role := 1, gen.alt := {} })
  else s1

/-- The READY slots as (slot, epoch). -/
def readySlots (g : Gen) : List (Nat × Nat) := (g.vs.filter (fun e => e.2.st == .ready)).map (fun e => (e.1, e.2.epoch))

/-- The slot of the newest epoch. -/
def newest : List (Nat × Nat) → Option (Nat × Nat)
  | [] => none
  | x :: xs =>
    match newest xs with
    | none => some x
    | some y => some (if y.2 < x.2 then x else y)

/-- Complete the registered curtains to epochs that the curtain has served. -/
def endCurtains (t : Nat) (served : Nat → Bool) (s : State) : State :=
  let done := (s.gen t).curtainReqs.filter (fun q => served q.2)
  let s1 := done.foldl (fun s q => complete q.1 opGenCurtain stCurtainDone s) s
  s1.modGen t (fun (g : Gen) => { g with curtainReqs := g.curtainReqs.filter (fun q => !served q.2) })

/-- Decide the curtain at a step boundary (R237): none while the troupe is unopened, but for a void LIVE slot (R231), and
none at which an alternating troupe would leave its learn role in the middle of a step (R15, R240). -/
def decideCurtain (t : Nat) (s : State) : State :=
  let g := s.gen t
  if !(s.troupe t).regs.opened && !(g.vslot g.live).void then s
  else if g.vr.alt && g.alt.flying && (s.troupe t).lrn.midStep then s
  else if g.vr.auto then
    match newest (readySlots g) with
    | none => s
    | some (k, e) =>
      let older := (readySlots g).filter (fun r => r.1 != k)
      let s1 := older.foldl (fun s r => s.modGen t (fun (g : Gen) =>
        { g.modVslot r.1 (fun _ => {}) with vr := { g.vr with skipped := true, skippedCnt := inc16 g.vr.skippedCnt } })) s
      endCurtains t (fun x => x ≤ e) (takeCurtain t k s1)
  else
    match g.curtainReqs with
    | [] => s
    | (_, e) :: _ =>
      match (readySlots g).find? (fun r => r.2 == e) with
      | none => s
      | some (k, _) => endCurtains t (fun x => x == e) (takeCurtain t k s)

/-! ### Starting a step (R134, R232, R239) -/

/-- Pin the sequences that have no version slot yet to the LIVE slot (R238). -/
def pinNew (t : Nat) (s : State) : State :=
  ((s.gen t).slots.filter (fun e => e.2.st == .decode && e.2.vslot == 3)).foldl (fun s e =>
    s.modGen t (fun (g : Gen) =>
      let g1 := { g with slots := mapPut g.slots e.1 { e.2 with vslot := g.live } }
      if g.vr.pin then g1.modVslot g.live (fun v => { v with pinned := v.pinned + 1 }) else g1)) s

/-- The version slot of the next step: the LIVE slot, or in PIN mode the next cohort in ascending epoch order (R239). -/
def nextCohort (g : Gen) : Nat :=
  if !g.vr.pin then g.live
  else
    let ks := (List.range 3).filter (fun k => g.slots.any (fun e => e.2.stepping && e.2.vslot == k))
    let es := ks.map (fun k => (k, (g.vslot k).epoch))
    let low := fun (l : List (Nat × Nat)) => match l with
      | [] => none
      | x :: xs => some (xs.foldl (fun (a b : Nat × Nat) => if b.2 < a.2 then b else a) x)
    match low (es.filter (fun e => g.lastCohort < e.2)) with
    | some e => e.1
    | none => match low es with
      | some e => e.1
      | none => g.live

/-- Draft tokens that a step proposes for a sequence (R108). -/
def draftCount (x : GSlot) : Nat :=
  let r := x.record.n - x.toks.length
  if reqSpec x.record && x.st == .decode && 1 < r then (if x.record.specD < r - 1 then x.record.specD else r - 1) else 0

/-- Prepare the pages that the step writes for slot `i` (R134, R144), and clear its samples. -/
def prepSlot (t epoch : Nat) (s : State) (i : Nat) : State :=
  match mapFind (s.gen t).slots i with
  | none => s
  | some x =>
    let n := x.record.p + x.toks.length
    let d := draftCount x
    let bp := if x.st == .prefill then blocksOf (32 * x.ht) (x.record.p - 1) else blocksOf (n - 1) (n + d - 1)
    let hi := if x.st == .prefill then x.record.p - 1 else n + d - 2
    let lo := if x.st == .prefill then 32 * x.hd else x.dkept
    let useD := reqSpec x.record && (x.st == .prefill || d != 0) && lo ≤ hi
    let s1 := bp.foldl (prepBlock t 0 epoch i) s
    let s2 := if useD then (blocksOf lo hi).foldl (prepBlock t 1 epoch i) s1 else s1
    s2.modSlot t i (fun y =>
      { y with inStep := true, drawn := [], props := [], acc := 0, nf := false, kvStop := false
               dkept := (if useD then hi + 1 else y.dkept) })

/-- May troupe `t` begin a step: resident (R281, R322), opened (R257), in its generate role, and no notice of it waiting at the
module (R388)? -/
def mayStep (s : State) (t : Nat) : Bool :=
  let x := s.troupe t
  x.regs.state == .resident && x.regs.opened && x.regs.role == 1 && !x.regs.stopped && !s.paused t && !noticeWaits s t && x.gen.step.isNone

/-- Begin the next step of troupe `t`, if any sequence is there to serve. -/
def startStep (t : Nat) (s : State) : State :=
  if !mayStep s t then s
  else
    let s0 := pinNew t s
    let g := s0.gen t
    let k := nextCohort g
    let batch := (g.slots.filter (fun e => e.2.stepping && (!g.vr.pin || e.2.vslot == k))).map (·.1)
    if batch.isEmpty then s0
    else
      let epoch := (g.vslot k).epoch
      let s1 := (troupeCores s0 t).foldl (fun s c => s.modCore c (fun (x : Core) =>
        (x.sPut 14 (BitVec.ofNat 64 (nth 0 g.cfg.vbases k))).sPut 13 (BitVec.ofNat 64 epoch))) s0
      let s2 := batch.foldl (prepSlot t epoch) s1
      s2.modGen t (fun (g : Gen) => { g with step := some { vslot := k, epoch := epoch, slots := batch }, lastCohort := epoch })

end Sys2Proof.Machine
end

