-- ==== Sys2Proof/Machine/RingOps.lean ====
section
/-! DEFINITION. The ring engine (R222 to R229): records, seals, hand lists, reclaiming and the ring control block. -/

namespace Sys2Proof.Machine

/-- Change the ring of troupe `t`. -/
def State.modRing (s : State) (t : Nat) (f : Ring → Ring) : State := s.modGen t (fun (g : Gen) => { g with ring := f g.ring })

/-- The troupe address of ring unit `u`. -/
def unitAddr (r : RingCfg) (u : Nat) : Nat := r.base + (u % (if r.units == 0 then 1 else r.units)) * 256

/-- Write the engine's fields of the ring control block (R229). -/
def syncCtrl (t : Nat) (s : State) : State :=
  let r := (s.gen t).ring
  troupeWrite s t (s.gen t).cfg.ring.ctrl
    (leBytes 8 r.wrSeq ++ leBytes 8 r.head ++ leBytes 8 r.tail ++ leBytes 8 r.handCnt ++ leBytes 8 r.sHandCnt)

/-- The bytes from REF_OFF on that a record's body holds beside prompt and tokens. -/
def reflpBytes (r : RingCfg) (d : Nat) : Nat := if r.reflp then roundUp (4 * d) 16 else 0

/-- Units of a record (R222). -/
def recordUnits (r : RingCfg) (p d : Nat) : Nat := ceilDiv (256 + roundUp (4 * p) 16 + 16 * d + reflpBytes r d) 256

/-- A record header (R222) of a written record. -/
def recordHeader (s : State) (t i seqNo units : Nat) (x : GSlot) : List Byte :=
  let c := (s.gen t).cfg
  let d := x.toks.length
  let off := 256 + roundUp (4 * x.record.p) 16
  let fe := match x.toks with
    | [] => 0
    | k :: _ => k.epoch
  let le := match x.toks.reverse with
    | [] => 0
    | k :: _ => k.epoch
  leBytes 8 seqNo ++ leBytes 8 x.record.reqId ++ leBytes 8 x.record.hostTag ++ leBytes 1 1 ++ leBytes 1 x.status ++
    leBytes 1 x.endCode ++ leBytes 1 (b2n (reqSpec x.record) + 2 * b2n c.ring.reflp) ++ leBytes 1 x.record.cls ++
    leBytes 1 (reqLp x.record) ++ leBytes 2 i ++ leBytes 4 x.record.p ++ leBytes 4 d ++ leBytes 4 fe ++ leBytes 4 le ++
    leBytes 4 units ++ leBytes 1 t ++ leBytes 1 s.thl.ens.mySlot ++ leBytes 2 0 ++ leBytes 8 x.tEnd ++ leBytes 4 0 ++ leBytes 4 0 ++
    leBytes 1 0 ++ leBytes 7 0 ++ leBytes 8 0 ++ leBytes 4 off ++ leBytes 4 (if c.ring.reflp then off + 16 * d else 0) ++
    leBytes 8 c.policy.modelId ++ List.replicate 152 0

/-- A record's bytes: header, prompt and token entries from the token log, a reference area of zeros, padding (R221, R222). -/
def recordBytes (s : State) (t i seqNo units : Nat) (x : GSlot) : List Byte :=
  let c := (s.gen t).cfg
  let a := logAddr c i
  let d := x.toks.length
  let rd := fun (a n : Nat) => match troupeRead s t a n with
    | some bs => bs
    | none => List.replicate n 0
  let pr := rd a (4 * x.record.p)
  let body := pr ++ List.replicate (roundUp (4 * x.record.p) 16 - 4 * x.record.p) 0 ++ rd (a + logTokOff x.record.p) (16 * d)
  let all := recordHeader s t i seqNo units x ++ body
  all ++ List.replicate (256 * units - all.length) 0

/-- A pad record's header (R222, R223). -/
def padHeader (s : State) (t seqNo units : Nat) : List Byte :=
  leBytes 8 seqNo ++ List.replicate 16 0 ++ leBytes 1 5 ++ List.replicate 23 0 ++ leBytes 4 units ++ leBytes 1 t ++
    leBytes 1 s.thl.ens.mySlot ++ List.replicate 202 0

/-- May the engine advance TAIL over a record (R228)? -/
def reclaimable (r : Ring) (e : RingRec) : Bool :=
  e.state == 4 || e.state == 5 || (match e.handIdx with
    | some i => i < r.doneCnt
    | none => false)

/-- The records after TAIL has passed the reclaimed ones, and the units passed. -/
def dropReclaimed (r : Ring) : List RingRec → List RingRec × Nat
  | [] => ([], 0)
  | e :: es =>
    if reclaimable r e then
      let (xs, n) := dropReclaimed r es
      (xs, n + e.units)
    else (e :: es, 0)

/-- Reclaim records in SEQ order (R228). -/
def reclaim (t : Nat) (s : State) : State :=
  let r := (s.gen t).ring
  let (xs, n) := dropReclaimed r r.recs
  syncCtrl t (s.modRing t (fun (r : Ring) => { r with recs := xs, tail := r.tail + n }))

/-- Do `n` units fit (R223)? -/
def ringFits (s : State) (t n : Nat) : Bool :=
  let g := s.gen t
  n + (g.ring.head - g.ring.tail) ≤ g.cfg.ring.units

/-- Add a record of `n` units with its bytes at HEAD. -/
def addRecord (t n st epoch : Nat) (bytes : List Byte) (s : State) : State :=
  let g := s.gen t
  let s1 := troupeWrite s t (unitAddr g.cfg.ring g.ring.head) bytes
  syncCtrl t (s1.modRing t (fun (r : Ring) =>
    { r with recs := r.recs ++ [({ seqNo := r.wrSeq, start := r.head, units := n, state := st, epoch := epoch } : RingRec)]
             head := r.head + n, wrSeq := r.wrSeq + 1 }))

/-- The write waits for ring space: FULL, counted once for each record that waits (R223). -/
def ringWaits (t : Nat) (s : State) : State :=
  s.modRing t (fun (r : Ring) =>
    let fresh := r.waiting.filter (fun i => !r.counted.contains i)
    { r with full := true, counted := r.counted ++ fresh, fullCnt := (fresh.foldl (fun n _ => inc16 n) r.fullCnt) })

/-- The record of slot `i` has been written: the slot no longer waits for it, and is FREE once its holdings are released
(R223, R93). -/
def recordDone (t i : Nat) (s : State) : State :=
  let s1 := s.modRing t (fun (r : Ring) =>
    { r with waiting := r.waiting.filter (fun j => j != i), counted := r.counted.filter (fun j => j != i), written := true })
  match mapFind (s1.gen t).slots i with
  | none => s1
  | some x => if x.released then clearSlot t i s1 else s1.modSlot t i (fun y => { y with needRec := false })

/-- Write the record of slot `i` at HEAD, which has room (R223, R224). -/
def putRecord (t i : Nat) (x : GSlot) (s : State) : State :=
  let g := s.gen t
  let n := recordUnits g.cfg.ring x.record.p x.toks.length
  let e := match x.toks with
    | [] => 0
    | k :: _ => k.epoch
  let s1 := recordDone t i (addRecord t n 1 e (recordBytes s t i g.ring.wrSeq n x)
    (chargeReads t [(x.record.prompt, 4 * x.record.p), (logAddr g.cfg i, 16 * x.toks.length)] s))
  if g.cfg.ring.byScorer then s1
  else
    postNotice evExpWritten t none
      (leBytes 8 g.ring.wrSeq ++ leBytes 8 x.record.reqId ++ leBytes 8 x.record.hostTag ++
        leBytes 4 (g.ring.head % (if g.cfg.ring.units == 0 then 1 else g.cfg.ring.units)) ++ leBytes 4 n) s1

/-- Write the next waiting record, with a pad before it when it would run past the ring's end (R223). -/
def ringWrite (t : Nat) (s : State) : State :=
  let g := s.gen t
  match g.ring.waiting with
  | [] => s
  | i :: _ =>
    match mapFind g.slots i with
    | none => recordDone t i s
    | some x =>
      let n := recordUnits g.cfg.ring x.record.p x.toks.length
      let at_ := g.ring.head % (if g.cfg.ring.units == 0 then 1 else g.cfg.ring.units)
      if g.cfg.ring.units < at_ + n then
        let pad := g.cfg.ring.units - at_
        if !ringFits s t pad then ringWaits t s
        else
          let s1 := reclaim t (addRecord t pad 5 0 (padHeader s t g.ring.wrSeq pad) s)
          if ringFits s1 t n then putRecord t i x s1 else ringWaits t s1
      else if ringFits s t n then putRecord t i x s
      else ringWaits t s

/-- Change the engine's view of record `q`. -/
def modRec (t q : Nat) (f : RingRec → RingRec) (s : State) : State :=
  s.modRing t (fun (r : Ring) => { r with recs := r.recs.map (fun e => if e.seqNo == q then f e else e) })

/-- Write bytes into the header of a record at an offset. -/
def putHeader (t : Nat) (e : RingRec) (off : Nat) (bs : List Byte) (s : State) : State :=
  troupeWrite s t (unitAddr (s.gen t).cfg.ring e.start + off) bs

/-- A request of a source to seal or drop a record (R226): the state after it and its status. -/
def sealRecord (t : Nat) (scorer : Bool) (q reward reward2 : Nat) (drop : Bool) (s : State) : State × Nat :=
  let g := s.gen t
  match g.ring.recs.find? (fun e => e.seqNo == q && e.state != 5) with
  | none => (s, stSealUnknown)
  | some e =>
    if scorer != g.cfg.ring.byScorer then (s, stSealSource)
    else if e.state != 1 then (s, stSealTwice)
    else if drop then
      let s1 := putHeader t e 0x50 (leBytes 8 s.cue) (putHeader t e 0x18 (leBytes 1 4) s)
      let s2 := (modRec t q (fun e => { e with state := 4 }) s1).modRing t (fun (r : Ring) =>
        { r with drop := true, dropCnt := inc16 r.dropCnt })
      (reclaim t s2, stSealDone)
    else if !f32Finite (BitVec.ofNat 32 reward) || !f32Finite (BitVec.ofNat 32 reward2) then (s, stSealValue)
    else
      let s1 := putHeader t e 0x40 (leBytes 4 reward ++ leBytes 4 reward2 ++ leBytes 1 (if scorer then 2 else 1)) s
      let s2 := putHeader t e 0x18 (leBytes 1 2) (putHeader t e 0x50 (leBytes 8 s.cue) s1)
      let s3 := modRec t q (fun e => { e with state := 2 }) s2
      (s3.modRing t (fun (r : Ring) => { r with toHand := r.toHand ++ [q] }), stSealDone)

/-- Take the scorer's seal entries `j` onward, `k` of them (R225, R226). -/
def takeSeals (t : Nat) : Nat → Nat → State → State
  | 0, _, s => s
  | k + 1, j, s =>
    let r := (s.gen t).cfg.ring
    let a := r.sealAddr + (j % (if r.sHandLen == 0 then 1 else r.sHandLen)) * 32
    let (s1, st) := sealRecord t true (troupeNat s t a 8) (troupeNat s t (a + 8) 4) (troupeNat s t (a + 12) 4)
      (bitOf (troupeNat s t (a + 16) 4) 0) s
    let s2 := if st == stSealDone then s1
      else s1.modRing t (fun (r : Ring) => { r with sealBad := true, sealBadCnt := inc16 r.sealBadCnt })
    takeSeals t k (j + 1) (chargeRead t a 32 s2)

/-- Read SEAL_CNT and DONE_CNT, take seal entries and reclaim records (R226, R228). A value that is ignored is counted once. -/
def ringPoll (t : Nat) (s : State) : State :=
  let g := s.gen t
  if !g.cfg.ring.present then s
  else
    let v := troupeNat s t (g.cfg.ring.ctrl + 0x30) 8
    let s1 :=
      if v < g.ring.sealCnt || g.ring.sHandCnt < v then
        if g.ring.badSeal == some v then s
        else s.modRing t (fun (r : Ring) =>
          { r with sealcntBad := true, sealBadCnt := inc16 r.sealBadCnt, badSeal := some v })
      else (takeSeals t (v - g.ring.sealCnt) g.ring.sealCnt s).modRing t (fun (r : Ring) => { r with sealCnt := v, badSeal := none })
    let g1 := s1.gen t
    let w := troupeNat s1 t (g1.cfg.ring.ctrl + 0x28) 8
    let s2 :=
      if w < g1.ring.doneCnt || g1.ring.handCnt < w then
        if g1.ring.badDone == some w then s1 else s1.modRing t (fun (r : Ring) => { r with doneBad := true, badDone := some w })
      else s1.modRing t (fun (r : Ring) => { r with doneCnt := w, badDone := none })
    reclaim t (chargeRead t (g1.cfg.ring.ctrl + 0x28) 16 s2)

/-- A hand entry: SEQ, unit offset and UNITS (R225). -/
def handEntry (r : RingCfg) (e : RingRec) : List Byte :=
  leBytes 8 e.seqNo ++ leBytes 4 (e.start % (if r.units == 0 then 1 else r.units)) ++ leBytes 4 e.units

/-- Hand the next written record to the scorer, while its hand list has room (R225). -/
def scorerHand (t : Nat) (s : State) : State :=
  let g := s.gen t
  let r := g.cfg.ring
  if !r.byScorer || g.ring.sealCnt + r.sHandLen ≤ g.ring.sHandCnt then s
  else
    match g.ring.recs.find? (fun e => e.state != 5 && !e.scored) with
    | none => s
    | some e =>
      let i := g.ring.sHandCnt
      let s1 := troupeWrite s t (r.sHand + (i % (if r.sHandLen == 0 then 1 else r.sHandLen)) * 16) (handEntry r e)
      let s2 := (modRec t e.seqNo (fun e => { e with scored := true }) s1).modRing t (fun (x : Ring) => { x with sHandCnt := i + 1 })
      semAdd r.scorer r.ssem 1 (syncCtrl t s2)

/-- The record to hand to the consumer next (R227). -/
def nextHand (g : Gen) : Option RingRec :=
  if g.cfg.ring.sealOrder then
    match g.ring.toHand with
    | [] => none
    | q :: _ => g.ring.recs.find? (fun e => e.seqNo == q)
  else
    match g.ring.recs.find? (fun e => e.state != 3 && e.state != 4 && e.state != 5) with
    | some e => if e.state == 2 then some e else none
    | none => none

/-- Hand a sealed record to the consumer, while its hand list has room (R227). -/
def consumerHand (t : Nat) (s : State) : State :=
  let g := s.gen t
  let r := g.cfg.ring
  if g.ring.doneCnt + r.handLen ≤ g.ring.handCnt then s
  else
    match nextHand g with
    | none => s
    | some e =>
      let i := g.ring.handCnt
      let s1 := troupeWrite s t (r.hand + (i % (if r.handLen == 0 then 1 else r.handLen)) * 16) (handEntry r e)
      let s2 := putHeader t e 0x18 (leBytes 1 3) s1
      let s3 := (modRec t e.seqNo (fun e => { e with state := 3, handIdx := some i }) s2).modRing t (fun (x : Ring) =>
        { x with handCnt := i + 1, toHand := x.toHand.filter (fun q => q != e.seqNo) })
      semAdd r.consumer r.esem 1 (syncCtrl t s3)

end Sys2Proof.Machine
end

