-- ==== Sys2Proof/Machine/Gen.lean ====
section
/-! DEFINITION. The commands and events of a generator troupe: submission (R90), cancel (R99), curtain (R237), step boundary
(R141), idle admission pass (R91), commit (R94 to R97, R145), shipment (R112) and the clear of its KV counters (R146). -/

namespace Sys2Proof.Machine

/-- Does troupe `t` have a generator part in the image in force? -/
def isGen (s : State) (t : Nat) : Bool := s.hasTroupe t && (s.gen t).cfg.present

/-- Is there neither a running sequence nor a step (R91)? -/
def genIdle (s : State) (t : Nat) : Bool := (s.gen t).step.isNone && (s.gen t).runCount == 0

/-! ### The end of a step -/

/-- Register the full blocks of the committed step's sequences (R139, R141). -/
def boundaryRegister (t : Nat) (s : State) : State :=
  match (s.gen t).step with
  | none => s
  | some st =>
    st.slots.foldl (fun s i => match mapFind (s.gen t).slots i with
      | some x =>
        if x.zombie then s
        else
          let s1 := registerSeq t 0 st.epoch x s
          if reqSpec x.record then registerSeq t 1 st.epoch x s1 else s1
      | none => s) s

/-- Release slot `i` at the end of a step when its sequence has ended: frames, pin and reservation return, a waiting completion
record is written, and the slot is FREE unless an experience record is still to be written (R93, R96, R100, R223). -/
def boundaryRelease (t : Nat) (s : State) (i : Nat) : State :=
  match mapFind (s.gen t).slots i with
  | none => s
  | some x =>
    if x.zombie || x.st == .ending then
      let s1 := releaseSeq t i s
      let s2 := if x.lateRec then finishReq t x.hdr x.record (some (i, x)) x.status s1 else s1
      if x.needRec then s2.modSlot t i (fun y => { y with inStep := false, lateRec := false }) else clearSlot t i s2
    else s.modSlot t i (fun y => { y with inStep := false })

/-- The end of the generate role of an alternating troupe: no slot in use and every record written (R240). -/
def endPhase (t : Nat) (s : State) : State :=
  let g := s.gen t
  if g.vr.alt && g.alt.stopping && (s.troupe t).regs.role == 1 && g.slots.isEmpty && g.ring.waiting.isEmpty then
    s.modTroupe t (fun (x : Troupe) => { x with regs.role := 2, gen.alt := {} })
  else s

/-- A step boundary of troupe `t` (R141, R226, R237): the ring engine reads its counts, then registrations, releases, the curtain,
the admission pass, and the next step begins. -/
def boundary (t : Nat) (m : PassIn) (s : State) : State :=
  let s1 := boundaryRegister t (ringPoll t s)
  let s2 := ((s1.gen t).slots.map (·.1)).foldl (boundaryRelease t) s1
  let s3 := s2.modGen t (fun (g : Gen) => { freeHeld g with step := none })
  let s4 := endPhase t (decideCurtain t s3)
  let s5 := if (s4.troupe t).regs.role == 1 then admissionPass t m s4 else s4
  startStep t s5

/-- May a boundary of the troupe's steps fall: its cores are resident and the step in progress, if any, has committed? -/
def atBoundary (s : State) (t : Nat) : Bool :=
  let st := (s.troupe t).regs.state
  (st == .resident || st == .waitPort) && !s.paused t && (match (s.gen t).step with
    | some x => x.committed
    | none => true)

/-- STEP_BOUNDARY (R141). `m` is what other modules have sent for the pass (R111, R114, R142). -/
def execStepBoundary (t : Nat) (m : PassIn) (s : State) : Host.Outcome State Fault Refusal :=
  engine (fun s => if isGen s t && atBoundary s t then boundary t m s else s) s

/-- ADMISSION_PASS_IDLE: a pass while no sequence runs and no step is in progress (R91); with it the curtain and the start of the
next step (R141). -/
def execAdmissionPassIdle (t : Nat) (m : PassIn) (s : State) : Host.Outcome State Fault Refusal :=
  engine (fun s => if isGen s t && atBoundary s t && genIdle s t then boundary t m s else s) s

/-! ### Commands -/

/-- GEN_SUBMIT: the record that the command's 128 bytes hold is checked and the request decided on arrival: refused, or queued (R86, R87,
R89, R90). -/
def execGenSubmit (h : CmdHdr) (body : List Byte) (s : State) : Host.Outcome State Fault Refusal :=
  hostCmd h opGenSubmit (fun s =>
    let t := h.troupe
    let r := reqOfBytes body
    if !isGen s t then completeRec h opGenSubmit (0x100 + genReqInvalid) (genRecord s r none genReqInvalid) s
    else if !reqOk s t r then finishReq t h r none genReqInvalid s
    else
      let (dec, looks, hits) := decideReq s t r none
      let s1 := countLooks t looks hits s
      match dec with
      | .refuse code => finishReq t h r none code s1
      | _ =>
        if (s1.gen t).cfg.queueDepth ≤ (s1.gen t).queue.length then finishReq t h r none genAdmitQueue s1
        else
          let s2 := askRuns t r (s1.modGen t (fun (g : Gen) => { g with queue := g.queue ++ [({ hdr := h, record := r } : QReq)] }))
          if genIdle s2 t && atBoundary s2 t && (s2.gen t).cfg.headGroup.length < 2 then boundary t {} s2 else s2) s

/-- A cancel is registered: a queued request leaves the queue; a running sequence is cancelled; else the request has ended, or is unknown
(R96, R98, R99). -/
def registerCancel (t : Nat) (s : State) (q : CmdHdr × Nat) : State :=
  let g := s.gen t
  let own := fun (e : Nat × GSlot) => e.2.client.isNone && e.2.record.reqId == q.2
  match g.queue.find? (fun x => x.record.reqId == q.2) with
  | some x =>
    complete q.1 opGenCancel stCancelTaken (finishReq t x.hdr x.record none genCancelled
      (s.modGen t (fun (g : Gen) => { g with queue := g.queue.filter (fun y => y.record.reqId != q.2) })))
  | none =>
    match g.slots.find? (fun e => own e && e.2.running && !e.2.cancelled) with
    | some e => complete q.1 opGenCancel stCancelTaken (cancelSlot t e.1 s)
    | none =>
      if g.slots.any (fun e => own e && e.2.running) then complete q.1 opGenCancel stCancelTaken s
      else if g.ended.contains q.2 || g.slots.any own then complete q.1 opGenCancel stCancelLate s
      else complete q.1 opGenCancel stCancelUnknown s

/-- The cancels that waited for the end of their Cue count are registered, in order (R94). -/
def settleCancels (t : Nat) (s : State) : State :=
  (s.gen t).cancels.foldl (registerCancel t) (s.modGen t (fun (g : Gen) => { g with cancels := [] }))

/-- Does the uncommitted step of troupe `t` serve the running sequence of a request: a commit at the same Cue count goes before its cancel
(R94)? -/
def cancelWaits (g : Gen) (reqId : Nat) : Bool :=
  g.uncommitted && g.slots.any (fun e => e.2.running && e.2.inStep && e.2.client.isNone && e.2.record.reqId == reqId)

/-- GEN_CANCEL: registers the cancel of a request (R96, R98 to R100). One that names a sequence of the uncommitted step is registered at the
end of its Cue count, after a commit at that count (R94). -/
def execGenCancel (h : CmdHdr) (reqId : Nat) (s : State) : Host.Outcome State Fault Refusal :=
  hostCmd h opGenCancel (fun s =>
    if !isGen s h.troupe then complete h opGenCancel stCancelUnknown s
    else if cancelWaits (s.gen h.troupe) reqId then s.modGen h.troupe (fun (g : Gen) => { g with cancels := g.cancels ++ [(h, reqId)] })
    else registerCancel h.troupe s (h, reqId)) s

/-- GEN_CURTAIN: registers a curtain to a READY epoch, or is refused with CURTAIN_NOT_READY; with AUTO an epoch that the LIVE slot
has reached or passed is done (R237). An idle troupe takes the curtain at once. -/
def execGenCurtain (h : CmdHdr) (epoch : Nat) (s : State) : Host.Outcome State Fault Refusal :=
  hostCmd h opGenCurtain (fun s =>
    let t := h.troupe
    let g := s.gen t
    if !isGen s t || !(readySlots g).any (fun r => r.2 == epoch) then complete h opGenCurtain stCurtainNotReady s
    else
      let s1 := s.modGen t (fun (g : Gen) => { g with curtainReqs := g.curtainReqs ++ [(h, epoch)] })
      if genIdle s1 t && atBoundary s1 t then decideCurtain t s1 else s1) s

/-! ### The commit -/

/-- How a sequence of the step is settled: its tokens, status if it ends, and END. -/
structure Settled where
  toks    : List (Nat × Nat) := []
  /-- How many tokens the step yields up to the natural end, dropped ones included (R97, R110). -/
  cut     : Nat := 0
  status  : Option Nat := none
  endCode : Nat := 0

/-- Tokens up to and including the first stop token, and whether there is one (R110). -/
def cutStop (stops : List Nat) : List (Nat × Nat) → List (Nat × Nat) × Bool
  | [] => ([], false)
  | x :: xs =>
    if stops.contains x.1 && x.1 != 0xFFFFFFFF then ([x], true)
    else let (ys, b) := cutStop stops xs; (x :: ys, b)

/-- Settle a sequence at the commit by the first rule of R97 that applies. -/
def settle (now : Nat) (dropLate : Bool) (x : GSlot) : Settled :=
  let (ts, stop) := cutStop x.record.stop (x.drawn.take (x.record.n - x.toks.length))
  let full := decide (x.record.n ≤ x.toks.length + ts.length)
  let e := if stop then 1 else if full then 2 else 0
  if x.cancelled then { cut := ts.length, status := some genCancelled }
  else if x.kvStop then { cut := ts.length, status := some genKvFormat }
  else if x.nf then { cut := ts.length, status := some genScoreNf }
  else if x.record.deadline != 0 && x.record.deadline < now then
    { toks := (if dropLate then [] else ts), cut := ts.length, status := some genDeadline, endCode := e }
  else if stop || full then { toks := ts, cut := ts.length, status := some genComplete, endCode := e }
  else { toks := ts, cut := ts.length }

/-- Accepted draft tokens of the step, with none that a natural end cuts off (R97, R110). -/
def acceptedOf (x : GSlot) (cut : Nat) : Nat := if x.acc < cut then x.acc else cut

/-- Positions of a sequence that its pages keep after the commit: through n + a - 1 with `a` draft tokens accepted (R145). -/
def keptPositions (x : GSlot) (a : Nat) : Nat := x.record.p + x.toks.length + a

/-- Write delivered tokens at OUT_ADDR and into the token log of an EXP class (R95, R221). -/
def deliver (t i : Nat) (x : GSlot) (new : List Tok) (s : State) : State :=
  let k := x.toks.length
  let s1 := (List.zip (List.range new.length) new).foldl (fun s e =>
    troupeWrite s t (x.record.out + 16 * (k + e.1))
      (leBytes 4 e.2.token ++ leBytes 4 e.2.epoch ++ leBytes 4 e.2.logp ++ leBytes 4 e.2.pos)) s
  if isExp (s.gen t).cfg x.record && x.client.isNone && !new.isEmpty then logToks t i x.record.p k new s1 else s1

/-- The frames that a prefill troupe ships for a sequence, by model and block: those of the prompt's blocks that the decode troupe did not find
(R112). -/
def shipFrames (s : State) (t : Nat) (x : GSlot) : List (Nat × Nat × List Nat) :=
  let one := fun (m have_ : Nat) =>
    (blocksOf (32 * have_) (x.record.p - 1)).filterMap (fun b => (mapFind (x.table m) b).map (fun r => (m, b, rowFrames s t m r)))
  one 0 x.haveP ++ (if reqSpec x.record then one 1 x.haveD else [])

/-- Those blocks with the bytes of their frames. -/
def shipBlocks (s : State) (t : Nat) (x : GSlot) : List ShipBlock :=
  (shipFrames s t x).map (fun e => { model := e.1, block := e.2.1, frames := e.2.2.map (fun f =>
    match troupeRead s t (frameAddr (s.gen t).cfg f) 0x20000 with
    | some bs => bs
    | none => []) })

/-- The reads of what is shipped are the sending troupe's (R331). -/
def chargeShip (t : Nat) (fs : List (Nat × Nat × List Nat)) (s : State) : State :=
  chargeReads t ((fs.flatMap (fun e => e.2.2)).map (fun f => (frameAddr (s.gen t).cfg f, 0x20000))) s

/-- What goes with the frames to a decode troupe on another module: the first token and the sampling state, which are the sequence's position
and its request's stream (R106, R112). -/
def sendShip (cl : Nat × Nat × Nat) (x : GSlot) (s : State) : State :=
  sendFab { kind := "ship_state", dest := cl.1, vals := [cl.2.1, cl.2.2, x.tFirst, x.record.sstream, x.record.p + x.toks.length]
            data := x.toks.flatMap (fun k => leBytes 4 k.token ++ leBytes 4 k.epoch ++ leBytes 4 k.logp ++ leBytes 4 k.pos) } s

/-- The commit of a sequence whose decode troupe waits for it: the first token is delivered, and the sequence ships, or ends
there (R112, R114). -/
def commitClient (t i : Nat) (cl : Nat × Nat × Nat) (x : GSlot) (s : State) : State :=
  let here := cl.1 == s.thl.ens.mySlot
  match x.st with
  | .ending =>
    if x.status == genCancelled then s
    else if here then
      match mapFind (s.gen cl.2.1).slots cl.2.2 with
      | none => s
      | some d =>
        let d' := { d with toks := d.toks ++ x.toks, tFirst := x.tFirst, status := x.status, endCode := x.endCode, tEnd := x.tEnd
                           st := .ending, needRec := isExp (s.gen cl.2.1).cfg d.record && !x.toks.isEmpty &&
                             (x.status == genComplete || x.status == genDeadline) }
        let s1 := s.modGen cl.2.1 (fun (g : Gen) => { g with slots := mapPut g.slots cl.2.2 d' })
        let s2 := if isExp (s.gen cl.2.1).cfg d.record then logToks cl.2.1 cl.2.2 d.record.p 0 x.toks s1 else s1
        let s3 := finishReq cl.2.1 d.hdr d.record (some (cl.2.2, d')) x.status s2
        if d'.needRec then s3.modRing cl.2.1 (fun (r : Ring) => { r with waiting := r.waiting ++ [cl.2.2] }) else s3
    else sendFab { kind := "ship_end", dest := cl.1, vals := [cl.2.1, cl.2.2, x.status, x.endCode] } (sendShip cl x s)
  | _ =>
    let s1 := s.modSlot t i (fun y => { y with st := .ship })
    if here then s1
    else
      sendShip cl x ((shipBlocks s t x).foldl (fun s b =>
        sendFab { kind := "ship", dest := cl.1, vals := [cl.2.1, cl.2.2, b.model, b.block], data := b.frames.flatMap (fun f => f) } s)
          (chargeShip t (shipFrames s t x) s1))

/-- Commit the sequence in slot `i` (R95, R97, R145). -/
def commitSlot (t epoch : Nat) (s : State) (i : Nat) : State :=
  match mapFind (s.gen t).slots i with
  | none => s
  | some x =>
    if x.zombie then
      finishReq t x.hdr x.record (some (i, { x with proposed := x.proposed + x.props.length, accepted := x.accepted + x.acc })) genCancelled s
    else
      let c := (s.gen t).cfg
      let cl := c.cls x.record.cls
      let r := settle s.cue cl.dropLate x
      let n := x.record.p + x.toks.length
      let new := (List.zip (List.range r.toks.length) r.toks).map (fun e =>
        ({ token := e.2.1, epoch := epoch, logp := e.2.2, pos := n + e.1 } : Tok))
      let acc := acceptedOf x r.cut
      let keep := keptPositions x acc
      let s1 := trimPages t 0 keep x s
      let s2 := if reqSpec x.record then trimPages t 1 keep x s1 else s1
      let s3 := deliver t i x new s2
      let y := { x with
        toks := x.toks ++ new
        tFirst := (if x.toks.isEmpty && !new.isEmpty then s.cue else x.tFirst)
        proposed := x.proposed + x.props.length
        accepted := x.accepted + acc
        dkept := (if keep < x.dkept then keep else x.dkept)
        joined := false, endCode := r.endCode }
      let put := fun (z : GSlot) (s : State) => s.modGen t (fun (g : Gen) => { g with slots := mapPut g.slots i z })
      let stream := cl.stream && !new.isEmpty
      let note := fun (s : State) =>
        if !stream then s
        else match y.toks.reverse with
          | [] => s
          | k :: _ => postNotice evGenProgress t (some y.record.reqId)
              (leBytes 8 y.record.reqId ++ leBytes 4 y.toks.length ++ leBytes 4 k.pos ++ leBytes 4 k.epoch) s
      match r.status with
      | none =>
        let z := { y with st := (if x.st == .prefill then .decode else x.st) }
        let s4 := note (put z s3)
        match x.client with
        | some k => commitClient t i k z s4
        | none => s4
      | some st =>
        let need := isExp c x.record && !y.toks.isEmpty && (st == genComplete || st == genDeadline) && x.client.isNone
        let z := { y with st := .ending, status := st, tEnd := s.cue, needRec := need }
        let s4 := note (put z s3)
        let s5 := match x.client with
          | some k => commitClient t i k z s4
          | none => finishReq t x.hdr x.record (some (i, z)) st s4
        if need then s5.modRing t (fun (q : Ring) => { q with waiting := q.waiting ++ [i] }) else s5

/-- Is the sampling of slot `i` complete: tokens drawn, or a condition that stops or drops it (R94)? -/
def sampledSlot (g : Gen) (i : Nat) : Bool :=
  match mapFind g.slots i with
  | none => true
  | some x => x.zombie || x.cancelled || x.nf || x.kvStop || !x.drawn.isEmpty

/-- COMMIT: the commit instant of the step in progress, once its sampling is complete: each sequence is settled, tokens and
records are written, in ascending slot order, and the cancels of the same Cue count come after it (R94, R95, R97). -/
def execCommit (t : Nat) (s : State) : Host.Outcome State Fault Refusal :=
  engine (fun s =>
    match (s.gen t).step with
    | none => s
    | some st =>
      if st.committed || !st.slots.all (sampledSlot (s.gen t)) then s
      else
        settleCancels t ((st.slots.foldl (commitSlot t st.epoch) s).modGen t (fun (g : Gen) =>
          { g with step := some { st with committed := true } }))) s

/-- Place one shipped block into frames of the decode troupe's reservation: whole, with REF 1 and REG 0 (R112, R143). The slots coalesced
with the sequence reach the same row, and a block that such a slot has brought is not placed again (R135). -/
def placeBlock (t i : Nat) (s : State) (b : ShipBlock) : State :=
  match mapFind (s.gen t).slots i with
  | none => s
  | some x =>
    let c := (s.gen t).cfg
    let mates := (s.gen t).slots.filter (fun e => e.1 != i && x.joined && e.2.joined && e.2.resv == x.resv)
    if (mapFind (x.table b.model) b.block).isSome then s
    else
    let (fs, s1) := drawFrames t x.resv b.frames.length s
    let s2 := (List.zip fs b.frames).foldl (fun s e => setReg t e.1 false (setRef t e.1 1 (troupeWrite s t (frameAddr c e.1) e.2))) s1
    let (r, s3) := newRow t b.model fs s2
    mates.foldl (fun s e => shareRow t b.model e.1 b.block r s)
      (s3.modSlot t i (fun y => y.setTable b.model (mapPut (y.table b.model) b.block r)))

/-- A part of a shipment reaches the decode troupe's slot: frames, and once the first token with the sampling state; with the last part the
slot moves to DECODE, or it ends as the prefill troupe's commit settled it (R112, R114, R221). -/
def arriveShip (t i : Nat) (d : ShipData) (s : State) : State :=
  let s1 := d.blocks.foldl (placeBlock t i) s
  let ts := match d.first with
    | some k => [k]
    | none => []
  match mapFind (s1.gen t).slots i with
  | none => s1
  | some x0 =>
    let fresh := x0.toks.isEmpty && !ts.isEmpty
    let x := if fresh then { x0 with toks := ts, tFirst := d.tFirst } else x0
    let s2 := (if fresh && isExp (s1.gen t).cfg x.record then logToks t i x.record.p 0 ts s1 else s1).modSlot t i (fun _ => x)
    match d.ended with
    | none =>
      if d.last then
        s2.modSlot t i (fun y => { y with st := .decode, joined := false, dkept := (if reqSpec y.record then y.record.p else 0) })
      else s2
    | some (st, e) =>
      let need := isExp (s1.gen t).cfg x.record && !x.toks.isEmpty && (st == genComplete || st == genDeadline)
      let z := { x with st := .ending, status := st, endCode := e, tEnd := s.cue, needRec := need }
      let s3 := finishReq t x.hdr x.record (some (i, z)) st (s2.modGen t (fun (g : Gen) => { g with slots := mapPut g.slots i z }))
      if need then s3.modRing t (fun (r : Ring) => { r with waiting := r.waiting ++ [i] }) else s3

/-- Does the slot ship to another module? -/
def shipsAway (s : State) (x : GSlot) : Bool :=
  match x.client with
  | some cl => cl.1 != s.thl.ens.mySlot
  | none => false

/-- SHIP_ARRIVAL: the last shipped frame reaches the decode troupe's slot in AWAIT, which moves to DECODE (R112, R93). A prefill
troupe of this module ships from its own slot, which becomes FREE; from another module the data come with the command, in one or more
parts. Named for a slot in SHIP whose decode troupe is on another module, it says that the last frame has been written there: the slot is
FREE (R93; assumption 53). -/
def execShipArrival (t slot : Nat) (d : ShipData) (s : State) : Host.Outcome State Fault Refusal :=
  engine (fun s =>
    match mapFind (s.gen t).slots slot with
    | none => s
    | some x =>
      if x.st == .ship then (if shipsAway s x then clearSlot t slot (releaseSeq t slot s) else s)
      else if x.st != .await then s
      else
        match prefillHere s t with
        | none => arriveShip t slot d s
        | some pt =>
          match clientSlot s pt (s.thl.ens.mySlot, t, slot) with
          | none => s
          | some (k, y) =>
            if y.st != .ship then s
            else
              let s1 := arriveShip t slot { first := y.toks.head?, tFirst := y.tFirst, blocks := shipBlocks s pt y } s
              clearSlot pt k (releaseSeq pt k (chargeShip pt (shipFrames s pt y) s1))) s

/-- KV_EVT_CLR: the troupe's KV counters become 0 (R146). -/
def execKvEvtClr (t : Nat) (s : State) : Host.Outcome State Fault Refusal :=
  regWrite (fun s =>
    if s.hasTroupe t then s.modKv t (fun (k : KvRegs) => { format := k.format, diverge := k.diverge }) else s) s

end Sys2Proof.Machine
end

