-- ==== Sys2Proof/Machine/Ctrl.lean ====
section
/-! DEFINITION. The CTRL class (R52) and the commands on core registers (R48, R80 to R84). -/

namespace Sys2Proof.Machine

/-- NOP: the next instruction may issue (R52). -/
def execNop (c : Nat) (nd : Bool) (s : State) : Host.Outcome State Fault Refusal :=
  coreIssue c nd .ok s

/-- HALT: the list ends, HALT_EV is set and STATE becomes halted (R81); a halted core is not waited for at a barrier (R316). -/
def execHalt (c : Nat) (nd : Bool) (s : State) : Host.Outcome State Fault Refusal :=
  coreIssue c nd (fun s =>
    .ok (checkBarriers (s.core c).regs.troupe
      (s.modRegs c (fun (r : CoreRegs) => { r with haltEv := true, state := .halted })))) s

/-- BRANCH: the sequencer's next instruction offset becomes the target (R52). A target that is not 16-byte aligned is
refused with OP_INVALID and one beyond the core store with STORE_RANGE (R66, R84). -/
def branchTo (c target : Nat) (s : State) : Issue :=
  if storeBytes ≤ target then .refuse rfStoreRange
  else if target % 16 != 0 then .refuse rfOpInvalid
  else .ok (s.modRegs c (fun (r : CoreRegs) => { r with pc := target }))

/-- BRANCH (R52). -/
def execBranch (c : Nat) (nd : Bool) (target : Nat) (s : State) : Host.Outcome State Fault Refusal :=
  coreIssue c nd (branchTo c target) s

/-- LOOP: counts scalar register r down by one and branches to the target while it has not reached zero; a register already
zero falls through (R49: scalar registers hold loop counts; R52 names the instruction and lays out no more: assumption 9). -/
def execLoop (c : Nat) (nd : Bool) (r target : Nat) (s : State) : Host.Outcome State Fault Refusal :=
  coreIssue c nd (fun s =>
    let v := ((s.core c).sGet r).toNat
    let s1 := s.modCore c (fun k => k.sPut r (BitVec.ofNat 64 (v - 1)))
    if 1 < v then branchTo c target s1 else .ok s1) s

/-- A sum, difference or product of two `w`-bit integers: the low `w` bits where the exact result is in range as an unsigned
or as a signed number; elsewhere the spec states no result and the value is free (assumption 8). -/
def intResult (w op a b : Nat) (u i : Int) : Nat :=
  if (0 ≤ u && u < (2 : Int) ^ w) || (-((2 : Int) ^ (w - 1)) ≤ i && i < (2 : Int) ^ (w - 1)) then toTwos w u
  else Config.intBeyond w op a b % 2 ^ w

/-- A scalar operation on 64-bit registers (R52); none for a code that is no operation of the class. -/
def scalarResult (op : ScalarOp) (a b : Nat) : Option Nat :=
  let sa := ofTwos 64 a
  let sb := ofTwos 64 b
  match op with
  | .add => some (intResult 64 0 a b ((a : Int) + b) (sa + sb))
  | .sub => some (intResult 64 1 a b ((a : Int) - b) (sa - sb))
  | .mul => some (intResult 64 2 a b ((a : Int) * b) (sa * sb))
  | .other _ => none

/-- SCALAR_ARITH: s(rd) from s(ra) and s(rb); an operation that is not defined for the class is refused with OP_INVALID (R52). -/
def execScalarArith (c : Nat) (nd : Bool) (op : ScalarOp) (rd ra rb : Nat) (s : State) : Host.Outcome State Fault Refusal :=
  coreIssue c nd (fun s =>
    let k := s.core c
    match scalarResult op (k.sGet ra).toNat (k.sGet rb).toNat with
    | some v => .ok (s.setCore c (k.sPut rd (BitVec.ofNat 64 v)))
    | none => .refuse rfOpInvalid) s

/-- TAG_LOAD: a tag-file entry from 8 bytes of the core store (R23, R52). -/
def execTagLoad (c : Nat) (nd : Bool) (tag addr : Nat) (s : State) : Host.Outcome State Fault Refusal :=
  coreIssue c nd (fun s =>
    if storeBytes < addr + 8 then .refuse rfStoreRange
    else .ok (s.modCore c (fun k => k.tagPut tag (BitVec.ofNat 64 (k.store.nat addr 8))))) s

/-- TAG_STORE: a tag-file entry into 8 bytes of the core store (R23, R52). -/
def execTagStore (c : Nat) (nd : Bool) (tag addr : Nat) (s : State) : Host.Outcome State Fault Refusal :=
  coreIssue c nd (fun s =>
    if storeBytes < addr + 8 then .refuse rfStoreRange
    else .ok (s.modCore c (fun (k : Core) => { k with store := k.store.putNat addr 8 (k.tagGet tag).toNat }))) s

/-! ### Core registers -/

/-- May a core start: idle or halted (R82)? -/
def startable (k : Core) : Bool := k.regs.state == .idle || k.regs.state == .halted

/-- Start issue at CORE_PC. -/
def startCore (c : Nat) (s : State) : State :=
  let t := (s.core c).regs.troupe
  let s1 := { s.modRegs c (fun (r : CoreRegs) => { r with state := .running, wait := .none, stopping := false, kept := none }) with
    cueRegs.started := true }
  if (s1.troupe t).scrubbed then s1.modTroupe t (fun (x : Troupe) => { x with scrubbed := false }) else s1

/-- Is the troupe one whose cores may start a list: a resident troupe, not waiting for a port (R281, R322), as a scorer opened (R257) and not held by a
damaged shard (R266), not ordered to stop (R371) and not paused for a checkpoint (R353)? A core that holds no troupe is not restrained by one. -/
def troupeStarts (s : State) (t : Nat) : Bool :=
  if 64 ≤ t then true
  else (s.troupe t).regs.state == .resident && ((s.troupe t).cfg.role != 3 || ((s.troupe t).regs.opened && !(s.troupe t).regs.held)) && !(s.troupe t).regs.stopped && !s.paused t

/-- CORE_CTRL.START: in STATE idle or halted issue starts at CORE_PC; in any other state the write is discarded (R82). -/
def execCoreStart (c : Nat) (s : State) : Host.Outcome State Fault Refusal :=
  regWrite (fun s =>
    let k := s.core c
    if startable k && troupeStarts s k.regs.troupe then startCore c s else s) s

/-- CORE_CTRL.STOP: issue stops; when the work in flight has completed STATE becomes halted (R82). -/
def execCoreStop (c : Nat) (s : State) : Host.Outcome State Fault Refusal :=
  regWrite (fun s =>
    let k := s.core c
    if k.regs.state == .running then
      checkBarriers k.regs.troupe (settleStop c (s.modRegs c (fun (r : CoreRegs) => { r with stopping := true })))
    else s) s

/-- CORE_CTRL.ND_CLR: ND_COUNT becomes 0 (R82). -/
def execNdClr (c : Nat) (s : State) : Host.Outcome State Fault Refusal :=
  regWrite (fun s => s.modRegs c (fun (r : CoreRegs) => { r with ndCount := 0 })) s

/-- CORE_PC: the write is discarded while running, when bits [3:0] are not 0 or at or above 0x18_0000 (R83). Bits above [20:0]
are reserved and discarded (R9). -/
def execCorePcWrite (c : Nat) (value : Word) (s : State) : Host.Outcome State Fault Refusal :=
  regWrite (fun s =>
    let v := value.toNat % 2 ^ 21
    if (s.core c).regs.state == .running || v % 16 != 0 || storeBytes ≤ v then s
    else s.modRegs c (fun (r : CoreRegs) => { r with pc := v })) s

/-- A write of 1 to CORE_STATUS.FAULT: it clears FAULT and the record of CORE_FAULT, which holds the first refusal since FAULT was last cleared and
whose CODE 0x00 says that none is recorded; while faulted it moves STATE to halted (R8, R84; assumption 11). -/
def execFaultClear (c : Nat) (s : State) : Host.Outcome State Fault Refusal :=
  regWrite (fun s =>
    let r := (s.core c).regs
    let s1 := s.modRegs c (fun (r : CoreRegs) =>
      { r with fault := false, faultCode := 0, faultPc := 0, state := (if r.state == .faulted then .halted else r.state) })
    if r.state == .faulted then checkBarriers r.troupe s1 else s1) s

/-- CORE_ARITH_STATUS.CNT_CLR: every counter of CORE_ARITH_COUNT becomes 0 (R48). -/
def execArithCntClr (c : Nat) (s : State) : Host.Outcome State Fault Refusal :=
  regWrite (fun s =>
    s.modCore c (fun (k : Core) =>
      { k with arith.nfCount := 0, arith.awCount := 0, arith.satCount := 0, arith.refuseCount := 0 })) s

/-- The physical cores that a mask over the 17 cores of a cluster names. -/
def clusterMaskCores (tile cluster mask : Nat) : List Nat :=
  ((List.range 17).filter (fun i => bitOf mask i)).map (fun i => 68 * tile + 17 * cluster + i)

/-- The logical number that the casting image gives physical core `c` of cluster 4 t + c (R13). -/
def castNumber (s : State) (cl c : Nat) : Option Nat :=
  match s.cast with
  | none => none
  | some img =>
    match img.cores.find? (fun (p : ClusterPlan) => p.cluster == cl) with
    | none => none
    | some p => (p.cores.find? (fun e => 68 * (cl / 4) + e.1 == c)).map (·.2)

/-- The core that a start addressed to the core at a place of its cluster reaches: a start to the logical number of a failed core is routed to the
understudy that has taken it (R80). -/
def startTarget (s : State) (cl c : Nat) : Nat :=
  match castNumber s cl c with
  | none => c
  | some l => (((List.range 17).map (fun i => 68 * (cl / 4) + 17 * (cl % 4) + i)).find? (fun x => (s.core x).regs.lcore == l)).getD c

/-- Is a core faulted, failed or held in reset (R80)? -/
def startBarred (s : State) (c : Nat) : Bool :=
  let st := (s.core c).regs.state
  st == .faulted || st == .failed || st == .reset

/-- CLUSTER_START: the cores of the set that belong to one troupe begin issue in one cycle; one that is faulted, failed or held
in reset is not started and is reported to the hub, whatever its troupe (R80). A set of more than one troupe is not started (assumption 74). -/
def execClusterStart (tile cluster mask : Nat) (s : State) : Host.Outcome State Fault Refusal :=
  engine (fun s =>
    let cs := (clusterMaskCores tile cluster mask).map (startTarget s (4 * tile + cluster))
    let good := cs.filter (fun c => !startBarred s c)
    let s1 := { s with notStarted := (cs.filter (startBarred s)).reverse ++ s.notStarted }
    match good with
    | [] => s1
    | c0 :: _ =>
      let t := (s.core c0).regs.troupe
      if good.all (fun c => (s.core c).regs.troupe == t) && troupeStarts s t then
        (good.filter (fun c => startable (s.core c))).foldl (fun s c => startCore c s) s1
      else s1) s

end Sys2Proof.Machine
end

