-- ==== Sys2Proof/Machine/Mat.lean ====
section
/-! DEFINITION. The MAT class: MFILL, MMUL, MMULX, MZERO (R55 to R63, R26 to R45). -/

namespace Sys2Proof.Machine

/-- The core-store address of a base field, with s15 added in 128-byte units when OFS is 1 (R61). -/
def matBase (k : Core) (w : MatWord) (field : Nat) : Nat :=
  (if w.ofs then (field + (k.sGet 15).toNat) % 2 ^ 64 else field) * 128

/-- Do both tags name FP4 E2M1, so that a plane holds two chunks (R61)? -/
def pairForm (ta tb : Word) : Bool := tagFormat ta == .e2m1 && tagFormat tb == .e2m1

/-- Bytes of one stationary tile with its scales (R62). -/
def tileSpan (tb : Word) : Nat := elemBytes tb 128 128 + scaleBytes tb 128 128

/-- Does an operand or destination tag, or the pair, break R25? -/
def matTagBad (ta tb : Word) : Bool := tagInvalid ta || tagInvalid tb || !pairListed (tagFormat ta) (tagFormat tb)

/-- MFILL (R61): plane PL takes one tile, or two chunks for an FP4 pair, and records which form it holds. -/
def mfillBody (c : Nat) (w : MatWord) (s : State) : Issue :=
  let k := s.core c
  let ta := k.tagGet w.ta
  let tb := k.tagGet w.tb
  let pair := pairForm ta tb
  let n := if pair then 2 * tileSpan tb else tileSpan tb
  let base := matBase k w w.bbase
  if matTagBad ta tb then .refuse rfTagInvalid
  else if storeBytes < base + n then .refuse rfStoreRange
  else
    let p : Plane := { filled := true, pair := pair, data := k.store.readN base n }
    .ok (s.setCore c (if w.pl then { k with planeB := p } else { k with planeA := p }))

/-- MFILL (R61). -/
def execMfill (c : Nat) (w : MatWord) (s : State) : Host.Outcome State Fault Refusal :=
  coreIssue c w.nd (mfillBody c w) s

/-- MZERO (R61): drain-buffer rows DBASE to DBASE + MROWS become zero; past row 511 it is refused with DRAIN_SPACE. -/
def mzeroBody (c : Nat) (w : MatWord) (s : State) : Issue :=
  if 511 < w.dbase + w.mrows then .refuse rfDrainSpace
  else .ok (s.modCore c (fun (k : Core) =>
    { k with drain := k.drain.filter (fun e => e.1 < 128 * w.dbase || 128 * (w.dbase + w.mrows + 1) ≤ e.1) }))

/-- MZERO (R61). -/
def execMzero (c : Nat) (w : MatWord) (s : State) : Host.Outcome State Fault Refusal :=
  coreIssue c w.nd (mzeroBody c w) s

/-- Drain-buffer rows that an instruction of `m` rows and `n` chunks holds (R63). -/
def drainRows (chord : Bool) (m n : Nat) : Nat := if chord then m * (Nat.log2 n + 1) else m

/-- The streaming rows of chunk `i`, as MMUL reads them: M rows of 128 elements, then their scales (R62). -/
def streamRows (k : Core) (base m : Nat) (ta : Word) (i : Nat) : List (List (Nat × Nat)) :=
  let eb := elemBytes ta m 128
  let sb := scaleBytes ta m 128
  let a := base + i * (eb + sb)
  tensorRows ta m 128 (k.store.readN a eb) (k.store.readN (a + eb) sb)

/-- The streaming rows of chunk `i`, as MMULX reads them through the transposing port: one stored tile per 128 rows, tiles
back to back in chunk and band order, all scales after the last tile; streaming row m holds column m of the stored tile (R62, R68). -/
def xposeRows (k : Core) (base m chunks : Nat) (ta : Word) (i : Nat) : List (List (Nat × Nat)) :=
  let eb := elemBytes ta 128 128
  let sb := scaleBytes ta 128 128
  let bands := m / 128
  let sbase := base + chunks * bands * eb
  (List.range bands).flatMap (fun q =>
    let n := i * bands + q
    colsOf (0, 127) 128 (tensorRows ta 128 128 (k.store.readN (base + n * eb) eb) (k.store.readN (sbase + n * sb) sb)))

/-- The stationary columns of one tile, as the reduction of the read axis meets them (R60): column n for AX 0, row n for AX 1. -/
def stationaryCols (ax : Bool) (tb : Word) (data : List Byte) : List (List (Nat × Nat)) :=
  let eb := elemBytes tb 128 128
  let rows := tensorRows tb 128 128 (data.take eb) (data.drop eb)
  if ax then rows else colsOf (0, 127) 128 rows

/-- The chunk results of one streaming row against the stationary columns of one chunk. -/
def chunkRow (fa fb : Fmt) (row : List (Nat × Nat)) (cols : List (List (Nat × Nat))) : List (F32 × AccFlags) :=
  cols.map (fun col => chunkResult fa fb (List.zipWith (fun a b => { a := a.1, ea := a.2, b := b.1, eb := b.2 }) row col))

/-- The data of the stationary tile of chunk `i`: from plane PL for the chunks it already holds, else from the store (R61, R62). A plane that
nothing has filled, or that was filled under another tag of the same form, gives the bytes it holds, read under the instruction's tag
(assumption 71). -/
def tileData (k : Core) (w : MatWord) (tb : Word) (pair : Bool) (base i : Nat) : List Byte :=
  let span := tileSpan tb
  let held := if pair then 2 else 1
  if w.pre && i < held then
    ((if w.pl then k.planeB else k.planeA).data.drop (i * span)).take span
  else k.store.readN (base + i * span) span

/-- The planes after the instruction: each fill goes to the plane that PL and the alternation of R61 name. An FP4 pair's chunks are taken two by
two from FCH on (assumption 71). -/
def planesAfter (k : Core) (w : MatWord) (tb : Word) (pair : Bool) (base chunks : Nat) : Core :=
  let span := tileSpan tb
  let per := if pair then 2 else 1
  (List.range (ceilDiv chunks per)).foldl (fun (k' : Core) g =>
    if w.pre && g == 0 then k'
    else
      let p : Plane := { filled := true, pair := pair, data := k.store.readN (base + g * per * span) (per * span) }
      if w.pl != (g % 2 == 1) then { k' with planeB := p } else { k' with planeA := p }) k

/-- Why an MMUL or MMULX is refused, if it is (R25, R35, R61 to R63, R66 to R68, R84): of several refusals the one with the lowest CORE_FAULT
code (assumption 69). -/
def mmulRefusal (k : Core) (w : MatWord) (xp : Bool) : Option Nat :=
  let ta := k.tagGet w.ta
  let tb := k.tagGet w.tb
  let td := k.tagGet w.td
  let m := w.mrows + 1
  let n := w.nch + 1
  let pair := pairForm ta tb
  let plane := if w.pl then k.planeB else k.planeA
  let bands := m / 128
  let eb := elemBytes ta 128 128
  let aEnd := if xp then matBase k w w.abase + n * bands * (eb + scaleBytes ta 128 128)
    else matBase k w w.abase + n * (elemBytes ta m 128 + scaleBytes ta m 128)
  -- the tiles that PRE takes from the plane are not read from the store
  let bEnd := if w.pre && n ≤ (if pair then 2 else 1) then 0 else matBase k w w.bbase + n * tileSpan tb
  let dEnd := matBase k w w.dbase + elemBytes td m 128 + scaleBytes td m 128
  let iEnd := matBase k w w.ibase + m * 512
  if w.rnd == 3 || (w.pre && plane.pair != pair) then some rfOpInvalid
  else if matTagBad ta tb || tagInvalid td then some rfTagInvalid
  else if w.chord && !chunkAligned w.fch n w.lst then some rfChunkAlign
  else if storeBytes < aEnd || storeBytes < bEnd || storeBytes < dEnd || (w.inc && storeBytes < iEnd) then some rfStoreRange
  else if xp && (tagFormat ta).bits == 6 then some rfXposeFormat
  else if xp && (!(m == 128 || m == 256) || matBase k w w.abase % (if eb == 0 then 1 else eb) != 0) then some rfXposeAlign
  else if 512 < drainRows w.chord m n then some rfDrainSpace
  else none

/-- The incoming values of row `r` (R62), if the instruction takes them. -/
def incomingRow (k : Core) (w : MatWord) (r : Nat) : List (Option F32) :=
  if w.inc then
    (splitNat 32 128 (bytesNat (k.store.readN (matBase k w w.ibase + 512 * r) 512))).map (fun x => some (BitVec.ofNat 32 x))
  else List.replicate 128 none

/-- Results of one output row: for each column the cell's result, what it raised, and the combined value before the tensor scale. -/
def outputRow (w : MatWord) (tsa tsb : F32) (chunks : List (List (F32 × AccFlags))) (inc : List (Option F32)) :
    List (F32 × AccFlags × F32) :=
  List.zipWith (fun cell v =>
    let (r, h) := cellResult (cell.map (·.1)) v w.chord w.tsc tsa tsb
    let fl := cell.foldl (fun (f : AccFlags) c => f.or c.2) {}
    (r, { fl with high := fl.high || h }, (cellCombined (cell.map (·.1)) v w.chord).1)) (colsOf (0, {}) 128 chunks) inc

/-- The drain buffer with its first rows replaced (R55, R63): row r holds the combined chunk results of output row r. Which rows an instruction
holds the spec does not say (assumption 71); the rows from `rows.length` on keep what they held. -/
def drainPut (old : Map F32) (rows : List (List F32)) : Map F32 :=
  let cells := rows.flatMap (fun row => (List.range 128).map (nth 0 row))
  ((List.zip (List.range cells.length) cells).filter (fun e => e.2 != 0)) ++ old.filter (fun e => 128 * rows.length ≤ e.1)

/-- What a matrix product yields: the bytes of its destination, the combined results that pass through the drain buffer, what its accumulation
raised, and what its conversion reports. -/
structure MatOut where
  bytes : List Byte
  drain : List (List F32) := []
  acc   : AccFlags := {}
  rep   : ConvFlags := {}

/-- The product of an MMUL or MMULX (R28 to R45, R61): exact chunk accumulation, combination, tensor scaling and conversion into the
destination's format, with the random bytes of `key` and `stream`. -/
def matOut (k : Core) (w : MatWord) (xp : Bool) (key stream : Nat) : MatOut :=
  let ta := k.tagGet w.ta
  let tb := k.tagGet w.tb
  let td := k.tagGet w.td
  let m := w.mrows + 1
  let n := w.nch + 1
  let pair := pairForm ta tb
  let abase := matBase k w w.abase
  let bbase := matBase k w w.bbase
  -- chunk by chunk, the streaming rows against the stationary columns
  let parts := (List.range n).map (fun i =>
    let rows := if xp then xposeRows k abase m n ta i else streamRows k abase m ta i
    let cols := stationaryCols w.ax tb (tileData k w tb pair bbase i)
    rows.map (fun row => chunkRow (tagFormat ta) (tagFormat tb) row cols))
  let cells := (List.range m).map (fun r =>
    outputRow w (tagScale ta) (tagScale tb) (parts.map (fun p => nth [] p r)) (incomingRow k w r))
  let acc := cells.foldl (fun (f : AccFlags) row => row.foldl (fun (f : AccFlags) x => f.or x.2.1) f) {}
  let s11 := (k.sGet 11).toNat
  let s12 := (k.sGet 12).toNat
  let mode := rndMode w.rnd
  let vals := (List.range m).map (fun r =>
    List.zipWith (fun (x : F32 × AccFlags × F32) j => (x.1, srByte mode key stream (s12 + r * s11 + j))) (nth [] cells r) (List.range 128))
  let (elems, scales, fl) := convertTensor td mode 128 vals
  { bytes := packRows td elems ++ scales.map (fun e => BitVec.ofNat 8 e), drain := cells.map (fun row => row.map (·.2.2)), acc := acc, rep := fl }

/-- MMUL and MMULX (R61): the product through the drain buffer into the core store (R55), its tag's NF and AW (R45), the planes that were filled, and the streaming
rows that it is charged. -/
def mmulBody (c : Nat) (w : MatWord) (xp : Bool) (s : State) : Issue :=
  let k := s.core c
  match mmulRefusal k w xp with
  | some code => .refuse code
  | none =>
    let pair := pairForm (k.tagGet w.ta) (k.tagGet w.tb)
    let o := matOut k w xp (coreKey s c) (k.fGet w.sri).toNat
    let k1 := planesAfter k w (k.tagGet w.tb) pair (matBase k w w.bbase) (w.nch + 1)
    let k2 := { k1 with store := k1.store.writeN (matBase k w w.dbase) o.bytes, drain := drainPut k1.drain o.drain }
    let k3 := k2.tagPut w.td (tagOr (k.tagGet w.td) o.rep.nf (o.acc.low || o.acc.high))
    .ok (chargeArray c ((w.mrows + 1) * ceilDiv (w.nch + 1) (if pair then 2 else 1))
      (noteArith c { nf := o.rep.nf, low := o.acc.low, high := o.acc.high, sat := o.rep.sat } (s.setCore c k3)))

/-- MMUL (R61). -/
def execMmul (c : Nat) (w : MatWord) (s : State) : Host.Outcome State Fault Refusal :=
  coreIssue c w.nd (mmulBody c w false) s

/-- MMULX: A is read through the transposing port (R61, R62, R68). -/
def execMmulx (c : Nat) (w : MatWord) (s : State) : Host.Outcome State Fault Refusal :=
  coreIssue c w.nd (mmulBody c w true) s

end Sys2Proof.Machine
end

