-- ==== Sys2Proof/Machine/Vmem.lean ====
section
/-! DEFINITION. The VMEM class: vector loads and stores with conversion (R39, R40, R71). -/

namespace Sys2Proof.Machine

/-- Elements that a stored vector of `n` elements occupies: a block-scaled row is filled up to whole blocks (R24). -/
def vmemPad (t : Word) (n : Nat) : Nat := if tagBS t && !tagBAX t then roundUp n 32 else n

/-- Bytes of a stored vector with its scales, which follow its elements directly (R62; assumption 12). -/
def vmemSpan (t : Word) (n : Nat) : Nat := elemBytes t 1 (vmemPad t n) + scaleBytes t 1 n

/-- The FP32 value of a stored element, block scale and tensor scale applied, and whether it saturated: a finite value beyond FP32 becomes the
largest finite one (R39 step 4, R71). -/
def widen (t : Word) (x : Nat × Nat) : F32 × Bool :=
  match scaledVal (tagFormat t) x.1 x.2, f32Val (tagScale t) with
  | .fin s m e, .fin s2 m2 e2 => roundF32 true (s != s2) (m * m2) (e + e2)
  | v, _ => (valF32 v, false)

/-- The element words and scale fields of the stored vector. -/
def vmemElems (k : Core) (t : Word) (w : VecWord) : List (Nat × Nat) :=
  let a := w.addr * 128
  let eb := elemBytes t 1 (vmemPad t w.vl)
  nth [] (tensorRows t 1 w.vl (k.store.readN a eb) (k.store.readN (a + eb) (scaleBytes t 1 w.vl))) 0

/-- VMEM_LOAD: every accepted format widens into FP32, block scales and tensor scale applied (R71). -/
def vmemLoadBody (c : Nat) (w : VecWord) (s : State) : Issue :=
  let k := s.core c
  let t := k.tagGet w.tg
  if !vlOk w then .refuse rfOpInvalid
  else if tagInvalid t then .refuse rfTagInvalid
  else if storeBytes < w.addr * 128 + vmemSpan t w.vl then .refuse rfStoreRange
  else
    let xs := vmemElems k t w
    let sat := (selected k w).any (fun i => (widen t (nth (0, 127) xs i)).2)
    .ok (chargeVec c (ceilDiv w.vl 64) (noteArith c { sat := sat } (s.setCore c (vecWrite k w (fun i => (widen t (nth (0, 127) xs i)).1)))))
/-- VMEM_LOAD (R71). -/
def execVmemLoad (c : Nat) (w : VecWord) (s : State) : Host.Outcome State Fault Refusal :=
  coreIssue c w.nd (vmemLoadBody c w) s

/-- One block of a masked store: the elements to convert, the words that stay, and the scale that stays when nothing is
converted. A masked element enters as +0.0 with PZ, else keeps its word (R69; assumption 12). -/
def storeBlock (t : Word) (mode : Rnd) (pz : Bool) (xs : List (Bool × F32 × Nat × Nat × Nat)) : Nat × List Nat × ConvFlags :=
  let conv := xs.filterMap (fun x => if x.1 then some (x.2.1, x.2.2.1) else if pz then some ((0 : F32), x.2.2.1) else none)
  let old := match xs with
    | x :: _ => x.2.2.2.2
    | [] => 0x7F
  if conv.isEmpty then (old, xs.map (fun x => x.2.2.2.1), {})
  else
    let (e, ws, fl) := convertBlock t mode conv
    (e, fillIn pz xs ws, fl)
where
  /-- Put the converted words back at their places. -/
  fillIn (pz : Bool) : List (Bool × F32 × Nat × Nat × Nat) → List Nat → List Nat
    | [], _ => []
    | x :: xs, ws =>
      if x.1 || pz then ws.headD 0 :: fillIn pz xs (ws.drop 1) else x.2.2.2.1 :: fillIn pz xs ws

/-- What a VMEM_STORE writes at its address, and what its conversion reports: the elements of VA in the format of the tag, the masked ones
as R69 says, with the random bytes of `key` and the stream (R39, R40, R69, R71). -/
def vmemStored (k : Core) (w : VecWord) (key : Nat) : List Byte × ConvFlags :=
  let t := k.tagGet w.tg
  let mode := rndMode w.rnd
  let stream := (k.fGet w.sri).toNat
  let base := (k.sGet w.six).toNat
  let old := vmemElems k t w
  let xs := (List.range w.vl).map (fun i =>
    (k.pGet w.pred i, k.vGet w.va i, srByte mode key stream (base + i), nth (0, 127) old i))
  let step := if tagBS t && tagBAX t then 1 else 32
  let blocks := (piecesOf step (w.vl + 1) xs).map (storeBlock t mode w.pz)
  let elems := blocks.flatMap (·.2.1)
  let pad := List.replicate (vmemPad t w.vl - w.vl) 0
  let scales := if tagBS t then blocks.map (fun b => (BitVec.ofNat 8 b.1 : Byte)) else []
  (packElts (tagFormat t) (elems ++ pad) ++ scales, blocks.foldl (fun (f : ConvFlags) b => f.or b.2.2) {})

/-- VMEM_STORE: the elements of VA convert into the format of the tag (R39, R40); RND 3 is refused (R71). -/
def vmemStoreBody (c : Nat) (w : VecWord) (s : State) : Issue :=
  let k := s.core c
  let t := k.tagGet w.tg
  if !vlOk w || w.rnd == 3 then .refuse rfOpInvalid
  else if tagInvalid t then .refuse rfTagInvalid
  else if storeBytes < w.addr * 128 + vmemSpan t w.vl then .refuse rfStoreRange
  else
    let (bytes, fl) := vmemStored k w (coreKey s c)
    let k1 := { k with store := k.store.writeN (w.addr * 128) bytes }
    let k2 := k1.tagPut w.tg (tagOr t fl.nf false)
    .ok (chargeVec c (ceilDiv w.vl 64) (noteArith c { nf := fl.nf, sat := fl.sat } (s.setCore c k2)))
/-- VMEM_STORE (R71). -/
def execVmemStore (c : Nat) (w : VecWord) (s : State) : Host.Outcome State Fault Refusal :=
  coreIssue c w.nd (vmemStoreBody c w) s

end Sys2Proof.Machine
end

