-- ==== Sys2Proof/Machine/MoveOps.lean ====
section
/-! DEFINITION. Shared operations of descriptors: their fields (R76), the ranges they name (R243, R323, R324), writes into
registered shards (R265), poisoned data (R250), and the completion of a descriptor (R77). -/

namespace Sys2Proof.Machine

/-! ### Fields -/

/-- The fields that every descriptor shares (R76, R285, R296); `ext` holds its bytes from 0x30 on. -/
structure Desc where
  src      : Nat
  dst      : Nat
  rows     : Nat
  rowBytes : Nat
  spitch   : Nat
  dpitch   : Nat
  op       : Nat
  stag     : Nat
  dtag     : Nat
  sem      : Nat
  flags    : Nat
  ext      : List Byte
  deriving DecidableEq, Repr

/-- The number in `n` bytes at offset `o` of a byte list. -/
def rawField (bs : List Byte) (o n : Nat) : Nat := leNat ((bs.drop o).take n)

/-- A descriptor from its 64 bytes. -/
def Desc.ofBytes (bs : List Byte) : Desc :=
  { src := rawField bs 0 8, dst := rawField bs 8 8, rows := rawField bs 0x10 4, rowBytes := rawField bs 0x14 4,
    spitch := rawField bs 0x18 8, dpitch := rawField bs 0x20 8, op := rawField bs 0x28 2, stag := rawField bs 0x2A 1,
    dtag := rawField bs 0x2B 1, sem := rawField bs 0x2C 2, flags := rawField bs 0x2E 2, ext := (bs.drop 0x30).take 16 }

/-- Does the descriptor start only after every earlier one of its core (R76)? -/
def Desc.order (d : Desc) : Bool := d.flags % 2 == 1

/-- Is OP one of the table's values (R76, R285, R296)? -/
def opListed (op : Nat) : Bool := op == 0 || op == 1 || op == 2 || op == 0x100 || op == 0x101 || op == 0x200

/-- Is the SEM field 0xFFFF or a semaphore of the troupe (R327)? -/
def semFieldOk (s : State) (t sem : Nat) : Bool := sem == 0xFFFF || semNamed s t sem

/-- Are the fields of a move descriptor in range and its reserved fields 0 (R76)? -/
def moveFieldsOk (s : State) (t : Nat) (d : Desc) : Bool :=
  d.src < 2 ^ 48 && d.dst < 2 ^ 48 && 1 ≤ d.rows && d.rows ≤ 16777216 && 1 ≤ d.rowBytes && d.rowBytes ≤ 2 ^ 31 &&
  d.flags < 2 && leNat d.ext == 0 && semFieldOk s t d.sem

/-! ### Registered shards -/

/-- The physical pieces of a shard's range. -/
def shardLocs (s : State) (h : Shard) : List (Nat × Nat) :=
  (pagePieces (h.bytes / pageBytes + 2) h.dst h.bytes).filterMap (fun p =>
    match xlate s h.troupe p.1 false with
    | some a => some (a, p.2)
    | none => none)

/-- Does the piece of physical memory meet a good registered shard other than `skip` (R265)? -/
def meetsShard (s : State) (skip : Option Nat) (a n : Nat) : Bool :=
  s.wt.shards.any (fun e => !e.2.damaged && some e.1 != skip && (shardLocs s e.2).any (fun p => a < p.1 + p.2 && p.1 < a + n))

/-- Does a write to the targets meet a good registered shard? -/
def locsMeetShard (s : State) (skip : Option Nat) (ls : List (Loc × Nat)) : Bool :=
  ls.any (fun l => match l.1 with
    | .mem a => meetsShard s skip a l.2
    | _ => false)

/-! ### Ranges -/

/-- The targets of a list of byte ranges that troupe `t` names. -/
def rangesLocs (s : State) (t : Nat) (write : Bool) : List (Nat × Nat) → Except AccFault (List (Loc × Nat))
  | [] => .ok []
  | (a, n) :: rest =>
    match troupeRange s t a n write with
    | .error f => .error f
    | .ok ls =>
      match rangesLocs s t write rest with
      | .error f => .error f
      | .ok more => .ok (ls ++ more)

/-- The targets of ranges that a descriptor writes: SHARD_RO when one meets a good registered shard (R265). -/
def writeRanges (s : State) (t : Nat) (rs : List (Nat × Nat)) : Except AccFault (List (Loc × Nat)) :=
  match rangesLocs s t true rs with
  | .error f => .error f
  | .ok ls => if locsMeetShard s none ls then .error { status := stShardRo } else .ok ls

/-- Row ranges: `rows` ranges of `n` bytes at a pitch. -/
def rowRanges (a pitch n : Nat) : Nat → List (Nat × Nat)
  | 0 => []
  | k + 1 => (a, n) :: rowRanges (a + pitch) pitch n k

/-- The address of the block scales behind the rows of a stored tensor: they follow the last row directly (R62;
assumption 13). -/
def scalesAt (a pitch n rows : Nat) : Nat := a + (rows - 1) * pitch + n

/-! ### Data with poison flags (R250) -/

/-- Poison flags of a list of targets, one a byte. -/
def flagsOf (s : State) (ls : List (Loc × Nat)) : List Bool := ls.flatMap (fun l => poisonFlags s l.1 l.2)

/-- Pieces of flagged bytes that lie in one aligned unit of `u` bytes each, by fuel. -/
def flagPieces (u : Nat) : Nat → Nat → List Byte → List Bool → List (Nat × List Byte × Bool)
  | 0, _, _, _ => []
  | k + 1, a, bs, fs =>
    if bs.isEmpty then []
    else
      let room := u - a % u
      (a, bs.take room, (fs.take room).any id) :: flagPieces u k (a + room) (bs.drop room) (fs.drop room)

/-- Write flagged bytes at a target: a unit of memory that would carry a poisoned byte becomes poisoned, a line of a core store
or tile buffer keeps its old content (R250). The flag says that a partial write of a poisoned unit was discarded. -/
def writeFlagged (owner : Owner) (s : State) (l : Loc) (bs : List Byte) (fs : List Bool) : State × Bool :=
  if !fs.any id then writeLoc owner s l bs
  else
    match l with
    | .mem a =>
      (flagPieces 64 (bs.length / 64 + 2) a bs fs).foldl (fun (x : State × Bool) p =>
        if p.2.2 then
          let u := p.1 / 64 * 64
          (if x.1.mem.poison.contains u then x else (({ x.1 with mem.poison := u :: x.1.mem.poison, mem.weak := mapDel x.1.mem.weak u } : State), x.2))
        else
          let (s', b) := writeMem owner x.1 p.1 p.2.1
          (s', x.2 || b)) (s, false)
    | .store c o =>
      (flagPieces 128 (bs.length / 128 + 2) o bs fs).foldl (fun (x : State × Bool) p =>
        if p.2.2 then x else ((writeLoc owner x.1 (.store c p.1) p.2.1).1, x.2)) (s, false)
    | .tbuf ti o =>
      (flagPieces 128 (bs.length / 128 + 2) o bs fs).foldl (fun (x : State × Bool) p =>
        if p.2.2 then x else ((writeLoc owner x.1 (.tbuf ti p.1) p.2.1).1, x.2)) (s, false)

/-- Write flagged bytes over a list of targets. -/
def writeAllFlagged (owner : Owner) : State → List (Loc × Nat) → List Byte → List Bool → State × Bool
  | s, [], _, _ => (s, false)
  | s, (l, n) :: rest, bs, fs =>
    let (s1, b1) := writeFlagged owner s l (bs.take n) (fs.take n)
    let (s2, b2) := writeAllFlagged owner s1 rest (bs.drop n) (fs.drop n)
    (s2, b1 || b2)

/-! ### The ranges of a move (R76) -/

/-- How a move treats its data (R76). -/
inductive MoveKind where
  | copy | copyTag | convert
  deriving DecidableEq, Repr

/-- Columns of a row of `n` bytes in a tag's format. -/
def colsOfBytes (t : Word) (n : Nat) : Nat := n * 8 / (tagFormat t).bits

/-- Source ranges of a move: its rows, and the block scales behind them when the data has any and they are read. -/
def moveSource (kind : MoveKind) (ta : Word) (d : Desc) : List (Nat × Nat) :=
  let rows := rowRanges d.src d.spitch d.rowBytes d.rows
  match kind with
  | .copy => rows
  | _ =>
    let n := scaleBytes ta d.rows (colsOfBytes ta d.rowBytes)
    if n == 0 then rows else rows ++ [(scalesAt d.src d.spitch d.rowBytes d.rows, n)]

/-- Destination ranges of a move: its rows, which a conversion packs in the destination's format, and the block scales behind them. -/
def moveDest (kind : MoveKind) (ta td : Word) (d : Desc) : List (Nat × Nat) :=
  let cols := colsOfBytes ta d.rowBytes
  let rb := match kind with
    | .convert => elemBytes td 1 (vmemPad td cols)
    | _ => d.rowBytes
  let n := match kind with
    | .copy => 0
    | .copyTag => scaleBytes ta d.rows cols
    | .convert => scaleBytes td d.rows cols
  rowRanges d.dst d.dpitch rb d.rows ++ (if n == 0 then [] else [(scalesAt d.dst d.dpitch rb d.rows, n)])

/-- How a descriptor's OP moves its data; another OP writes the rows that it names. -/
def kindOf (op : Nat) : MoveKind := if op == 1 then .copyTag else if op == 2 then .convert else .copy

/-! ### Outstanding descriptors -/

/-- The outstanding descriptor `id` of core `c`. -/
def descOf (s : State) (c id : Nat) : Option Posted := (s.core c).descs.find? (fun p => p.id == id)

/-- The outstanding descriptors of core `c` posted before `id`. -/
def descsBefore (s : State) (c id : Nat) : List Posted := (s.core c).descs.takeWhile (fun p => p.id != id)

/-- The units that a descriptor of core `c` writes, as (space, start, length): space 0 is memory, 1 + c a core store, 1000 + t a tile
buffer, 2000 + p the memory of peer p. The block scales of a tensor that is copied with its tag or converted are among them. -/
def descDest (s : State) (c t : Nat) (d : Desc) : List (Nat × Nat × Nat) :=
  let local_ := fun (rs : List (Nat × Nat)) =>
    match rangesLocs s t true rs with
    | .error _ => []
    | .ok ls => ls.map (fun l => match l.1 with
      | .mem a => (0, a, l.2)
      | .store c o => (1 + c, o, l.2)
      | .tbuf ti o => (1000 + ti, o, l.2))
  let k := s.core c
  let rs := moveDest (kindOf d.op) (k.tagGet d.stag) (k.tagGet d.dtag) d
  if d.op == 0x100 then rs.map (fun r => (2000 + rawField d.ext 0 2, r.1, r.2))
  else local_ rs

/-- Do two lists of written units meet? -/
def destsMeet (xs ys : List (Nat × Nat × Nat)) : Bool :=
  xs.any (fun x => ys.any (fun y => x.1 == y.1 && x.2.1 < y.2.1 + y.2.2 && y.2.1 < x.2.1 + x.2.2))

/-- Is an earlier descriptor of the core with an overlapping destination outstanding (R77)? -/
def earlierMeets (s : State) (c id : Nat) (d : Desc) : Bool :=
  let t := (s.core c).regs.troupe
  (descsBefore s c id).any (fun p => destsMeet (descDest s c t (Desc.ofBytes p.raw)) (descDest s c t d))

/-- May descriptor `id` of core `c` be carried out: its troupe is resident and starts packets (R336), an ORDER descriptor is the
oldest (R76), and no earlier one with an overlapping destination is outstanding (R77)? -/
def descStarts (s : State) (c id : Nat) (d : Desc) : Bool :=
  let st := (s.troupe (s.core c).regs.troupe).regs.state
  (st == .resident || st == .waitPort) && (!d.order || (descsBefore s c id).isEmpty) && !earlierMeets s c id d

/-- Set the stage of descriptor `id`. -/
def setStage (c id : Nat) (st : Stage) (s : State) : State :=
  s.modCore c (fun (k : Core) => { k with descs := k.descs.map (fun p => if p.id == id then { p with stage := st } else p) })

/-- Carry out a posted descriptor whose OP is `op`: the body gives its status and the state with its writes. -/
def runDesc (c id op : Nat) (body : Nat → Desc → State → State × Nat) (s : State) : State :=
  match descOf s c id with
  | none => s
  | some p =>
    let d := Desc.ofBytes p.raw
    if p.stage == .posted && d.op == op && descStarts s c id d then
      let (s', st) := body (s.core c).regs.troupe d s
      setStage c id (.done st) s'
    else s

/-- A refused access of a descriptor: nothing is written, a translation fault is recorded (R324). -/
def refuseAccess (t : Nat) (f : AccFault) (s : State) : State × Nat := (noteXlat t f s, f.status)

/-- Post a descriptor of 64 bytes (R76): one whose OP is not in the table is done at once with OP_INVALID. -/
def postDesc (raw : List Byte) (k : Core) : Core :=
  let st : Stage := if opListed (Desc.ofBytes raw).op then .posted else .done stOpInvalid
  { k with descs := k.descs ++ [({ id := k.nextId, raw := raw, stage := st } : Posted)], nextId := k.nextId + 1 }

/-- Is the semaphore of a completed descriptor raised? Not after MEM_UE or NO_ROUTE (R250, R280); with any other status the
completion raises it (R76; assumption 14). -/
def semRises (status : Nat) : Bool := status != stMemUe && status != stNoRoute

/-- Descriptor `id` of core `c` completes with a status: it leaves the engine, its semaphore rises, and a wait for the engine
ends (R76, R77, R78). -/
def finishDesc (c id status : Nat) (s : State) : State :=
  match descOf s c id with
  | none => s
  | some p =>
    let d := Desc.ofBytes p.raw
    let t := (s.core c).regs.troupe
    let s1 := s.modCore c (fun (k : Core) => { k with descs := k.descs.filter (fun q => q.id != id) })
    let s2 := { s1 with out.descs := (c, id, status) :: s1.out.descs }
    let s3 := if d.sem != 0xFFFF && semNamed s t d.sem && semRises status then semAdd t d.sem 1 s2 else s2
    let s4 := match (s3.core c).regs.wait with
      | .move raw => endWait c (s3.modCore c (postDesc raw))
      | .fenceM => if (s3.core c).descs.isEmpty then endWait c s3 else s3
      | _ => s3
    checkBarriers t (settleStop c s4)

end Sys2Proof.Machine
end

