-- ==== Sys2Proof/Machine/Attn.lean ====
section
/-! DEFINITION. The ATTN class (R121 to R131): block attention over KV pages, merging of states, and writing keys and values. -/

namespace Sys2Proof.Machine

/-- The sequence that the scalar registers of an instruction name (R126). -/
structure AttnSel where
  slot   : Nat
  model  : Nat
  layer  : Nat
  kvh    : Nat
  qpos   : Nat
  sscale : F32
  deriving DecidableEq, Repr

/-- Read s(SRB) to s(SRB + 3) (R126). -/
def attnSel (k : Core) (srb : Nat) : AttnSel :=
  let a := (k.sGet srb).toNat
  let d := (k.sGet (srb + 3)).toNat
  { slot := a % 1024, model := bitsOf a 10 10, layer := (k.sGet (srb + 1)).toNat % 4096, kvh := (k.sGet (srb + 2)).toNat % 256
    qpos := d % 2 ^ 32, sscale := BitVec.ofNat 32 (d / 2 ^ 32) }

/-- The core-store address of a base field (R126: s15 in 128-byte units with OFS). -/
def attnBase (k : Core) (w : AttnWord) (field : Nat) : Nat :=
  (if w.ofs then (field + (k.sGet 15).toNat) % 2 ^ 64 else field) * 128

/-! ### States of one query row (R122 to R124) -/

/-- A state: row maximum, row sum and accumulator. -/
structure RowState where
  m : F32
  l : F32
  a : List F32
  deriving DecidableEq, Repr

/-- The empty state (−∞, +0, all +0). -/
def emptyState (hw : Nat) : RowState := { m := f32Inf true, l := 0, a := List.replicate hw 0 }

/-- Merge two states (R123). -/
def mergeState (x y : RowState) : RowState :=
  let m := f32Max2 x.m y.m
  if m == f32Inf true then emptyState x.a.length
  else
    let fl := fexp (f32Sub x.m m)
    let fr := fexp (f32Sub y.m m)
    { m := m, l := f32Add (f32Mul x.l fl) (f32Mul y.l fr)
      a := List.zipWith (fun p q => f32Add (f32Mul p fl) (f32Mul q fr)) x.a y.a }

/-- One level of the tree over partial states: neighbours merge, an unpaired last one passes up (R33). -/
def mergeLevel : List RowState → List RowState
  | x :: y :: rest => mergeState x y :: mergeLevel rest
  | l => l

/-- The tree of partial states (R124), by fuel. -/
def mergeTree (hw : Nat) : Nat → List RowState → RowState
  | _, [] => emptyState hw
  | _, [x] => x
  | 0, x :: _ => x
  | k + 1, xs => mergeTree hw k (mergeLevel xs)

/-- An output row: a(e) / l, and +0 where l is +0 (R124). -/
def finishRow (x : RowState) : List F32 := x.a.map (fun e => if x.l == 0 then 0 else f32Div e x.l)

/-! ### Pages (R118 to R120, R130, R131) -/

/-- Bytes of the elements of keys (or of values) of a page of this tag. -/
def pageElts (m : KvModel) (t : Word) : Nat := m.heads * 32 * m.hw * (tagFormat t).bits / 8
/-- Bytes of the block scales of keys (or of values). -/
def pageScales (m : KvModel) (t : Word) : Nat := if tagBS t then m.heads * m.hw else 0
/-- Offset of the keys (k = 0) or values (k = 1) in a section (R118). -/
def pagePart (m : KvModel) (t : Word) (k : Nat) : Nat := 256 + k * (pageElts m t + pageScales m t)

/-- Are a page's tags as R120 wants them? -/
def pageTagsOk (tk tv : Word) : Bool :=
  let ok := fun (t : Word) => !tagInvalid t && !tagBAX t &&
    ((tagFmt t == 0x01 && !tagBS t && !tagPS t) || ((tagFmt t == 0x10 || tagFmt t == 0x14) && tagBS t && tagPS t))
  ok tk && ok tv && tagFmt tk == tagFmt tv

/-- Does a page's header stop the sequence in a mode (R130, R131)? -/
def pageRefused (m : KvModel) (mode : Nat) (hdr : List Byte) : Bool :=
  let tk : Word := BitVec.ofNat 64 (rawField hdr 0 8)
  let tv : Word := BitVec.ofNat 64 (rawField hdr 8 8)
  !pageTagsOk tk tv || (mode == 1 && tagFmt tk == 0x01) || rawField hdr 0x16 1 != m.headBase || rawField hdr 0x17 1 != m.heads

/-- Bytes at a troupe address as the engine reads them. -/
def pageRead (s : State) (t a n : Nat) : List Byte :=
  match troupeRead s t a n with
  | some bs => bs
  | none => List.replicate n 0

/-- The 32 rows of one head of a page's keys or values: element words with their block scales. -/
def headRows (s : State) (t : Nat) (m : KvModel) (tag : Word) (addr part h : Nat) : List (List (Nat × Nat)) :=
  let eb := 32 * m.hw * (tagFormat tag).bits / 8
  let base := addr + pagePart m tag part
  let els := pageRead s t (base + h * eb) eb
  let scs := if tagBS tag then pageRead s t (base + pageElts m tag + h * m.hw) m.hw else []
  tensorRows tag 32 m.hw els scs

/-- The array's operand for a page element: in mode 0 each element times its block scale, converted to BF16 (R130). -/
def arrayElt (mode : Nat) (f : Fmt) (x : Nat × Nat) : Nat × Nat :=
  if mode == 0 then ((convElt .bf16 false .rne 0 (scaledVal f x.1 x.2)).1, 127) else x

/-- Does the conversion of a page element to the array's operand saturate (R39 step 4, R130)? -/
def arraySat (mode : Nat) (f : Fmt) (x : Nat × Nat) : Bool :=
  mode == 0 && (convElt .bf16 false .rne 0 (scaledVal f x.1 x.2)).2.sat

/-- The format of the array's page operand. -/
def arrayFmt (mode : Nat) (f : Fmt) : Fmt := if mode == 0 then .bf16 else f

/-- The tag of the P operand of a mode. -/
def pTag (mode : Nat) : Word := if mode == 0 then tagMake 0x01 false false false 0 else tagMake 0x10 true false false 0

/-- A scaled product of one chunk: R28 to R34 with TSC. -/
def oneChunk (fa fb : Fmt) (tsa tsb : F32) (xs ys : List (Nat × Nat)) : F32 × AccFlags :=
  let (r, fl) := chunkResult fa fb (List.zipWith (fun a b => { a := a.1, ea := a.2, b := b.1, eb := b.2 }) xs ys)
  let (v, h) := cellResult [r] none false true tsa tsb
  (v, { fl with high := fl.high || h })

/-- One block's page as the step of one head reads it. -/
structure PageHead where
  block  : Nat
  fill   : Nat
  fmt    : Fmt
  tsK    : F32
  tsV    : F32
  keys   : List (List (Nat × Nat))
  vals   : List (List (Nat × Nat))
  /-- A page element saturated on its way to the array. -/
  sat    : Bool

/-- Read the page of one block. -/
def readHead (s : State) (t : Nat) (m : KvModel) (mode kvh block addr : Nat) (hdr : List Byte) : PageHead :=
  let tk : Word := BitVec.ofNat 64 (rawField hdr 0 8)
  let tv : Word := BitVec.ofNat 64 (rawField hdr 8 8)
  let ks := headRows s t m tk addr 0 kvh
  let vs := headRows s t m tv addr 1 kvh
  let cv := fun (rows : List (List (Nat × Nat))) => rows.map (fun r => r.map (arrayElt mode (tagFormat tk)))
  { block := block, fill := rawField hdr 0x12 1, fmt := arrayFmt mode (tagFormat tk), tsK := tagScale tk, tsV := tagScale tv
    keys := cv ks, vals := colsOf (0, 127) m.hw (cv vs)
    sat := (ks ++ vs).any (fun r => r.any (arraySat mode (tagFormat tk))) }

/-- The state of one block for one query row (R122, R125). -/
def blockState (mode hw : Nat) (fq : Fmt) (tsq sscale : F32) (causal : Bool) (rowPos : Nat) (q : List (Nat × Nat)) (g : PageHead) :
    RowState × AccFlags :=
  let seen := (List.range 32).map (fun i => decide (i < g.fill) && !(causal && decide (rowPos < 32 * g.block + i)))
  let raw := g.keys.map (oneChunk fq g.fmt tsq g.tsK q)
  let scores := List.zip (raw.map (fun x => f32Mul x.1 sscale)) seen
  let fl := raw.foldl (fun (f : AccFlags) x => f.or x.2) {}
  if !seen.any (fun b => b) then (emptyState hw, fl)
  else
    let mB := treeMax ((scores.filter (fun x => x.2)).map (·.1))
    let w := scores.map (fun x => if x.2 then fexp (f32Sub x.1 mB) else 0)
    let (e, ws, _) := convertBlock (pTag mode) .rne (w.map (fun x => (x, 0)))
    let pf := tagFormat (pTag mode)
    let sc := if mode == 0 then 127 else e
    let lB := treeSum (ws.map (fun x => valF32 (scaledVal pf x sc)))
    let prow := ws.map (fun x => (x, sc))
    let cells := g.vals.map (oneChunk pf g.fmt f32One g.tsV prow)
    ({ m := mB, l := lB, a := cells.map (·.1) }, cells.foldl (fun (f : AccFlags) x => f.or x.2) fl)

/-- The state of a list of blocks for one row: partials of 2^SPLIT blocks, each a chain from the empty state, merged in the
tree over partial index (R124). -/
def rangeState (hw split : Nat) (bs : List RowState) : RowState :=
  let parts := (piecesOf (2 ^ split) (bs.length + 1) bs).map (fun p => p.foldl mergeState (emptyState hw))
  mergeTree hw parts.length parts

/-! ### Writing states and outputs -/

/-- The bytes of FP32 values. -/
def f32Bytes (xs : List F32) : List Byte := xs.flatMap (fun x => leBytes 4 x.toNat)

/-- What a set of rows raises. -/
def rowsNf (rows : List (List F32)) : Bool := rows.any (fun r => r.any (fun x => !f32Finite x))

/-- Write output rows in the format of TO at OBASE, its tag ORed (R23, R124). `sat`: an operand saturated on its way to the array (R130). -/
def putOutput (c : Nat) (w : AttnWord) (hw : Nat) (sat : Bool) (fl : AccFlags) (rows : List RowState) (s : State) : State :=
  let k := s.core c
  let td := k.tagGet w.td
  let (els, scs, rep) := convertTensor td .rne hw ((rows.map finishRow).map (fun r => r.map (fun x => (x, 0))))
  let k1 := { k with store := k.store.writeN (attnBase k w w.obase) (packRows td els ++ scs.map (fun e => BitVec.ofNat 8 e)) }
  noteArith c { nf := rep.nf, low := fl.low, high := fl.high, sat := rep.sat || sat }
    (s.setCore c (k1.tagPut w.td (tagOr td rep.nf (fl.low || fl.high))))

/-- Write states: accumulators at OBASE and (m, l) pairs at SBASE (R126). The maximum m counts for no condition: −∞ is the maximum of the empty
state, and a NaN or an infinity among the scores shows in l (R47 names no case; DESIGN CHOICE, assumption 70). -/
def putStates (c : Nat) (w : AttnWord) (sat : Bool) (fl : AccFlags) (rows : List RowState) (s : State) : State :=
  let k := s.core c
  let st := (k.store.writeN (attnBase k w w.obase) (rows.flatMap (fun r => f32Bytes r.a))).writeN (attnBase k w w.sbase)
    (rows.flatMap (fun r => f32Bytes [r.m, r.l]))
  noteArith c { nf := rowsNf (rows.map (fun r => r.l :: r.a)), low := fl.low, high := fl.high, sat := sat } (s.setCore c { k with store := st })

/-- Write either, as FIN says. -/
def putRows (c : Nat) (w : AttnWord) (hw : Nat) (sat : Bool) (fl : AccFlags) (rows : List RowState) (s : State) : State :=
  if w.fin then putOutput c w hw sat fl rows s else putStates c w sat fl rows s

/-- Read states of `n` rows: accumulators at `a`, (m, l) pairs at `p`. -/
def readStates (k : Core) (hw n a p : Nat) : List RowState :=
  let word := fun x => (BitVec.ofNat 32 (k.store.nat x 4) : F32)
  (List.range n).map (fun r =>
    { m := word (p + 8 * r), l := word (p + 8 * r + 4), a := (List.range hw).map (fun e => word (a + 4 * (r * hw + e))) })

/-! ### ASTEP -/

/-- The blocks of an instruction. -/
def attnBlocks (w : AttnWord) : List Nat := (List.range (w.nb + 1)).map (fun i => w.fb + i)

/-- Do the blocks form an aligned subtree of partials (R129, R35)? A shorter run is taken where it ends at the last block of the
slot's block table, since the word has no LST bit (assumption 19). -/
def attnAligned (x : GSlot) (m : Nat) (w : AttnWord) : Bool :=
  let p := 2 ^ w.split
  let last := !(x.table m).any (fun e => w.fb + w.nb < e.1)
  w.fb % p == 0 && (last || (w.nb + 1) % p == 0) && chunkAligned (w.fb / p) (ceilDiv (w.nb + 1) p) last

/-- Does the query's tag fit the mode (R130)? -/
def queryOk (mode : Nat) (tq : Word) : Bool :=
  !tagInvalid tq && (if mode == 0 then tagFormat tq == .bf16 else tagFormat tq == .e4m3 && !tagBAX tq)

/-- Bytes that the rows written take at OBASE. -/
def outBytes (w : AttnWord) (td : Word) (hw : Nat) : Nat :=
  if w.fin then elemBytes td (w.mrows + 1) hw + scaleBytes td (w.mrows + 1) hw else (w.mrows + 1) * hw * 4

/-- The slot an instruction names, if it lies in the troupe's range and is not FREE (R129). -/
def attnSlot (s : State) (t : Nat) (i : Nat) : Option GSlot :=
  let c := (s.gen t).cfg
  if c.slotBase ≤ i && i < c.slotBase + c.slotCount then mapFind (s.gen t).slots i else none

/-- The pages of an instruction's blocks at the layer it names, by block: their addresses (R126). -/
def attnAddrs (s : State) (t : Nat) (e : AttnSel) (x : GSlot) (w : AttnWord) : List (Nat × Option Nat) :=
  (attnBlocks w).map (fun b => (b, pageAddr s t e.model x b e.layer))

/-- Why an ASTEP is refused, if it is, in the order of the CORE_FAULT codes (R66, R84, R126, R129, R130). -/
def astepRefusal (c : Nat) (w : AttnWord) (s : State) : Option Nat :=
  let k := s.core c
  let t := k.regs.troupe
  let e := attnSel k w.srb
  let m := (s.gen t).cfg.model e.model
  let tq := k.tagGet w.tq
  let td := k.tagGet w.td
  let n := w.mrows + 1
  let qb := attnBase k w w.qbase
  if 1 < w.mode || 11 < w.srb then some rfOpInvalid
  else if !queryOk w.mode tq || (w.fin && tagInvalid td) then some rfTagInvalid
  else if storeBytes < qb + elemBytes tq n m.hw + scaleBytes tq n m.hw || storeBytes < attnBase k w w.obase + outBytes w td m.hw ||
      (!w.fin && storeBytes < attnBase k w w.sbase + 8 * n) then some rfStoreRange
  else
    match attnSlot s t e.slot with
    | none => some rfAttnSlot
    | some x =>
      if !attnAligned x e.model w then some rfAttnAlign
      else if m.layers ≤ e.layer || m.heads ≤ e.kvh || (attnAddrs s t e x w).any (fun a => a.2.isNone) ||
          n % (if m.qpk == 0 then 1 else m.qpk) != 0 then some rfAttnRange
      else none

/-- The pages of an ASTEP that are read: block, address and header. -/
def astepPages (s : State) (t : Nat) (e : AttnSel) (x : GSlot) (w : AttnWord) : List (Nat × Nat × List Byte) :=
  (attnAddrs s t e x w).filterMap (fun a => match a.2 with
    | some p => some (a.1, p, pageRead s t p 256)
    | none => none)

/-- The pages of an ASTEP as its head reads them. -/
def astepHeads (k : Core) (s : State) (w : AttnWord) (pages : List (Nat × Nat × List Byte)) : List PageHead :=
  let t := k.regs.troupe
  let e := attnSel k w.srb
  let m := (s.gen t).cfg.model e.model
  pages.map (fun g => readHead s t m w.mode e.kvh g.1 g.2.1 g.2.2)

/-- The states of the query rows over the blocks of an ASTEP, and what their arithmetic raised (R122 to R125). -/
def astepRows (k : Core) (s : State) (w : AttnWord) (pages : List (Nat × Nat × List Byte)) : List (RowState × AccFlags) :=
  let t := k.regs.troupe
  let e := attnSel k w.srb
  let m := (s.gen t).cfg.model e.model
  let tq := k.tagGet w.tq
  let n := w.mrows + 1
  let qb := attnBase k w w.qbase
  let heads := astepHeads k s w pages
  let q := tensorRows tq n m.hw (k.store.readN qb (elemBytes tq n m.hw)) (k.store.readN (qb + elemBytes tq n m.hw) (scaleBytes tq n m.hw))
  (List.range n).map (fun r =>
    let bs := heads.map (blockState w.mode m.hw (tagFormat tq) (tagScale tq) e.sscale w.causal
      (e.qpos + r / (if m.qpk == 0 then 1 else m.qpk)) (nth [] q r))
    (rangeState m.hw w.split (bs.map (·.1)), bs.foldl (fun (f : AccFlags) b => f.or b.2) {}))

/-- The ranges of a page that an ASTEP reads: its header, and the keys and values of one head with their scales (R123). -/
def pageReads (m : KvModel) (h a : Nat) (hdr : List Byte) : List (Nat × Nat) :=
  let part := fun (k : Nat) =>
    let t : Word := BitVec.ofNat 64 (rawField hdr (8 * k) 8)
    let eb := 32 * m.hw * (tagFormat t).bits / 8
    let base := a + pagePart m t k
    (base + h * eb, eb) :: (if tagBS t then [(base + pageElts m t + h * m.hw, m.hw)] else [])
  (a, 256) :: (part 0 ++ part 1)

/-- What an ASTEP that is not refused does: a page whose format does not fit stops the sequence, and the rows are zero (R130, R131); else the rows' states or
outputs are written (R124, R126). -/
def astepDo (c : Nat) (w : AttnWord) (x : GSlot) (s : State) : State :=
  let k := s.core c
  let t := k.regs.troupe
  let e := attnSel k w.srb
  let m := (s.gen t).cfg.model e.model
  let n := w.mrows + 1
  let pages := astepPages s t e x w
  if pages.any (fun g => pageRefused m w.mode g.2.2) then
    let s1 := if x.kvStop then s
      else s.modKv t (fun (v : KvRegs) => { v with format := true, fmtStops := inc32 v.fmtStops 1 })
    let s2 := s1.modSlot t e.slot (fun y => { y with kvStop := true })
    putRows c w m.hw false {} (List.replicate n { m := 0, l := 0, a := List.replicate m.hw 0 }) (chargeReads t (pages.map (fun g => (g.2.1, 256))) s2)
  else
    let rows := astepRows k s w pages
    chargeArray c (2 * n * (w.nb + 1)) (putRows c w m.hw ((astepHeads k s w pages).any (·.sat)) (rows.foldl (fun (f : AccFlags) r => f.or r.2) {}) (rows.map (·.1))
      (chargeReads t (pages.flatMap (fun g => pageReads m e.kvh g.2.1 g.2.2)) s))

/-- ASTEP (R126). -/
def astepBody (c : Nat) (w : AttnWord) (s : State) : Issue :=
  match astepRefusal c w s, attnSlot s (s.core c).regs.troupe (attnSel (s.core c) w.srb).slot with
  | some code, _ => .refuse code
  | none, some x => .ok (astepDo c w x s)
  | none, none => .refuse rfAttnSlot

/-- ASTEP (R126). -/
def execAstep (c : Nat) (w : AttnWord) (s : State) : Host.Outcome State Fault Refusal := coreIssue c w.nd (astepBody c w) s

/-! ### AMERGE and KVPUT (R127) -/

/-- AMERGE: the state at QBASE, as the right operand, into the state at OBASE and SBASE (R127). The word names no model: rows
have the head width of the troupe's policy model (assumption 19). -/
def amergeBody (c : Nat) (w : AttnWord) (s : State) : Issue :=
  let k := s.core c
  let hw := (s.gen k.regs.troupe).cfg.policy.hw
  let td := k.tagGet w.td
  let n := w.mrows + 1
  let qb := attnBase k w w.qbase
  let ob := attnBase k w w.obase
  let sb := attnBase k w w.sbase
  if w.fin && tagInvalid td then .refuse rfTagInvalid
  else if storeBytes < qb + n * hw * 4 + 8 * n || storeBytes < ob + n * hw * 4 || storeBytes < ob + outBytes w td hw ||
      storeBytes < sb + 8 * n then .refuse rfStoreRange
  else
    let rows := List.zipWith mergeState (readStates k hw n ob sb) (readStates k hw n qb (qb + n * hw * 4))
    .ok (putRows c w hw false {} rows s)

/-- AMERGE (R127). -/
def execAmerge (c : Nat) (w : AttnWord) (s : State) : Host.Outcome State Fault Refusal := coreIssue c w.nd (amergeBody c w) s

/-- Write one position's keys (part 0) or values (part 1) of one head into a page: elements and scales; what it reports. -/
def putHead (t : Nat) (m : KvModel) (tag : Word) (addr part p h : Nat) (xs : List F32) (s : State) : State × ConvFlags :=
  let (els, scs, rep) := convertTensor tag .rne m.hw [xs.map (fun x => (x, 0))]
  let base := addr + pagePart m tag part
  let rb := (tagFormat tag).bytes m.hw
  let s1 := troupeWrite s t (base + (h * 32 + p) * rb) (packRows tag els)
  (if tagBS tag then troupeWrite s1 t (base + pageElts m tag + (h * 32 + p) * (m.hw / 32)) (scs.map (fun e => BitVec.ofNat 8 e))
   else s1, rep)

/-- Write one position into the page at `addr` (R127): keys of every held head, then values, NF in the tag of
the part in which a non-finite one was written (R45); FILL and EPOCH of the header. -/
def putPosition (t : Nat) (m : KvModel) (epoch addr p : Nat) (xs : List F32) (x : State × ConvFlags) : State × ConvFlags :=
  let s := x.1
  let hdr := pageRead s t addr 256
  let tk : Word := BitVec.ofNat 64 (rawField hdr 0 8)
  let tv : Word := BitVec.ofNat 64 (rawField hdr 8 8)
  if !pageTagsOk tk tv then x
  else
    let step := fun (y : State × ConvFlags) (i : Nat) =>
      let part := i / m.heads
      let h := i % m.heads
      let tag := if part == 0 then tk else tv
      let (s1, rep) := putHead t m tag addr part p h ((xs.drop (i * m.hw)).take m.hw) y.1
      (if rep.nf then troupeWrite s1 t (addr + 8 * part) (leBytes 8 (tagOr tag true false).toNat) else s1, y.2.or rep)
    let y := (List.range (2 * m.heads)).foldl step x
    let s2 := troupeWrite y.1 t (addr + 0x1C) (leBytes 4 epoch)
    (if rawField hdr 0x12 1 < p + 1 then troupeWrite s2 t (addr + 0x12) (leBytes 1 (p + 1)) else s2, y.2)

/-- Why a KVPUT is refused, if it is (R66, R84, R127, R129). -/
def kvputRefusal (c : Nat) (w : AttnWord) (s : State) : Option Nat :=
  let k := s.core c
  let t := k.regs.troupe
  let e := attnSel k w.srb
  let m := (s.gen t).cfg.model e.model
  let n := w.mrows + 1
  if 11 < w.srb then some rfOpInvalid
  else if storeBytes < attnBase k w w.qbase + n * (2 * m.heads * m.hw * 4) then some rfStoreRange
  else
    match attnSlot s t e.slot with
    | none => some rfAttnSlot
    | some x =>
      if m.layers ≤ e.layer || (List.range n).any (fun r => (pageAddr s t e.model x ((e.qpos + r) / 32) e.layer).isNone) then some rfAttnRange
      else none

/-- What a KVPUT that is not refused does: position by position, the keys and values of the core store go into the slot's pages, under the
epoch of the step (R127). -/
def kvputDo (c : Nat) (w : AttnWord) (x : GSlot) (s : State) : State :=
  let k := s.core c
  let t := k.regs.troupe
  let e := attnSel k w.srb
  let g := s.gen t
  let m := g.cfg.model e.model
  let rb := 2 * m.heads * m.hw * 4
  let qb := attnBase k w w.qbase
  let epoch := match g.step with
    | some st => st.epoch
    | none => g.liveEpoch
  let step := fun (y : State × ConvFlags) (r : Nat) =>
    match pageAddr s t e.model x ((e.qpos + r) / 32) e.layer with
    | none => y
    | some a =>
      let xs := (List.range (2 * m.heads * m.hw)).map (fun j => (BitVec.ofNat 32 (k.store.nat (qb + r * rb + 4 * j) 4) : F32))
      putPosition t m epoch a ((e.qpos + r) % 32) xs y
  let y := (List.range (w.mrows + 1)).foldl step (s, {})
  noteArith c { nf := y.2.nf, sat := y.2.sat } y.1

/-- KVPUT (R127). -/
def kvputBody (c : Nat) (w : AttnWord) (s : State) : Issue :=
  match kvputRefusal c w s, attnSlot s (s.core c).regs.troupe (attnSel (s.core c) w.srb).slot with
  | some code, _ => .refuse code
  | none, some x => .ok (kvputDo c w x s)
  | none, none => .refuse rfAttnSlot

/-- KVPUT (R127). -/
def execKvput (c : Nat) (w : AttnWord) (s : State) : Host.Outcome State Fault Refusal := coreIssue c w.nd (kvputBody c w) s

end Sys2Proof.Machine
end

