-- ==== Sys2Proof/Machine/CkptOps.lean ====
section
/-! DEFINITION. Arming a checkpoint (R349, R352): jobs, their coordinator and its states. -/

namespace Sys2Proof.Machine

/-- Job `j` of this module. -/
def State.job? (s : State) (j : Nat) : Option Job := mapFind s.ckpt.jobs j
/-- Change job `j`. -/
def State.modJob (s : State) (j : Nat) (f : Job → Job) : State :=
  match s.job? j with
  | some x => { s with ckpt.jobs := mapPut s.ckpt.jobs j (f x) }
  | none => s

/-- The local number of job `n`. -/
def jobIndex (s : State) (n : Nat) : Option Nat := (s.ckpt.jobs.find? (fun e => e.2.plan.job == n)).map (·.1)

/-- The tree of the job's checkpoint barrier, its group and this module's rank (R346). -/
def jobTree (s : State) (x : Job) : Option (TreeRec × GroupRec × Nat) :=
  match x.plan.troupes with
  | [] => none
  | p :: _ =>
    match barrierEnt s p.t x.plan.bar with
    | none => none
    | some e => treeAt s e.tree p.t

/-- The member that holds the root rank of the job's barrier: LMID and troupe. -/
def jobRoot (s : State) (x : Job) : Nat × Nat :=
  match jobTree s x with
  | some (tr, g, _) => nth (0xFFF, 0) g.members tr.root
  | none => (0xFFF, 0)

/-- Is this module the job's coordinator (R346)? -/
def coordinates (s : State) (x : Job) : Bool := (jobRoot s x).1 == s.lmid

/-- The LMIDs of a job, without repeats, in ascending order. -/
def jobLmids (s : State) (x : Job) : List Nat :=
  match jobTree s x with
  | some (_, g, _) => (g.members.foldl (fun m e => mapPut m e.1 ()) ([] : Map Unit)).map (·.1)
  | none => [s.lmid]

/-- Does a substitution run on this module or on another one of the job (R352)? -/
def substituting (s : State) : Bool := s.ckpt.sub.away || (1 ≤ s.ckpt.sub.state && s.ckpt.sub.state ≤ 3)

/-- Send a hub control message of a job to its other modules. -/
def sendJob (x : Job) (kind : String) (vals : List Nat) (s : State) : State :=
  ((jobLmids s x).filter (fun l => l != s.lmid)).foldl (fun s l => sendFab { kind := kind, dest := l, vals := x.plan.job :: vals } s) s

/-- The coordinator takes an arm: the next checkpoint number, and its modules learn of it (R352). -/
def takeArm (j : Nat) (s : State) : State :=
  match s.job? j with
  | none => s
  | some x =>
    sendJob x "ckpt_armed" [x.no + 1] (s.modJob j (fun y => { y with st := .armed, no := (y.no + 1) % 2 ^ 32, held := false }))

/-- An arm reaches the coordinator (R352). -/
def coordArm (j : Nat) (s : State) : State :=
  match s.job? j with
  | none => s
  | some x =>
    if x.st == .copying || x.st == .draining || substituting s then
      if x.held then s
      else
        raiseModule evCkptHeld (leBytes 2 x.plan.job)
          (s.modJob j (fun y => { y with held := true, heldEv := true, heldCnt := inc16 y.heldCnt }))
    else if x.st == .idle then takeArm j s
    else s

/-- A substitution has ended: arms that it held are taken (R352). -/
def releaseAllHeld (s : State) : State :=
  s.ckpt.jobs.foldl (fun s (e : Nat × Job) => if e.2.held && e.2.st == .idle && !substituting s then takeArm e.1 s else s) s

/-- Arm a checkpoint of job `j`: at the coordinator, or by a message to it (R349). -/
def armJob (j : Nat) (s : State) : State :=
  match s.job? j with
  | none => s
  | some x =>
    if coordinates s x then coordArm j s
    else sendFab { kind := "ckpt_arm", dest := (jobRoot s x).1, vals := [x.plan.job] } s

end Sys2Proof.Machine
end

