-- ==== Sys2Proof/Machine/Move.lean ====
section
/-! DEFINITION. The MOVE instruction and the move descriptors that it posts (R76, R77, R250, R265). -/

namespace Sys2Proof.Machine

/-- What a move writes: the bytes of the destination ranges in order with their poison flags, the ranges, and what its
conversion reports. -/
structure MoveOut where
  ranges : List (Nat × Nat)
  bytes  : List Byte
  flags  : List Bool
  rep    : ConvFlags := {}

/-- Poison flags of the elements of a stored tensor from the flags of its bytes: an element is poisoned with any of its bytes
or with its block scale. -/
def eltFlags (t : Word) (rows cols rowBytes : Nat) (fs : List Bool) : List (List Bool) :=
  let b := (tagFormat t).bits
  let sc := fs.drop (rows * rowBytes)
  (List.range rows).map (fun r =>
    let row := (fs.drop (r * rowBytes)).take rowBytes
    (List.range cols).map (fun c =>
      ((row.drop (c * b / 8)).take ((c * b + b - 1) / 8 + 1 - c * b / 8)).any id ||
        (tagBS t && nth false sc (blockIndex (tagBAX t) cols r c))))

/-- Spread element flags over the blocks of a destination's tag: a block scale depends on every element of its block. -/
def spreadFlags (t : Word) (fs : List (List Bool)) : List (List Bool) :=
  if !tagBS t then fs
  else if tagBAX t then
    (piecesOf 32 (fs.length + 1) fs).flatMap (fun band =>
      band.map (fun row => (List.range row.length).map (fun c => band.any (fun r => nth false r c))))
  else fs.map (fun row => (piecesOf 32 (row.length + 1) row).flatMap (fun b => b.map (fun _ => b.any id)))

/-- Flags of the bytes of a row that stores elements with the given flags. -/
def rowByteFlags (b n : Nat) (fs : List Bool) : List Bool :=
  (List.range n).map (fun j => ((fs.drop (8 * j / b)).take ((8 * j + 7) / b + 1 - 8 * j / b)).any id)

/-- Flags of the block scales in the order of R480. -/
def scaleFlags (t : Word) (cols : Nat) (fs : List (List Bool)) : List Bool :=
  if !tagBS t then []
  else if tagBAX t then
    (piecesOf 32 (fs.length + 1) fs).flatMap (fun band => band.headD [])
  else fs.flatMap (fun row => (List.range (ceilDiv cols 32)).map (fun q => nth false row (32 * q)))

/-- The converted data of a move: source elements widen to their values and convert into the destination's format by R39, RNE;
a partial block is filled with zeros (R24). -/
def moveConverted (ta td : Word) (d : Desc) (bytes : List Byte) (fs : List Bool) : MoveOut :=
  let cols := colsOfBytes ta d.rowBytes
  let body := d.rows * d.rowBytes
  let rows := (List.range d.rows).map (fun r =>
    List.zip (unpackElts (tagFormat ta) ((bytes.drop (r * d.rowBytes)).take d.rowBytes) cols)
      (scaleRow (tagBS ta) (tagBAX ta) (bytes.drop body) cols r))
  let (ws, es, rep) := convertTensor td .rne cols (rows.map (fun r => r.map (fun x => ((widen ta x).1, 0))))
  let sat := rows.any (fun r => r.any (fun x => (widen ta x).2))
  let width := vmemPad td cols
  let rb := elemBytes td 1 width
  let out := packRows td (ws.map (fun r => r ++ List.replicate (width - cols) 0))
  let sc := es.map (fun e => (BitVec.ofNat 8 e : Byte))
  let ef := spreadFlags td (eltFlags ta d.rows cols d.rowBytes fs)
  let flags := if fs.any id then
      ef.flatMap (rowByteFlags (tagFormat td).bits rb) ++ scaleFlags td cols ef
    else (out ++ sc).map (fun _ => false)
  { ranges := moveDest .convert ta td d, bytes := out ++ sc, flags := flags, rep := rep.or { sat := sat } }

/-- What a move of a kind writes, from the bytes and flags of its source ranges. -/
def moveOut (kind : MoveKind) (ta td : Word) (d : Desc) (bytes : List Byte) (fs : List Bool) : MoveOut :=
  match kind with
  | .convert => moveConverted ta td d bytes fs
  | _ =>
    { ranges := moveDest kind ta td d, bytes := bytes, flags := fs }

/-- The tag-file entry that a move leaves at DTAG: the source's tag with a copied tag, whose NF and AW join those that DTAG held, since the module
clears neither; the old one with NF set when the conversion wrote a non-finite value (R45). -/
def moveTag (kind : MoveKind) (ta td : Word) (rep : ConvFlags) : Word :=
  match kind with
  | .copy => td
  | .copyTag => tagOr ta (tagNF td) (tagAW td)
  | .convert => tagOr td rep.nf false

/-- Carry out a move descriptor of core `c` (R76): OP_INVALID for a field out of range (a tag-file entry of 64 or more among them: assumption 72)
or a tag that R25 refuses, then the
checks of the source and of the destination (R66, R243, R324, R265), then the writes; MEM_UE when a source byte is poisoned
or a partial write of a poisoned unit was discarded (R250). -/
def moveBody (c id : Nat) (kind : MoveKind) (t : Nat) (d : Desc) (s : State) : State × Nat :=
  let k := s.core c
  let ta := k.tagGet d.stag
  let td := k.tagGet d.dtag
  let bad := match kind with
    | .copy => false
    | .copyTag => tagInvalid ta
    | .convert => tagInvalid ta || tagInvalid td
  if !moveFieldsOk s t d || (kind != .copy && (64 ≤ d.stag || 64 ≤ d.dtag)) || bad then (s, stOpInvalid)
  else
    match rangesLocs s t false (moveSource kind ta d) with
    | .error f => refuseAccess t f s
    | .ok src =>
      let fs := flagsOf s src
      let o := moveOut kind ta td d (readLocs s src) fs
      match writeRanges s t o.ranges with
      | .error f => refuseAccess t f s
      | .ok dst =>
        let (s1, part) := writeAllFlagged (.desc c id) (findErrors src s) dst o.bytes o.flags
        let s2 := match kind with
          | .copy => s1
          | _ => s1.modCore c (fun (k : Core) => k.tagPut d.dtag (moveTag kind ta td o.rep))
        let s3 := noteArith c { nf := o.rep.nf, sat := o.rep.sat } s2
        (chargeStacks t (stackBytesOf src) (stackBytesOf dst) s3, if fs.any (fun b => b) || part then stMemUe else stOk)

/-- MOVE: posts the 64-byte descriptor at the address, or waits while 32 are outstanding (R76). -/
def execMove (c : Nat) (nd : Bool) (addr : Nat) (s : State) : Host.Outcome State Fault Refusal :=
  coreIssue c nd (fun s =>
    if storeBytes < addr + 64 then .refuse rfStoreRange
    else
      let k := s.core c
      let raw := k.store.readN addr 64
      if k.descs.length < 32 then .ok (s.modCore c (postDesc raw))
      else .ok (s.modRegs c (fun (r : CoreRegs) => { r with wait := .move raw }))) s

/-- MOVE_COPY: descriptor OP 0x0000 (R76). -/
def execMoveCopy (c id : Nat) (s : State) : Host.Outcome State Fault Refusal :=
  engine (runDesc c id 0 (moveBody c id .copy)) s

/-- MOVE_COPY_TAG: descriptor OP 0x0001, with the tag and the block scales (R76). -/
def execMoveCopyTag (c id : Nat) (s : State) : Host.Outcome State Fault Refusal :=
  engine (runDesc c id 1 (moveBody c id .copyTag)) s

/-- MOVE_CONVERT: descriptor OP 0x0002, from the format of STAG to that of DTAG (R76, R39). -/
def execMoveConvert (c id : Nat) (s : State) : Host.Outcome State Fault Refusal :=
  engine (runDesc c id 2 (moveBody c id .convert)) s

/-- DESCRIPTOR_COMPLETE: a descriptor whose writes are all readable completes, in posting order among those that overlap, and
its semaphore rises (R77). -/
def execDescriptorComplete (c id : Nat) (s : State) : Host.Outcome State Fault Refusal :=
  engine (fun s =>
    match descOf s c id with
    | some { stage := .done st, raw := raw, .. } =>
      if s.mem.stalled.any (fun w => w.owner == .desc c id) || earlierMeets s c id (Desc.ofBytes raw) then s
      else finishDesc c id st s
    | _ => s) s

end Sys2Proof.Machine
end

