-- ==== Sys2Proof/Machine/Govern.lean ====
section
/-! DEFINITION. The format governor (R168, R171 to R176): statistics of a gradient, formats and scales; and the learner's windows. -/

namespace Sys2Proof.Machine

/-- The learner part of troupe `t`. -/
def State.lrn (s : State) (t : Nat) : Lrn := (s.troupe t).lrn
/-- Change the learner part of troupe `t`. -/
def State.modLrn (s : State) (t : Nat) (f : Lrn → Lrn) : State := s.modTroupe t (fun (x : Troupe) => { x with lrn := f x.lrn })
/-- Change the learner registers. -/
def State.modLregs (s : State) (t : Nat) (f : LrnRegs → LrnRegs) : State :=
  s.modLrn t (fun (x : Lrn) => { x with regs := f x.regs })

/-- The tag in which a binding's gradient travels: BS and PS for FP8, TSCALE = S (R168). -/
def govTag (fmt sc : Nat) : Word :=
  if fmt == 0x01 then tagMake 0x01 false false false 0 else tagMake fmt true true false (BitVec.ofNat 32 sc)

/-- The bin of an exponent distance (R171). -/
def govBin (d : Nat) : Nat := if 30 ≤ d then 15 else d / 2

/-- Add one to bin `i` of a histogram. -/
def histInc (h : List Nat) (i : Nat) : List Nat := (List.range 16).map (fun j => nth 0 h j + (if j == i then 1 else 0))

/-- Add statistics of one element: its value, its block's top exponent, and how it converted. -/
def statElt (top : Option Int) (x : F32) (w : Nat) (f : Fmt) (sat : Bool) (g : GovStat) : GovStat :=
  if !f32Finite x then { g with nf := true }
  else
    let g1 := { g with sat := g.sat || sat, satn := g.satn + b2n sat
                       amax := (if g.amax < x.toNat % 2 ^ 31 then x.toNat % 2 ^ 31 else g.amax) }
    if f32IsZero x then g1
    else
      let d := match top with
        | some t => (t - (f32Val x).log2).toNat
        | none => 0
      { g1 with nz := g1.nz + 1, hist := histInc g1.hist (govBin d), uflow := g1.uflow + b2n (f.decode w).isZero }

/-- The element words of one block and whether each saturated (R39). -/
def blockElts (t : Word) (xs : List F32) : List (Nat × Bool) :=
  let f := tagFormat t
  let ys := xs.map (convPair t)
  let e := if tagBS t then blockScale f (ys.map (·.1)) else 127
  ys.map (fun y =>
    let (w, fl) := convElt f (tagBS t) .rne 0 (if tagBS t then y.1.scale (127 - (e : Int)) else y.1)
    (w, fl.sat || y.2))

/-- Statistics of one block of at most 32 elements (R171). -/
def statBlock (t : Word) (g : GovStat) (xs : List F32) : GovStat :=
  let top := blockTop (xs.map f32Val)
  (List.zip xs (blockElts t xs)).foldl (fun (g : GovStat) e => statElt top e.1 e.2.1 (tagFormat t) e.2.2 g) g

/-- Statistics of a gradient of rows in a tag: blocks of 32 along COLS (R171). -/
def statRows (t : Word) (rows : List (List F32)) : GovStat :=
  rows.foldl (fun (g : GovStat) r => (piecesOf 32 (r.length + 1) r).foldl (statBlock t) g) {}

/-- Sums of statistics stop at 2^64 - 1 (R172). -/
def satSum (a b : Nat) : Nat := satAdd 0xFFFFFFFFFFFFFFFF a b

/-- Combine two statistics records at a node (R171). -/
def joinStat (a b : GovStat) : GovStat :=
  { amax := (if a.amax < b.amax then b.amax else a.amax), nf := a.nf || b.nf, sat := a.sat || b.sat, nz := satSum a.nz b.nz
    uflow := satSum a.uflow b.uflow, satn := satSum a.satn b.satn
    hist := (List.range 16).map (fun i => satSum (nth 0 a.hist i) (nth 0 b.hist i)) }

/-- The 160 bytes of a statistics record. -/
def statBytes (g : GovStat) : List Byte :=
  leBytes 4 g.amax ++ leBytes 4 (b2n g.nf + 2 * b2n g.sat) ++ leBytes 8 g.nz ++ leBytes 8 g.uflow ++ leBytes 8 g.satn ++
    (List.range 16).flatMap (fun i => leBytes 8 (nth 0 g.hist i))

/-- Rank of a format: E4M3, E5M2, BF16 (R173). -/
def fmtRank (f : Nat) : Nat := if f == 0x10 then 0 else if f == 0x11 then 1 else 2
/-- The format of a rank. -/
def rankFmt (r : Nat) : Nat := if r == 0 then 0x10 else if r == 1 then 0x11 else 0x01

/-- The next format and RUN (R173). -/
def nextFormat (lossMax hold : Nat) (g : GovState) (st : GovStat) : Nat × Nat :=
  if st.nz == 0 then (g.fmt, 0)
  else
    let ok := fun (lost : Nat) => decide (lost * 65536 ≤ lossMax * st.nz)
    let sum := ((List.range 7).map (fun i => nth 0 st.hist (9 + i))).foldl (· + ·) 0
    let cur := fmtRank g.fmt
    let want0 := if ok sum then 0 else if ok (nth 0 st.hist 15) then 1 else 2
    let want := if !ok st.uflow && cur < 2 && want0 < cur + 1 then cur + 1 else want0
    if cur < want then (rankFmt want, 0)
    else if want < cur then
      if hold ≤ g.run + 1 then (rankFmt (cur - 1), 0) else (g.fmt, g.run + 1)
    else (g.fmt, 0)

/-- The word of 2^k with k clamped to -126 to 127. -/
def pow2Word (k : Int) : Nat :=
  let c : Int := if k < -126 then -126 else if 127 < k then 127 else k
  (c + 127).toNat * 2 ^ 23

/-- The scale for the next step from the history (R174): the smallest power of two at least 2 M. -/
def nextScale (sc : Nat) (hist : List Nat) : Nat :=
  let m := hist.foldl (fun a b => if a < b then b else a) 0
  match f32Val (BitVec.ofNat 32 m) with
  | .fin _ man e =>
    if man == 0 then sc
    else
      let l := (Nat.log2 man : Int) + e
      pow2Word (if man == 2 ^ Nat.log2 man then l + 1 else l + 2)
  | _ => sc

/-- Append AMAX to a history of at most 16. -/
def pushHist (h : List Nat) (a : Nat) : List Nat := (h ++ [a]).drop (h.length + 1 - 16)

/-- Half of a power-of-two scale, at least 2^-126 (R175). -/
def halfScale (sc : Nat) : Nat := if sc ≤ 2 ^ 23 then 2 ^ 23 else sc - 2 ^ 23

/-- The governor update of one binding at a verdict (R173 to R175): the new state and whether its scale was halved. -/
def govUpdate (lossMax hold n : Nat) (gov : Bool) (g : GovState) (st : GovStat) : GovState × Bool :=
  if !gov then (g, false)
  else if st.nf then ({ g with s := halfScale g.s, hist := [], run := 0, halved := true, last := n }, true)
  else
    let (f, r) := nextFormat lossMax hold g st
    let h := pushHist g.hist st.amax
    ({ fmt := f, s := nextScale g.s h, run := r, hist := h, halved := false, last := n }, false)

/-- The first state of a binding (R174). -/
def govInit (b : BindRecord) : GovState := { fmt := b.initFmt, s := b.initS }

/-- Does the binding's format follow the governor (FLAGS.GOV)? -/
def bindGov (b : BindRecord) : Bool := bitOf b.flags 0

/-- The 80 bytes of a governor table entry (R176). -/
def govBytes (b : BindRecord) (g : GovState) : List Byte :=
  leBytes 1 g.fmt ++ leBytes 1 g.hist.length ++ leBytes 1 g.run ++ leBytes 1 (b2n g.halved + 2 * b2n (!bindGov b)) ++ leBytes 4 g.s ++
    (List.range 16).flatMap (fun i => leBytes 4 (nth 0 g.hist i)) ++ leBytes 8 g.last

/-- Is a Whetstone command of stack `n` outstanding? -/
def whetPending (s : State) (n : Nat) : Bool :=
  s.troupes.any (fun e => e.2.lrn.near.any (fun r => r.stack == n && !r.cmds.isEmpty))

/-- Keep STK_WHET_STATUS.BUSY of a stack (R218). -/
def settleWhet (n : Nat) (s : State) : State := s.modStack n (fun (k : Stack) => { k with whetBusy := whetPending s n })

/-- Keep BUSY of every stack: commands of a troupe have gone with it. -/
def settleWhets (s : State) : State := (List.range 20).foldl (fun s n => settleWhet n s) s

/-- Write a read-only window of the hub's at a troupe address: the troupe's own mapping need not allow writes (R176, R216). -/
def windowWrite (t a : Nat) (bytes : List Byte) (s : State) : State :=
  match troupeRange s t a bytes.length false with
  | .ok ls => (writeLocs .none s ls bytes).1
  | .error _ => s

/-- Write the governor table into its window. -/
def syncGov (t : Nat) (s : State) : State :=
  let l := s.lrn t
  windowWrite t l.cfg.govAddr ((List.zip l.binds l.gov).flatMap (fun e => govBytes e.1 e.2)) s

/-- Rows of FP32 words at a troupe address. -/
def gradRows (s : State) (t a rows cols : Nat) : List (List F32) :=
  match troupeRead s t a (4 * rows * cols) with
  | none => []
  | some bs =>
    (List.range rows).map (fun r => (List.range cols).map (fun c => BitVec.ofNat 32 (leNat ((bs.drop (4 * (r * cols + c))).take 4))))

/-- The binding whose gradient lies at a troupe address: its record number. -/
def bindAt (l : Lrn) (a : Nat) : Option Nat := (List.range l.binds.length).find? (fun i => (nth {} l.binds i).gradAddr == a)

/-- The tag of binding `i` for the step in progress. -/
def bindTag (l : Lrn) (i : Nat) : Word := let g := nth {} l.gov i; govTag g.fmt g.s

/-- Gather the statistics of binding `i` over its local gradient (R171). -/
def gatherStats (t i : Nat) (s : State) : State :=
  let l := s.lrn t
  let b := nth {} l.binds i
  let st := statRows (bindTag l i) (gradRows s t b.gradAddr b.rows b.cols)
  s.modLrn t (fun (l : Lrn) => { l with stats := mapPut l.stats i st })

end Sys2Proof.Machine
end

