-- ==== Sys2Proof/Machine/OptOps.lean ====
section
/-! DEFINITION. Optimizer arithmetic (R187 to R195, R213 to R215): group records, the Prompter's factor, the constants of a step and
the elementwise rules; and the windows at GROUP_ADDR and OPT_ADDR (R187, R216). -/

namespace Sys2Proof.Machine

/-! ### Group records -/

/-- FLAGS.FROZEN. -/
def GroupParam.frozen (r : GroupParam) : Bool := bitOf r.flags 0
/-- FLAGS.NEAR. -/
def GroupParam.near (r : GroupParam) : Bool := bitOf r.flags 1
/-- FLAGS.NESTEROV. -/
def GroupParam.nest (r : GroupParam) : Bool := bitOf r.flags 2
/-- FLAGS.WDS. -/
def GroupParam.wds (r : GroupParam) : Bool := bitOf r.flags 3

/-- Is the FP32 word finite and at least 0? -/
def f32Nonneg (w : Nat) : Bool := f32Finite (BitVec.ofNat 32 w) && (w < 2 ^ 31 || w == 2 ^ 31)
/-- Is the FP32 word finite and above 0? -/
def f32Positive (w : Nat) : Bool := f32Finite (BitVec.ofNat 32 w) && 0 < w && w < 2 ^ 31

/-- Does a group record keep R188 among Prompter slots `prm` from `base`, `count` of them? -/
def groupOk (prm : Map PromSlot) (base count : Nat) (r : GroupParam) : Bool :=
  r.rule ≤ 3 && r.flags < 16 && r.rsv == 0 && r.mfmt ≤ 1 && r.ofmt ≤ 1 && (r.ckfmt ≤ 1 || r.ckfmt == 0x10) && r.bcBase < 2 ^ 64 &&
  f32Nonneg r.lr && f32Nonneg r.wd && f32Nonneg r.beta1 && f32Nonneg r.beta2 &&
  f32Lt (BitVec.ofNat 32 r.beta1) f32One && f32Lt (BitVec.ofNat 32 r.beta2) f32One &&
  f32Positive r.eps && f32Positive r.oEps && f32Positive r.fbScale &&
  !(GroupParam.nest r && (r.rule == 1 || r.rule == 2)) && !(GroupParam.near r && r.rule == 3) &&
  r.sched < count && (mapGet {} prm (base + r.sched)).kind == 1

/-- The 64 bytes of a group record (R187). -/
def groupBytes (r : GroupParam) : List Byte :=
  leBytes 1 r.rule ++ leBytes 1 r.flags ++ leBytes 1 r.sched ++ leBytes 1 r.mfmt ++ leBytes 1 r.ofmt ++ leBytes 1 r.ckfmt ++ leBytes 2 0 ++
    leBytes 8 r.bcBase ++ leBytes 4 r.lr ++ leBytes 4 r.wd ++ leBytes 4 r.beta1 ++ leBytes 4 r.beta2 ++ leBytes 4 r.eps ++
    leBytes 4 r.oEps ++ leBytes 4 r.fbScale ++ leBytes 20 0

/-- The bias-correction count k = n - BC_BASE + 1 (R191). -/
def biasCount (r : GroupParam) (n : Nat) : Int := (n : Int) - r.bcBase + 1

/-! ### Powers and the Prompter's factor -/

/-- The power of R191, bit by bit from the most significant; by fuel. -/
def powBits (beta : F32) : Nat → Nat → F32
  | 0, _ => f32One
  | k + 1, n =>
    if n == 0 then f32One
    else
      let r := powBits beta k (n / 2)
      let r2 := f32Mul r r
      if n % 2 == 1 then f32Mul r2 beta else r2

/-- pow_fp32 (R191). -/
def powF32 (beta : F32) (k : Nat) : F32 := powBits beta 65 k

/-- The cycle of a schedule with restarts: position and length (R214); by fuel. -/
def cyclePos (q : Nat) : Nat → Nat → Nat → Nat × Nat
  | 0, tc, lc => (tc, lc)
  | k + 1, tc, lc =>
    if tc < lc then (tc, lc) else cyclePos q k (tc - lc) (if lc * q < 2 ^ 63 then lc * q else 2 ^ 63)

/-- Position and length of the cycle that holds tau: with Q = 1, tau mod P (R214). -/
def cycleOf (p q tau : Nat) : Nat × Nat := if q ≤ 1 then (tau % p, p) else cyclePos q 128 tau p

/-- A quotient of integers converted with RNE and divided (R214). -/
def f32Ratio (a b : Nat) : F32 := f32Div (f32OfNat a) (f32OfNat b)

/-- The decay part of the factor (R214). -/
def decayFactor (x : PromSlot) (tc lc : Nat) : F32 :=
  let floor : F32 := BitVec.ofNat 32 x.floor
  let oneR := f32Sub f32One floor
  let m := if tc < lc then tc else lc
  if x.decay == 0 then f32One
  else if x.decay == 1 then f32Fma (f32Negate oneR) (f32Ratio m lc) f32One
  else if x.decay == 2 then
    let y := 4096 * m
    let j := y / lc
    let phi := f32Ratio (y % lc) lc
    let c := if j < 4096 then f32Fma phi (f32Sub (cosTab (j + 1)) (cosTab j)) (cosTab j) else 0
    f32Fma oneR c floor
  else if x.decay == 3 then f32Max2 floor (f32Div f32One (f32Sqrt (f32Add f32One (f32Ratio tc x.dsteps))))
  else f32Max2 floor (powF32 (BitVec.ofNat 32 x.gamma) (tc / x.dsteps))

/-- The schedule factor f of a slot for step n (R214). -/
def factorOf (x : PromSlot) (n : Nat) : F32 :=
  if n < x.start then 0
  else
    let t := n - x.start
    if x.warm == 1 && t < x.wsteps then f32Ratio (t + 1) x.wsteps
    else
      let tau := if x.warm == 1 then t - x.wsteps else t
      let (tc, lc) := if x.period == 0 then (tau, x.dsteps) else cycleOf x.period x.qmul tau
      decayFactor x tc lc

/-- The constants of step n for a group (R190, R191). -/
def groupConsts (f : F32) (r : GroupParam) (n : Nat) : GroupConst :=
  let w := fun (v : Nat) => (BitVec.ofNat 32 v : F32)
  let eta := f32Mul (w r.lr) f
  let k := (biasCount r n).toNat
  let bias := r.rule == 1 || r.rule == 3
  { eta := eta, lam := (if GroupParam.wds r then f32Mul (w r.wd) f else w r.wd)
    c1 := f32Sub f32One (w r.beta1), c2 := f32Sub f32One (w r.beta2)
    bc1 := (if bias then f32Sub f32One (powF32 (w r.beta1) k) else 0), bc2 := (if bias then f32Sub f32One (powF32 (w r.beta2) k) else 0)
    etaFb := (if r.rule == 3 then f32Mul eta (w r.fbScale) else 0)
    beta1 := w r.beta1, beta2 := w r.beta2, eps := w r.eps, oEps := w r.oEps }

/-! ### The elementwise rules (R193, R195) -/

/-- The parameter step: fma(-eta, fma(lambda, theta, u), theta). -/
def thetaStep (c : GroupConst) (eta theta u : F32) : F32 := f32Fma (f32Negate eta) (f32Fma c.lam theta u) theta

/-- SGDM: theta and m (R193). -/
def sgdmRule (c : GroupConst) (nest : Bool) (g theta m : F32) : F32 × F32 :=
  let m1 := f32Fma c.beta1 m g
  let u := if nest then f32Fma c.beta1 m1 g else m1
  (thetaStep c c.eta theta u, m1)

/-- ADAMW with a learning rate: theta, m and v (R193). -/
def adamRule (c : GroupConst) (eta g theta m v : F32) : F32 × F32 × F32 :=
  let m1 := f32Fma c.beta1 m (f32Mul c.c1 g)
  let v1 := f32Fma c.beta2 v (f32Mul c.c2 (f32Mul g g))
  let mh := f32Div m1 c.bc1
  let vh := f32Div v1 c.bc2
  let u := f32Div mh (f32Add (f32Sqrt vh) c.eps)
  (thetaStep c eta theta u, m1, v1)

/-- sign(c) of LION: the canonical NaN for a NaN (R193). -/
def lionSign (x : F32) : F32 :=
  if f32IsNaN x then f32NaN else if f32IsZero x then 0 else if f32Lt x 0 then f32Negate f32One else f32One

/-- LION: theta and m (R193). -/
def lionRule (c : GroupConst) (g theta m : F32) : F32 × F32 :=
  let x := f32Fma c.beta1 m (f32Mul c.c1 g)
  (thetaStep c c.eta theta (lionSign x), f32Fma c.beta2 m (f32Mul c.c2 g))

/-- OMOM: M and U (R195 step 1). -/
def omomRule (c : GroupConst) (nest : Bool) (g m : F32) : F32 × F32 :=
  let m1 := f32Fma c.beta1 m g
  (m1, if nest then f32Fma c.beta1 m1 g else m1)

/-- The rule of a group's record on one element: theta, m and v (R193). -/
def groupRule (r : GroupParam) (c : GroupConst) (g theta m v : F32) : F32 × F32 × F32 :=
  if r.rule == 0 then let (a, b) := sgdmRule c (GroupParam.nest r) g theta m; (a, b, v)
  else if r.rule == 1 then adamRule c c.eta g theta m v
  else if r.rule == 2 then let (a, b) := lionRule c g theta m; (a, b, v)
  else adamRule c c.etaFb g theta m v

/-! ### Shards and windows -/

/-- Bytes of one stored master weight or moment (R187, R205). -/
def stateSize (fmt : Nat) : Nat := if fmt == 0 then 4 else 2

/-- A stored value widened: FP32 or BF16. -/
def stateVal (fmt w : Nat) : F32 := if fmt == 0 then BitVec.ofNat 32 w else BitVec.ofNat 32 (w * 65536)

/-- The word of a value stored with RNE (R209). -/
def stateWord (fmt : Nat) (x : F32) : Nat := if fmt == 0 then x.toNat else (convElt .bf16 false .rne 0 (f32Val x)).1

/-- The 16 bytes of a group state (R216). -/
def gstateBytes (g : GroupState) : List Byte := leBytes 8 g.last ++ leBytes 8 g.updates

/-- Write the group states and the fallback bitmap into the window at OPT_ADDR (R216). -/
def syncOpt (t : Nat) (s : State) : State :=
  let l := s.lrn t
  let bits := (List.range 64).flatMap (fun i =>
    leBytes 8 (l.fallback.foldl (fun n r => if r / 64 == i then setBitTo n (r % 64) true else n) 0))
  windowWrite t (l.cfg.optAddr + 0x1000) bits
    (windowWrite t l.cfg.optAddr ((List.range 256).flatMap (fun g => gstateBytes (mapGet {} l.gstates g))) s)

/-- Write group `g` into the table at GROUP_ADDR (R187). -/
def syncGroup (t g : Nat) (s : State) : State :=
  windowWrite t ((s.lrn t).cfg.groupAddr + 64 * g) (groupBytes (nth {} (s.lrn t).groups g)) s

end Sys2Proof.Machine
end

