-- ==== Sys2Proof/Machine/RegWords.lean ====
section
/-! DEFINITION. Register words that a context image also holds (R339, R340): the core block (R81 to R84, R345), TRP_VSLOT_A to TRP_FLY_SRC (R241)
and TRP_VERDICT (R186). -/

namespace Sys2Proof.Machine

/-- A register word of fields: lowest bit, width, value. -/
def word (fs : List (Nat × Nat × Nat)) : Nat := (fs.map (fun f => f.2.2 % 2 ^ f.2.1 * 2 ^ f.1)).foldl (· + ·) 0

/-- Flags as a word, bit 0 first. -/
def flags (bs : List Bool) : Nat := (List.zip (List.range bs.length) bs).foldl (fun n e => n + b2n e.2 * 2 ^ e.1) 0

/-- The code of a version slot state (R231). -/
def VState.code : VState → Nat
  | .free => 0 | .filling => 1 | .ready => 2 | .live => 3 | .held => 4

/-- The code of a slot state (R93). -/
def SlotState.code : SlotState → Nat
  | .free => 0 | .prefill => 1 | .ship => 2 | .await => 3 | .decode => 4 | .ending => 5

/-- Core block (R47, R48, R81 to R84, R345). -/
def readCore (k : Core) (o : Nat) : Nat :=
  let r := k.regs
  let a := k.arith
  if o == 0x00 then
    word [(48, 16, r.ndCount), (32, 16, r.lcore), (24, 8, r.troupe), (4, 4, r.state.code), (0, 3, flags [r.ndSeen, r.haltEv, r.fault])]
  else if o == 0x10 then word [(0, 21, r.pc)]
  else if o == 0x18 then word [(56, 8, r.faultCode), (0, 21, r.faultPc)]
  else if o == 0x20 then r.live0.toNat
  else if o == 0x28 then r.live1.toNat
  else if o == 0x100 then flags [a.nf, a.awLow, a.awHigh, a.convSat, a.tagInvalid, a.chunkAlign]
  else if o == 0x108 then word [(48, 16, a.nfCount), (32, 16, a.awCount), (16, 16, a.satCount), (0, 16, a.refuseCount)]
  else 0

/-- TRP_VSLOT_A to TRP_VSLOT_C (R241). -/
def vslotWord (v : VSlot) : Nat := word [(32, 32, v.epoch), (8, 11, v.pinned), (0, 3, v.st.code)]

/-- TRP_VCTRL (R241), with the number of the LIVE slot. -/
def vctrlWord (r : VRegs) (live : Nat) : Nat :=
  word [(10, 1, b2n r.throttled), (9, 1, b2n r.alt), (8, 1, b2n r.lagchk), (4, 4, r.maxLag), (3, 1, b2n r.auto), (2, 1, b2n r.pin), (0, 2, live)]

/-- TRP_FLY_EVT (R241). -/
def flyEvtWord (r : VRegs) : Nat :=
  word [(48, 16, r.waitCnt), (32, 16, r.skippedCnt), (16, 16, r.nfCnt), (0, 5, flags [r.curtain, r.flyWait, r.skipped, r.flyNf, r.throttle])]

/-- TRP_FLY_SRC (R241). -/
def flySrcWord (nextEpoch stallCnt : Nat) (stall busy : Bool) : Nat := word [(32, 32, nextEpoch), (16, 16, stallCnt), (0, 2, flags [stall, busy])]

/-- TRP_VERDICT (R186). -/
def verdictWord (count reasons reason : Nat) (skip valid : Bool) : Nat :=
  word [(32, 32, count), (16, 16, reasons), (8, 8, reason), (0, 2, flags [skip, valid])]

end Sys2Proof.Machine
end

