-- ==== Sys2Proof/Machine/CtxBytes.lean ====
section
/-! DEFINITION. The bytes of a context image (R339, R340): its header, its sections and its digest. Where R339 names a section's content without
its layout the order is the model's (assumption 40). -/

namespace Sys2Proof.Machine

/-- A byte list of exactly `n` bytes: cut, or filled with zeros. -/
def fitBytes (n : Nat) (bs : List Byte) : List Byte := bs.take n ++ List.replicate (n - bs.length) 0

/-! ### Core sections (R340) -/

/-- Live granules of a core (R345). -/
def granuleLive (r : CoreRegs) (g : Nat) : Bool := if g < 64 then bitOf r.live0.toNat g else bitOf r.live1.toNat (g - 64)

/-- Drain-buffer rows in use: those up to the highest that holds a value (R340; assumption 40). -/
def rowsInUse (k : Core) : Nat := min 512 (k.drain.foldl (fun n e => max n (e.1 / 128 + 1)) 0)

/-- The 4,160 bytes of a loaded function table half (R72); `kind` is 0 for the forward table. -/
def tableBytes (kind : Nat) (t : FTable) : List Byte :=
  leBytes 4 t.lo.toNat ++ leBytes 1 (t.wexp % 256).toNat ++ leBytes 1 kind ++ leBytes 2 0 ++ leBytes 4 t.la.toNat ++ leBytes 4 t.lb.toNat ++
    leBytes 4 t.ra.toNat ++ leBytes 4 t.rb.toNat ++ leBytes 40 0 ++ leBytes 4096 t.segs

/-- FN_MASK: the loaded table halves, two bits a slot (R340). -/
def fnMask (k : Core) : Nat := k.slots.foldl (fun n e => setBitTo n e.1 true) 0

/-- The bytes of a core's section in a context image, without its section header (R340). -/
def coreSection (l : Nat) (k : Core) : List Byte :=
  let susp := k.susp.getD (0, 0)
  let plane := fun (p : Plane) => if p.filled then fitBytes 32768 p.data else []
  leBytes 4 l ++ leBytes 1 k.regs.state.code ++ leBytes 1 (flags [k.susp.isSome, k.planeA.filled, k.planeB.filled]) ++
    leBytes 2 (rowsInUse k) ++ leBytes 8 (readCore k 0x10) ++ leBytes 4 (fnMask k) ++ leBytes 8 (readCore k 0x18) ++
    leBytes 8 (readCore k 0x00) ++ leBytes 8 (readCore k 0x100) ++ leBytes 8 (readCore k 0x108) ++ leBytes 8 k.regs.live0.toNat ++
    leBytes 4 k.regs.live1.toNat ++ leBytes 4 susp.1 ++ leBytes 16 susp.2 ++ leBytes 48 0 ++
    (List.range 16).flatMap (fun i => leBytes 8 (k.sGet i).toNat) ++ (List.range 16).flatMap (fun i => leBytes 8 (k.fGet i).toNat) ++
    (List.range 8).flatMap (fun r => leBytes 32 (flags ((List.range 256).map (k.pGet r)))) ++
    (List.range 64).flatMap (fun i => leBytes 8 (k.tagGet i).toNat) ++
    (List.range 8192).flatMap (fun i => leBytes 4 (k.vGet (i / 256) (i % 256)).toNat) ++
    plane k.planeA ++ plane k.planeB ++
    (List.range (rowsInUse k * 128)).flatMap (fun i => leBytes 4 (mapGet 0 k.drain i).toNat) ++
    k.slots.flatMap (fun e => tableBytes (e.1 % 2) e.2) ++
    ((List.range 96).filter (granuleLive k.regs)).flatMap (fun g => (List.range 16384).map (fun i => k.store.read (g * 16384 + i)))

/-! ### Hub sections (R339) -/

/-- One section: its header, its content, and the fill up to the next 16-byte boundary. -/
def ctxSection (kind : Nat) (bs : List Byte) : List Byte :=
  leBytes 4 kind ++ leBytes 4 0 ++ leBytes 8 bs.length ++ fitBytes (roundUp bs.length 16) bs

/-- The 256 bytes of a slot record: state code, pinned version slot, delivered count, request record. -/
def slotBytes (x : Option GSlot) : List Byte :=
  match x with
  | none => leBytes 256 0
  | some y => fitBytes 256 (leBytes 1 y.st.code ++ leBytes 1 y.vslot ++ leBytes 2 0 ++ leBytes 4 y.toks.length ++ leBytes 8 0 ++ reqBytes y.record)

/-- Section 0x01. -/
def sharedSection (i : CtxImage) : List Byte :=
  i.sems.flatMap (leBytes 4) ++
    (List.range 16).flatMap (fun q =>
      let r := nth (0, 0, 0, 0) i.queues q
      leBytes 8 r.1 ++ leBytes 8 (if r.2.2.2 == 0 then 0 else (r.1 + r.2.1) % r.2.2.2) ++ leBytes 8 r.2.2.1 ++ leBytes 8 r.2.2.2) ++
    leBytes 32 i.seed

/-- Section 0x03. -/
def genSection (g : GenCtx) : List Byte :=
  g.queue.flatMap (fun q => reqBytes q.record) ++ (List.range 1024).flatMap (fun n => slotBytes (mapFind g.slots n)) ++
    (List.range 3).flatMap (fun v => leBytes 8 (vslotWord (mapGet {} g.vs v))) ++ leBytes 8 (vctrlWord g.vr g.live) ++ leBytes 8 (flyEvtWord g.vr)

/-- Section 0x04. -/
def lrnSection (l : LrnCtx) : List Byte :=
  leBytes 8 l.step ++ leBytes 8 l.vStep ++ leBytes 8 (verdictWord l.vCount l.vReasons l.vReason l.vSkip l.vValid) ++
    leBytes 8 (flySrcWord l.nextEpoch l.stallCnt l.stall l.busy) ++
    l.gsets.flatMap (fun g => leBytes 8 g.group ++ leBytes 8 g.n ++ groupBytes g.r) ++
    (List.range 256).flatMap (fun g => gstateBytes (mapGet {} l.gstates g))

/-- The sections of an image. -/
def ctxSections (i : CtxImage) : List Byte :=
  ctxSection 0x01 (sharedSection i) ++
    (if i.descs.isEmpty then [] else ctxSection 0x02 (i.descs.flatMap (fun d => leBytes 8 d.1 ++ fitBytes 64 d.2))) ++
    (match i.gen with
      | some g => ctxSection 0x03 (genSection g)
      | none => []) ++
    (match i.lrn with
      | some l => ctxSection 0x04 (lrnSection l)
      | none => []) ++
    (match i.scorer with
      | some (h, k) => ctxSection 0x05 (leBytes 8 h ++ leBytes 8 k)
      | none => []) ++
    i.extra.flatMap (fun e => ctxSection e.1 e.2) ++ i.cores.flatMap (fun e => ctxSection 0x10 (coreSection e.1 e.2))

/-- The 256-byte header of an image with a given DIGEST (R339). -/
def ctxHeader (i : CtxImage) (bytes digest : Nat) : List Byte :=
  leBytes 4 i.magic ++ leBytes 2 i.version ++ leBytes 1 i.cl ++ leBytes 1 i.role ++ leBytes 4 i.cores.length ++ leBytes 1 i.tenant ++
    leBytes 1 i.troupe ++ leBytes 2 0 ++ leBytes 8 bytes ++ leBytes 8 i.tSave ++ leBytes 32 i.dclass ++ leBytes 32 digest ++ leBytes 160 0

/-- The bytes of a context image (R339). -/
def CtxImage.bytes (i : CtxImage) : List Byte :=
  let body := ctxSections i
  ctxHeader i (256 + body.length) i.digest ++ body

/-- The digest of a context image: of its bytes with the field 0 (R339). -/
def CtxImage.sum (i : CtxImage) : Nat := digest32 ({ i with digest := 0 } : CtxImage).bytes

end Sys2Proof.Machine
end

