-- ==== Sys2Proof/Machine/Aes.lean ====
section
/-! DEFINITION. AES-256-GCM, by which long-reach frames are encrypted (R291). The spec names the cipher and the standard defines it. -/

namespace Sys2Proof.Machine

/-! ### The field of 256 elements and the byte substitution -/

/-- Product of two bytes modulo x^8 + x^4 + x^3 + x + 1, over the bits of the first. -/
def byteProduct (a b : Nat) : Nat :=
  ((List.range 8).foldl (fun (acc : Nat × Nat) i =>
    let sum := if a.testBit i then acc.1 ^^^ acc.2 else acc.1
    let twice := 2 * acc.2
    (sum, if 256 ≤ twice then twice ^^^ 0x11B else twice)) (0, b)).1

/-- The reciprocal of a byte, 0 for 0: its 254th power. -/
def byteRecip (a : Nat) : Nat :=
  ((List.range 7).foldl (fun (acc : Nat × Nat) _ => let sq := byteProduct acc.2 acc.2; (byteProduct acc.1 sq, sq)) (1, a)).1

/-- The substitution: the reciprocal under the affine map. -/
def byteSub (a : Nat) : Nat :=
  let r := byteRecip a
  let wide := r * 257
  ([1, 2, 3, 4].foldl (fun (x : Nat) k => x ^^^ (wide >>> (8 - k)) % 256) r) ^^^ 0x63

/-! ### Rounds: a block is 16 bytes, columns of four in order -/

/-- Bitwise sum of byte lists. -/
def xorBytes (a b : List Nat) : List Nat := List.zipWith (fun x y => x ^^^ y) a b

/-- Substitute every byte and rotate row r of the block by r columns. -/
def subShift (b : List Nat) : List Nat :=
  (List.range 16).map (fun i => byteSub (b.getD ((i + 4 * (i % 4)) % 16) 0))

/-- Mix the four bytes of each column. -/
def mixColumns (b : List Nat) : List Nat :=
  (List.range 16).map (fun i =>
    let cell := fun (k : Nat) => b.getD (i / 4 * 4 + (i + k) % 4) 0
    byteProduct 2 (cell 0) ^^^ byteProduct 3 (cell 1) ^^^ cell 2 ^^^ cell 3)

/-- The next word of the key schedule: word `i` from the words before it. -/
def schedWord (ws : List (List Nat)) (i : Nat) : List Nat :=
  let last := ws.getD (i - 1) []
  let turned := if i % 8 == 0 then
      xorBytes ((last.drop 1 ++ last.take 1).map byteSub) [2 ^ (i / 8 - 1), 0, 0, 0]
    else if i % 8 == 4 then last.map byteSub
    else last
  xorBytes (ws.getD (i - 8) []) turned

/-- The 15 round keys of a 32-byte key. -/
def roundKeys (key : List Nat) : List (List Nat) :=
  let first := (List.range 8).map (fun i => (key.drop (4 * i)).take 4)
  let ws := (List.range 52).foldl (fun ws i => ws ++ [schedWord ws (8 + i)]) first
  (List.range 15).map (fun r => ((ws.drop (4 * r)).take 4).flatten)

/-- Encrypt one block under the round keys. -/
def sealBlock (rks : List (List Nat)) (block : List Nat) : List Nat :=
  let start := xorBytes block (rks.getD 0 [])
  let inner := (List.range 13).foldl (fun b i => xorBytes (mixColumns (subShift b)) (rks.getD (i + 1) [])) start
  xorBytes (subShift inner) (rks.getD 14 [])

/-! ### Galois/counter mode -/

/-- The number of a byte list, most significant byte first. -/
def beNum (bs : List Nat) : Nat := bs.foldl (fun n b => 256 * n + b) 0
/-- `n` bytes of a number, most significant first. -/
def beList (n v : Nat) : List Nat := (List.range n).map (fun i => v / 256 ^ (n - 1 - i) % 256)

/-- Product in the field of 2^128 elements, whose constant term is the most significant bit. -/
def hashProduct (x h : Nat) : Nat :=
  ((List.range 128).foldl (fun (acc : Nat × Nat) i =>
    (if x.testBit (127 - i) then acc.1 ^^^ acc.2 else acc.1,
      if acc.2 % 2 == 1 then (acc.2 / 2) ^^^ (0xE1 * 2 ^ 120) else acc.2 / 2)) (0, h)).1

/-- A byte list filled with zeros to whole blocks. -/
def fillBlocks (bs : List Nat) : List Nat := bs ++ List.replicate ((16 - bs.length % 16) % 16) 0

/-- The hash of whole blocks under `h`. -/
def hashBlocks (h : Nat) (bs : List Nat) : Nat :=
  (List.range (bs.length / 16)).foldl (fun y i => hashProduct (y ^^^ beNum ((bs.drop (16 * i)).take 16)) h) 0

/-- Encrypt and authenticate: the ciphertext and the 16-byte tag of a text under a 32-byte key, with a 12-byte IV and data that is only
authenticated. -/
def gcmSeal (key iv aad text : List Nat) : List Nat × List Nat :=
  let rks := roundKeys key
  let pad := fun (i : Nat) => sealBlock rks (iv ++ beList 4 (i + 1))
  let stream := (List.range ((text.length + 15) / 16)).flatMap (fun i => pad (i + 1))
  let ct := xorBytes text stream
  let h := beNum (sealBlock rks (List.replicate 16 0))
  let sizes := beList 8 (8 * aad.length) ++ beList 8 (8 * ct.length)
  (ct, xorBytes (beList 16 (hashBlocks h (fillBlocks aad ++ fillBlocks ct ++ sizes))) (pad 0))

end Sys2Proof.Machine
end

