-- ==== Sys2Proof/Machine/FabOps.lean ====
section
/-! DEFINITION. Ports and packets (R269 to R293): routes, credits, sending, landing, and WAIT_PORT (R281). -/

namespace Sys2Proof.Machine

/-- Cue counts of a microsecond and of a millisecond at 850 MHz. -/
def cyclesUs : Nat := 850
/-- Cue counts of a millisecond. -/
def cyclesMs : Nat := 850000

/-- Port `p`. -/
def State.port (s : State) (p : Nat) : Port := mapGet {} s.fab.ports p
/-- Change port `p`. -/
def State.modPort (s : State) (p : Nat) (f : Port → Port) : State :=
  { s with fab.ports := mapPut s.fab.ports p (f (s.port p)) }

/-- The variant record that fixes the module's clusters, stacks and ports (R17): the one in force, before boot has read it the one in
flash, which no command writes. -/
def variantRec (s : State) : ModRecord :=
  match s.bt.force.modRec, s.bt.flash.modRec with
  | none, some r => r.body
  | _, _ => s.record

/-- Is port `p` enabled by the variant record (R17, R405)? -/
def portEnabled (s : State) (p : Nat) : Bool := p < 18 && bitOf (variantRec s).portMask p

/-- Do THL and ports train: the boot ROM has not stopped (R403, R411)? -/
def linksRun (s : State) : Bool := !(s.boot == .rom && s.bt.regs.stopCode != 0)

/-- Is the plug-in of a port left unpowered: it declares more than 20 W (R475)? A cage whose port is UNUSED is unpowered too; that port
is OFF. -/
def plugDark (s : State) (p : Nat) : Bool :=
  match mapFind s.hw.plugs p with
  | some w => 20 < w
  | none => false

/-- Lanes of the quarters that locked (R275). -/
def widthOf (q : Nat) : Nat :=
  let n := b2n (bitOf q 0) + b2n (bitOf q 1) + b2n (bitOf q 2) + b2n (bitOf q 3)
  if n == 4 then 16 else if 2 ≤ n then 8 else if n == 1 then 4 else 0

/-- Lanes of a MIN_WIDTH code (R301). -/
def minLanes (m : Nat) : Nat := if m == 0 then 4 else if m == 1 then 8 else 16

/-- The table entry of a tag on a port; tag 0xFFF is the hub's and present on every port in use (R282). -/
def Port.tagEnt (x : Port) (ltag : Nat) : Option TagEnt :=
  if ltag == 0xFFF then some { ltag := 0xFFF, troupe := 255, credits := 64 } else x.cfg.tags.find? (fun e => e.ltag == ltag)

/-- Does port `x` carry traffic of a tag now: UP, in a role that carries it, the tag in its table and accepted by the peer
(R269, R274, R282, R293)? -/
def Port.carries (x : Port) (ltag : Nat) : Bool :=
  x.st == .up && (x.cfg.role == 1 || x.cfg.role == 3 || (x.cfg.role == 2 && x.subLmid.isSome)) && (x.tagEnt ltag).isSome &&
    !x.barred.contains ltag && (x.cfg.role != 3 || ltag == 0xFFF || (mapFind x.active ltag).isSome)

/-- Credits of a tag that the port holds (R283). -/
def Port.credit (x : Port) (ltag : Nat) : Nat := mapGet 0 x.credits ltag

/-- The full allocations of a port's tags, as a casting gives them (R282). -/
def fullCredits (c : PortCfg) : Map Nat := c.tags.foldl (fun m e => mapPut m e.ltag e.credits) [(0xFFF, 64)]

/-- The usable ports of a destination's route (R279). -/
def routePorts (s : State) (dest ltag : Nat) : List Nat :=
  (mapGet [] s.fab.routes dest).filter (fun p => (s.port p).carries ltag)

/-- The number of a packet kind in a packet header. -/
def pktCode : PktKind → Nat
  | .write => 0 | .readReq => 1 | .readData => 2 | .ack => 3 | .collUp => 4 | .collDown => 5

/-! ### Flit numbers (R271): 32 bits that wrap -/

/-- How far SEQ `b` lies behind `a`, counted modulo 2^32. -/
def seqDist (a b : Nat) : Nat := (b + 4294967296 - a % 4294967296) % 4294967296

/-- Is SEQ `a` before SEQ `b`, counted modulo 2^32? -/
def seqBefore (a b : Nat) : Bool := 0 < seqDist a b && seqDist a b < 2147483648

/-- The SEQ after `a`. -/
def seqNext (a : Nat) : Nat := (a + 1) % 4294967296

/-- ACK: the highest SEQ received in order; on a long-reach port a flit counts once its frame has authenticated, since a failed frame is
asked for again from the replay window, whose slots ACK releases (R271, R287, R293; assumption 67). -/
def ackSeq (x : Port) : Nat :=
  ((match x.inord with
    | f :: _ => f.seqNo
    | [] => x.rxSeq) + 4294967295) % 4294967296

/-! ### The bytes of packets and flits (R271) -/

/-- The bytes of a packet: its 32-byte header, whose layout is free (assumption 75), and its data. -/
def pktBytes (k : Packet) : List Byte :=
  (List.range 32).map (Config.packetHeader ([pktCode k.kind, k.src, k.core, k.desc, k.addr, k.offset, k.total, b2n k.notify] ++ k.vals)) ++ k.data

/-- How many bytes a packet has. -/
def pktSpan (k : Packet) : Nat := 32 + k.data.length

/-- The bytes of a part of a packet. -/
def segBytes (g : Seg) : List Byte := ((pktBytes g.pkt).drop g.off).take g.len

/-- The total of the parts of packets in a flit. -/
def segsLen (gs : List Seg) : Nat := gs.foldl (fun n g => n + g.len) 0

/-- The 16 bytes of a flit header (R271); bit 0 of `flags` is LAST, bit 1 KEYSEL. -/
def flitHead (seq ack ltag kind dest flags crTag crCount : Nat) : List Byte :=
  leBytes 4 seq ++ leBytes 4 ack ++ leBytes 2 (ltag % 4096 + 4096 * kind) ++ leBytes 2 (dest % 4096 + 4096 * flags) ++ leBytes 2 crTag ++
    leBytes 2 crCount

/-- The message that a data flit is: its header, with the ACK of the moment, and its payload. -/
def flitMsg (p : Nat) (x : Port) (f : SentFlit) : FabMsg :=
  { kind := "flit", dest := p, vals := [f.seqNo, f.ltag, f.dest]
    data := flitHead f.seqNo (ackSeq x) f.ltag 0 f.dest (b2n f.last + 2 * f.keysel) 0 0 ++ f.payload }

/-- A flit of another kind: it takes no SEQ of its own and shows the next one (assumption 75). -/
def linkMsg (p : Nat) (x : Port) (kind : Nat) (name : String) (crTag crCount : Nat) (vals : List Nat) : FabMsg :=
  { kind := name, dest := p, vals := vals, data := flitHead x.txSeq (ackSeq x) 0xFFF kind x.cfg.peerLmid 0 crTag crCount }

/-- Send a flit of another kind on port `p`. -/
def sendLink (p kind : Nat) (name : String) (crTag crCount : Nat) (vals : List Nat) (s : State) : State :=
  sendFab (linkMsg p (s.port p) kind name crTag crCount vals) s

/-- Return one credit of a tag in a CR_LTAG and CR_COUNT pair (R283). -/
def returnCredit (p ltag : Nat) (s : State) : State := sendLink p 1 "credit" ltag 1 [ltag, 1] s

/-- Ask for flit SEQ again (R271, R289). -/
def askAgain (p seq : Nat) (s : State) : State := sendLink p 5 "replay_req" 0 0 [seq] s

/-- Charge payload sent on ports to a troupe (R331, R344). -/
def chargeTx (t n : Nat) (s : State) : State :=
  if t < 64 then
    s.modTroupe t (fun (x : Troupe) => { x with regs.acct.fabTx := (x.regs.acct.fabTx + n) % 2 ^ 64 })
  else s

/-- Charge payload received on ports. -/
def chargeRx (t n : Nat) (s : State) : State :=
  if t < 64 then
    s.modTroupe t (fun (x : Troupe) => { x with regs.acct.fabRx := (x.regs.acct.fabRx + n) % 2 ^ 64 })
  else s

/-! ### Replay window and landing space of a long-reach port (R287) -/

/-- Slots of a long-reach window (R287, R288). -/
def lrSlots (c : PortCfg) : Nat := c.win * 0x80000

/-- The stacks of PORT_LR.STACKS, ascending. -/
def lrStacks (c : PortCfg) : List Nat := (List.range 20).filter (bitOf c.stks)

/-- The 2 MiB pages of one area of a port that lie on stack `n`: pages go round the stacks. -/
def areaPages (c : PortCfg) (n : Nat) : Nat :=
  let ks := lrStacks c
  if c.role == 3 && ks.contains n then (c.win * 128 + ks.length - 1 - (ks.takeWhile (fun k => k != n)).length) / ks.length else 0

/-- The physical address of slot `i` of port `p`'s replay window or landing space: in a stack's replay-window region lie the window and the
landing space of P16, then those of P17 (R245, R287; assumption 75). -/
def slotAddr (s : State) (p : Nat) (landing : Bool) (i : Nat) : Nat :=
  let c := (s.port p).cfg
  let ks := lrStacks c
  let slot := i % lrSlots c
  let page := slot / 4096
  let n := nth 0 ks (page % ks.length)
  let before := (if p == 17 then 2 * areaPages (s.port 16).cfg n else 0) + (if landing then areaPages c n else 0)
  let base := stackBytes - ((s.stack n).spare + (s.stack n).replay) * 0x10000000
  n * stackBytes + base + (before + page / ks.length) * 0x200000 + slot % 4096 * 512

/-- Keep a flit's header and payload in its slot; a short-reach port keeps them on die. -/
def keepSlot (p : Nat) (landing : Bool) (i : Nat) (bytes : List Byte) (s : State) : State :=
  if (s.port p).cfg.role == 3 then hubWrite s (slotAddr s p landing i) bytes else s

/-! ### Sending (R278 to R280, R283) -/

/-- Of two ports the one that has been given less for its width; the first when they are alike (R279). -/
def lighter (s : State) (a b : Nat) : Nat :=
  if (s.port b).load * (s.port a).width < (s.port a).load * (s.port b).width then b else a

/-- Give a waiting part to a port: to the one it has while that is usable, else to the lightest of the usable ports of its route; without
one it waits from now (R278 to R280). -/
def placeItem (x : TxFlit) (s : State) : TxFlit × State :=
  let ps := routePorts s x.dest x.ltag
  let old := ps.filter (fun p => x.port == some p)
  match old, ps with
  | p :: _, _ => ({ x with port := some p, since := none }, s)
  | [], [] => ({ x with port := none, since := some (x.since.getD s.cue) }, s)
  | [], p :: more =>
    let q := more.foldl (lighter s) p
    ({ x with port := some q, since := none }, s.modPort q (fun y => { y with load := y.load + x.len }))

/-- Give every waiting part to a port. -/
def placeAll : List TxFlit → State → List TxFlit × State
  | [], s => ([], s)
  | x :: rest, s =>
    let (x1, s1) := placeItem x s
    let (more, s2) := placeAll rest s1
    (x1 :: more, s2)

/-- How many more flits may be sent unacknowledged: 4,096 on short reach, the replay window on long reach (R277, R287). -/
def sendRoom (x : Port) : Nat := (if x.cfg.role == 3 then lrSlots x.cfg else 4096) - x.sent.length

/-- What one flit takes of parts that are packed back to back, up to `cap` bytes: the parts it carries, what is left, and the landing slots of
flits in transit that it frees. -/
def takeSegs : Nat → List TxFlit → List Seg × List TxFlit × List Nat
  | _, [] => ([], [], [])
  | cap, x :: xs =>
    if cap == 0 then ([], x :: xs, [])
    else if x.len ≤ cap then
      let (gs, left, free) := takeSegs (cap - x.len) xs
      ({ pkt := x.pkt, off := x.off, len := x.len } :: gs, left, x.owed.toList ++ free)
    else ([{ pkt := x.pkt, off := x.off, len := cap }], { x with off := x.off + cap, len := x.len - cap } :: xs, [])

/-- A flit that is going to be sent. -/
structure FlitPlan where
  dest   : Nat
  troupe : Nat
  last   : Bool
  segs   : List Seg
  free   : List Nat

/-- The flits of one frame of one tag: at most `n`, and at most `cr` for want of credits. A flit carries 400 payload bytes for one
destination; the last of an encrypted frame, `lr`, leaves 16 of them to the GCM tag (R271, R291). -/
def planFrame (lr : Bool) : Nat → Nat → List TxFlit → List FlitPlan × List TxFlit
  | 0, _, xs => ([], xs)
  | _ + 1, _, [] => ([], [])
  | n + 1, cr, x :: xs =>
    let run := (x :: xs).takeWhile (fun y => y.dest == x.dest)
    let others := (x :: xs).dropWhile (fun y => y.dest == x.dest)
    let more := 2 ≤ cr && n != 0
    let whole := !lr || (more && (400 < run.foldl (fun k y => k + y.len) 0 || !others.isEmpty))
    let (gs, left, free) := takeSegs (if whole then 400 else 384) run
    let rest := left ++ others
    let last := !more || rest.isEmpty
    let f : FlitPlan := { dest := x.dest, troupe := x.troupe, last := lr && last, segs := gs, free := free }
    if last then ([f], rest)
    else
      let (fs, end_) := planFrame lr n (cr - 1) rest
      (f :: fs, end_)

/-- The payload of a flit before encryption, filled with zeros (assumption 75). -/
def planBytes (f : FlitPlan) : List Byte :=
  let bs := f.segs.flatMap segBytes
  bs ++ List.replicate ((if f.last then 384 else 400) - bs.length) 0

/-- Cut a byte list into flit payloads of 400 bytes. -/
def payloads : Nat → List Byte → List (List Byte)
  | 0, _ => []
  | n + 1, bs => bs.take 400 :: payloads n (bs.drop 400)

/-- The 96-bit IV of a frame: LMID, tag, port and the frame counter (R291), the most significant byte first (assumption 75). -/
def frameIv (lmid ltag p counter : Nat) : Nat := lmid % 4096 * 2 ^ 84 + ltag % 4096 * 2 ^ 72 + p % 2 * 2 ^ 71 + counter % 2 ^ 64

/-- The authenticated data of a frame: its flit headers with SEQ, ACK, CR_LTAG and CR_COUNT set to 0 (R291). -/
def frameAad (ltag keysel : Nat) (fs : List FlitPlan) : List Byte :=
  fs.flatMap (fun f => flitHead 0 0 ltag 0 f.dest (b2n f.last + 2 * keysel) 0 0)

/-- Bytes as numbers. -/
def natsOf (bs : List Byte) : List Nat := bs.map (fun b => b.toNat)

/-- The payloads of a frame: in clear on short reach, else under the key of the tag's active slot, the GCM tag last (R291, R292). -/
def sealFrame (lr : Bool) (lmid p ltag : Nat) (x : Port) (fs : List FlitPlan) : List (List Byte) :=
  if !lr then fs.map planBytes
  else
    let slot := mapGet 0 x.active ltag
    let key := natsOf (leBytes 32 (mapGet 0 x.keys (2 * ltag + slot)))
    let (ct, tag) := gcmSeal key (beList 12 (frameIv lmid ltag p (mapGet 0 x.frames ltag))) (natsOf (frameAad ltag slot fs)) (natsOf (fs.flatMap planBytes))
    payloads fs.length ((ct ++ tag).map (fun b => BitVec.ofNat 8 b))

/-- The flits of a frame with their numbers, from SEQ `n`. -/
def numberFrame (ltag keysel : Nat) : Nat → List FlitPlan → List (List Byte) → List SentFlit
  | n, f :: fs, b :: bs =>
    { seqNo := n, last := f.last, keysel := keysel, ltag := ltag, dest := f.dest, troupe := f.troupe, segs := f.segs, payload := b } ::
      numberFrame ltag keysel (seqNext n) fs bs
  | _, _, _ => []

/-- Put a data flit on the line; it stays in the replay buffer or window (R277, R287). -/
def sendFlit (p : Nat) (s : State) (f : SentFlit) : State :=
  let m := flitMsg p (s.port p) f
  chargeTx f.troupe (segsLen f.segs) (keepSlot p false f.seqNo m.data (sendFab m s))

/-- Send the flits of one frame of tag `ltag` on port `p`: each spends a credit and takes the next SEQ (R271, R283, R291). -/
def sendFrame (p ltag : Nat) (s : State) : State :=
  let x := s.port p
  let lr := x.cfg.role == 3 && ltag != 0xFFF
  let mine := fun (i : TxFlit) => i.port == some p && i.ltag == ltag
  let (fs, rest) := planFrame lr 32 (min (x.credit ltag) (sendRoom x)) (s.fab.tx.filter mine)
  let flits := numberFrame ltag (mapGet 0 x.active ltag) x.txSeq fs (sealFrame lr s.lmid p ltag x fs)
  let s1 := { s with fab.tx := rest ++ s.fab.tx.filter (fun i => !mine i) }
  let s2 := s1.modPort p (fun x =>
    { x with txSeq := (x.txSeq + flits.length) % 4294967296, sent := x.sent ++ flits
             credits := mapPut x.credits ltag (x.credit ltag - flits.length)
             frames := (if lr then mapMod 0 x.frames ltag (fun n => n + 1) else x.frames) })
  (fs.flatMap (fun f => f.free)).foldl (fun s q => returnCredit q ltag s) (flits.foldl (sendFlit p) s2)

/-- May a part be sent on port `p` now? -/
def sendable (s : State) (p : Nat) (i : TxFlit) : Bool :=
  i.port == some p && 0 < (s.port p).credit i.ltag && 0 < sendRoom (s.port p)

/-- Send what credits and room allow on port `p`, frame by frame, by fuel. -/
def pumpPort (p : Nat) : Nat → State → State
  | 0, s => s
  | n + 1, s =>
    match s.fab.tx.find? (sendable s p) with
    | none => s
    | some i => pumpPort p n (sendFrame p i.ltag s)

/-- Is a waiting part one that a descriptor of this module sends? -/
def ownItem (s : State) (c id : Nat) (x : TxFlit) : Bool :=
  x.pkt.src == s.lmid && x.pkt.core == c && x.pkt.desc == id && x.pkt.kind != .ack && x.pkt.kind != .readData

/-- A collective whose parts are done ends once all that it sends has left (R280, R296). -/
def settleRun (s : State) (r : CollRun) : State :=
  if r.waits.isEmpty && !s.fab.tx.any (ownItem s r.core r.desc) then
    setStage r.core r.desc (.done r.status) { s with fab.runs := s.fab.runs.erase r }
  else s

/-- End the collectives that have nothing left to do. -/
def settleRuns (s : State) : State := s.fab.runs.foldl settleRun s

/-- Send everything that a usable port and a credit let go. -/
def pump (s : State) : State :=
  let (xs, s1) := placeAll s.fab.tx s
  let fuel := xs.length + xs.foldl (fun n x => n + x.len) 0 / 384
  settleRuns ((List.range 18).foldl (fun s p => pumpPort p fuel s) { s1 with fab.tx := xs })

/-- Queue packets for a destination and send what can go. -/
def sendPkts (dest ltag t : Nat) (ps : List Packet) (s : State) : State :=
  pump { s with
    fab.tx := s.fab.tx ++ ps.map (fun k => ({ dest := dest, ltag := ltag, troupe := t, pkt := k, len := pktSpan k } : TxFlit)) }

/-- Flits that a port holds unacknowledged go to the ports of their routes (R278). -/
def requeue (p : Nat) (s : State) : State :=
  let xs := (s.port p).sent.flatMap (fun f =>
    f.segs.map (fun g => ({ dest := f.dest, ltag := f.ltag, troupe := f.troupe, pkt := g.pkt, off := g.off, len := g.len } : TxFlit)))
  { s.modPort p (fun x => { x with sent := [] }) with fab.tx := xs ++ s.fab.tx }

/-- Packets of up to 4,096 bytes of a byte list with its flags, by fuel. -/
def packets (base : Packet) : Nat → Nat → List Byte → List Bool → List Packet
  | 0, _, _, _ => []
  | k + 1, off, bs, fs =>
    if bs.isEmpty then []
    else { base with offset := off, data := bs.take 4096, bad := fs.take 4096 } ::
      packets base k (off + 4096) (bs.drop 4096) (fs.drop 4096)

/-- The packets of a whole stream; one empty packet for a stream of no bytes. -/
def streamOf (base : Packet) (bs : List Byte) (fs : List Bool) : List Packet :=
  let b := { base with total := bs.length }
  if bs.isEmpty then [b] else packets b (bs.length / 4096 + 1) 0 bs (if fs.any (fun x => x) then fs else [])

/-! ### WAIT_PORT (R281) -/

/-- Is port `p` usable for the troupes that require it? -/
def portReady (s : State) (p : Nat) : Bool := (s.port p).st == .up

/-- Ports that troupe `t` requires: REQUIRED is set and a tag of the port maps to it. -/
def requiredPorts (s : State) (t : Nat) : List Nat :=
  (s.fab.ports.filter (fun e => e.2.cfg.required && e.2.cfg.tags.any (fun g => g.troupe == t))).map (·.1)

/-- Put a resident troupe into WAIT_PORT, or back, as its required ports stand (R281). -/
def settlePort (s : State) (t : Nat) : State :=
  let st := (s.troupe t).regs.state
  let ok := (requiredPorts s t).all (portReady s)
  if st == .resident && !ok then
    raiseEvent evWaitPort t [] (s.modTroupe t (fun (x : Troupe) => { x with regs.state := .waitPort }))
  else if st == .waitPort && ok then s.modTroupe t (fun (x : Troupe) => { x with regs.state := .resident })
  else s

/-- Shares are kept anew, since widths are read again whenever a port changes state (R279). -/
def resetLoads (s : State) : State := { s with fab.ports := s.fab.ports.map (fun e => (e.1, { e.2 with load := 0 })) }

/-- After a port changes state: troupes settle, packets go where they can, and a follower whose parent port left UP unlocks
(R312). -/
def portChanged (s : State) : State :=
  let s1 := pump (resetLoads ((s.troupes.map (·.1)).foldl settlePort s))
  if s1.cueRegs.lock && !s1.cueRegs.master && (s1.port s1.cueRegs.parent).st != .up then unlockCue s1 else s1

/-! ### Acknowledgements (R286) -/

/-- Does a write of the descriptor still wait for a pending page (R357)? -/
def stillStalled (s : State) (a : AckDue) : Bool := s.mem.stalled.any (fun w => w.owner == .remote a.dest a.core a.desc)

/-- Answer one finished descriptor of another module: NOTIFY raises the NSEM that this module's casting binds to the tag, then
the acknowledgement is sent. -/
def answerAck (s : State) (a : AckDue) : State :=
  let s1 := match a.nsem with
    | some n => if semNamed s a.troupe n then semAdd a.troupe n 1 s else s
    | none => s
  sendPkts a.dest a.ltag a.troupe [{ kind := .ack, src := s.lmid, core := a.core, desc := a.desc, vals := [a.status] }] s1

/-- Does a write that a credit waits for still wait for a pending page? -/
def writeHeld (s : State) (w : Nat × Nat × Nat) : Bool := s.mem.stalled.any (fun x => x.owner == .remote w.1 w.2.1 w.2.2)

/-- Return the credits whose landing slots are free (R283). -/
def settleOwed (s : State) : State :=
  let os := s.fab.owed.map (fun o => { o with writes := o.writes.filter (writeHeld s) })
  let (go, wait) := os.partition (fun o => o.writes.isEmpty && o.nodes.isEmpty)
  go.foldl (fun s o => returnCredit o.port o.ltag s) { s with fab.owed := wait }

/-- Answer every acknowledgement whose writes are readable, and free their landing slots. -/
def settleAcks (s : State) : State :=
  let (wait, go) := s.fab.acks.partition (stillStalled s)
  settleOwed (go.foldl answerAck { s with fab.acks := wait })

/-! ### Streams -/

/-- The key of a packet's stream. -/
def pktKey (k : Packet) : Nat × Nat × Nat × Nat × Nat := (k.src, k.core, k.desc, pktCode k.kind, if k.kind == .write then 0 else k.addr)

/-- The stream of a key. -/
def gatherOf (s : State) (key : Nat × Nat × Nat × Nat × Nat) : Gather :=
  match s.fab.gathers.find? (fun g => g.key == key) with
  | some g => g
  | none => { key := key }

/-- Record one more packet of a stream. -/
def addPart (k : Packet) (keep : Bool) (status : Nat) (s : State) : Gather × State :=
  let g := gatherOf s (pktKey k)
  let g' := { g with got := g.got + k.data.length
                     parts := (if keep then mapPut g.parts k.offset (k.data, if k.bad.isEmpty then k.data.map (fun _ => false) else k.bad) else g.parts)
                     status := (if g.status == 0 then status else g.status) }
  let rest := s.fab.gathers.filter (fun x => x.key != pktKey k)
  (g', { s with fab.gathers := (if g'.got < k.total then g' :: rest else rest) })

/-- The bytes and flags of a complete stream. -/
def Gather.bytes (g : Gather) : List Byte × List Bool := (g.parts.flatMap (fun e => e.2.1), g.parts.flatMap (fun e => e.2.2))

/-- The end-to-end identity of a packet (R271, R278). -/
def pktIdent (k : Packet) : PktIdent := (k.src, k.core, k.desc, pktCode k.kind, k.addr, k.offset)

/-- A discarded flit is counted (R284). -/
def countDiscard (p : Nat) (s : State) : State := s.modPort p (fun x => { x with tag := true, tagCnt := inc16 x.tagCnt })

/-- A discarded flit: its credit returns and it is counted (R284). -/
def discardFlit (p ltag : Nat) (s : State) : State := returnCredit p ltag (countDiscard p s)

/-- What lies in a span and outside another. -/
def cutSpan (b : Nat × Nat) (a : Nat × Nat) : List (Nat × Nat) :=
  let hi := max a.1 (b.1 + b.2)
  (if a.1 < b.1 then [(a.1, min a.2 (b.1 - a.1))] else []) ++ (if b.1 + b.2 < a.1 + a.2 then [(hi, a.1 + a.2 - hi)] else [])

/-- What of a span no span of a list covers. -/
def freshSpans (cov : List (Nat × Nat)) (a : Nat × Nat) : List (Nat × Nat) := cov.foldl (fun xs b => xs.flatMap (cutSpan b)) [a]

/-- What has arrived of a packet that is not complete. -/
def coverage (s : State) (i : PktIdent) : List (Nat × Nat) :=
  match s.fab.parts.find? (fun e => e.ident == i) with
  | some e => e.spans
  | none => []

/-- `n` data bytes of a packet from byte `o`. -/
def slicePkt (k : Packet) (o n : Nat) : Packet :=
  { k with addr := k.addr + o, offset := k.offset + o, data := (k.data.drop o).take n, bad := (k.bad.drop o).take n }

/-- Data bytes of a remote write land for the troupe of a tag (R265, R284 to R286): `n` bytes of packet `k` from byte `o`; the flag says that
they are discarded, since the packet addresses what the troupe does not map writable. -/
def landWrite (e : TagEnt) (k : Packet) (o n : Nat) (s : State) : State × Bool :=
  let nack := fun (st : Nat) (s : State) =>
    sendPkts k.src e.ltag e.troupe [{ kind := .ack, src := s.lmid, core := k.core, desc := k.desc, vals := [st] }] s
  let w := slicePkt k o n
  match (if k.addr + k.data.length ≤ 0x10000000000 then troupeRange s e.troupe k.addr k.data.length true
      else .error { status := stRemoteRange }), troupeRange s e.troupe w.addr w.data.length true with
  | .ok whole, .ok ls =>
    if locsMeetShard s none whole then (nack stShardRo s, false)
    else
      let fs := if w.bad.isEmpty then w.data.map (fun _ => false) else w.bad
      let (s1, part) := writeAllFlagged (.remote k.src k.core k.desc) s ls w.data fs
      let (g, s2) := addPart w false (if part || fs.any (fun b => b) then stMemUe else 0) s1
      let s3 := chargeStacks e.troupe 0 (stackBytesOf ls) s2
      let due : AckDue :=
        { dest := k.src, ltag := e.ltag, core := k.core, desc := k.desc, status := g.status, troupe := e.troupe,
          nsem := (if k.notify then some e.nsem else none) }
      (settleAcks (if g.got < k.total then s3 else { s3 with fab.acks := s3.fab.acks ++ [due] }), false)
  | _, _ => (nack stRemoteRange s, true)

/-- Source ranges from the flat list of a read request. -/
def pairsOf : List Nat → List (Nat × Nat)
  | a :: n :: rest => (a, n) :: pairsOf rest
  | _ => []

/-- A read request lands: the ranges go back as data, or REMOTE_RANGE when the troupe may not read them (R285). -/
def landRead (e : TagEnt) (k : Packet) (s : State) : State :=
  let rs := pairsOf k.vals
  match (if rs.all (fun r => r.1 + r.2 ≤ 0x10000000000) then rangesLocs s e.troupe false rs else .error { status := stRemoteRange }) with
  | .error _ => sendPkts k.src e.ltag e.troupe [{ kind := .ack, src := s.lmid, core := k.core, desc := k.desc, vals := [stRemoteRange] }] s
  | .ok ls =>
    let base : Packet := { kind := .readData, src := s.lmid, core := k.core, desc := k.desc }
    chargeStacks e.troupe (stackBytesOf ls) 0 (sendPkts k.src e.ltag e.troupe (streamOf base (readLocs s ls) (flagsOf s ls)) (findErrors ls s))

/-- The stage of a descriptor of core `c` whose packets are on their way. -/
def isSent (s : State) (c id : Nat) : Bool :=
  match descOf s c id with
  | some d => d.stage == .sent
  | none => false

/-- An acknowledgement reaches the posting core (R286). -/
def landAck (k : Packet) (s : State) : State :=
  if isSent s k.core k.desc then setStage k.core k.desc (.done (k.vals.headD 0)) s else s

/-- The move kind that the tags of a remote descriptor give: a conversion where they differ, else a copy with its scales
(R285). -/
def remoteKind (ta td : Word) : MoveKind := if tagFmt ta == tagFmt td && tagBS ta == tagBS td && tagPS ta == tagPS td && tagBAX ta == tagBAX td && tagTS ta == tagTS td then .copyTag else .convert

/-- The data of a remote read is complete at the posting core: it is converted and written there (R285). -/
def finishRead (c id : Nat) (bytes : List Byte) (fs : List Bool) (s : State) : State :=
  match descOf s c id with
  | none => s
  | some p =>
    if p.stage != .sent then s
    else
      let d := Desc.ofBytes p.raw
      let k := s.core c
      let t := k.regs.troupe
      let ta := k.tagGet d.stag
      let td := k.tagGet d.dtag
      let kind := remoteKind ta td
      let o := moveOut kind ta td d bytes fs
      match writeRanges s t o.ranges with
      | .error f => let (s1, st) := refuseAccess t f s; setStage c id (.done st) s1
      | .ok dst =>
        let (s1, part) := writeAllFlagged (.desc c id) s dst o.bytes o.flags
        let s2 := s1.modCore c (fun (k : Core) => k.tagPut d.dtag (moveTag kind ta td o.rep))
        let s3 := noteArith c { nf := o.rep.nf, sat := o.rep.sat } s2
        setStage c id (.done (if fs.any (fun b => b) || part then stMemUe else stOk)) (chargeStacks t 0 (stackBytesOf dst) s3)

end Sys2Proof.Machine
end

