-- ==== Sys2Proof/Machine/Cue.lean ====
section
/-! DEFINITION. The Cue follower (R311, R312) and the messages and counts of Cue barriers (R316 to R319). -/

namespace Sys2Proof.Machine

/-! ### The follower -/

/-- CUE_EXCHANGE: a follower exchanges timestamps, in ps, with its parent over a short-reach port (R311, R312); over long reach the ranging
exchanges take its place. -/
def execCueExchange (t1 t2 t3 t4 : Nat) (s : State) : Host.Outcome State Fault Refusal :=
  engine (fun s =>
    let p := s.cueRegs.parent
    if s.cueRegs.master || (s.port p).st != .up || (s.port p).cfg.role == 3 then s else takeEstimate (cueOffset p t1 t2 t3 t4) s) s

/-- CUE_EXCHANGE_TIMEOUT: no exchange has completed for 1 ms (R312). -/
def execCueExchangeTimeout (s : State) : Host.Outcome State Fault Refusal :=
  engine (fun s => if s.cueRegs.lastX + cyclesMs ≤ s.cue then unlockCue s else s) s

/-! ### Barriers -/

/-- BARRIER_ARRIVAL: the arrival of child rank `child` reaches troupe `t`'s node of barrier `b`; one for the next instance waits
until the release of the current one has been sent (R316). -/
def execBarrierArrival (t b child : Nat) (steps : Option (Nat × Nat)) (s : State) : Host.Outcome State Fault Refusal :=
  engine (fun s =>
    let x := s.bar t b
    if x.kids.contains child then
      s.setBar t b { x with nextKids := x.nextKids ++ [child], nextSteps := joinSteps x.nextSteps steps }
    else barrierForward t b (s.setBar t b { x with kids := x.kids ++ [child], steps := joinSteps x.steps steps })) s

/-- BARRIER_T_REL_ARRIVAL: the release reaches a member, which passes it to its children; one whose count has passed is late
(R316, R317). -/
def execBarrierTRelArrival (t b rel : Nat) (steps : Option (Nat × Nat)) (s : State) : Host.Outcome State Fault Refusal :=
  engine (fun s =>
    match barrierEnt s t b with
    | none => s
    | some e =>
      match treeAt s e.tree t with
      | none => s
      | some (tr, g, r) =>
        if !(s.bar t b).sent then s
        else
          let s1 := sendRelease t b rel steps tr g r s
          if rel < s.cue then lateCue t b rel s1 else s1) s

/-- The node of a member after its release: the next instance (R316). -/
def nextInstance (x : BarState) : BarState :=
  { x with instNo := x.instNo + 1, arrived := false, lastRel := x.tRel.getD x.lastRel, tRel := none, stalled := false, relSteps := none }

/-- BARRIER_RELEASE: the count has reached T_REL, and the member releases its waiting cores (R316). The release of a checkpoint
barrier is the cut's (R354). -/
def execBarrierRelease (t b : Nat) (s : State) : Host.Outcome State Fault Refusal :=
  engine (fun s =>
    let x := s.bar t b
    match x.tRel with
    | some r =>
      if r ≤ s.cue && !cutBarrier s t b then releaseCores t b r (s.setBar t b (nextInstance x)) else s
    | none => s) s

/-- LMIDs of the children whose arrival is missing at troupe `t`'s node of `b`. -/
def missingKids (s : State) (t b : Nat) : List Nat :=
  match barrierEnt s t b with
  | none => []
  | some e =>
    match treeAt s e.tree t with
    | none => []
    | some (tr, g, r) =>
      ((treeKids tr r).filter (fun k => !(s.bar t b).kids.contains k)).map (fun k => (nth (0, 0) g.members k).1)

/-- CUE_STALL: a member has waited at `b` for BTIMEOUT since its own arrival (R318). -/
def execCueStall (t b : Nat) (s : State) : Host.Outcome State Fault Refusal :=
  engine (fun s =>
    let x := s.bar t b
    match barrierEnt s t b with
    | none => s
    | some e =>
      if x.arrived && x.tRel.isNone && !x.stalled && x.arrivedAt + e.btimeout * cyclesMs ≤ s.cue then
        let s1 := s.setBar t b { x with stalled := true }
        raiseEvent evCueStall t (leBytes 1 b ++ (missingKids s t b).flatMap (fun l => leBytes 2 l))
          { s1 with cueRegs.stall := true, cueRegs.stallCnt := inc16 s1.cueRegs.stallCnt }
      else s) s

/-- CUE_EVT_CLR: the Cue counters return to 0 (R319). -/
def execCueEvtClr (s : State) : Host.Outcome State Fault Refusal :=
  regWrite (fun s => { s with cueRegs.lateCnt := 0, cueRegs.stallCnt := 0, cueRegs.unlockCnt := 0 }) s

end Sys2Proof.Machine
end

