-- ==== Sys2Proof/Machine/Coll.lean ====
section
/-! DEFINITION. Collectives (R296 to R300, R307 to R310): their descriptors, the nodes of their trees, and what they deliver. -/

namespace Sys2Proof.Machine

/-- A collective descriptor (R296). -/
structure CollDesc where
  src    : Nat
  dst    : Nat
  elems  : Nat
  group  : Nat
  tree   : Nat
  coll   : Nat
  red    : Nat
  root   : Nat
  inst   : Nat
  stag   : Nat
  dtag   : Nat
  sem    : Nat
  flags  : Nat
  cntAt  : Nat
  lcount : Nat
  rsv    : Nat
  deriving DecidableEq, Repr

/-- Its fields. -/
def CollDesc.ofBytes (b : List Byte) : CollDesc :=
  { src := rawField b 0 8, dst := rawField b 8 8, elems := rawField b 0x10 8, group := rawField b 0x18 2, tree := rawField b 0x1A 2,
    coll := rawField b 0x1C 1, red := rawField b 0x1D 1, root := rawField b 0x1E 2, inst := rawField b 0x20 8, stag := rawField b 0x2A 1,
    dtag := rawField b 0x2B 1, sem := rawField b 0x2C 2, flags := rawField b 0x2E 2, cntAt := rawField b 0x30 8,
    lcount := rawField b 0x38 4, rsv := rawField b 0x3C 4 }

/-- FLAGS.COUNT. -/
def flCount (f : Nat) : Bool := bitOf f 1
/-- FLAGS.ABSENT_OK. -/
def flAbsent (f : Nat) : Bool := bitOf f 2
/-- FLAGS.LCNT. -/
def flLcnt (f : Nat) : Bool := bitOf f 3

/-- Does a collective reduce: reduce, all-reduce, reduce-scatter? -/
def reduces (coll : Nat) : Bool := coll == 1 || coll == 2 || coll == 4

/-- The formats that reductions accept (R297). -/
def redFormat (t : Word) : Bool :=
  let f := tagFormat t
  f == .fp32 || f == .bf16 || f == .fp16 || ((f == .e4m3 || f == .e5m2) && tagBS t)

/-- The trees that a collective uses in a group of `n` ranks (R297). -/
def collTrees (d : CollDesc) (n : Nat) : List Nat :=
  if d.coll == 3 || d.coll == 4 then (List.range n).map (fun r => d.tree + r) else if d.coll == 5 then [] else [d.tree]

/-- Is tree `n` a record over the group, with the root asked for, if any (R309)? -/
def treeOk (s : State) (n group : Nat) (root : Option Nat) : Bool :=
  match mapFind s.fab.trees n with
  | none => false
  | some tr => tr.group == group && (match root with
    | none => true
    | some r => tr.root == r)

/-- Are the fields of a collective descriptor in range (R296, R297, R309)? A reduction's ROOT is its tree's root, where the
result arises (assumption 21). -/
def collFieldsOk (s : State) (t : Nat) (ta td : Word) (d : CollDesc) (n : Nat) : Bool :=
  d.stag < 64 && d.dtag < 64 && d.coll ≤ 5 && d.red ≤ 2 && 1 ≤ d.elems && d.flags < 16 && d.rsv == 0 && d.lcount ≤ (if flCount d.flags && flLcnt d.flags then 0x80000000 else 0) && d.src < 2 ^ 48 && d.dst < 2 ^ 48 &&
  semFieldOk s t d.sem && !tagInvalid ta && !tagInvalid td && (!reduces d.coll || (redFormat ta && redFormat td)) &&
  ((d.coll != 0 && d.coll != 1) || d.root < n) &&
  (match d.coll with
    | 3 => (List.range n).all (fun r => treeOk s (d.tree + r) d.group none)
    | 4 => (List.range n).all (fun r => treeOk s (d.tree + r) d.group (some r))
    | 1 => treeOk s d.tree d.group (some d.root)
    | 5 => true
    | _ => treeOk s d.tree d.group none)

/-! ### Blocks of data -/

/-- Bytes of one block of `n` elements with its scales behind it (R62; assumption 21). -/
def blockSpan (t : Word) (n : Nat) : Nat := vmemSpan t n

/-- The values of a block, widened (R298). -/
def blockVals (t : Word) (n : Nat) (bs : List Byte) : List F32 :=
  let eb := elemBytes t 1 (vmemPad t n)
  (nth [] (tensorRows t 1 n (bs.take eb) (bs.drop eb)) 0).map (fun x => (widen t x).1)

/-- Does an element of a block saturate as it widens (R39)? -/
def blockSat (t : Word) (n : Nat) (bs : List Byte) : Bool :=
  let eb := elemBytes t 1 (vmemPad t n)
  (nth [] (tensorRows t 1 n (bs.take eb) (bs.drop eb)) 0).any (fun x => (widen t x).2)

/-- Poison flags of the elements of a block from those of its bytes (none: no byte is poisoned). -/
def blockBad (t : Word) (n : Nat) (fs : List Bool) : List Bool :=
  let width := vmemPad t n
  if fs.any id then (nth [] (eltFlags t 1 width (elemBytes t 1 width) fs) 0).take n else []

/-- Poison flags of the bytes of a block from those of its elements: a block scale depends on every element of its block (R250). -/
def badBytes (t : Word) (n : Nat) (es : List Bool) : List Bool :=
  let width := vmemPad t n
  if es.any id then
    let ef := spreadFlags t [es ++ List.replicate (width - es.length) false]
    rowByteFlags (tagFormat t).bits (elemBytes t 1 width) (nth [] ef 0) ++ scaleFlags t width ef
  else []

/-- Join two lists of poison flags, of which an empty one has none set. -/
def orBad (a b : List Bool) : List Bool := if a.isEmpty then b else if b.isEmpty then a else List.zipWith (fun x y => x || y) a b

/-- The bytes of a block of values in a format, by R39 with RNE, and what the conversion reports (R298). -/
def blockBytes (t : Word) (xs : List F32) : List Byte × ConvFlags :=
  let (ws, es, rep) := convertTensor t .rne xs.length [xs.map (fun x => (x, 0))]
  (packElts (tagFormat t) (nth [] ws 0 ++ List.replicate (vmemPad t xs.length - xs.length) 0) ++
    (if tagBS t then es.map (fun e => (BitVec.ofNat 8 e : Byte)) else []), rep)

/-- Combine two values by RED (R298). -/
def redOp (red : Nat) (a b : F32) : F32 := if red == 0 then f32Add a b else if red == 1 then f32Max2 a b else f32Min a b

/-! ### Nodes -/

/-- The node of troupe `t` in a tree for an instance. -/
def collNode (s : State) (k : Nat × Nat × Nat) : CollNode :=
  match s.fab.colls.find? (fun e => e.1 == k) with
  | some e => e.2
  | none => {}
/-- Replace a node. -/
def setNode (k : Nat × Nat × Nat) (x : CollNode) (s : State) : State :=
  { s with fab.colls := (k, x) :: s.fab.colls.filter (fun e => e.1 != k) }

/-- Is the member of rank `r` marked failed in the ensemble membership (R300)? -/
def rankFailed (s : State) (g : GroupRec) (r : Nat) : Bool :=
  lmidState s (nth (0, 0) g.members r).1 == 3

/-- The link tag that reaches a module for troupe `t`: that of its peer table's entry (assumption 21). -/
def tagTo (s : State) (t lmid : Nat) : Nat :=
  match (mapGet [] s.fab.peers t).find? (fun e => e.1 == lmid) with
  | some e => e.2
  | none => 0

/-- Send a stream of a collective, with its poison flags, to the member of rank `r`; within the module it needs no port. -/
def sendRank (t : Nat) (g : GroupRec) (r : Nat) (base : Packet) (bs : List Byte) (fs : List Bool) (s : State) : State :=
  let m := nth (0, 0) g.members r
  let ps := (streamOf { base with src := s.lmid, vals := m.2 :: base.vals } bs fs)
  if m.1 == s.lmid then { s with fab.within := s.fab.within ++ ps } else sendPkts m.1 (tagTo s t m.1) t ps s

/-- The timeout of the group over which a tree runs, in Cue counts (R300, R306). -/
def groupTimeout (s : State) (tree : Nat) : Nat :=
  match mapFind s.fab.trees tree with
  | none => 0
  | some tr => match mapFind s.fab.groups tr.group with
    | none => 0
    | some g => g.timeout * cyclesUs

/-- Has TIMEOUT passed at a node: is the count later than its last, in which a child is still present (R300)? -/
def timeOver (s : State) (tree : Nat) (x : CollNode) : Bool :=
  match x.tFirst with
  | some a => a + groupTimeout s tree < s.cue
  | none => false

/-- Is `c` the saved context of a core, whose troupe is away (R336)? -/
def isAway (c : Nat) : Bool := physCores ≤ c

/-- Does an address lie in a core-store window (R242)? -/
def inStores (a : Nat) : Bool := 0xE00000000000 ≤ a && a < 0xE00100000000

/-- Does the output of a descriptor wait for the core stores of a troupe that is away (R336)? -/
def outWaits (s : State) (c id : Nat) : Bool :=
  isAway c && (match descOf s c id with
    | some p => inStores (CollDesc.ofBytes p.raw).dst || inStores (CollDesc.ofBytes p.raw).cntAt
    | none => false)

/-- Does a packet of a collective wait for the core stores of a troupe that is away? -/
def pktWaits (s : State) (k : Packet) : Bool :=
  match k.vals with
  | t :: tree :: inst :: _ =>
    if 0x10000 ≤ tree then
      s.fab.runs.any (fun r => r.troupe == t && r.inst == inst && r.coll == 5 && outWaits s r.core r.desc)
    else let x := collNode s (t, tree, inst); x.posted && outWaits s x.core x.desc
  | _ => false

/-- The running collective of a descriptor. -/
def runOf (s : State) (c id : Nat) : Option CollRun := s.fab.runs.find? (fun r => r.core == c && r.desc == id)

/-- A part of a collective descriptor is done, with a status; with its last part, once all that it sends has left, the descriptor is done
(R280, R296). Poison leaves the other parts going (R250), and any other failure ends the descriptor. -/
def partDone (c id tok status : Nat) (s : State) : State :=
  match runOf s c id with
  | none => s
  | some r =>
    let r' := { r with waits := r.waits.filter (fun x => x != tok), status := (if r.status == stOk then status else r.status) }
    let rest := s.fab.runs.filter (fun x => !(x.core == c && x.desc == id))
    if status != stOk && status != stMemUe then setStage c id (.done status) { s with fab.runs := rest }
    else settleRun { s with fab.runs := r' :: rest } r'

/-- Write a collective's output of a descriptor, with its poison flags, and at the same time its count where there is one: its status. A
range that the checks refuse leaves all of it unwritten (R250, R296). -/
def putOut (c id : Nat) (outs : List (Nat × List Byte × List Bool)) (s : State) : State × Nat :=
  let t := (s.core c).regs.troupe
  match writeRanges s t (outs.map (fun o => (o.1, o.2.1.length))) with
  | .error f => refuseAccess t f s
  | .ok ls =>
    let fs := outs.flatMap (fun o => if o.2.2.isEmpty then o.2.1.map (fun _ => false) else o.2.2)
    let (s1, part) := writeAllFlagged (.desc c id) s ls (outs.flatMap (fun o => o.2.1)) fs
    (chargeStacks t 0 (stackBytesOf ls) s1, if part || fs.any (fun b => b) then stMemUe else stOk)

/-- Does the descriptor carry a binding's gradient: a reduce-scatter with COUNT and ABSENT_OK whose input is the binding's local
gradient (R168, R300)? -/
def gradBind (s : State) (t : Nat) (d : CollDesc) : Option Nat :=
  if d.coll == 4 && flCount d.flags && flAbsent d.flags then bindAt (s.lrn t) d.src else none

/-- The troupe keeps the count and NF of a reduced shard for its verdict contribution (R178). -/
def noteShard (t : Nat) (d : CollDesc) (count : Nat) (nf : Bool) (s : State) : State :=
  match gradBind s t d with
  | some i => s.modLrn t (fun (l : Lrn) => { l with shardIn := mapPut l.shardIn i (count, nf) })
  | none => s

/-- Write the result of a reduction in a format, with COUNT set its count at COUNT_ADDR, and set NF where a value is not finite
(R45, R296, R298). -/
def putResult (c id : Nat) (d : CollDesc) (td : Word) (bs : List Byte) (fs : List Bool) (count : Nat) (s : State) : State × Nat :=
  let counts := if flCount d.flags && d.cntAt != 0 then [(d.cntAt, leBytes 4 count, [])] else []
  let (s1, st) := putOut c id ((d.dst, bs, fs) :: counts) s
  let nf := (blockBytes td (blockVals td d.elems bs)).2.nf
  (if st == stOk || st == stMemUe then
      noteShard (s.core c).regs.troupe d count nf
        (noteArith c { nf := nf } (s1.modCore c (fun (k : Core) => k.tagPut d.dtag (tagOr (k.tagGet d.dtag) nf false))))
    else s1, st)

/-- The token of a tree within a descriptor's parts. -/
def treeTok (d : CollDesc) (tree : Nat) : Nat := tree - d.tree

/-- The neighbours of rank `r` in a tree other than `from`. -/
def neighbours (tr : TreeRec) (r from_ : Nat) : List Nat :=
  ((if r == tr.root then [] else [(tr.ent r).parent]) ++ treeKids tr r).filter (fun x => x != from_)

/-- Pass bytes on to neighbours (broadcast and all-gather), or down to the children (all-reduce). -/
def flood (t tree inst : Nat) (g : GroupRec) (c id r : Nat) (dests : List Nat) (count : Nat) (bs : List Byte) (fs : List Bool) (s : State) :
    State :=
  dests.foldl (fun s k =>
    sendRank t g k { kind := .collDown, core := c, desc := id, addr := tree, vals := [tree, inst, r, count] } bs fs s) s

/-- The contributions of a node in logical order (R308): own input at SELF_POS among the children. -/
def ordered (x : CollNode) (kids : List Nat) (selfPos : Nat) : List (Word × RedIn) :=
  let ks := kids.map (fun k => match mapGet none x.kids k with
    | some v => some (x.dtag, v)
    | none => none)
  let own := match x.own with
    | some v => some (x.stag, v)
    | none => none
  ((ks.take selfPos) ++ [own] ++ ks.drop selfPos).filterMap (fun e => e)

/-- The reduction of a node's present contributions: values and count (R298, R308). -/
def reduceNode (x : CollNode) (ins : List (Word × RedIn)) : List F32 × Nat :=
  let vals := ins.map (fun e => blockVals e.1 x.elems e.2.data)
  let cnt := ins.foldl (fun n e => n + e.2.count) 0
  match vals with
  | [] => (List.replicate x.elems 0, 0)
  | v :: vs => (vs.foldl (fun a b => List.zipWith (redOp x.red) a b) v, cnt)

/-- Which elements of a reduction are poisoned: those of which a present contribution is (R250). -/
def reduceBad (x : CollNode) (ins : List (Word × RedIn)) : List Bool :=
  ins.foldl (fun a e => orBad a (blockBad e.1 x.elems e.2.bad)) []

/-- Combine a node once it and all its children have arrived or count as absent, and pass the result on (R298 to R300, R170). -/
def tryNode (k : Nat × Nat × Nat) (s : State) : State :=
  let (t, tree, inst) := k
  let x := collNode s k
  match treeAt s tree t with
  | none => s
  | some (tr, g, r) =>
    let kids := treeKids tr r
    let there := fun i => (mapFind x.kids i).isSome || (flAbsent x.flags && (x.late.contains i || rankFailed s g i || timeOver s tree x))
    if !x.posted || x.done || x.mismatch || !kids.all there || outWaits s x.core x.desc then s
    else
      match descOf s x.core x.desc with
      | none => s
      | some p =>
        let d := CollDesc.ofBytes p.raw
        let ins := ordered x kids (tr.ent r).selfPos
        let (vals, cnt) := reduceNode x ins
        let (bs, rep) := blockBytes x.dtag vals
        let fs := badBytes x.dtag x.elems (reduceBad x ins)
        let s0 := noteArith x.core { sat := rep.sat || ins.any (fun e => blockSat e.1 x.elems e.2.data) } (setNode k { x with done := true } s)
        if r == tr.root then
          let (s1, st) := putResult x.core x.desc d x.dtag bs fs cnt s0
          let s2 := if x.coll == 2 then flood t tree inst g x.core x.desc r kids cnt bs fs s1 else s1
          partDone x.core x.desc (treeTok d tree) st s2
        else
          let s1 := sendRank t g (tr.ent r).parent
            { kind := .collUp, core := x.core, desc := x.desc, addr := tree,
              vals := [tree, inst, r, tr.tchk, b2n (!ins.isEmpty), cnt] } (if ins.isEmpty then [] else bs) (if ins.isEmpty then [] else fs) s0
          if x.coll == 2 then s1 else partDone x.core x.desc (treeTok d tree) stOk s1

/-- A late contribution is discarded and counted (R169, R300). -/
def lateChild (t : Nat) (s : State) : State :=
  s.modLregs t (fun (l : LrnRegs) => { l with lateLeaf := true, lateCnt := inc16 l.lateCnt })

/-- A child's contribution reaches a node (R298, R300, R310): under ABSENT_OK one that comes after the node's time is over, or from a module
marked failed, is discarded; before the node is posted that is noted beside it. -/
def contribute (t tree inst child tchk : Nat) (present : Bool) (v : RedIn) (s : State) : State :=
  let k := (t, tree, inst)
  let x := collNode s k
  match treeAt s tree t with
  | none => s
  | some (tr, g, r) =>
    if !(treeKids tr r).contains child || (mapFind x.kids child).isSome then s
    else if x.done then lateChild t s
    else if tchk != tr.tchk then
      let s1 := raiseModule evTreeMismatch (leBytes 2 tree ++ leBytes 2 (nth (0, 0) g.members child).1)
        { s with cueRegs.tree := true }
      let s2 := setNode k { x with mismatch := true } s1
      if x.posted then partDone x.core x.desc (match descOf s2 x.core x.desc with
        | some p => treeTok (CollDesc.ofBytes p.raw) tree
        | none => 0) stTreeMismatch s2
      else s2
    else
      let isLate := timeOver s tree x || rankFailed s g child
      if isLate && x.posted && flAbsent x.flags then tryNode k (lateChild t (setNode k { x with late := child :: x.late } s))
      else
        tryNode k (setNode k { x with kids := mapPut x.kids child (if present then some v else none)
                                      late := (if isLate then child :: x.late else x.late)
                                      tFirst := some (x.tFirst.getD s.cue) } s)

/-- Bytes come down a tree, or across it, to a member: written at its output, and passed on (R297). A node whose descriptor ended with
TREE_MISMATCH writes nothing (R310). -/
def arriveDown (t tree inst from_ count : Nat) (bs : List Byte) (fs : List Bool) (s : State) : State :=
  let k := (t, tree, inst)
  let x := collNode s k
  if !x.posted then setNode k { x with down := some (bs, fs), downFrom := from_, downCnt := count } s
  else if x.mismatch then s
  else
    match treeAt s tree t, descOf s x.core x.desc with
    | some (tr, g, r), some p =>
      let d := CollDesc.ofBytes p.raw
      if d.coll == 2 then
        let (s1, st) := putResult x.core x.desc d x.dtag bs fs count s
        partDone x.core x.desc (treeTok d tree) st (flood t tree inst g x.core x.desc r (treeKids tr r) count bs fs s1)
      else
        let off := if d.coll == 3 then treeTok d tree * blockSpan x.stag d.elems else 0
        let (s1, st) := putOut x.core x.desc [(d.dst + off, bs, fs)] s
        partDone x.core x.desc (treeTok d tree) st (flood t tree inst g x.core x.desc r (neighbours tr r from_) count bs fs s1)
    | _, _ => s

/-- A block of an all-to-all reaches a member (R297): it goes to the place of its source rank. -/
def arriveBlock (t inst src : Nat) (bs : List Byte) (fs : List Bool) (s : State) : State :=
  match s.fab.runs.find? (fun r => r.troupe == t && r.inst == inst && r.coll == 5 && r.waits.contains src) with
  | none => setNode (t, 0x10000 + src, inst) { down := some (bs, fs) } s
  | some r =>
    match descOf s r.core r.desc with
    | none => s
    | some p =>
      let d := CollDesc.ofBytes p.raw
      let (s1, st) := putOut r.core r.desc [(d.dst + src * blockSpan ((s.core r.core).tagGet d.stag) d.elems, bs, fs)] s
      partDone r.core r.desc src st s1

/-- The node that a packet of a collective belongs to, if it waits there for the member's descriptor (R296): by troupe, tree and
instance; an all-to-all block has 0x10000 in place of a tree. -/
def pktUnposted (s : State) (k : Packet) : Option (Nat × Nat × Nat) :=
  match k.kind, k.vals with
  | .collUp, t :: tree :: inst :: _ | .collDown, t :: tree :: inst :: _ =>
    let held := if 0x10000 ≤ tree then !s.fab.runs.any (fun r => r.troupe == t && r.inst == inst && r.coll == 5)
      else !(collNode s (t, tree, inst)).posted
    if held then some (t, min tree 0x10000, inst) else none
  | _, _ => none

/-- A descriptor has been posted for some trees of an instance: the landing slots of data that waited for it are free (R296). -/
def freePosted (t inst : Nat) (trees : List Nat) (s : State) : State :=
  settleOwed { s with fab.owed := s.fab.owed.map (fun o =>
    { o with nodes := o.nodes.filter (fun k => !(k.1 == t && trees.contains k.2.1 && k.2.2 == inst)) }) }

/-- A complete stream of a collective lands: VALS hold the troupe, then the fields of its kind. -/
def landColl (k : Packet) (bs : List Byte) (fs : List Bool) (s : State) : State :=
  let bad := if fs.any (fun b => b) then fs else []
  match k.kind, k.vals with
  | .collUp, [t, tree, inst, child, tchk, present, count] =>
    contribute t tree inst child tchk (present != 0) { count := count, data := bs, bad := bad } s
  | .collDown, [t, tree, inst, from_, count] =>
    if 0x10000 ≤ tree then arriveBlock t inst from_ bs bad s else arriveDown t tree inst from_ count bs bad s
  | _, _ => s

/-- Deliver what members of this module have sent to one another, by fuel. -/
def drainLocal : Nat → State → State
  | 0, s => s
  | n + 1, s =>
    match s.fab.within.find? (fun k => !pktWaits s k) with
    | none => s
    | some k =>
      let s1 := { s with fab.within := s.fab.within.erase k }
      let (g, s2) := addPart k true 0 s1
      drainLocal n (if g.got < k.total then s2 else landColl k g.bytes.1 g.bytes.2 s2)

/-- Deliver local traffic of collectives. -/
def settleLocal (s : State) : State := drainLocal (4096 + s.fab.within.length) s

/-! ### Carrying out a collective descriptor -/

/-- Post one node of a reduction: own input present, or absent with a count of 0 (R298). What came before waits in it; under ABSENT_OK
what came too late is discarded now (R300). -/
def postNode (t c id tree inst : Nat) (d : CollDesc) (ta td : Word) (own : Option RedIn) (s : State) : State :=
  let k := (t, tree, inst)
  let x0 := collNode s k
  let x := if x0.done then {} else x0
  let drop := flAbsent d.flags
  let x' : CollNode :=
    { x with core := c, desc := id, posted := true, red := d.red, coll := d.coll, elems := d.elems, flags := d.flags, stag := ta, dtag := td
             own := own, tFirst := some (x.tFirst.getD s.cue)
             kids := (if drop then x.kids.filter (fun e => !x.late.contains e.1) else x.kids) }
  let s1 := setNode k x' s
  let s2 := if drop then x.late.foldl (fun s _ => lateChild t s) s1 else s1
  if x.mismatch then partDone c id (treeTok d tree) stTreeMismatch s2 else tryNode k s2

/-- Post a node that only passes bytes on, and take up what came down before (R296). -/
def postPass (t c id tree inst : Nat) (d : CollDesc) (ta td : Word) (s : State) : State :=
  let k := (t, tree, inst)
  let x := collNode s k
  let s1 := setNode k { x with core := c, desc := id, posted := true, coll := d.coll, elems := d.elems, flags := d.flags, stag := ta, dtag := td } s
  match x.down with
  | some (bs, fs) => arriveDown t tree inst x.downFrom x.downCnt bs fs s1
  | none => s1

/-- A rank's own count: 1, or LCOUNT (R298). -/
def ownCount (d : CollDesc) : Nat := if flCount d.flags && flLcnt d.flags then d.lcount else 1

/-- Does the rank inject nothing: COUNT, LCNT and a LCOUNT of 0 (R298)? -/
def ownAbsent (d : CollDesc) : Bool := flCount d.flags && flLcnt d.flags && d.lcount == 0

/-- The elements of a binding's local gradient with their poison flags: each row filled with zeros to whole blocks of 32 along COLS, which
is how ELEMS counts a gradient (R168, R205; assumption 76). -/
def gradElts (b : BindRecord) (data : List Byte) (fs : List Bool) : List (F32 × Bool) :=
  let fill := ceilDiv b.cols 32 * 32 - b.cols
  (List.range b.rows).flatMap (fun r =>
    (List.range b.cols).map (fun c =>
      let o := 4 * (r * b.cols + c)
      ((BitVec.ofNat 32 (leNat ((data.drop o).take 4)) : F32), ((fs.drop o).take 4).any id)) ++ List.replicate fill (0, false))

/-- The bytes of `n` elements from place `i` of a gradient, converted into the format in which it travels (R168), with their flags and what
the conversion reports. -/
def gradBlock (td : Word) (xs : List (F32 × Bool)) (i n : Nat) : List Byte × List Bool × ConvFlags :=
  let mine := (xs.drop i).take n
  let ys := mine ++ List.replicate (n - mine.length) (0, false)
  let (bs, rep) := blockBytes td (ys.map (·.1))
  (bs, badBytes td n (ys.map (·.2)), rep)

/-- Own inputs of a reduction, one a tree, and what their conversion reports: a gradient is converted into its binding's format first (R168);
a rank that injects nothing converts nothing (R170, R298). -/
def ownInputs (d : CollDesc) (ta td : Word) (grad : Option BindRecord) (data : List Byte) (fs : List Bool) (n : Nat) :
    List (Option RedIn) × ConvFlags :=
  if ownAbsent d then (List.replicate n none, {})
  else
    match grad with
    | some b =>
      let xs := gradElts b data fs
      let rows := (List.range n).map (fun i => gradBlock td xs (i * d.elems) d.elems)
      (rows.map (fun r => some { count := ownCount d, data := r.1, bad := r.2.1 }), rows.foldl (fun f r => f.or r.2.2) {})
    | none =>
      let sp := blockSpan ta d.elems
      ((List.range n).map (fun i =>
        let part := (fs.drop (i * sp)).take sp
        some { count := ownCount d, data := (data.drop (i * sp)).take sp, bad := (if part.any id then part else []) }), {})

/-- Exchange the blocks of an all-to-all: the own block stays, the others go out, and blocks that came before are taken up (R297). -/
def beginExchange (c id t : Nat) (d : CollDesc) (g : GroupRec) (r sp : Nat) (data : List Byte) (fs : List Bool) (s : State) : State :=
  let n := g.members.length
  let cut := fun (q : Nat) => (data.drop (q * sp)).take sp
  let bad := fun (q : Nat) => let f := (fs.drop (q * sp)).take sp; if f.any (fun b => b) then f else []
  let s1 := (List.range n).foldl (fun s q =>
    if q == r then s
    else sendRank t g q { kind := .collDown, core := c, desc := id, addr := 0x10000 + q, vals := [0x10000, d.inst, r, 0] } (cut q) (bad q) s) s
  let s2 := arriveBlock t d.inst r (cut r) (bad r) s1
  (List.range n).foldl (fun s q =>
    match (collNode s (t, 0x10000 + q, d.inst)).down with
    | some b => arriveBlock t d.inst q b.1 b.2 { s with fab.colls := s.fab.colls.filter (fun e => e.1 != (t, 0x10000 + q, d.inst)) }
    | none => s) s2

/-- The record of the binding whose gradient a descriptor carries. -/
def gradRec (s : State) (t : Nat) (d : CollDesc) : Option BindRecord := (gradBind s t d).map (fun i => nth {} (s.lrn t).binds i)

/-- The ranges that a collective descriptor reads at its rank: a gradient whole, else blocks of ELEMS elements, and nothing where the rank has
no input (R168, R297, R298). -/
def collReads (s : State) (t : Nat) (d : CollDesc) (ta : Word) (n r : Nat) : List (Nat × Nat) :=
  if (d.coll == 0 && r != d.root) || (reduces d.coll && ownAbsent d) then []
  else
    match gradRec s t d with
    | some b => [(d.src, 4 * b.rows * b.cols)]
    | none => [(d.src, (if d.coll == 4 || d.coll == 5 then n else 1) * blockSpan ta d.elems)]

/-- The statistics of a gradient that its collective reads; a rank whose own input is absent converts nothing (R171). -/
def gradStats (t : Nat) (d : CollDesc) (grad : Option Nat) (s : State) : State :=
  match grad with
  | some i => if ownAbsent d then s else gatherStats t i s
  | none => s

/-- Begin a collective whose fields are good: read the input, post the nodes, and send what is to be sent (R296, R297). A poisoned unit of the
source leaves the rest of the collective going, and the descriptor ends with MEM_UE (R250). -/
def beginColl (c id t : Nat) (d : CollDesc) (g : GroupRec) (r : Nat) (s : State) : State :=
  let k := s.core c
  let n := g.members.length
  let ta := k.tagGet d.stag
  let grad := gradBind s t d
  let td := match grad with
    | some i => bindTag (s.lrn t) i
    | none => k.tagGet d.dtag
  match rangesLocs s t false (collReads s t d ta n r) with
  | .error f => let (s1, st) := refuseAccess t f s; setStage c id (.done st) s1
  | .ok ls =>
    let data := readLocs s ls
    let fs := flagsOf s ls
    let toks := if 3 ≤ d.coll then List.range n else [0]
    let run : CollRun :=
      { core := c, desc := id, troupe := t, coll := d.coll, tree := d.tree, inst := d.inst, n := n, rank := r, waits := toks
        status := (if fs.any (fun b => b) then stMemUe else stOk) }
    let s0 := setStage c id .sent (findErrors ls { s with fab.runs := run :: s.fab.runs })
    let s2 := chargeStacks t (stackBytesOf ls) 0 (gradStats t d grad s0)
    if reduces d.coll then
      let (owns, rep) := ownInputs d ta td (gradRec s t d) data fs (if d.coll == 4 then n else 1)
      freePosted t d.inst (collTrees d n)
        ((List.zip (collTrees d n) owns).foldl (fun s e => postNode t c id e.1 d.inst d (if grad.isSome then td else ta) td e.2 s)
          (noteArith c { sat := rep.sat } s2))
    else if d.coll == 5 then
      freePosted t d.inst [0x10000] (beginExchange c id t d g r (blockSpan ta d.elems) data fs s2)
    else
      let from_ := if d.coll == 3 then d.tree + r else d.tree
      let s3 := (collTrees d n).foldl (fun s tr => postPass t c id tr d.inst d ta td s) s2
      freePosted t d.inst (collTrees d n)
        (if d.coll == 3 || r == d.root then arriveDown t from_ d.inst 0xFFFF 0 data (if fs.any (fun b => b) then fs else []) s3 else s3)

/-- Is the descriptor ready to be carried out: as any other, and, for a binding's gradient, with the governor's update of the
verdict before applied (R176)? -/
def collReady (s : State) (c id : Nat) (p : Posted) : Bool :=
  let t := (s.core c).regs.troupe
  let d := CollDesc.ofBytes p.raw
  p.stage == .posted && (Desc.ofBytes p.raw).op == 0x200 && descStarts s c id (Desc.ofBytes p.raw) &&
    !((gradBind s t d).isSome && (s.lrn t).posted.isSome)

/-- Carry out a posted collective descriptor (R296). -/
def runColl (c id : Nat) (s : State) : State :=
  match descOf s c id with
  | none => s
  | some p =>
    if !collReady s c id p then s
    else
      let t := (s.core c).regs.troupe
      let d := CollDesc.ofBytes p.raw
      let k := s.core c
      if 1023 < d.group then setStage c id (.done stOpInvalid) s
      else
      match mapFind s.fab.groups d.group with
      | none => setStage c id (.done stCollGroup) s
      | some g =>
        match rankOf g s.lmid t with
        | none => setStage c id (.done stCollGroup) s
        | some r =>
          if collFieldsOk s t (k.tagGet d.stag) (k.tagGet d.dtag) d g.members.length then settleLocal (beginColl c id t d g r s)
          else setStage c id (.done stOpInvalid) s

/-- COLLECTIVE: descriptor OP 0x0200 (R296). -/
def execCollective (c id : Nat) (s : State) : Host.Outcome State Fault Refusal := engine (runColl c id) s

/-- COLLECTIVE_TIMEOUT: TIMEOUT has passed at a node under ABSENT_OK, and children that have not arrived are absent (R300). A child that
arrives in the count in which it passes is present, so the node acts from the next count on. The node waits for its own input
(assumption 21). -/
def execCollectiveTimeout (t tree inst : Nat) (s : State) : Host.Outcome State Fault Refusal :=
  engine (fun s =>
    let x := collNode s (t, tree, inst)
    if x.posted && !x.done && flAbsent x.flags && timeOver s tree x then settleLocal (tryNode (t, tree, inst) s) else s) s

end Sys2Proof.Machine
end

