-- ==== Sys2Proof/Machine/Fabric.lean ====
section
/-! DEFINITION. The fabric's commands: remote moves (R285, R286), training and retraining of ports (R272 to R278), flits (R271,
R283, R284, R289 to R293) and ranging (R294, R295). -/

namespace Sys2Proof.Machine

/-! ### Remote moves -/

/-- Are the fields of a remote descriptor in range and its reserved bytes 0, its tags entries of the tag file (assumption 72), and is its peer in
the troupe's table (R285)? -/
def remoteFieldsOk (s : State) (t : Nat) (d : Desc) : Bool :=
  d.stag < 64 && d.dtag < 64 && d.src < 2 ^ 48 && d.dst < 2 ^ 48 && 1 ≤ d.rows && d.rows ≤ 16777216 && 1 ≤ d.rowBytes && d.rowBytes ≤ 2 ^ 31 &&
  d.flags < 2 && rawField d.ext 2 1 < 2 && leNat (d.ext.drop 3) == 0 && semFieldOk s t d.sem &&
  rawField d.ext 0 2 < (mapGet [] s.fab.peers t).length

/-- Packets that write byte ranges at the peer, offsets counted over the whole descriptor. -/
def writePackets (base : Packet) (total : Nat) : Nat → List (Nat × Nat) → List Byte → List Bool → List Packet
  | _, [], _, _ => []
  | off, (a, n) :: rest, bs, fs =>
    ((packets { base with addr := a, total := total } (n / 4096 + 1) 0 (bs.take n) (fs.take n)).map
      (fun k => { k with addr := a + k.offset, offset := off + k.offset })) ++ writePackets base total (off + n) rest (bs.drop n) (fs.drop n)

/-- Is the descriptor ready to be carried out? -/
def remoteReady (s : State) (c id op : Nat) (p : Posted) : Bool :=
  p.stage == .posted && (Desc.ofBytes p.raw).op == op && descStarts s c id (Desc.ofBytes p.raw)

/-- REMOTE_WRITE: descriptor OP 0x0100 (R285): the data, converted here where the tags differ, goes to the peer troupe. -/
def runRemoteWrite (c id : Nat) (s : State) : State :=
  match descOf s c id with
  | none => s
  | some p =>
    if !remoteReady s c id 0x100 p then s
    else
      let d := Desc.ofBytes p.raw
      let k := s.core c
      let t := k.regs.troupe
      let ta := k.tagGet d.stag
      let td := k.tagGet d.dtag
      if !remoteFieldsOk s t d || tagInvalid ta || tagInvalid td then setStage c id (.done stOpInvalid) s
      else
        let kind := remoteKind ta td
        match rangesLocs s t false (moveSource kind ta d) with
        | .error f => let (s1, st) := refuseAccess t f s; setStage c id (.done st) s1
        | .ok src =>
          let fs := flagsOf s src
          let o := moveOut kind ta td d (readLocs s src) fs
          let (lmid, ltag) := nth (0, 0) (mapGet [] s.fab.peers t) (rawField d.ext 0 2)
          let base : Packet := { kind := .write, src := s.lmid, core := c, desc := id, notify := rawField d.ext 2 1 == 1 }
          let ps := writePackets base o.bytes.length 0 o.ranges o.bytes (if fs.any (fun b => b) then o.flags else [])
          let s1 := noteArith c { nf := o.rep.nf, sat := o.rep.sat } (findErrors src s)
          chargeStacks t (stackBytesOf src) 0 (sendPkts lmid ltag t ps (setStage c id .sent s1))
/-- REMOTE_WRITE (R285). -/
def execRemoteWrite (c id : Nat) (s : State) : Host.Outcome State Fault Refusal := engine (runRemoteWrite c id) s

/-- REMOTE_READ: descriptor OP 0x0101 (R285): a request for the source ranges goes to the peer; the answer is converted here. -/
def runRemoteRead (c id : Nat) (s : State) : State :=
  match descOf s c id with
  | none => s
  | some p =>
    if !remoteReady s c id 0x101 p then s
    else
      let d := Desc.ofBytes p.raw
      let k := s.core c
      let t := k.regs.troupe
      let ta := k.tagGet d.stag
      let td := k.tagGet d.dtag
      if !remoteFieldsOk s t d || tagInvalid ta || tagInvalid td then setStage c id (.done stOpInvalid) s
      else
        let (lmid, ltag) := nth (0, 0) (mapGet [] s.fab.peers t) (rawField d.ext 0 2)
        let rs := moveSource (remoteKind ta td) ta d
        sendPkts lmid ltag t
          [{ kind := .readReq, src := s.lmid, core := c, desc := id, notify := rawField d.ext 2 1 == 1, vals := rs.flatMap (fun r => [r.1, r.2]) }]
          (setStage c id .sent s)
/-- REMOTE_READ (R285). -/
def execRemoteRead (c id : Nat) (s : State) : Host.Outcome State Fault Refusal := engine (runRemoteRead c id) s

/-- NO_ROUTE: packets of a descriptor have waited ROUTE_TIMEOUT for a usable port; they are given up (R280). -/
def execNoRoute (c id : Nat) (s : State) : Host.Outcome State Fault Refusal :=
  engine (fun s =>
    let mine := ownItem s c id
    let late := s.fab.tx.any (fun x => mine x && (match x.since with
      | some a => a + s.fab.routeTimeout * cyclesMs ≤ s.cue
      | none => false))
    if late && isSent s c id then
      setStage c id (.done stNoRoute)
        { s with fab.tx := s.fab.tx.filter (fun x => !mine x)
                 fab.runs := s.fab.runs.filter (fun r => !(r.core == c && r.desc == id)) }
    else s) s

/-! ### Training (R272 to R278) -/

/-- Is port `p` in use: the variant enables it, a casting uses it (R272: OFF otherwise), and links train? -/
def portUsed (s : State) (p : Nat) : Bool := portEnabled s p && linksRun s && (s.port p).st != .off

/-- An event of a port in use; where it changes the port's state, what depends on that settles. -/
def portStep (p : Nat) (f : State → State) (s : State) : Host.Outcome State Fault Refusal :=
  engine (fun s =>
    let s1 := f s
    if !portUsed s p then s else if (s1.port p).st == (s.port p).st then s1 else portChanged s1) s

/-- A port becomes HELD; its retry is counted from now (R276). -/
def holdPort (p : Nat) (s : State) : State := s.modPort p (fun x => { x with st := .held, tryAt := s.cue, width := 0 })

/-- PORT_SIGNAL_DETECT (R272). A plug-in that is not powered gives no signal, and the port is HELD (R475). -/
def execPortSignalDetect (p : Nat) (s : State) : Host.Outcome State Fault Refusal :=
  portStep p (fun s =>
    if (s.port p).st != .detect then s
    else if plugDark s p then holdPort p s
    else s.modPort p (fun x => { x with st := .equalize })) s

/-- PORT_EQUALIZE_DONE: the quarters that locked; with none the port is HELD (R272, R275). -/
def execPortEqualizeDone (p quarters : Nat) (s : State) : Host.Outcome State Fault Refusal :=
  portStep p (fun s =>
    if (s.port p).st == .equalize then
      let q := if plugDark s p then 0 else quarters % 16
      let s1 := s.modPort p (fun x => { x with quarters := q })
      if q == 0 then holdPort p s1 else s1.modPort p (fun x => { x with st := .map })
    else s) s

/-- PORT_MAP: reversal, polarity and crossed groups are corrected; quarters whose lanes arrive in any other order fail (R273). In IDENT the
port sends its LMID, port number and serial number (R274). -/
def execPortMap (p : Nat) (reversed crossed : Bool) (polarity bad : Nat) (s : State) : Host.Outcome State Fault Refusal :=
  portStep p (fun s =>
    if (s.port p).st == .map then
      let q := (List.range 4).foldl (fun n i => if bitOf bad i then setBitTo n i false else n) (s.port p).quarters
      let s1 := s.modPort p (fun x => { x with quarters := q, reversed := reversed, dirswap := crossed, polarity := polarity % 65536 })
      if q == 0 then holdPort p s1
      else sendFab { kind := "ident", dest := p, vals := [s.lmid, p, s.record.serial] } (s1.modPort p (fun x => { x with st := .ident }))
    else s) s

/-- The rate of a long-reach port in units of 1/256 (R288). -/
def lrRate (c : PortCfg) (rtt : Nat) : Nat :=
  let n := lrSlots c
  if rtt + 16384 ≤ n then 256 else 256 * n / (rtt + 16384)

/-- Does a port refuse the peer's identity (R274)? The peer is the module itself when its serial number is the module's. -/
def miswired (s : State) (x : Port) (lmid port serial : Nat) : Bool :=
  serial == s.record.serial || !(lmid == x.cfg.peerLmid || (x.cfg.role == 2 && x.subLmid == some lmid)) || port != x.cfg.peerPort

/-- The unacknowledged flits of a port under new numbers after a training (R271, R277, R278). -/
def renumber : Nat → List SentFlit → List SentFlit
  | _, [] => []
  | n, f :: fs => { f with seqNo := n } :: renumber (n + 1) fs

/-- Put a flit on the line again, as it was first sent (R271, R291); on long reach it has the slot of its number. -/
def resendFlit (p : Nat) (s : State) (f : SentFlit) : State :=
  let m := flitMsg p (s.port p) f
  keepSlot p false f.seqNo m.data (sendFab m s)

/-- The round trip of a long-reach port is measured: RTT_NS and RATE, and LR_WINDOW when the rate is below full (R288). -/
def measureRtt (p rtt : Nat) (s : State) : State :=
  let c := (s.port p).cfg
  if c.role != 3 then s
  else
    let s1 := s.modPort p (fun x => { x with rttNs := rtt % 2 ^ 32, rate := lrRate c rtt })
    if lrRate c rtt < 256 then
      raiseModule evLrWindow (leBytes 1 p ++ leBytes 2 (lrRate c rtt)) (s1.modPort p (fun x => { x with lrWindow := true }))
    else s1

/-- A port enters UP (R276 to R278): numbering starts at 0, and the flits not acknowledged are sent again there if it has been out of UP for at
most 250 ms, else on the ports of their routes. -/
def raisePort (p : Nat) (s : State) : State :=
  let s0 := if (s.port p).downAt + 250 * cyclesMs < s.cue then requeue p s else s
  let s1 := s0.modPort p (fun x =>
    let again := renumber 0 x.sent
    { x with st := .up, width := widthOf x.quarters, up := true, txSeq := again.length, rxSeq := 0, acked := 4294967295, sent := again
             landing := [], inord := [] })
  (s1.port p).sent.foldl (resendFlit p) s1

/-- PORT_IDENT: identities are exchanged and checked, and the round trip is measured; the port enters UP, HELD below its minimum width, or
REFUSED (R274, R275, R288). Before a casting image is in force a port stops here (R274). -/
def execPortIdent (p lmid port serial rtt : Nat) (s : State) : Host.Outcome State Fault Refusal :=
  portStep p (fun s =>
    if (s.port p).st == .ident && s.boot == .ready then
      let s1 := measureRtt p rtt
        (s.modPort p (fun x => { x with peerLmid := lmid % 4096, peerPort := port % 32, peerSerial := serial % 2 ^ 40 }))
      let x := s1.port p
      if miswired s x lmid port serial then
        raiseModule evPortMiswire (leBytes 2 s.lmid ++ leBytes 1 p ++ leBytes 2 lmid ++ leBytes 1 port)
          (s1.modPort p (fun x => { x with st := .refused, miswire := true, width := 0 }))
      else if widthOf x.quarters < minLanes x.cfg.minW then holdPort p (s1.modPort p (fun x => { x with belowMin := true }))
      else raisePort p s1
    else s) s

/-- PORT_HELD_RETRY: 2 s after the end of the last attempt (R276). -/
def execPortHeldRetry (p : Nat) (s : State) : Host.Outcome State Fault Refusal :=
  portStep p (fun s =>
    let x := s.port p
    if x.st == .held && !x.fenced && x.tryAt + 2000 * cyclesMs ≤ s.cue then s.modPort p (fun x => { x with st := .equalize }) else s) s

/-- A port leaves UP (R278, R301). -/
def leaveUp (p : Nat) (st : PortSt) (s : State) : State :=
  s.modPort p (fun x => { x with st := st, down := true, downAt := s.cue, width := 0 })

/-- A port in UP retrains from EQUALIZE (R277). -/
def retrainPort (p : Nat) (s : State) : State :=
  if (s.port p).st == .up then (countWatch .retrain p (leaveUp p .equalize s)).modPort p (fun x => { x with retrainCnt := inc16 x.retrainCnt }) else s

/-- PORT_RETRAIN_TRIGGER: a quarter has lost lock (R277); REPLAY_REQUEST retrains a port whose flits need too many replays. -/
def execPortRetrainTrigger (p : Nat) (s : State) : Host.Outcome State Fault Refusal := portStep p (retrainPort p) s

/-- RETRAIN: a write of 1 to PORT_CTRL.RETRAIN; ignored outside UP (R277, R301). -/
def execRetrain (p : Nat) (s : State) : Host.Outcome State Fault Refusal := portStep p (retrainPort p) s

/-- PORT_SIGNAL_LOSS: UP becomes HELD, REFUSED returns to DETECT, and a port in training is HELD (R272, R274). -/
def execPortSignalLoss (p : Nat) (s : State) : Host.Outcome State Fault Refusal :=
  portStep p (fun s =>
    match (s.port p).st with
    | .up => (leaveUp p .held s).modPort p (fun x => { x with tryAt := s.cue })
    | .refused => s.modPort p (fun x => { x with st := .detect })
    | .equalize | .map | .ident => holdPort p s
    | _ => s) s

/-- PORT_OUTAGE_TIMEOUT: out of UP for 250 ms, the flits that were not acknowledged go to other ports of the route (R278). -/
def execPortOutageTimeout (p : Nat) (s : State) : Host.Outcome State Fault Refusal :=
  portStep p (fun s =>
    let x := s.port p
    if x.st != .up && !x.sent.isEmpty && x.downAt + 250 * cyclesMs < s.cue then pump (requeue p s) else s) s

/-- RELEASE: takes a REFUSED port back to DETECT; ignored in other states (R274, R301). -/
def execRelease (p : Nat) (s : State) : Host.Outcome State Fault Refusal :=
  portStep p (fun s => if (s.port p).st == .refused then s.modPort p (fun x => { x with st := .detect }) else s) s

/-- PORT_CLR: the counters of PORT_EVT and PORT_ERR become 0 (R301). -/
def execPortClr (p : Nat) (s : State) : Host.Outcome State Fault Refusal :=
  regWrite (fun s => if portEnabled s p then
    s.modPort p (fun x => { x with retrainCnt := 0, tagCnt := 0, authCnt := 0, replayFlits := 0, fecCorr := 0 }) else s) s

/-! ### Flits -/

/-- Is the troupe of a tag one that flits may reach: in the casting and not being torn down (R284)? -/
def flitTroupe (s : State) (t : Nat) : Bool := s.hasTroupe t && (s.troupe t).regs.state != .teardown

/-- A whole packet other than a write lands for a troupe of this module (R285, R286, R296). -/
def landPkt (e : TagEnt) (k : Packet) (s : State) : State :=
  match k.kind with
  | .write => s
  | .readReq => landRead e k s
  | .ack => landAck k s
  | .readData =>
    let (g, s1) := addPart k true 0 s
    if g.got < k.total then s1 else finishRead k.core k.desc g.bytes.1 g.bytes.2 s1
  | .collUp | .collDown =>
    let (g, s1) := addPart k true 0 s
    if g.got < k.total then s1 else settleLocal (landColl k g.bytes.1 g.bytes.2 s1)

/-- Data bytes of a write that a span of its packet holds land; the flag joins the discards. -/
def landSpan (e : TagEnt) (k : Packet) (acc : State × Bool) (a : Nat × Nat) : State × Bool :=
  let lo := max 32 a.1
  if lo < a.1 + a.2 then
    let (s1, bad) := landWrite e k (lo - 32) (a.1 + a.2 - lo) acc.1
    (s1, acc.2 || bad)
  else acc

/-- Keep which bytes of the packet of an end-to-end identity have been applied: the spans so far, or that it is whole (R278). -/
def notePart (i : PktIdent) (spans : List (Nat × Nat)) (whole : Bool) (s : State) : State :=
  let rest := s.fab.parts.filter (fun x => x.ident != i)
  if whole then { s with fab.seen := i :: s.fab.seen, fab.parts := rest }
  else { s with fab.parts := { ident := i, spans := spans } :: rest }

/-- A part of a packet lands: each byte of an end-to-end identity is applied once (R278). A write is written as it comes, any other packet acts
once it is whole. The result holds the state, the parts that wait for core stores of a troupe that is away (R336), and whether the flit
is discarded. -/
def landSeg (e : TagEnt) (acc : State × List Seg × Bool) (g : Seg) : State × List Seg × Bool :=
  let (s, waits, bad) := acc
  let i := pktIdent g.pkt
  if s.fab.seen.contains i then acc
  else if pktWaits s g.pkt then (s, waits ++ [g], bad)
  else
    let cov := coverage s i
    let fresh := freshSpans cov (g.off, g.len)
    let spans := cov ++ fresh
    let whole := pktSpan g.pkt ≤ spans.foldl (fun n a => n + a.2) 0
    let s1 := chargeRx e.troupe (fresh.foldl (fun n a => n + a.2) 0) (notePart i spans whole s)
    if g.pkt.kind == .write then
      let (s2, b) := fresh.foldl (landSpan e g.pkt) (s1, false)
      (s2, waits, bad || b)
    else (if whole then landPkt e g.pkt s1 else s1, waits, bad)

/-- The landing slot of a flit is free once its writes are done and the collectives it belongs to are posted (R283, R296). -/
def freeSlot (p : Nat) (f : RxFlit) (s : State) : State :=
  let ws := (f.segs.filter (fun g => g.pkt.kind == .write)).map (fun g => (g.pkt.src, g.pkt.core, g.pkt.desc))
  let o : Owed := { port := p, ltag := f.ltag, writes := ws.filter (writeHeld s), nodes := f.segs.filterMap (fun g => pktUnposted s g.pkt) }
  if o.writes.isEmpty && o.nodes.isEmpty then returnCredit p f.ltag s else { s with fab.owed := s.fab.owed ++ [o] }

/-- A flit for another module goes on by the route table; its landing slot is free once it has been forwarded (R279, R283). -/
def forwardFlit (p : Nat) (f : RxFlit) (s : State) : State :=
  let n := f.segs.length
  let xs := (List.range n).zipWith (fun i g =>
    ({ dest := f.dest, ltag := f.ltag, troupe := 64, pkt := g.pkt, off := g.off, len := g.len
       owed := (if i + 1 == n then some p else none) } : TxFlit)) f.segs
  if n == 0 then returnCredit p f.ltag s else pump { s with fab.tx := s.fab.tx ++ xs }

/-- Deliver one data flit of port `p` (R279, R284): one whose tag the port's table lacks is discarded; then to another module by the route
table, to the hub, or to the tag's troupe. -/
def deliverFlit (p : Nat) (s : State) (f : RxFlit) : State :=
  match (s.port p).tagEnt f.ltag with
  | none => discardFlit p f.ltag s
  | some e =>
    if f.dest != s.lmid then forwardFlit p f s
    else if f.ltag == 0xFFF then returnCredit p f.ltag s
    else if !flitTroupe s e.troupe then discardFlit p f.ltag s
    else
      let (s1, waits, bad) := f.segs.foldl (landSeg e) (s, [], false)
      let s2 := if bad then countDiscard p s1 else s1
      if waits.isEmpty then freeSlot p f s2
      else s2.modPort p (fun x => { x with waiting := x.waiting ++ [{ f with segs := waits }] })

/-- Does port `p` still accept a tag (R293)? -/
def tagBarred (x : Port) (ltag : Nat) : Bool := x.barred.contains (0x1000 + ltag)

/-- What leaves the landing of a long-reach port without a frame to authenticate: the hub's flits, and those of a tag that the port no
longer accepts, which are discarded with their credits returned (R289, R291, R293). By fuel. -/
def freeInord (p : Nat) : Nat → State → State
  | 0, s => s
  | n + 1, s =>
    match (s.port p).inord with
    | [] => s
    | f :: rest =>
      let s1 := s.modPort p (fun x => { x with inord := rest })
      if f.ltag == 0xFFF then freeInord p n (deliverFlit p s1 f)
      else if tagBarred (s.port p) f.ltag then
        freeInord p n (returnCredit p f.ltag (s1.modPort p (fun x =>
          { x with rxFrames := (if f.last then mapMod 0 x.rxFrames f.ltag (fun k => k + 1) else x.rxFrames) })))
      else s

/-- In-order flits leave the landing: a short-reach port delivers them, a long-reach port keeps them until their frame
authenticates (R289, R291). By fuel. -/
def takeInOrder (p : Nat) : Nat → State → State
  | 0, s => s
  | n + 1, s =>
    let x := s.port p
    match x.landing.find? (fun f => f.seqNo == x.rxSeq) with
    | none => s
    | some f =>
      let lr := x.cfg.role == 3
      let s1 := s.modPort p (fun x =>
        { x with landing := x.landing.filter (fun g => g.seqNo != f.seqNo), rxSeq := seqNext x.rxSeq
                 inord := (if lr then x.inord ++ [f] else x.inord) })
      takeInOrder p n (if lr then freeInord p (x.inord.length + 1) s1 else deliverFlit p s1 f)

/-- ACK releases the flits up to its SEQ from the replay buffer or window (R271, R277, R287). -/
def ackUpTo (p a : Nat) (s : State) : State := s.modPort p (fun x => { x with sent := x.sent.filter (fun f => seqBefore a f.seqNo) })

/-- Credits of a tag come back, never more than the tag's allocation (R283). -/
def creditBack (p ltag n : Nat) (s : State) : State :=
  s.modPort p (fun x => match x.tagEnt ltag with
    | some e => { x with credits := mapPut x.credits ltag (satAdd e.credits (x.credit ltag) n) }
    | none => x)

/-- `n` SEQs from `a` on. -/
def seqsFrom (a n : Nat) : List Nat := (List.range n).map (fun i => (a + i) % 4294967296)

/-- The SEQ after the furthest flit that has arrived. -/
def furthest (x : Port) : Nat :=
  x.landing.foldl (fun a g => if seqBefore a (seqNext g.seqNo) then seqNext g.seqNo else a) x.rxSeq

/-- The flits that the arrival of SEQ `q` shows to be missing (R289). -/
def newGaps (x : Port) (q : Nat) : List Nat :=
  let a := furthest x
  if seqBefore a q then seqsFrom a (seqDist a q) else []

/-- A data flit arrives: a copy of an earlier one is dropped; else it is kept in the landing, every flit found missing is asked for, and flits
leave in SEQ order (R271, R287, R289). -/
def takeData (p : Nat) (f : RxFlit) (s : State) : State :=
  let x := s.port p
  if seqBefore f.seqNo x.rxSeq || x.landing.any (fun g => g.seqNo == f.seqNo) then s
  else
    let head := flitHead f.seqNo f.ack f.ltag f.kind f.dest (b2n f.last + 2 * f.keysel) f.crTag f.crCount
    let s1 := keepSlot p true f.seqNo (head ++ f.raw) (s.modPort p (fun x => { x with landing := x.landing ++ [f] }))
    if f.seqNo == x.rxSeq then takeInOrder p (x.landing.length + 1) s1
    else (newGaps x f.seqNo).foldl (fun s q => askAgain p q s) s1

/-- The named flit is sent again from the replay buffer or window, and it alone (R271, R289); more than 1,000 within 1 ms retrain the port
(R277). -/
def replayFlit (p seqNo : Nat) (s : State) : State :=
  match (s.port p).sent.find? (fun f => f.seqNo == seqNo) with
  | none => s
  | some f =>
    let s1 := resendFlit p ((countWatch .retry p s).modPort p (fun x =>
      { x with replayFlits := inc32 x.replayFlits 1, replays := s.cue :: x.replays.filter (fun a => s.cue < a + cyclesMs) })) f
    if 1000 < (s1.port p).replays.length then portChanged (retrainPort p s1) else s1

/-- The peer says on tag 0xFFF whether it accepts a link tag (R293): the routes leave the port out for a tag that it does not. -/
def tagControl (p ltag : Nat) (ok : Bool) (s : State) : State :=
  s.modPort p (fun x => { x with barred := (if ok then x.barred.filter (fun g => g != ltag) else if x.barred.contains ltag then x.barred else ltag :: x.barred) })

/-- Is the port a long-reach port in UP? -/
def lrUp (s : State) (p : Nat) : Bool := (s.port p).st == .up && (s.port p).cfg.role == 3

/-- What a flit of a kind does beside its ACK and its credits (R271, R289, R293, R294): a marker of the peer is answered with the times of its
arrival and of the answer. -/
def takeFlit (p : Nat) (f : RxFlit) (s : State) : State :=
  if f.kind == 0 then takeData p f s
  else if f.kind == 2 then
    match f.control with
    | some (ltag, ok) => tagControl p ltag ok s
    | none => s
  else if f.kind == 3 then (if lrUp s p then sendLink p 3 "marker_answer" 0 0 [f.stamps.1, f.stamps.2] s else s)
  else if f.kind == 5 then replayFlit p f.ask s
  else s

/-- What a flit whose CRC holds does on arrival: its ACK and its credits count whatever its kind (R271, R277, R283). -/
def hearFlit (p : Nat) (f : RxFlit) (s : State) : State :=
  let s1 := if f.corrected then s.modPort p (fun x => { x with fecCorr := inc32 x.fecCorr 1 }) else s
  pump (takeFlit p f (creditBack p f.crTag f.crCount (ackUpTo p f.ack s1)))

/-- FLIT_RECEIVE (R271, R284, R289): a flit whose CRC fails is discarded and asked for again; any other does what its header and its kind
say. -/
def execFlitReceive (p : Nat) (f : RxFlit) (s : State) : Host.Outcome State Fault Refusal :=
  engine (fun s => if (s.port p).st != .up then s else if !f.crcOk then askAgain p f.seqNo s else hearFlit p f s) s

/-- REPLAY_REQUEST: the peer asks for a flit again (R271, R289). -/
def execReplayRequest (p seqNo : Nat) (s : State) : Host.Outcome State Fault Refusal :=
  engine (fun s => if (s.port p).st != .up then s else replayFlit p seqNo s) s

/-- CREDIT_RETURN: the ACK of a received flit releases flits up to its SEQ, and its CR fields return credits (R271, R277, R283). -/
def execCreditReturn (p : Nat) (ack : Option Nat) (ltag n : Nat) (s : State) : Host.Outcome State Fault Refusal :=
  engine (fun s =>
    if (s.port p).st != .up then s
    else
      pump (creditBack p ltag n (match ack with
        | some a => ackUpTo p a s
        | none => s))) s

/-- LR_ACK_TIMER: a long-reach receiver acknowledges in order (R289). -/
def execLrAckTimer (p : Nat) (s : State) : Host.Outcome State Fault Refusal :=
  engine (fun s =>
    if lrUp s p then
      sendLink p 1 "ack" 0 0 [ackSeq (s.port p)] (s.modPort p (fun x => { x with acked := ackSeq x }))
    else s) s

/-- The flits of the oldest frame of a tag in the landing, up to its LAST flit (R291); none while it is incomplete. -/
def frameOf (ltag : Nat) : List RxFlit → Option (List RxFlit)
  | [] => none
  | f :: fs =>
    if f.ltag != ltag then frameOf ltag fs
    else if f.last then some [f]
    else match frameOf ltag fs with
      | some r => some (f :: r)
      | none => none

/-- A failed frame is asked for again: the port's in-order point goes back to its first flit, and later flits wait in the landing
(R289, R293). -/
def askFrame (p : Nat) (fr rest : List RxFlit) (s : State) : State :=
  match fr with
  | [] => s
  | f :: _ =>
    fr.foldl (fun s g => askAgain p g.seqNo s)
      (s.modPort p (fun x => { x with inord := [], landing := rest ++ x.landing, rxSeq := f.seqNo }))

/-- FRAME_AUTHENTICATE: the complete frame at the head of the landing is checked under the key slot that KEYSEL names; `ok` is the outcome of
the check, and a slot that holds no key fails (R291 to R293). Its flits are delivered in order; a failed frame is asked for again, and a
third failure stops the tag on the port. -/
def execFrameAuthenticate (p ltag : Nat) (ok : Bool) (s : State) : Host.Outcome State Fault Refusal :=
  engine (fun s =>
    let x := s.port p
    match x.inord.head?, frameOf ltag x.inord with
    | some h, some fr =>
      let rest := x.inord.filter (fun f => !fr.contains f)
      if h.ltag != ltag then s
      else if ok && (mapFind x.keys (2 * ltag + h.keysel)).isSome then
        freeInord p (rest.length + 1)
          (fr.foldl (deliverFlit p) (s.modPort p (fun x =>
            { x with inord := rest, authFails := mapDel x.authFails ltag, rxFrames := mapMod 0 x.rxFrames ltag (fun k => k + 1) })))
      else
        let n := mapGet 0 x.authFails ltag + 1
        let s1 := s.modPort p (fun x => { x with authCnt := inc16 x.authCnt, lrAuth := true })
        if n < 3 then askFrame p fr rest (s1.modPort p (fun x => { x with authFails := mapPut x.authFails ltag n }))
        else
          let s2 := fr.foldl (fun s f => returnCredit p f.ltag s)
            (s1.modPort p (fun x =>
              { x with inord := rest, authFails := mapDel x.authFails ltag, barred := (0x1000 + ltag) :: x.barred
                       rxFrames := mapMod 0 x.rxFrames ltag (fun k => k + 1) }))
          freeInord p (rest.length + 1)
            (raiseModule evLrAuth (leBytes 1 p ++ leBytes 2 ltag) (sendLink p 2 "tag_stopped" 0 0 [ltag] s2))
    | _, _ => s) s

/-! ### Ranging (R294, R295) -/

/-- Unit intervals of the symbol clock in ps, to the nearest: 1,000 / 112 ps each (R294). -/
def uiPs (n : Int) : Int := (n * 1000 * 2 + 112) / 224

/-- RANGING_EXCHANGE: timestamps in unit intervals of the symbol clock; twice the one-way delay is kept with the latest 4,096
(R294). At a follower whose parent port it is, the exchange is one of the Cue too (R311). -/
def execRangingExchange (p t1 t2 t3 t4 : Nat) (s : State) : Host.Outcome State Fault Refusal :=
  engine (fun s =>
    if lrUp s p then
      let d : Int := ((t4 : Int) - t1) - ((t3 : Int) - t2)
      let s1 := sendLink p 3 "marker" 0 0 [] (s.modPort p (fun x => { x with delays := (d :: x.delays).take 4096 }))
      if !s.cueRegs.master && s.cueRegs.parent == p then takeEstimate (cueOffset p (uiPs t1) (uiPs t2) (uiPs t3) (uiPs t4)) s1 else s1
    else s) s

/-- The mean one-way delay of exchanges in ps, rounded to the nearest: a unit interval is 1,000 / 112 ps (R294). -/
def meanPs (ds : List Int) : Int :=
  let n : Int := ds.length
  let sum := ds.foldl (· + ·) 0
  if n == 0 then 0 else (sum * 1000 * 2 + 224 * n) / (448 * n)

/-- Divide to the nearest integer. -/
def nearest (a b : Nat) : Nat := if b == 0 then 0 else (2 * a + b) / (2 * b)

/-- LEN_MM = DELAY_PS x c / GIDX, to the nearest millimetre (R294). -/
def lenMm (ps gidx : Nat) : Nat :=
  match f32Val (BitVec.ofNat 32 gidx) with
  | .fin _ m e => if e < 0 then nearest (ps * 299792458 * 2 ^ (-e).toNat) (1000000000 * m) else nearest (ps * 299792458) (1000000000 * m * 2 ^ e.toNat)
  | _ => 0

/-- RANGING_RESULT: every RANGE_S seconds the port takes the mean of the exchanges, less the internal delay and EXT_PS, and writes
DELAY_PS and LEN_MM; the first result after a casting sets the reference, and a later one that differs by more than 100 mm
raises RANGE_SHIFT once for each setting of the reference (R294, R295). -/
def execRangingResult (p : Nat) (s : State) : Host.Outcome State Fault Refusal :=
  engine (fun s =>
    let x := s.port p
    if lrUp s p && !x.delays.isEmpty && x.resultAt + x.rangeS * 1000 * cyclesMs ≤ s.cue then
      let ps := (meanPs x.delays - (Config.portDelay p : Int) - x.extPs).toNat % 2 ^ 32
      let len := lenMm ps x.gidx % 2 ^ 32
      let s1 := s.modPort p (fun x => { x with delayPs := ps, lenMm := len, resultAt := s.cue })
      if !x.refSet then s1.modPort p (fun x => { x with refMm := len, refSet := true, shifted := false })
      else
        let diff := if len < x.refMm then x.refMm - len else len - x.refMm
        if 100 < diff && !x.shifted then
          raiseModule evRangeShift (leBytes 1 p ++ leBytes 4 len ++ leBytes 4 x.refMm)
            (s1.modPort p (fun x => { x with rangeShift := true, shifted := true }))
        else s1
    else s) s

/-- ACCEPT: copies LEN_MM into REF_MM; long-reach ports only (R295, R301). -/
def execAccept (p : Nat) (s : State) : Host.Outcome State Fault Refusal :=
  regWrite (fun s => if (s.port p).cfg.role == 3 then
    s.modPort p (fun x => { x with refMm := x.lenMm, refSet := true, shifted := false }) else s) s

/-- REF_MM_WRITE: the host sets the reference length, and RANGE_SHIFT may be raised again (R295). -/
def execRefMmWrite (p v : Nat) (s : State) : Host.Outcome State Fault Refusal :=
  regWrite (fun s => if p == 16 || p == 17 then
    s.modPort p (fun x => { x with refMm := v % 2 ^ 32, refSet := true, shifted := false }) else s) s

end Sys2Proof.Machine
end

