-- ==== Sys2Proof/Machine/LrnOps.lean ====
section
/-! DEFINITION. The step verdict (R177 to R183): contributions and their tree, the root's decision, and applying a verdict. -/

namespace Sys2Proof.Machine

/-! ### Contributions -/

/-- The verdict tree of troupe `t`. -/
def verdictTree (s : State) (t : Nat) : Option (TreeRec × GroupRec × Nat) := treeAt s (s.lrn t).cfg.vTree t

/-- Does the counter check of R204 fail, or TRP_LRN_STEP differ, for step n (R178)? -/
def stepSkew (l : Lrn) (n : Nat) : Bool :=
  l.regs.step != n ||
  l.gstates.any (fun e => e.2.last != 0xFFFFFFFFFFFFFFFF && n ≤ e.2.last) ||
  l.groups.any (fun r => !GroupParam.frozen r && (r.rule == 1 || r.rule == 3) && biasCount r n < 1) ||
  l.near.any (fun r => r.damaged)

/-- Combine two contributions at a node (R172, R177). -/
def joinContrib (a b : VContrib) : VContrib :=
  { step := a.step, sumsq := (f32Add (BitVec.ofNat 32 a.sumsq) (BitVec.ofNat 32 b.sumsq)).toNat, nf := a.nf || b.nf
    skew := a.skew || b.skew || a.step != b.step || a.recs != b.recs
    count := (if b.count < a.count then b.count else a.count), recs := a.recs
    countMax := (if a.countMax < b.countMax then b.countMax else a.countMax)
    stats := (List.range (if a.stats.length < b.stats.length then b.stats.length else a.stats.length)).map (fun i =>
      joinStat (nth {} a.stats i) (nth {} b.stats i)) }

/-- The bytes of a contribution's statistics. -/
def statsBytes (l : List GovStat) : List Byte := l.flatMap statBytes

/-- The words of a contribution's header in a message. -/
def contribVals (v : VContrib) : List Nat := [v.step, v.sumsq, b2n v.nf + 2 * b2n v.skew, v.count, v.recs, v.countMax]

/-- Pass the verdict node's contribution on once its own and all its children's are there (R177). -/
def tryVerdict (t : Nat) (s : State) : State :=
  match verdictTree s t with
  | none => s
  | some (tr, g, r) =>
    let l := s.lrn t
    let kids := treeKids tr r
    match l.vOwn with
    | none => s
    | some own =>
      if !kids.all (fun k => (mapFind l.vKids k).isSome) then s
      else
        let ks := kids.map (fun k => mapGet {} l.vKids k)
        let p := (tr.ent r).selfPos
        match ks.take p ++ [own] ++ ks.drop p with
        | [] => s
        | x :: xs =>
          let c := xs.foldl joinContrib x
          let s1 := s.modLrn t (fun (l : Lrn) => { l with vOwn := none, vKids := [] })
          if r == tr.root then s1.modLrn t (fun (l : Lrn) => { l with vRoot := some c })
          else
            let m := nth (0, 0) g.members (tr.ent r).parent
            sendFab { kind := "verdict_up", dest := m.1, vals := [m.2, r, tr.tchk] ++ contribVals c, data := statsBytes c.stats } s1

/-- Post a contribution: the module adds SKEW, the statistics and their NF (R177, R178). A troupe that a substitution left unfilled posts none
(R372). -/
def postContrib (t : Nat) (v : VContrib) (s : State) : State :=
  if s.ckpt.sub.unfilled.contains t then s
  else
  let l := s.lrn t
  let stats := (List.range l.binds.length).map (fun i => mapGet {} l.stats i)
  let v1 := { v with nf := v.nf || stats.any (fun g => g.nf), skew := stepSkew l v.step, recs := l.binds.length, stats := stats }
  tryVerdict t (s.modLrn t (fun (l : Lrn) =>
    { l with vOwn := some v1, posted := some (v.step, s.cue), stats := [], lateSent := false }))

/-- A child's contribution reaches the verdict node (R177); one over another tree is discarded, and CUE_EVT.TREE and the event tell of it
(R310). -/
def verdictChild (t child tchk : Nat) (v : VContrib) (s : State) : State :=
  match verdictTree s t with
  | none => s
  | some (tr, g, r) =>
    if !(treeKids tr r).contains child then s
    else if tchk != tr.tchk then
      raiseModule evTreeMismatch (leBytes 2 (s.lrn t).cfg.vTree ++ leBytes 2 (nth (0, 0) g.members child).1) { s with cueRegs.tree := true }
    else tryVerdict t (s.modLrn t (fun (l : Lrn) => { l with vKids := mapPut l.vKids child v }))

/-- The contribution that a troupe posts with its SUMSQ: COUNT, COUNT_MAX and NF from the reduced shards that it received (R178). -/
def shardContrib (l : Lrn) (sumsq : Nat) : VContrib :=
  let counts := l.shardIn.map (fun e => e.2.1)
  let low := match counts with
    | [] => 0
    | a :: more => more.foldl min a
  { step := l.cmdStep, sumsq := sumsq, nf := l.shardIn.any (fun e => e.2.2), count := low, countMax := counts.foldl max 0 }

/-! ### The decision at the root (R179, R180) -/

/-- REASONS: bit (code - 1) of every condition that holds. -/
def skipReasons (c : LrnCfg) (v : VContrib) (norm gfac : F32) (host : Bool) : Nat :=
  b2n v.skew + 2 * b2n (v.count != v.countMax) + 4 * b2n (v.count < c.countFloor) + 8 * b2n v.nf +
    16 * b2n (!v.nf && !(f32Finite (BitVec.ofNat 32 v.sumsq) && f32Finite norm && f32Finite gfac)) + 32 * b2n host

/-- The lowest code of a set of reasons; 0 for none. -/
def lowReason (r : Nat) : Nat :=
  if bitOf r 0 then 1 else if bitOf r 1 then 2 else if bitOf r 2 then 3 else if bitOf r 3 then 4 else if bitOf r 4 then 5
  else if bitOf r 5 then 6 else 0

/-- The verdict of a combined contribution (R179, R181). -/
def decideVerdict (c : LrnCfg) (v : VContrib) (host : Bool) (now : Nat) : VerdictRec :=
  let cnt := f32OfNat v.count
  let norm := if v.count == 0 then 0 else f32Div (f32Sqrt (BitVec.ofNat 32 v.sumsq)) cnt
  let clip := if c.clipC == 0x7F800000 then f32One
    else f32Min f32One (f32Div (BitVec.ofNat 32 c.clipC) (f32Add norm (BitVec.ofNat 32 c.clipEps)))
  let gfac := if v.count == 0 then 0 else f32Div clip cnt
  let rs := skipReasons c v norm gfac host
  { step := v.step, skip := rs != 0, reason := lowReason rs, reasons := rs, count := v.count, countMax := v.countMax
    expected := c.expected, sumsq := v.sumsq, norm := norm.toNat, clip := clip.toNat, gfac := gfac.toNat, tRoot := now
    nfRecs := (v.stats.filter (fun g => g.nf)).length, satRecs := (v.stats.filter (fun g => g.sat)).length, stats := v.stats }

/-- Has the root committed step n (R180)? -/
def rootCommitted (l : Lrn) (n : Nat) : Bool :=
  n < l.regs.step || (match l.decided with
    | some d => d.step == n && !d.skip
    | none => false)

/-- The root decides: registered skips of the step are taken and complete (R180). -/
def decideRoot (t : Nat) (s : State) : State :=
  let l := s.lrn t
  match l.vRoot with
  | none => s
  | some v =>
    let taken := l.skips.filter (fun e => e.2 == v.step)
    let d := decideVerdict l.cfg v (!taken.isEmpty) s.cue
    let s1 := s.modLrn t (fun (l : Lrn) => { l with vRoot := none, decided := some d, skips := l.skips.filter (fun e => e.2 != v.step) })
    taken.foldl (fun s e => complete e.1 opLrnSkip stSkipTaken s) s1

/-! ### Applying a verdict (R181) -/

/-- The 64 bytes of a verdict record. -/
def verdictBytes (v : VerdictRec) : List Byte :=
  leBytes 8 v.step ++ leBytes 1 (b2n v.skip) ++ leBytes 1 v.reason ++ leBytes 2 v.reasons ++ leBytes 4 v.count ++ leBytes 4 v.countMax ++
    leBytes 4 v.expected ++ leBytes 4 v.sumsq ++ leBytes 4 v.norm ++ leBytes 4 v.clip ++ leBytes 4 v.gfac ++ leBytes 8 v.tRoot ++
    leBytes 4 v.nfRecs ++ leBytes 4 v.satRecs ++ leBytes 8 0

/-- Send the verdict down the tree (R181). -/
def forwardVerdict (t : Nat) (v : VerdictRec) (s : State) : State :=
  match verdictTree s t with
  | none => s
  | some (tr, g, r) =>
    (treeKids tr r).foldl (fun s k =>
      let m := nth (0, 0) g.members k
      sendFab { kind := "verdict_down", dest := m.1, vals := [m.2], data := verdictBytes v ++ statsBytes v.stats } s) s

/-- The verdict registers (R186). -/
def loadVerdict (v : VerdictRec) (r : LrnRegs) : LrnRegs :=
  { r with vStep := v.step, vCount := v.count, vReasons := v.reasons, vReason := v.reason, vValid := true, vSkip := v.skip
           skip := r.skip || v.skip, commit := r.commit || !v.skip, skipCnt := (if v.skip then inc16 r.skipCnt else r.skipCnt)
           updatedOps := 0, frozenOps := 0 }

/-- The governor update of every binding, and the scales halved (R173 to R175). -/
def updateGov (v : VerdictRec) (l : Lrn) : Lrn :=
  let rows := (List.range l.binds.length).map (fun i =>
    govUpdate l.cfg.lossMax l.cfg.narrowHold v.step (bindGov (nth {} l.binds i)) (nth {} l.gov i) (nth {} v.stats i))
  let halved := (rows.filter (fun r => r.2)).length
  { l with used := l.gov.map (fun g => (g.fmt, g.s)), gov := rows.map (·.1)
           regs := { l.regs with halveCnt := satAdd 0xFFFF l.regs.halveCnt halved } }

/-- One held change of a group takes effect (R189). -/
def applyGset (t : Nat) (s : State) (g : HeldGset) : State :=
  let s1 := s.modLrn t (fun (l : Lrn) =>
    { l with groups := setNth l.groups g.group g.r
             regs := { l.regs with gsetCnt := inc16 l.regs.gsetCnt, gsetDone := true } })
  complete g.hdr opOptGset stGsetDone (syncGroup t g.group s1)

/-- The held changes of step n take effect in registration order (R189). -/
def applyGsets (t n : Nat) (s : State) : State :=
  let due := (s.lrn t).gsets.filter (fun g => g.n == n)
  due.foldl (applyGset t) (s.modLrn t (fun (l : Lrn) => { l with gsets := l.gsets.filter (fun g => g.n != n) }))

/-- The constants of step n for every group, and GFAC (R190). -/
def loadConsts (t : Nat) (v : VerdictRec) (s : State) : State :=
  let l := s.lrn t
  let cs := (List.range l.groups.length).map (fun g =>
    let r := nth {} l.groups g
    (g, groupConsts (factorOf (mapGet {} s.prm (l.cfg.prmBase + r.sched)) v.step) r v.step))
  s.modLrn t (fun (l : Lrn) => { l with consts := cs, gfac := BitVec.ofNat 32 v.gfac })

/-- Does a commit of step n arm a fly-in by FLY_EVERY (R233)? -/
def flyDue (c : LrnCfg) (n : Nat) : Bool :=
  0 < c.flyEvery && ((n : Int) - c.flyBase + 1) % (c.flyEvery : Int) == 0

/-- Does a Prompter slot of kind ACTION fire at the commit of step n (R350)? -/
def actionDue (x : PromSlot) (n : Nat) : Bool :=
  x.kind == 2 && x.warm == 1 && x.start ≤ n + 1 && (n + 1 - x.start) % (if x.period == 0 then 1 else x.period) == 0

/-- Arm the jobs of troupe `t` when one of its ACTION slots fires (R349, R350). -/
def fireActions (t n : Nat) (s : State) : State :=
  let c := (s.lrn t).cfg
  if (List.range c.prmCount).any (fun i => actionDue (mapGet {} s.prm (c.prmBase + i)) n) then
    (s.ckpt.jobs.filter (fun e => e.2.plan.troupes.any (fun p => p.t == t))).foldl (fun s e => armJob e.1 s) s
  else s

/-- The learn role of an alternating troupe ends: a fly-in is armed (R240 step 3). -/
def endLearn (t : Nat) (s : State) : State :=
  s.modTroupe t (fun (x : Troupe) =>
    { x with
      lrn.armed := true
      gen.alt := { x.gen.alt with flying := true, stopping := false } })

/-- What a commit of step n changes: TRP_LRN_STEP, the groups' states, the fly-in, an alternating troupe's phase, and the actions
(R179, R203, R233, R240, R350). -/
def commitStep (t n : Nat) (s : State) : State :=
  let s1 := s.modLrn t (fun (l : Lrn) =>
    let gs := (List.range l.groups.length).foldl (fun m g =>
      if GroupParam.frozen (nth {} l.groups g) then m
      else mapMod {} m g (fun x => { last := n, updates := (x.updates + 1) % 2 ^ 64 })) l.gstates
    { l with regs := { l.regs with step := (l.regs.step + 1) % 2 ^ 64 }, gstates := gs
             armed := l.armed || flyDue l.cfg n || !l.flyCmds.isEmpty, flyHdrs := l.flyHdrs ++ l.flyCmds, flyCmds := [] })
  let x := s1.troupe t
  let s2 := if x.gen.vr.alt && x.regs.role == 2 && !x.gen.alt.flying then
      let k := x.gen.alt.commits + 1
      let s3 := s1.modGen t (fun (g : Gen) => { g with alt := { g.alt with commits := k } })
      if x.gen.cfg.altSteps ≤ k then endLearn t s3 else s3
    else s1
  fireActions t n s2

/-- The completion entry of a Whetstone command (R210). -/
def whetBytes (n record stack status elems now : Nat) : List Byte :=
  leBytes 8 n ++ leBytes 4 record ++ leBytes 1 stack ++ leBytes 1 status ++ leBytes 1 (b2n (status == 1) + 2 * b2n (status == 2)) ++
    leBytes 1 0 ++ leBytes 8 elems ++ leBytes 8 now

/-- Write the completion entry of range `j` (R210). -/
def putWhet (t j n status elems : Nat) (r : NearRange) (s : State) : State :=
  windowWrite t ((s.lrn t).cfg.optAddr + 0x1200 + 32 * j) (whetBytes n r.record r.stack status elems s.cue) s

/-- The oldest Whetstone command of range `j` ends with a status (R208, R210): its entry is written, and the last one of its step raises
WSEM. -/
def endWhet (t j status elems : Nat) (s : State) : State :=
  let l := s.lrn t
  match l.near[j]? with
  | none => s
  | some r =>
    match r.cmds with
    | [] => s
    | k :: rest =>
      let r' : NearRange := { r with cmds := rest, last := (if status == 0 then k.step else r.last), damaged := r.damaged || status == 3 }
      let s1 := s.modLrn t (fun (l : Lrn) =>
        { l with near := setNth l.near j r'
                 regs := { l.regs with
                   updatedOps := (if status == 0 then satInc 0xFFFFFFFF l.regs.updatedOps else l.regs.updatedOps)
                   frozenOps := (if status == 1 then satInc 0xFFFFFFFF l.regs.frozenOps else l.regs.frozenOps)
                   frozenCnt := (if status == 1 then inc16 l.regs.frozenCnt else l.regs.frozenCnt)
                   frozen := l.regs.frozen || status == 1
                   whetMem := l.regs.whetMem || status == 3 } })
      let s2 := settleWhet r.stack (putWhet t j k.step status elems r s1)
      if (s2.lrn t).near.all (fun r => r.cmds.all (fun q => q.step != k.step)) then semAdd t l.cfg.wsem 1 s2 else s2

/-- The Whetstone command of step `n` for a NEAR range, with the constants, format and scale of its step (R190, R208, R209). -/
def whetCmd (l : Lrn) (n : Nat) (r : NearRange) : WhetCmd :=
  let g := (nth {} l.binds r.record).group
  let u := nth (0x01, 0x3F800000) l.used r.record
  { step := n, frozen := GroupParam.frozen (nth {} l.groups g), const := mapGet {} l.consts g, gfac := l.gfac, fmt := u.1, scale := u.2 }

/-- The hub issues the Whetstone commands of step n behind those that are outstanding; on skip they complete at once with nothing written
(R208). -/
def issueWhets (t n : Nat) (skip : Bool) (s : State) : State :=
  let l := s.lrn t
  if skip then
    let s1 := (List.zip (List.range l.near.length) l.near).foldl (fun s e => putWhet t e.1 n 2 0 e.2 s) s
    if l.near.isEmpty then s1 else semAdd t l.cfg.wsem 1 s1
  else
    (l.near.map (fun r => r.stack)).foldl (fun s k => settleWhet k s)
      (s.modLrn t (fun (l : Lrn) => { l with near := l.near.map (fun r => { r with cmds := r.cmds ++ [whetCmd l n r] }) }))

/-- A troupe applies a verdict (R181): record and statistics, registers, governor, held changes, constants, the commit, the
Whetstone commands, and VSEM; then a contribution that waited is posted (R177). -/
def applyVerdict (t : Nat) (v : VerdictRec) (s : State) : State :=
  let c := (s.lrn t).cfg
  let s1 := troupePut s t c.verdictAddr (verdictBytes v ++ statsBytes v.stats)
  let s2 := s1.modLrn t (fun (l : Lrn) => updateGov v
    { l with
      regs := loadVerdict v l.regs, posted := none, decided := none
      midStep := l.midStep && (match l.posted with
        | some p => l.cmdStep != p.1
        | none => false) })
  let s3 := loadConsts t v (applyGsets t v.step (syncGov t s2))
  let s4 := if v.skip then s3 else commitStep t v.step s3
  let x := s4.troupe t
  let s5 := if x.gen.vr.alt && x.regs.role == 2 && x.gen.alt.stopping then endLearn t s4 else s4
  let s6 := semAdd t c.vsem 1 (syncOpt t (issueWhets t v.step v.skip s5))
  match (s6.lrn t).heldPost with
  | h :: more => postContrib t h (s6.modLrn t (fun (l : Lrn) => { l with heldPost := more }))
  | [] => s6

end Sys2Proof.Machine
end

