-- ==== Sys2Proof/Machine/Optm.lean ====
section
/-! DEFINITION. The OPTM class (R182, R192 to R202). -/

namespace Sys2Proof.Machine

/-- The OPTM operations (R199). -/
inductive OptOp where
  | sgdm | adam | lion | omom | oorth
  deriving DecidableEq, Repr

/-- The OP of an operation (R199). -/
def OptOp.code : OptOp → Nat
  | .sgdm => 0 | .adam => 1 | .lion => 2 | .omom => 3 | .oorth => 4

/-- The operation of an OP. -/
def OptOp.ofCode (n : Nat) : OptOp := if n == 0 then .sgdm else if n == 1 then .adam else if n == 2 then .lion else if n == 3 then .omom else .oorth

/-- Does the operation belong to the rule of a group (R202)? -/
def OptOp.fits (o : OptOp) (fb : Bool) (rule : Nat) : Bool :=
  match o with
  | .sgdm => rule == 0
  | .adam => if fb then rule == 3 else rule == 1
  | .lion => rule == 2
  | .omom => rule == 3
  | .oorth => rule == 3

/-- Cycles of the operation on 64 elements (R199). -/
def OptOp.beat : OptOp → Nat
  | .sgdm => 5 | .adam => 18 | .lion => 6 | .omom => 3 | .oorth => 3

/-- IMM.GROUP. -/
def optGroup (w : VecWord) : Nat := w.imm % 256
/-- IMM.FB. -/
def optFb (w : VecWord) : Bool := bitOf w.imm 12
/-- The scalar register that receives the outcome. -/
def optOres (w : VecWord) : Nat := bitsOf w.imm 16 13
/-- The step that the instruction names. -/
def optStep (k : Core) (w : VecWord) : Nat := (k.sGet (bitsOf w.imm 11 8)).toNat

/-- The refusal of an OPTM instruction at issue, in the order of R202; 0 for none. -/
def optRefusal (s : State) (c : Nat) (o : OptOp) (w : VecWord) : Nat :=
  let k := s.core c
  let l := s.lrn k.regs.troupe
  let top := if o == .adam then w.vd + 2 else w.vd + 1
  if !vlOk w || w.imm / 2 ^ 17 != 0 || (optFb w && o != .adam) || 31 < top then rfOpInvalid
  else if l.groups.length ≤ optGroup w || !o.fits (optFb w) (nth {} l.groups (optGroup w)).rule ||
      GroupParam.near (nth {} l.groups (optGroup w)) then rfGroupRule
  else if l.regs.vValid && optStep k w < l.regs.vStep then rfVerdictStep
  else 0

/-- Does an OPTM instruction wait for its verdict (R182, R192)? -/
def optWaits (l : Lrn) (n : Nat) : Bool :=
  !(l.regs.vValid && l.regs.vStep == n) || (match l.posted with
    | some p => p.1 == n
    | none => false)

/-- Does the fly-in that is reading have a shard of the group among its sources (R234)? -/
def flyReads (l : Lrn) (g : Nat) : Bool :=
  l.flying.isSome && l.cfg.plan.any (fun e => (nth {} l.binds e.record).group == g && (nth {} l.shards e.record).nblk != 0)

/-- Does an OPTM instruction wait for the fly-in: it would write master weights that are still to be read (R234)? -/
def optHeld (l : Lrn) (o : OptOp) (w : VecWord) : Bool :=
  o != .omom && !l.regs.vSkip && !GroupParam.frozen (nth {} l.groups (optGroup w)) && flyReads l (optGroup w)

/-- An update waits for the fly-in: counted once (R234). -/
def countStall (t who : Nat) (s : State) : State :=
  if (s.lrn t).stalled.contains who then s
  else s.modLrn t (fun (l : Lrn) =>
    { l with stalled := who :: l.stalled, regs := { l.regs with stall := true, stallCnt := inc16 l.regs.stallCnt } })

/-- The registers that an update leaves (R193, R195, R199). -/
def optWrite (o : OptOp) (k : Core) (l : Lrn) (w : VecWord) : Core :=
  let r := nth {} l.groups (optGroup w)
  let c := mapGet {} l.consts (optGroup w)
  let g := fun i => f32Mul l.gfac (k.vGet w.va i)
  let th := fun i => k.vGet w.vd i
  let m := fun i => k.vGet (w.vd + 1) i
  let v := fun i => k.vGet (w.vd + 2) i
  let at1 : VecWord := { w with vd := w.vd + 1 }
  let at2 : VecWord := { w with vd := w.vd + 2 }
  let atB : VecWord := { w with vd := w.vb }
  match o with
  | .sgdm =>
    let f := fun i => sgdmRule c (GroupParam.nest r) (g i) (th i) (m i)
    vecWrite (vecWrite k w (fun i => (f i).1)) at1 (fun i => (f i).2)
  | .adam =>
    let f := fun i => adamRule c (if optFb w then c.etaFb else c.eta) (g i) (th i) (m i) (v i)
    vecWrite (vecWrite (vecWrite k w (fun i => (f i).1)) at1 (fun i => (f i).2.1)) at2 (fun i => (f i).2.2)
  | .lion =>
    let f := fun i => lionRule c (g i) (th i) (m i)
    vecWrite (vecWrite k w (fun i => (f i).1)) at1 (fun i => (f i).2)
  | .omom =>
    let f := fun i => omomRule c (GroupParam.nest r) (g i) (m i)
    vecWrite (vecWrite k at1 (fun i => (f i).1)) atB (fun i => (f i).2)
  | .oorth => vecWrite k w (fun i => thetaStep c c.eta (th i) (k.vGet w.va i))

/-- What an issued OPTM instruction does: a skip and a frozen group write ORES alone (R200, R201). -/
def optBody (o : OptOp) (c : Nat) (w : VecWord) (s : State) : Issue :=
  let k := s.core c
  let t := k.regs.troupe
  let l := s.lrn t
  let code := optRefusal s c o w
  if code != 0 then .refuse code
  else if l.regs.vSkip then .ok (s.setCore c (k.sPut (optOres w) 2))
  else if GroupParam.frozen (nth {} l.groups (optGroup w)) then
    .ok ((s.setCore c (k.sPut (optOres w) 1)).modLregs t (fun (r : LrnRegs) =>
      { r with frozenOps := satInc 0xFFFFFFFF r.frozenOps, frozenCnt := inc16 r.frozenCnt, frozen := true }))
  else
    .ok (chargeVec c (ceilDiv w.vl 64 * o.beat)
      ((s.setCore c ((optWrite o k l w).sPut (optOres w) 0)).modLregs t (fun (r : LrnRegs) =>
        { r with updatedOps := satInc 0xFFFFFFFF r.updatedOps })))

/-- May an OPTM instruction of core `c` not issue yet: it waits for its verdict, or for a fly-in's reads (R182, R192, R234)? -/
def optBlocked (s : State) (c : Nat) (o : OptOp) (w : VecWord) : Bool :=
  let k := s.core c
  let l := s.lrn k.regs.troupe
  optRefusal s c o w == 0 && (optWaits l (optStep k w) || optHeld l o w)

/-- The core's sequencer is held by an OPTM instruction that may not issue (R50); a wait for a fly-in is counted (R234). -/
def holdOptm (o : OptOp) (c : Nat) (w : VecWord) (s : State) : State :=
  let k := s.core c
  let l := s.lrn k.regs.troupe
  let s1 := s.modRegs c (fun (r : CoreRegs) => { r with wait := .optm o.code w })
  if optWaits l (optStep k w) then s1 else countStall k.regs.troupe c s1

/-- An OPTM instruction: it holds the sequencer until its verdict and a fly-in's reads let it issue, and then issues (R182, R192, R234). -/
def optm (o : OptOp) (c : Nat) (w : VecWord) (s : State) : Host.Outcome State Fault Refusal :=
  if issues s c && optBlocked s c o w then nextS (holdOptm o c w s) else coreIssue c w.nd (optBody o c w) s

/-- A held OPTM instruction of core `c` issues when it may (R182, R192, R234). -/
def releaseCore (s : State) (c : Nat) : State :=
  match (s.core c).regs.wait with
  | .optm op w =>
    let o := OptOp.ofCode op
    if optBlocked s c o w then (if optWaits (s.lrn (s.core c).regs.troupe) (optStep (s.core c) w) then s else countStall (s.core c).regs.troupe c s)
    else
      let s1 := s.modRegs c (fun (r : CoreRegs) => { r with wait := .none })
      stateAfter s1 (coreIssue c w.nd (optBody o c w) s1)
  | _ => s

/-- Held OPTM instructions of troupe `t` issue as they may. -/
def releaseOptm (t : Nat) (s : State) : State := (troupeCores s t).foldl releaseCore s

/-- OSGDM (R193). -/
def execOsgdm (c : Nat) (w : VecWord) (s : State) : Host.Outcome State Fault Refusal := optm .sgdm c w s
/-- OADAM, and with FB the ORTHO fallback (R193, R198). -/
def execOadam (c : Nat) (w : VecWord) (s : State) : Host.Outcome State Fault Refusal := optm .adam c w s
/-- OLION (R193). -/
def execOlion (c : Nat) (w : VecWord) (s : State) : Host.Outcome State Fault Refusal := optm .lion c w s
/-- OMOM: step 1 of ORTHO (R195). -/
def execOmom (c : Nat) (w : VecWord) (s : State) : Host.Outcome State Fault Refusal := optm .omom c w s
/-- OORTH: step 5 of ORTHO (R195). -/
def execOorth (c : Nat) (w : VecWord) (s : State) : Host.Outcome State Fault Refusal := optm .oorth c w s

end Sys2Proof.Machine
end

