-- ==== Sys2Proof/Machine/Lrn.lean ====
section
/-! DEFINITION. The learner's commands (R166 to R186): bindings, contributions, the verdict, skips; and reductions' arrivals. -/

namespace Sys2Proof.Machine

/-- Is `t` a learner troupe? -/
def isLearner (s : State) (t : Nat) : Bool := s.hasTroupe t && (s.lrn t).cfg.present

/-- The module's learner troupe of a job: the one that the job's plan lists, else the troupe of the command's header (R180; assumption 22). -/
def jobLearner (s : State) (h : CmdHdr) (job : Nat) : Nat :=
  match s.ckpt.jobs.find? (fun e => e.2.plan.job == job && e.2.plan.troupes.any (fun p => isLearner s p.t)) with
  | some e => (match e.2.plan.troupes.find? (fun p => isLearner s p.t) with
    | some p => p.t
    | none => h.troupe)
  | none => h.troupe

/-- Are the fields of a binding record in range (R166)? -/
def bindFieldsOk (b : BindRecord) : Bool :=
  b.paramId < 2 ^ 32 && b.group < 256 && b.flags < 2 && (b.initFmt == 0x01 || b.initFmt == 0x10 || b.initFmt == 0x11) && b.rsv == 0 &&
  1 ≤ b.elems && b.elems ≤ 2 ^ 40 && b.elems == b.rows * b.cols && b.rows < 2 ^ 32 && b.cols < 2 ^ 32 &&
  b.gradAddr < 2 ^ 40 && b.shardAddr < 2 ^ 40 && b.initS % 2 ^ 23 == 0 && 1 ≤ b.initS / 2 ^ 23 && b.initS / 2 ^ 23 ≤ 254

/-- Do two bindings share a parameter or overlap in their gradients (R167)? -/
def bindClash (a b : BindRecord) : Bool :=
  a.paramId == b.paramId || (a.gradAddr < b.gradAddr + 4 * b.elems && b.gradAddr < a.gradAddr + 4 * a.elems)

/-- The 64 bytes of a binding record (R166). -/
def bindBytes (b : BindRecord) : List Byte :=
  leBytes 4 b.paramId ++ leBytes 1 b.group ++ leBytes 1 b.flags ++ leBytes 1 b.initFmt ++ leBytes 1 0 ++ leBytes 8 b.elems ++
    leBytes 8 b.gradAddr ++ leBytes 8 b.shardAddr ++ leBytes 4 b.initS ++ leBytes 4 b.rows ++ leBytes 4 b.cols ++ leBytes 20 0

/-- How a binding record is judged (R167, R187); 0 accepts it. A full table is judged last of R167's three. -/
def judgeBind (l : Lrn) (b : BindRecord) : Nat :=
  if !bindFieldsOk b then stBindInvalid
  else if l.binds.any (bindClash b) then stBindTwice
  else if 4096 ≤ l.binds.length then stBindFull
  else if l.groups.length ≤ b.group then stOptParam
  else stOk

/-- The shard record that stands in troupe `t`'s memory for binding `i` (R205). -/
def shardAt (s : State) (t i : Nat) : ShardRec :=
  match troupeRead s t ((s.lrn t).cfg.shardRecAddr + 64 * i) 64 with
  | none => {}
  | some b =>
    { theta := rawField b 0 8, m := rawField b 8 8, v := rawField b 0x10 8, first := rawField b 0x18 8, nblk := rawField b 0x20 8
      whole := bitOf (rawField b 0x28 1) 0, rsv := rawField b 0x28 1 / 2 + rawField b 0x29 23 }

/-- LRN_BIND: add a binding record (R167); its optimizer shard record is the one that stands at its place (R205; assumption 22). -/
def execLrnBind (h : CmdHdr) (r : BindRecord) (s : State) : Host.Outcome State Fault Refusal :=
  hostCmd h opLrnBind (fun s =>
    let t := h.troupe
    let l := s.lrn t
    let sh := shardAt s t l.binds.length
    let st := if isLearner s t then judgeBind l r else stBindInvalid
    if st == stOk && sh.rsv != 0 then complete h opLrnBind stOptParam s
    else if st == stOk then
      let s1 := s.modLrn t (fun (l : Lrn) => { l with binds := l.binds ++ [r], gov := l.gov ++ [govInit r], shards := l.shards ++ [sh] })
      complete h opLrnBind stOk (syncGov t (windowWrite t (l.cfg.bindAddr + 64 * l.binds.length) (bindBytes r) s1))
    else complete h opLrnBind st s) s

/-- REDUCTION_CONTRIBUTION: a child's contribution arrives at a node of a collective or of the verdict tree (R298, R177). -/
def execReductionContribution (t : Nat) (m : UpMsg) (s : State) : Host.Outcome State Fault Refusal :=
  engine (fun s =>
    match m with
    | .coll tree inst child tchk present count data => settleLocal (contribute t tree inst child tchk present { count := count, data := data } s)
    | .verdict child tchk v => verdictChild t child tchk v s) s

/-- VERDICT_CONTRIBUTION: the troupe posts its contribution for the step of its step command, with the SUMSQ that its programs formed; it
waits while an earlier one has no verdict (R177, R178). -/
def execVerdictContribution (t sumsq : Nat) (s : State) : Host.Outcome State Fault Refusal :=
  engine (fun s =>
    if !isLearner s t then s
    else
      let l := s.lrn t
      let v := shardContrib l sumsq
      if l.posted.isSome then s.modLrn t (fun (l : Lrn) => { l with heldPost := l.heldPost ++ [v] }) else postContrib t v s) s

/-- ROOT_DECISION: the verdict root decides (R179). -/
def execRootDecision (t : Nat) (s : State) : Host.Outcome State Fault Refusal := engine (decideRoot t) s

/-- The verdict that troupe `t` may apply: its own decision at the root, else the one that comes down once its contribution has gone up; it
bears the root's step, which after a skew differs from the one posted (R178, R181). -/
def dueVerdict (s : State) (t : Nat) (v : VerdictRec) : Option VerdictRec :=
  let l := s.lrn t
  match l.decided with
  | some d => some d
  | none =>
    match l.posted with
    | some _ => if l.vOwn.isNone && l.vRoot.isNone then some v else none
    | none => none

/-- VERDICT_APPLY: a troupe applies a verdict and passes it to its children (R181), and OPTM instructions that waited for it issue (R182). -/
def execVerdictApply (t : Nat) (v : VerdictRec) (s : State) : Host.Outcome State Fault Refusal :=
  engine (fun s =>
    match dueVerdict s t v with
    | some d => releaseOptm t (applyVerdict t d (forwardVerdict t d s))
    | none => s) s

/-- VERDICT_LATE: VERDICT_TIMEOUT has passed since the contribution was posted (R183). -/
def execVerdictLate (t : Nat) (s : State) : Host.Outcome State Fault Refusal :=
  engine (fun s =>
    let l := s.lrn t
    match l.posted with
    | some (n, at_) =>
      if !l.lateSent && at_ + l.cfg.verdictTimeout * cyclesMs ≤ s.cue then
        raiseEvent evVerdictLate t (leBytes 8 n)
          (s.modLrn t (fun (l : Lrn) => { l with lateSent := true, regs := { l.regs with verdictLate := true } }))
      else s
    | none => s) s

/-- LRN_SKIP: register a skip of step `n` of a job (R180): at the verdict root held for the decision, or SKIP_LATE when the step has
committed; elsewhere it goes on to the root, which registers and completes it. -/
def execLrnSkip (h : CmdHdr) (job n : Nat) (s : State) : Host.Outcome State Fault Refusal :=
  hostCmd h opLrnSkip (fun s =>
    let t := jobLearner s h job
    if !isLearner s t then complete h opLrnSkip stCmdInvalid s
    else
      match verdictTree s t with
      | none => complete h opLrnSkip stCmdInvalid s
      | some (tr, g, r) =>
        if r == tr.root then
          if rootCommitted (s.lrn t) n then complete h opLrnSkip stSkipLate s
          else s.modLrn t (fun (l : Lrn) => { l with skips := l.skips ++ [(h, n)] })
        else
          let m := nth (0, 0) g.members tr.root
          sendFab { kind := "lrn_skip", dest := m.1, vals := [m.2, job, n, h.sq, h.slot, h.troupe, h.cmdId] } s) s

/-- LRN_EVT_CLR: the learner counters return to 0 (R186). -/
def execLrnEvtClr (t : Nat) (s : State) : Host.Outcome State Fault Refusal :=
  regWrite (fun s => if s.hasTroupe t then s.modLregs t (fun (r : LrnRegs) => { r with skipCnt := 0, lateCnt := 0, halveCnt := 0 }) else s) s

/-- Does the hub start steps of troupe `t`: a learner troupe in its learn role (R15), and not in step 4 of an alternating one (R240)? -/
def mayLearn (s : State) (t : Nat) : Bool :=
  let x := s.troupe t
  isLearner s t && (!x.gen.vr.alt || (x.regs.role == 2 && !x.gen.alt.flying))

/-- LEARNER_STEP_COMMAND: the step command starts step n; the troupe's next contribution carries it as STEP (R177). -/
def execLearnerStepCommand (t n : Nat) (s : State) : Host.Outcome State Fault Refusal :=
  engine (fun s => if mayLearn s t then s.modLrn t (fun (l : Lrn) => { l with cmdStep := n % 2 ^ 64, midStep := true }) else s) s

/-! ### Groups (R189) -/

/-- Does a change touch a field that OPT_GSET may not change? -/
def gsetFixed (a b : GroupParam) : Bool :=
  a.rule != b.rule || GroupParam.near a != GroupParam.near b || a.mfmt != b.mfmt || a.ofmt != b.ofmt || a.ckfmt != b.ckfmt

/-- How an OPT_GSET is judged (R189); 0 holds it. -/
def judgeGset (s : State) (t g n : Nat) (r : GroupParam) : Nat :=
  let l := s.lrn t
  if l.groups.length ≤ g then stGroupInvalid
  else if gsetFixed (nth {} l.groups g) r then stGsetFixed
  else if !groupOk s.prm l.cfg.prmBase l.cfg.prmCount r then stGroupInvalid
  else if !GroupParam.frozen r && (r.rule == 1 || r.rule == 3) && n < r.bcBase then stGroupInvalid
  else if n < l.regs.step then stGsetLate
  else if 16 ≤ l.gsets.length then stGsetFull
  else stOk

/-- OPT_GSET: hold a change of a group for step n (R189). -/
def execOptGset (h : CmdHdr) (g n : Nat) (r : GroupParam) (s : State) : Host.Outcome State Fault Refusal :=
  hostCmd h opOptGset (fun s =>
    let t := h.troupe
    let st := judgeGset s t g n r
    if st == stOk then s.modLrn t (fun (l : Lrn) => { l with gsets := l.gsets ++ [{ hdr := h, group := g, n := n, r := r }] })
    else
      complete h opOptGset st
        (if st == stGsetLate then s.modLregs t (fun (x : LrnRegs) => { x with gsetLate := true }) else s)) s

/-- OPT_EVT_CLR: FROZEN_CNT and GSET_CNT return to 0 (R217). -/
def execOptEvtClr (t : Nat) (s : State) : Host.Outcome State Fault Refusal :=
  regWrite (fun s => if s.hasTroupe t then s.modLregs t (fun (r : LrnRegs) => { r with frozenCnt := 0, gsetCnt := 0 }) else s) s

/-- WHET_STATUS_CLR: MEM_ERR_CNT of a stack returns to 0 (R218). -/
def execWhetStatusClr (n : Nat) (s : State) : Host.Outcome State Fault Refusal :=
  regWrite (fun s => if stackEnabled s n then s.modStack n (fun (k : Stack) => { k with memErrCnt := 0 }) else s) s

end Sys2Proof.Machine
end

