-- ==== Sys2Proof/Machine/Layout.lean ====
section
/-! DEFINITION. Where the elements and block scales of a tensor lie by LAYOUT (R235, R253): rows at a pitch, stationary tiles of
128 x 128, or such tiles transposed. -/

namespace Sys2Proof.Machine

/-- Bytes of one 128 x 128 tile with its block scales (R62). -/
def tileExtent (t : Word) : Nat := elemBytes t 128 128 + (if tagBS t then 512 else 0)

/-- The number of the tile that holds element (r, c): bands ascending, tiles of a band in ascending column order. -/
def tileOf (cols r c : Nat) : Nat := r / 128 * ceilDiv cols 128 + c / 128

/-- The bit offset of element (r, c) from the destination's start. -/
def eltBit (t : Word) (layout cols dpitch r c : Nat) : Nat :=
  let b := (tagFormat t).bits
  if layout == 0 then r * dpitch * 8 + c * b
  else if layout == 1 then tileOf cols r c * tileExtent t * 8 + (r % 128 * 128 + c % 128) * b
  else tileOf cols r c * tileExtent t * 8 + (c % 128 * 128 + r % 128) * b

/-- The byte offset of the scale of block q of row r. -/
def scaleOff (t : Word) (layout rows cols dpitch r q : Nat) : Nat :=
  let c := 32 * q
  if layout == 0 then rows * dpitch + r * ceilDiv cols 32 + q
  else if layout == 1 then tileOf cols r c * tileExtent t + elemBytes t 128 128 + r % 128 * 4 + q % 4
  else tileOf cols r c * tileExtent t + elemBytes t 128 128 + q % 4 * 128 + r % 128

/-- Bytes of one row of whole blocks (R21, R253). -/
def rowSpan (t : Word) (cols : Nat) : Nat := ceilDiv cols 32 * (tagFormat t).bytes 32

/-- Bytes that a tensor covers from its first to its last, gaps of the pitch included. -/
def layoutSpan (t : Word) (layout rows cols dpitch : Nat) : Nat :=
  if layout == 0 then
    if tagBS t then rows * dpitch + rows * ceilDiv cols 32
    else if rows == 0 then 0 else (rows - 1) * dpitch + rowSpan t cols
  else ceilDiv rows 128 * ceilDiv cols 128 * tileExtent t

/-- The pieces of a converted tensor by offset: `words` gives element words, `scales` the block scales by row and block. -/
def layoutPieces (t : Word) (layout rows cols dpitch : Nat) (words scales : List (List Nat)) : List (Nat × List Byte) :=
  let f := tagFormat t
  if layout == 0 then
    (List.range rows).map (fun r =>
      (r * dpitch, packElts f ((List.range (32 * ceilDiv cols 32)).map (fun c => nth 0 (nth [] words r) c)))) ++
    (if tagBS t then [(rows * dpitch, scales.flatMap (fun r => r.map (fun e => (BitVec.ofNat 8 e : Byte))))] else [])
  else
    (List.range (ceilDiv rows 128)).flatMap (fun br => (List.range (ceilDiv cols 128)).map (fun bc =>
      let at_ := fun (i j : Nat) => nth 0 (nth [] words (128 * br + i)) (128 * bc + j)
      let sc := fun (i q : Nat) => (BitVec.ofNat 8 (nth 0 (nth [] scales (128 * br + i)) (4 * bc + q)) : Byte)
      let elts := (List.range 128).flatMap (fun i => (List.range 128).map (fun j => if layout == 1 then at_ i j else at_ j i))
      let scs := if !tagBS t then []
        else if layout == 1 then (List.range 128).flatMap (fun i => (List.range 4).map (sc i))
        else (List.range 4).flatMap (fun q => (List.range 128).map (fun i => sc i q))
      ((br * ceilDiv cols 128 + bc) * tileExtent t, packElts f elts ++ scs)))

/-- Put a field of bits into bytes that cover it: `sh` is its bit offset in them. -/
def mergeBits (bs : List Byte) (sh width v : Nat) : List Byte :=
  let x := leNat bs
  let m := 2 ^ width
  leBytes bs.length (x - (x / 2 ^ sh % m) * 2 ^ sh + (v % m) * 2 ^ sh)

/-- Write a field of bits at a bit offset from a troupe address. -/
def writeBits (t a : Nat) (s : State) (w : Nat × Nat × Nat) : State :=
  let lo := w.1 / 8
  let n := (w.1 + w.2.1 + 7) / 8 - lo
  let old := leBytes n (troupeNat s t (a + lo) n)
  troupePut s t (a + lo) (mergeBits old (w.1 % 8) w.2.1 w.2.2)

end Sys2Proof.Machine
end

