-- ==== Sys2Proof/Machine/Decomp.lean ====
section
/-! DEFINITION. The block compression format (R259 to R262). -/

namespace Sys2Proof.Machine

/-- A number of `n` bytes at offset `o` of a stream. -/
def at_ (x : List Byte) (o n : Nat) : Nat := leNat ((x.drop o).take n)

/-- The stream header (R259). -/
structure StreamHdr where
  magic    : Nat
  version  : Nat
  fmt      : Nat
  flags    : Nat
  rows     : Nat
  cols     : Nat
  nseg     : Nat
  segBytes : Nat
  outBytes : Nat
  scaleOff : Nat
  tscale   : Nat
  rsv      : Nat
  indexOff : Nat
  deriving DecidableEq, Repr

/-- The header of a stream. -/
def StreamHdr.ofBytes (x : List Byte) : StreamHdr :=
  { magic := at_ x 0 4, version := at_ x 4 2, fmt := at_ x 6 1, flags := at_ x 7 1, rows := at_ x 8 4, cols := at_ x 0xC 4
    nseg := at_ x 0x10 4, segBytes := at_ x 0x14 4, outBytes := at_ x 0x18 8, scaleOff := at_ x 0x20 8, tscale := at_ x 0x28 4
    rsv := at_ x 0x2C 4 + at_ x 0x38 8, indexOff := at_ x 0x30 8 }

/-- Does the header keep R259 and agree with the record's format, rows, columns and scale (R253, R262)? -/
def headerOk (x : List Byte) (fmt rows cols tscale : Nat) : Bool :=
  let h := StreamHdr.ofBytes x
  let t := tagMake h.fmt false false false 0
  let qn := ceilDiv h.cols 32
  let mx := (tagFormat t).isMx
  64 ≤ x.length && h.magic == 0x4B4C424B && h.version == 1 && (Fmt.ofCode h.fmt).isSome && 0x01 ≤ h.fmt && h.fmt ≤ 0x21 && h.flags ≤ 1 &&
  h.fmt == fmt && h.rows == rows && h.cols == cols && h.tscale == tscale && h.rsv == 0 &&
  (h.segBytes == 4096 || h.segBytes == 8192 || h.segBytes == 16384 || h.segBytes == 32768 || h.segBytes == 65536) &&
  h.outBytes == h.rows * qn * (tagFormat t).bytes 32 && h.nseg == ceilDiv h.outBytes h.segBytes &&
  (!mx || h.flags == 1) && (!(tagFormat t).isWide || h.flags == 0) &&
  (if h.flags == 1 then h.scaleOff + h.rows * qn ≤ x.length else h.scaleOff == 0) && h.indexOff + 8 * h.nseg ≤ x.length

/-- The bits of a byte, the most significant first. -/
def byteBits (b : Byte) : List Bool := (List.range 8).map (fun i => b.toNat.testBit (7 - i))

/-- The symbols of a length, ascending (R261). -/
def symsOf (lens : List Nat) (n : Nat) : List Nat := (List.range 256).filter (fun i => nth 0 lens i == n)

/-- The first code of each length from `n` on: `code` is the previous length's next code (R261). -/
def firstCodes (lens : List Nat) : Nat → Nat → Nat → List (Nat × List Nat)
  | 0, _, _ => []
  | k + 1, n, code =>
    let first := code * 2
    let syms := symsOf lens n
    (first, syms) :: firstCodes lens k (n + 1) (first + syms.length)

/-- Read one code word: the symbol and the bits that remain. -/
def readCode : List (Nat × List Nat) → Nat → List Bool → Option (Nat × List Bool)
  | [], _, _ => none
  | _ :: _, _, [] => none
  | (first, syms) :: rest, code, b :: bits =>
    let c := 2 * code + b2n b
    if first ≤ c && c < first + syms.length then some (nth 0 syms (c - first), bits) else readCode rest c bits

/-- Decode `n` bytes. -/
def readCodes (table : List (Nat × List Nat)) : Nat → List Bool → Option (List Byte × List Bool)
  | 0, bits => some ([], bits)
  | k + 1, bits =>
    match readCode table 0 bits with
    | none => none
    | some (y, rest) =>
      match readCodes table k rest with
      | none => none
      | some (ys, end_) => some (BitVec.ofNat 8 y :: ys, end_)

/-- The code lengths of a length table (R261). -/
def codeLens (table : List Byte) : List Nat := table.flatMap (fun b => [b.toNat % 16, b.toNat / 16])

/-- Do the lengths satisfy R261's sum? -/
def lensOk (lens : List Nat) : Bool := (lens.map (fun l => if l == 0 then 0 else 2 ^ (15 - l))).foldl (· + ·) 0 == 32768

/-- The `n` output bytes of the segment at offset `o`, or the status that ends the load (R260 to R262). -/
def segment (x : List Byte) (o n : Nat) : Except Nat (List Byte) :=
  let mode := at_ x o 1
  let clen := at_ x (o + 4) 4
  if o % 16 != 0 || x.length < o + 8 || x.length < o + 8 + (if mode == 0 then 128 else 0) + clen then .error stDecompFormat
  else if mode == 0 then
    let lens := codeLens ((x.drop (o + 8)).take 128)
    if !lensOk lens then .error stDecompTable
    else
      match readCodes (firstCodes lens 15 1 0) n (((x.drop (o + 136)).take clen).flatMap byteBits) with
      | none => .error stDecompData
      | some (out, rest) => if rest.length < 8 && rest.all (fun b => !b) then .ok out else .error stDecompData
  else if mode == 1 then if clen == n then .ok ((x.drop (o + 8)).take n) else .error stDecompData
  else if mode == 2 then if clen == 0 then .ok (List.replicate n (BitVec.ofNat 8 (at_ x (o + 1) 1))) else .error stDecompData
  else .error stDecompData

/-- The output bytes of segments `k` on, in order. -/
def segments (x : List Byte) (h : StreamHdr) : Nat → Nat → Except Nat (List Byte)
  | 0, _ => .ok []
  | m + 1, k =>
    let n := if (k + 1) * h.segBytes ≤ h.outBytes then h.segBytes else h.outBytes - k * h.segBytes
    match segment x (at_ x (h.indexOff + 8 * k) 8) n with
    | .error e => .error e
    | .ok bs =>
      match segments x h m (k + 1) with
      | .error e => .error e
      | .ok rest => .ok (bs ++ rest)

/-- Element words and block scales of a compressed stream, by row, and whether it carries scales; or the status that ends the load
(R259 to R262). -/
def decompress (x : List Byte) (fmt rows cols tscale : Nat) : Except Nat (List (List Nat) × List (List Nat) × Bool) :=
  let h := StreamHdr.ofBytes x
  if !headerOk x fmt rows cols tscale then .error stDecompFormat
  else
    match segments x h h.nseg 0 with
    | .error e => .error e
    | .ok out =>
      let f := tagFormat (tagMake fmt false false false 0)
      let qn := ceilDiv cols 32
      let rb := qn * f.bytes 32
      let words := (List.range rows).map (fun r => unpackElts f ((out.drop (r * rb)).take rb) (32 * qn))
      if words.any (fun r => (r.drop cols).any (fun w => w != 0)) then .error stDecompData
      else
        let scales := (List.range rows).map (fun r => ((x.drop (h.scaleOff + r * qn)).take qn).map (·.toNat))
        .ok (words, (if h.flags == 1 then scales else []), h.flags == 1)

end Sys2Proof.Machine
end

