-- ==== Sys2Proof/Machine/WtOps.lean ====
section
/-! DEFINITION. Shared operations of weight loading: shard digests (R263), the shard table (R264 to R266) and how a load is judged
and stored (R253 to R258). -/

namespace Sys2Proof.Machine

/-! ### Shards -/

/-- The leaf digests of a byte string from leaf `i` on (R263). -/
def leafDigests : Nat → Nat → List Byte → List Byte
  | 0, _, _ => []
  | k + 1, i, x =>
    if x.isEmpty then []
    else shake256 (leBytes 8 i ++ x.take 0x100000) 32 ++ leafDigests k (i + 1) (x.drop 0x100000)

/-- The shard digest of a byte string, as a little-endian number (R263). -/
def shardDigest (x : List Byte) : Nat :=
  digest32 ([0x4B, 0x53, 0x48, 0x44] ++ leBytes 8 x.length ++ leafDigests (x.length / 0x100000 + 1) 0 x)

/-- A troupe is held while DAMAGE_HOLD is 1 and one of its shards is damaged (R266). -/
def settleHold (t : Nat) (s : State) : State :=
  let held := s.wt.damageHold && s.wt.shards.any (fun e => e.2.troupe == t && e.2.damaged)
  if (s.troupe t).regs.held == held then s else s.modTroupe t (fun (x : Troupe) => { x with regs.held := held })

/-- End the registrations of shards of troupe `t` that lie in a range (R265). -/
def endShards (t lo n : Nat) (s : State) : State :=
  settleHold t { s with wt.shards := s.wt.shards.filter (fun e => !(e.2.troupe == t && lo ≤ e.2.dst && e.2.dst + e.2.bytes ≤ lo + n)) }

/-- The lowest free entry of the shard table. -/
def freeShard (s : State) : Option Nat := (List.range 4096).find? (fun i => (mapFind s.wt.shards i).isNone)

/-- The 64 bytes of a shard table entry (R264). -/
def shardBytes (h : Shard) : List Byte :=
  leBytes 32 h.digest ++ leBytes 8 h.dst ++ leBytes 8 h.bytes ++ leBytes 8 h.tCheck ++ leBytes 1 h.troupe ++
    leBytes 1 (if h.damaged then 2 else 1) ++ leBytes 2 h.dpitchU ++ leBytes 4 h.loadId

/-- The targets that a shard's digest reads. -/
def shardReads (s : State) (h : Shard) : List (Loc × Nat) := readTargets s h.troupe (h.parts.map (fun p => (h.dst + p.1, p.2)))

/-- The bytes that a shard's digest covers, as memory holds them; none where one may not be read or is poisoned. -/
def shardData (s : State) (h : Shard) : Option (List Byte) :=
  h.parts.foldl (fun acc p =>
    match acc, troupeRange s h.troupe (h.dst + p.1) p.2 false with
    | some bs, .ok ls => if ls.any (fun l => (poisonFlags s l.1 l.2).any (fun b => b)) then none else some (bs ++ readLocs s ls)
    | _, _ => none) (some [])

/-! ### Judging a load -/

/-- The destination's tag: block scales for the FP8, FP6, FP4 and integer formats, TSCALE as the paired scale (R253). -/
def loadTag (r : LoadRecord) (bs : Bool) : Word := tagMake r.dstFmt bs (r.tscale != 0) false (BitVec.ofNat 32 r.tscale)

/-- Does convert mode give the destination block scales (R253)? -/
def convScaled (fmt : Nat) : Bool := !(fmt == 0x00 || fmt == 0x01 || fmt == 0x02)

/-- Is a destination format one of R20 other than 0x30? -/
def dstFmtOk (f : Nat) : Bool := (Fmt.ofCode f).isSome && f != 0x30

/-- Is TSCALE 0, or positive, finite and normal (R254)? -/
def tscaleOk (w : Nat) : Bool := w == 0 || (w < 2 ^ 31 && 1 ≤ w / 2 ^ 23 && w / 2 ^ 23 ≤ 254)

/-- Do layout, rows, columns and pitch fit each other (R252, R254)? -/
def layoutOk (r : LoadRecord) : Bool :=
  r.layout ≤ 2 && 1 ≤ r.rows && r.rows < 2 ^ 32 && 1 ≤ r.cols && r.cols < 2 ^ 32 && r.dpitch % 16 == 0 && r.dpitch < 2 ^ 64 &&
  (if r.layout == 0 then rowSpan (loadTag r false) r.cols ≤ r.dpitch else r.rows % 128 == 0 && r.cols % 128 == 0)

/-- Are the fields of a load record right (R254)? -/
def loadFieldsOk (r : LoadRecord) : Bool :=
  1 ≤ r.srcLen && r.srcLen ≤ 2 ^ 40 && r.dst < 2 ^ 40 && r.dst % 16 == 0 && r.troupe < 64 && r.mode ≤ 2 && r.vslot ≤ 3 && r.flags < 4 &&
  r.rsv == 0 && tscaleOk r.tscale &&
  (if r.mode == 0 then
    r.rows == 0 && r.cols == 0 && r.dpitch == 0 && r.tscale == 0 && r.srcFmt == 0 && r.dstFmt == 0 && r.layout == 0
  else if r.mode == 1 then
    r.srcFmt ≤ 2 && dstFmtOk r.dstFmt && layoutOk r && r.srcLen == r.rows * r.cols * (if r.srcFmt == 0 then 4 else 2)
  else r.srcFmt == 0 && dstFmtOk r.dstFmt && layoutOk r)

/-- Has a load's destination block scales: by its format in convert mode (R253), and in decompress mode for INT8 and INT4 by SCALES of the stream
(R259)? -/
def loadBS (l : HeldLoad) : Bool :=
  let r := l.record
  convScaled r.dstFmt && (r.mode != 2 || l.scales || (tagFormat (tagMake r.dstFmt false false false 0)).isMx)

/-- Bytes from a load's first destination byte to its last. -/
def loadSpan (l : HeldLoad) : Nat :=
  let r := l.record
  if r.mode == 0 then r.srcLen else layoutSpan (loadTag r (loadBS l)) r.layout r.rows r.cols r.dpitch

/-- Do the physical pieces of two troupe ranges meet? -/
def rangesMeet (s : State) (t a n : Nat) (h : Shard) : Bool :=
  let mine := (pagePieces (n / pageBytes + 2) a n).filterMap (fun p => match xlate s t p.1 true with
    | some x => some (x, p.2)
    | none => none)
  (shardLocs s h).any (fun p => mine.any (fun q => p.1 < q.1 + q.2 && q.1 < p.1 + p.2))

/-- Does a load meet a registered shard that R267 does not let it replace? -/
def loadMeets (s : State) (l : HeldLoad) : Bool :=
  let r := l.record
  s.wt.shards.any (fun e =>
    rangesMeet s r.troupe r.dst (loadSpan l) e.2 &&
      !(e.2.damaged && bitOf r.flags 0 && e.2.troupe == r.troupe && e.2.dst == r.dst && e.2.bytes == loadSpan l))

/-- How the version-slot rules judge a load (R258): a status that refuses it, or 0; and whether it claims the slot. -/
def judgeVslot (s : State) (r : LoadRecord) : Nat × Bool :=
  if r.vslot == 0 then (0, false)
  else
    let x := s.troupe r.troupe
    let g := x.gen
    let v := g.vslot (r.vslot - 1)
    if !g.cfg.present then (stLoadInvalid, false)
    else
      match v.st with
      | .free => if g.vs.any (fun e => e.2.st != .free && r.epoch ≤ e.2.epoch) then (stLoadEpoch, false) else (0, true)
      | .live =>
        if x.regs.opened || x.regs.shut || v.void then (stVslotBusy, false) else if v.epoch == r.epoch then (0, false) else (stLoadEpoch, false)
      | .filling => if v.byLoads && v.epoch == r.epoch then (0, false) else (stVslotBusy, false)
      | _ => (stVslotBusy, false)

/-- The status that refuses a load's destination range, or 0: LOAD_RANGE where the translation does not give the range writable, and the status of R243
where it leads into a hole (R254, R324). -/
def judgeDest (s : State) (t a n : Nat) : Nat :=
  if !s.hasTroupe t || 0x10000000000 < a + n then stLoadRange
  else
    match troupeRange s t a n true with
    | .ok _ => 0
    | .error f => if f.status == stXlatFault then stLoadRange else f.status

/-- How a load is judged when its turn comes (R255): 0 lets it run. -/
def judgeTurn (s : State) (l : HeldLoad) : Nat :=
  let st := judgeDest s l.record.troupe l.record.dst (loadSpan l)
  if st != 0 then st
  else if loadMeets s l then stShardRo
  else (judgeVslot s l.record).1

/-! ### Storing a load -/

/-- The elements of a source row in FP32 (R253). -/
def srcRow (fmt cols : Nat) (bs : List Byte) : List F32 :=
  let f := tagFormat (tagMake fmt false false false 0)
  (unpackElts f bs cols).map (fun w => valF32 (f.decode w))

/-- The pieces that a load writes, by offset, or the status that ends it (R253, R256). -/
def loadPieces (r : LoadRecord) (src : List Byte) : Except Nat (List (Nat × List Byte)) :=
  if r.mode == 0 then .ok [(0, src)]
  else if r.mode == 1 then
    let t := loadTag r (convScaled r.dstFmt)
    let w := if r.srcFmt == 0 then 4 else 2
    let rows := (List.range r.rows).map (fun i => srcRow r.srcFmt r.cols ((src.drop (i * r.cols * w)).take (r.cols * w)))
    let (ws, es, _) := convertTensor t .rne r.cols (rows.map (fun x => x.map (fun v => (v, 0))))
    let qn := ceilDiv r.cols 32
    .ok (layoutPieces t r.layout r.rows r.cols r.dpitch ws ((List.range r.rows).map (fun i => (es.drop (i * qn)).take qn)))
  else
    match decompress src r.dstFmt r.rows r.cols r.tscale with
    | .error e => .error e
    | .ok (ws, scs, bs) => .ok (layoutPieces (loadTag r bs) r.layout r.rows r.cols r.dpitch ws scs)

/-- Write a load's pieces until one meets a poisoned unit (R250, R256): the flag says that it did. -/
def storePieces (r : LoadRecord) : List (Nat × List Byte) → State → State × Bool
  | [], s => (s, false)
  | (o, bs) :: rest, s =>
    match troupeRange s r.troupe (r.dst + o) bs.length true with
    | .error _ => (s, true)
    | .ok ls =>
      let (s1, bad) := writeLocs .none s ls bs
      if bad then (s1, true) else storePieces r rest (chargeStacks r.troupe 0 (stackBytesOf ls) s1)

/-- A failed load's range goes into the troupe's list of 64 (R256). -/
def listFailed (t a n : Nat) (s : State) : State :=
  s.modGen t (fun (g : Gen) =>
    if g.failed.length < 64 then { g with failed := g.failed ++ [(a, n)] } else { g with overflow := true })

/-- A load that is done removes the listed ranges that it covers (R256). -/
def unlistFailed (t a n : Nat) (s : State) : State :=
  s.modGen t (fun (g : Gen) => { g with failed := g.failed.filter (fun e => !(a ≤ e.1 && e.1 + e.2 ≤ a + n)) })

/-- The entry under which a load registers: that of the damaged shard it replaces, else a free one (R264, R267). -/
def shardPlace (s : State) (l : HeldLoad) : Option Nat :=
  match s.wt.shards.find? (fun e => e.2.troupe == l.record.troupe && e.2.dst == l.record.dst && e.2.bytes == loadSpan l) with
  | some e => some e.1
  | none => freeShard s

/-- Do DPITCH and the rows of a load leave gaps between rows (R263, R264)? -/
def loadGaps (r : LoadRecord) : Bool := r.mode != 0 && r.layout == 0 && 2 ≤ r.rows && r.dpitch != rowSpan (loadTag r false) r.cols

/-- The shard that a finished load registers: DPITCH_U is 0 where the shard has no gaps (R264). -/
def shardOf (s : State) (l : HeldLoad) (ps : List (Nat × List Byte)) (digest : Nat) : Shard :=
  let r := l.record
  { digest := digest, dst := r.dst, bytes := loadSpan l, tCheck := s.cue, troupe := r.troupe
    dpitchU := (if loadGaps r then r.dpitch / 16 % 65536 else 0), loadId := r.loadId % 2 ^ 32, parts := ps.map (fun p => (p.1, p.2.length)) }

/-- The status with which a stored load ends, and the state with its shard registered (R256, R264). -/
def finishLoad (l : HeldLoad) (src : List Byte) (ps : List (Nat × List Byte)) (s : State) : State × Nat :=
  let r := l.record
  let stored := shardDigest (ps.flatMap (fun p => p.2))
  if shardDigest src != r.srcDigest then (s, stLoadDigest)
  else if bitOf r.flags 1 && stored != r.storedDigest then (s, stLoadStored)
  else if bitOf r.flags 0 then
    match shardPlace s l with
    | none => (s, stShardFull)
    | some i => (settleHold r.troupe { s with wt.shards := mapPut s.wt.shards i (shardOf s l ps stored) }, stLoadDone)
  else (s, stLoadDone)

/-- A WT_LOAD completes: its entry's body begins with LOAD_ID (R252; assumption 81). -/
def completeLoad (h : CmdHdr) (r : LoadRecord) (status : Nat) (s : State) : State := completeRec h opWtLoad status (leBytes 8 r.loadId) s

/-- A load ends with a status (R256). -/
def endLoad (l : HeldLoad) (status : Nat) (s : State) : State :=
  let r := l.record
  let s1 := if status == stLoadDone then unlistFailed r.troupe r.dst (loadSpan l) s else listFailed r.troupe r.dst (loadSpan l) s
  completeLoad l.hdr r status { s1 with wt.loads := s1.wt.loads.drop 1 }

/-- Does a source agree with the header that the load was judged by? -/
def srcAgrees (l : HeldLoad) (src : List Byte) : Bool :=
  src.length == l.record.srcLen && (l.record.mode != 2 || (StreamHdr.ofBytes src).flags % 2 == b2n l.scales)

end Sys2Proof.Machine
end

