-- ==== Sys2Proof/Machine/Weights.lean ====
section
/-! DEFINITION. Memory start-up, patrol and error counters (R248 to R251), loads (R252 to R258, R482) and the shard table (R264 to
R267). -/

namespace Sys2Proof.Machine

/-! ### Memory -/

/-- Does a physical address lie in the spare region of the given size of its stack (R245)? -/
def inSpare (s : State) (spares : List (Nat × Nat)) (a : Nat) : Bool :=
  let (n, o) := stackOf s a
  spares.any (fun e => e.1 == n && stackBytes - e.2 * 0x10000000 ≤ o)

/-- MEMORY_ZEROING: every unit of every enabled stack reads 0 with valid check bytes, spare regions that a reset keeps excepted
(R248, R432). It runs once after each release of hub reset. -/
def execMemoryZeroing (s : State) : Host.Outcome State Fault Refusal :=
  engine (fun s =>
    if s.mem.zeroed then s
    else
      match s.bt.flash.resetBlk with
      | none => { s with mem.bytes := [], mem.poison := [], mem.weak := [], mem.zeroed := true }
      | some sp =>
        { s with
          mem.bytes := s.mem.bytes.filter (fun c => inSpare s sp c.1)
          mem.poison := s.mem.poison.filter (fun u => inSpare s sp u)
          mem.weak := s.mem.weak.filter (fun e => inSpare s sp e.1)
          mem.zeroed := true }) s

/-- What the patrol's read of the unit at `a` finds: good (0), correctable (1) or uncorrectable (2), by the command or by a stored error that waits
to be found. -/
def patrolFinds (s : State) (a found : Nat) : Nat :=
  match mapFind s.mem.weak (a / 64 * 64) with
  | some true => 2
  | some false => if found == 0 then 1 else found
  | none => found

/-- PATROL_SCRUB: the patrol reads the unit at `a` and finds it good (0), correctable (1), which it writes back corrected, or uncorrectable (2);
at the end of a pass PATROL_DONE is set (R249, R251). -/
def execPatrolScrub (a found : Nat) (passEnd : Bool) (s : State) : Host.Outcome State Fault Refusal :=
  engine (fun s =>
    let n := (stackOf s a).1
    if 0x7800000000 ≤ a || !stackEnabled s n then s
    else
      let f := patrolFinds s a found
      let s0 := { s with mem.weak := mapDel s.mem.weak (a / 64 * 64) }
      let s1 := if f == 0 then s0 else if f == 1 then unitWeak a s0 else unitBad a s0
      if passEnd then s1.modStack n (fun (k : Stack) => { k with patrolDone := true }) else s1) s

/-- STK_ECC_CLR: a stack's error counters return to 0 (R251). -/
def execStkEccClr (n : Nat) (s : State) : Host.Outcome State Fault Refusal :=
  regWrite (fun s => if stackEnabled s n then s.modStack n (fun (k : Stack) => { k with ceCnt := 0, ueCnt := 0 }) else s) s

/-! ### Loads -/

/-- WT_LOAD: a load is registered, refused with LOAD_INVALID and then with LOAD_FULL (R254, R255). -/
def execWtLoad (h : CmdHdr) (r : LoadRecord) (s : State) : Host.Outcome State Fault Refusal :=
  hostCmd h opWtLoad (fun s =>
    if !loadFieldsOk r then completeLoad h r stLoadInvalid s
    else if 64 ≤ s.wt.loads.length then completeLoad h r stLoadFull s
    else { s with wt.loads := s.wt.loads ++ [{ hdr := h, record := r }] }) s

/-- LOAD_TURN: the oldest held load's turn comes: it is judged, and runs, claiming a FREE version slot that it names (R255,
R258). -/
def execLoadTurn (scales : Bool) (s : State) : Host.Outcome State Fault Refusal :=
  engine (fun s =>
    match s.wt.loads with
    | [] => s
    | l :: rest =>
      if l.running then s
      else
        let st := judgeTurn s { l with scales := scales }
        if st != 0 then completeLoad l.hdr l.record st { s with wt.loads := rest }
        else
          let s1 := { s with wt.loads := { l with running := true, scales := scales } :: rest }
          if (judgeVslot s l.record).2 then
            s1.modGen l.record.troupe (fun (g : Gen) =>
              g.modVslot (l.record.vslot - 1) (fun _ => { st := .filling, epoch := l.record.epoch, byLoads := true }))
          else s1) s

/-- LOAD_END: the source bytes of the running load are converted, stored and judged (R253, R256, R262, R264). A source of another length, or a stream
with another SCALES bit than LOAD_TURN read, is not that load's source: nothing changes (assumption 82). -/
def execLoadEnd (src : List Byte) (s : State) : Host.Outcome State Fault Refusal :=
  engine (fun s =>
    match s.wt.loads with
    | [] => s
    | l :: _ =>
      if !l.running || !srcAgrees l src then s
      else
        let s0 := s.modTroupe l.record.troupe (fun (x : Troupe) => { x with regs.acct.thl := (x.regs.acct.thl + src.length) % 2 ^ 64 })
        match loadPieces l.record src with
        | .error e => endLoad l e s0
        | .ok ps =>
          let (s1, bad) := storePieces l.record ps s0
          if bad then endLoad l stMemUe s1
          else
            let (s2, st) := finishLoad l src ps s1
            endLoad l st s2) s

/-- Is a slot of troupe `t` filled by host loads? -/
def byLoads (s : State) (t k : Nat) : Bool := let v := (s.gen t).vslot k; v.st == .filling && v.byLoads

/-- How WT_READY is judged (R482, R257); 0 accepts it. A troupe that is open already is neither held up by loads nor refused for failed ones. -/
def judgeReady (s : State) (t slot : Nat) : Nat :=
  let x := s.troupe t
  if !s.hasTroupe t then stLoadRange
  else if 3 < slot || (slot != 0 && !x.gen.cfg.present) || (slot == 0 && !(x.gen.cfg.present || x.cfg.role == 3)) then stLoadInvalid
  else if (slot != 0 && !byLoads s t (slot - 1)) || (slot == 0 && x.regs.shut) then stVslotBusy
  else if slot == 0 && x.regs.opened then 0
  else if s.wt.loads.any (fun l => l.record.troupe == t) then stLoadPending
  else if !x.gen.failed.isEmpty || x.gen.overflow then stLoadFailed
  else 0

/-- WT_READY: open a troupe, or move a slot that loads fill to READY (R257, R258, R482). -/
def execWtReady (h : CmdHdr) (slot : Nat) (s : State) : Host.Outcome State Fault Refusal :=
  hostCmd h opWtReady (fun s =>
    let t := h.troupe
    let st := judgeReady s t slot
    if st != 0 then complete h opWtReady st s
    else if slot == 0 then complete h opWtReady stOk (s.modTroupe t (fun (x : Troupe) => { x with regs.opened := true }))
    else complete h opWtReady stOk (s.modGen t (fun (g : Gen) => g.modVslot (slot - 1) (fun v => { v with st := .ready })))) s

/-- How WT_RELEASE of a slot is judged (R482); 0 accepts it. -/
def judgeRelease (s : State) (t slot : Nat) : Nat :=
  if !s.hasTroupe t then stLoadRange
  else if slot == 0 || 3 < slot || !(s.gen t).cfg.present then stLoadInvalid
  else if !byLoads s t (slot - 1) then stVslotBusy
  else 0

/-- WT_RELEASE: return a slot that loads fill to FREE and empty the failed-load list, or end the registration of the shard at entry
`n` (R258, R265). -/
def execWtRelease (h : CmdHdr) (shard : Bool) (n : Nat) (s : State) : Host.Outcome State Fault Refusal :=
  hostCmd h opWtRelease (fun s =>
    if shard then
      match mapFind s.wt.shards n with
      | none => complete h opWtRelease stLoadInvalid s
      | some x => complete h opWtRelease stOk (settleHold x.troupe { s with wt.shards := mapDel s.wt.shards n })
    else
      let t := h.troupe
      let st := judgeRelease s t n
      if st != 0 then complete h opWtRelease st s
      else
        complete h opWtRelease stOk (s.modGen t (fun (g : Gen) => { g.modVslot (n - 1) (fun _ => {}) with failed := [] }))) s

/-- WT_TABLE: copy the shard table's 4,096 entries into host memory (R264). -/
def execWtTable (h : CmdHdr) (addr : Nat) (s : State) : Host.Outcome State Fault Refusal :=
  hostCmd h opWtTable (fun s =>
    complete h opWtTable stOk (hostWrite addr ((List.range 4096).flatMap (fun i =>
      match mapFind s.wt.shards i with
      | some x => shardBytes x
      | none => leBytes 64 0)) s)) s

/-- DIGEST_SCRUB: the scrub recomputes the digest of the shard at entry `i`; at the end of a pass ROUND is set (R266). -/
def execDigestScrub (i : Nat) (passEnd : Bool) (s : State) : Host.Outcome State Fault Refusal :=
  engine (fun s =>
    let s1 := match mapFind s.wt.shards i with
      | none => s
      | some x =>
        let good := match shardData s x with
          | some bs => shardDigest bs == x.digest
          | none => false
        let s := findErrors (shardReads s x) s
        if good then { s with wt.shards := mapPut s.wt.shards i { x with tCheck := s.cue } }
        else
          settleHold x.troupe (raiseEvent evShardDigest x.troupe (leBytes 4 i)
            { s with wt.shards := mapPut s.wt.shards i { x with damaged := true }, wt.failCnt := inc16 s.wt.failCnt, wt.fail := true })
    if passEnd then { s1 with wt.round := true } else s1) s

/-- SCRUB_EVT_CLR: FAIL_CNT returns to 0 (R267). -/
def execScrubEvtClr (s : State) : Host.Outcome State Fault Refusal := regWrite (fun s => { s with wt.failCnt := 0 }) s

end Sys2Proof.Machine
end

