-- ==== Sys2Proof/Machine/TroupeOps.lean ====
section
/-! DEFINITION. Shared operations of troupes: their cores by quad (R10, R320), mappings (R325), stopping and saving cores, switches
(R335 to R338), context images (R339 to R341) and teardown (R342, R343). -/

namespace Sys2Proof.Machine

/-! ### The determinism class (R302) -/

/-- A number in decimal ASCII, by fuel. -/
def decimal : Nat → Nat → List Byte
  | 0, _ => []
  | k + 1, n => if n < 10 then [BitVec.ofNat 8 (0x30 + n)] else decimal k (n / 10) ++ [BitVec.ofNat 8 (0x30 + n % 10)]

/-- The string DC-V-S-CL1-bN, or with "unlisted" for bN (R302). -/
def dclassBytes (s : State) : List Byte :=
  let part := bitsOf s.record.part 15 0
  let v := (List.range 3).map (fun i => (BitVec.ofNat 8 (0x30 + bitsOf part (11 - 4 * i) (8 - 4 * i)) : Byte))
  let st := [BitVec.ofNat 8 (0x37 + bitsOf s.record.stepping 7 4), BitVec.ofNat 8 (0x30 + bitsOf s.record.stepping 3 0)]
  let dash : List Byte := [0x2D]
  let last := if s.bt.regs.unlisted then [0x75, 0x6E, 0x6C, 0x69, 0x73, 0x74, 0x65, 0x64] else 0x62 :: decimal 8 s.bt.regs.bundle
  [0x44, 0x43] ++ dash ++ (0x4B :: v) ++ dash ++ st ++ dash ++ [0x43, 0x4C, 0x31] ++ dash ++ last

/-- The class as a number: the 32 bytes of HUB_DCLASS0 to HUB_DCLASS3 (R303). -/
def dclass (s : State) : Nat := leNat (dclassBytes s)

/-- Is the determinism class fixed: the firmware bundle has been verified (R303)? -/
def classKnown (s : State) : Bool := s.bt.regs.unlisted || s.bt.regs.bundle != 0

/-! ### Cores by quad -/

/-- The logical numbers that the casting gives to the cores of quad `q`: quad k of a cluster is its k-th four physical cores, the
understudy left out (R10, R13). -/
def imgQuad (img : CastImage) (q : Nat) : List Nat :=
  match img.cores.find? (fun p => p.cluster == q / 4) with
  | none => []
  | some p =>
    let ps := ((List.range 17).map (fun i => 17 * (q / 4 % 4) + i)).filter (fun i => i != p.understudy)
    let mine := (ps.drop (4 * (q % 4))).take 4
    (p.cores.filter (fun e => mine.contains e.1)).map (·.2)

/-- The logical numbers of quad `q` under the casting in force. -/
def quadLogicals (s : State) (q : Nat) : List Nat :=
  match s.cast with
  | none => []
  | some img => imgQuad img q

/-- The logical numbers of a mask of quads under an image. -/
def imgCores (img : CastImage) (quads : Nat) : List Nat := ((List.range 64).filter (bitOf quads)).flatMap (imgQuad img)

/-- The logical numbers of the home quads of a troupe. -/
def homeLogicals (s : State) (t : Nat) : List Nat :=
  ((List.range 64).filter (fun q => bitOf (s.troupe t).cfg.quads q)).flatMap (quadLogicals s)

/-- The physical cores that hold the home logical numbers of troupe `t`. -/
def homeCores (s : State) (t : Nat) : List Nat := (homeLogicals s t).filterMap (coreOfLogical s)

/-- Do two troupes share a home quad (R320)? -/
def alternates (s : State) (a b : Nat) : Bool := Nat.land (s.troupe a).cfg.quads (s.troupe b).cfg.quads != 0

/-- Does another troupe than those named hold a core of troupe `t`'s home quads, or is a switch under way to bring one onto them? -/
def homeTaken (s : State) (t : Nat) (but : List Nat) : Bool :=
  (homeCores s t).any (fun c => let u := (s.core c).regs.troupe; u != 0xFF && !but.contains u) ||
    s.switches.any (fun w => match w.inn with
      | some j => j != t && !but.contains j && alternates s j t
      | none => false)

/-! ### Mappings (R325) -/

/-- What the mapping rules see of a troupe: number, tenant, its table's and context area's places, and its valid entries. -/
structure XlatView where
  t       : Nat
  tenant  : Nat
  base    : Nat
  pages   : Nat
  ctxBase : Nat
  ctxSize : Nat
  entries : List Nat

/-- Does an entry map its page (V)? -/
def entryValid (e : Nat) : Bool := bitOf e 63
/-- The physical page of an entry. -/
def entryPage (e : Nat) : Nat := bitsOf e 47 21

/-- Does physical page `p` lie in a spare region, a replay window or the hub area (R245)? `spare` and `replay` give the sizes in
256 MiB. -/
def pageKept (spare replay : Nat → Nat) (hub p : Nat) : Bool :=
  let a := p * pageBytes
  let n := a / stackBytes
  stackBytes - (spare n + replay n) * 0x10000000 - (if n == hub then 0x4000000 else 0) ≤ a % stackBytes

/-- Does physical page `p` meet the range of `n` bytes at `a`? -/
def pageMeets (p a n : Nat) : Bool := a < (p + 1) * pageBytes && p * pageBytes < a + n

/-- Is the page one that no troupe may map: of a translation table, a context area or a kept region (R325)? -/
def pageForbidden (vs : List XlatView) (kept : Nat → Bool) (p : Nat) : Bool :=
  kept p || vs.any (fun v => pageMeets p v.base (8 * v.pages) || pageMeets p v.ctxBase (v.ctxSize * 0x100000))

/-- The troupes that map page `p`. -/
def mappers (vs : List XlatView) (p : Nat) : List XlatView :=
  vs.filter (fun v => v.entries.any (fun e => entryValid e && entryPage e == p))

/-- May page `p` be mapped as it is: by one troupe, or by troupes of one tenant with SH in every entry (R325)? -/
def shareOk (vs : List XlatView) (p : Nat) : Bool :=
  let ms := mappers vs p
  ms.length ≤ 1 ||
    (ms.all (fun v => v.tenant == (ms.map (·.tenant)).headD 0) &&
      ms.all (fun v => v.entries.all (fun e => !(entryValid e && entryPage e == p) || bitOf e 60)))

/-- Do the mappings keep R325? -/
def xlatOk (vs : List XlatView) (kept : Nat → Bool) : Bool :=
  vs.all (fun v => v.entries.all (fun e => !entryValid e || (!pageForbidden vs kept (entryPage e) && shareOk vs (entryPage e))))

/-- The entries of troupe `t`'s table. -/
def xlatEntries (s : State) (t : Nat) : List Nat := (List.range (s.troupe t).cfg.xlatPages).map (xlatEntry s t)

/-- Troupes of the casting in force. -/
def presentTroupes (s : State) : List Nat := (s.troupes.filter (fun e => e.2.regs.state != .absent)).map (·.1)

/-- What the mapping rules see of the module's troupes. -/
def xlatViews (s : State) : List XlatView :=
  (presentTroupes s).map (fun t =>
    let c := (s.troupe t).cfg
    { t := t, tenant := c.tenant, base := c.xlatBase, pages := c.xlatPages, ctxBase := c.ctxBase, ctxSize := c.ctxSize,
      entries := xlatEntries s t })

/-- The kept regions of the map in force. -/
def keptNow (s : State) (p : Nat) : Bool := pageKept (fun n => (s.stack n).spare) (fun n => (s.stack n).replay) s.mem.hubStack p

/-- Write zero to `n` bytes of physical memory at `a` by the module: where pages are pending the write may stall (R357), else the
bytes and marks of the range go. -/
def zeroMem (a n : Nat) (s : State) : State :=
  if s.mem.pages.isEmpty then
    { s with mem.bytes := s.mem.bytes.zeroRange a n, mem.poison := s.mem.poison.filter (fun u => !(a ≤ u && u + 64 ≤ a + n))
             mem.weak := weakAfter s.mem.weak a n }
  else hubWrite s a (List.replicate n 0)

/-- Is page `p` mapped by some troupe? -/
def mappedByAny (s : State) (p : Nat) : Bool := !(mappers (xlatViews s) p).isEmpty

/-- Does a write that was translated before still wait to reach page `p` (R326, R357)? -/
def pageBusy (s : State) (p : Nat) : Bool := s.mem.stalled.any (fun w => pageMeets p w.addr w.bytes.length)

/-- A change of an entry of troupe `t` completes once no access through the old entry remains; a page that no troupe maps any more is zeroed
first (R326). -/
def settleMap (t : Nat) (s : State) (m : HeldMap) : State :=
  match m.page with
  | none => complete m.hdr opTrpMap stMapDone s
  | some p =>
    if pageBusy s p then s.modTroupe t (fun (x : Troupe) => { x with maps := x.maps ++ [m] })
    else complete m.hdr opTrpMap stMapDone (if mappedByAny s p then s else zeroMem (p * pageBytes) pageBytes s)

/-- The changes of entries that are held are looked at again. -/
def settleMaps (s : State) : State :=
  s.troupes.foldl (fun s e => e.2.maps.foldl (settleMap e.1) (s.modTroupe e.1 (fun (x : Troupe) => { x with maps := [] }))) s

/-! ### Stopping and saving cores (R336) -/

/-- The wait of core `c` is abandoned, to be issued again (an OPTM instruction that waits to issue has not moved CORE_PC); a core that had
arrived at a barrier keeps the arrival. A FENCE.M that waits is abandoned as the others are (assumption 25). -/
def abandonWait (c : Nat) (s : State) : State :=
  let r := (s.core c).regs
  match r.wait with
  | .none => s
  | .optm _ _ => s.modRegs c (fun (r : CoreRegs) => { r with wait := .none })
  | w =>
    let keep := match w with
      | .barrier b _ => some (b, (s.bar r.troupe b).instNo)
      | _ => r.kept
    { s with takers := s.takers.filter (fun x => x != c) }.modRegs c (fun (r : CoreRegs) => { r with wait := .none, pc := r.pc - 16, kept := keep })

/-- Core `c` stops for a switch: a wait that is satisfied now completes, and any other is abandoned. -/
def stopCore (c : Nat) (s : State) : State := abandonWait c (waitDone c s)

/-- Is a descriptor a collective? -/
def isColl (p : Posted) : Bool := (Desc.ofBytes p.raw).op == 0x200

/-- Have the started packets of core `c` completed: its move and remote descriptors are all unsent (R336 step 2)? -/
def coreDrained (s : State) (c : Nat) : Bool := (s.core c).descs.all (fun p => isColl p || p.stage == .posted)

/-- The key under which the saved context of a logical core is kept. -/
def awayKey (t l : Nat) : Nat := 512 * (t + 1) + l

/-- The bytes of a store's live granules. -/
def liveBytes (k : Core) : Memory := k.store.filter (fun e => granuleLive k.regs (e.1 / 0x4000))

/-- Collectives, stalled writes and descriptors that name core `a` name `b` from now on. -/
def renameCore (a b : Nat) (s : State) : State :=
  { s with
    fab.colls := s.fab.colls.map (fun e => (e.1, if e.2.core == a && e.2.posted then { e.2 with core := b } else e.2))
    fab.runs := s.fab.runs.map (fun r => if r.core == a then { r with core := b } else r)
    mem.stalled := s.mem.stalled.map (fun w => match w.owner with
      | .desc c i => if c == a then { w with owner := .desc b i } else w
      | _ => w) }

/-- A core that no troupe holds: everything zero but its logical number; a descriptor's number is never used twice. -/
def emptyCore (k : Core) : Core :=
  { nextId := k.nextId, regs := { lcore := k.regs.lcore, state := (if k.regs.state == .failed then .failed else .idle) } }

/-- Bytes of a core's section in a context image: the fixed part, and the loaded planes, drain rows in use, loaded function table halves and
live granules (R340). -/
def coreSectionBytes (k : Core) : Nat :=
  0x8480 + 32768 * (b2n k.planeA.filled + b2n k.planeB.filled) +
    512 * rowsInUse k + 4160 * k.slots.length +
    16384 * ((List.range 96).filter (granuleLive k.regs)).length

/-- Save core `c` of troupe `t`, whose context moves, and clear it (R331, R336 steps 3 and 4). -/
def saveCore (t : Nat) (s : State) (c : Nat) : State :=
  let k := s.core c
  let key := awayKey t k.regs.lcore
  chargeStacks t 0 (coreSectionBytes k) ((renameCore c key (s.setCore key { k with store := liveBytes k })).setCore c (emptyCore k))

/-- Give core `c` to troupe `t` with the state `k`; a core that has failed stays failed (R418). -/
def giveCore (t c : Nat) (k : Core) (s : State) : State :=
  let p := s.core c
  let st := if p.regs.state == .failed then .failed
    else match k.regs.state with
    | .reset | .standby | .failed => .idle
    | st => st
  s.setCore c { k with nextId := (if p.nextId ≤ k.nextId then k.nextId else p.nextId)
                       regs := { k.regs with lcore := p.regs.lcore, troupe := t, state := st } }

/-- Bring the saved context of core `c`'s logical number back, or start it idle with every state zero (R336, R341). -/
def loadCore (t : Nat) (s : State) (c : Nat) : State :=
  let key := awayKey t (s.core c).regs.lcore
  match mapFind s.cores key with
  | some k => settleStop c (chargeStacks t (coreSectionBytes k) 0 (renameCore key c (giveCore t c k { s with cores := mapDel s.cores key })))
  | none => giveCore t c { regs := { state := .idle } } s

/-- Drop every saved core of troupe `t`, with the collectives that they carried. -/
def dropAway (t : Nat) (s : State) : State :=
  { s with cores := s.cores.filter (fun e => e.1 < 512 * (t + 1) || 512 * (t + 2) ≤ e.1) }

/-! ### Context images (R339) -/

/-- The troupe's generator state for an image. -/
def genCtx (g : Gen) : GenCtx :=
  { queue := g.queue, slots := g.slots, vs := g.vs, live := g.live, vr := g.vr, used := g.used, rowsP := g.rowsP, rowsD := g.rowsD,
    resvs := g.resvs, nextResv := g.nextResv }

/-- The troupe's learner state for an image. -/
def lrnCtx (l : Lrn) : LrnCtx :=
  let r := l.regs
  { step := r.step, vStep := r.vStep, vCount := r.vCount, vReasons := r.vReasons, vReason := r.vReason, vValid := r.vValid,
    vSkip := r.vSkip, nextEpoch := r.nextEpoch, stallCnt := r.stallCnt, busy := r.busy, stall := r.stall, gsets := l.gsets,
    gstates := l.gstates }

/-- The generator troupe of this module whose records scorer troupe `t` scores (R220). -/
def scoredBy (s : State) (t : Nat) : Option Nat :=
  (s.troupes.find? (fun e => e.2.gen.cfg.ring.present && e.2.gen.cfg.ring.byScorer && e.2.gen.cfg.ring.scorer == t)).map (·.1)

/-- The saved cores of troupe `t` by logical number. -/
def awayCores (s : State) (t : Nat) : Map Core :=
  (s.cores.filter (fun e => 512 * (t + 1) ≤ e.1 && e.1 < 512 * (t + 2))).map (fun e => (e.1 - 512 * (t + 1), e.2))

/-- The sections of the context image of a troupe whose cores are saved (R339). -/
def ctxContent (s : State) (t : Nat) : CtxImage :=
  let x := s.troupe t
  let cs := awayCores s t
  { role := x.regs.role, tenant := x.cfg.tenant, troupe := t, tSave := s.cue, dclass := dclass s
    sems := (List.range x.cfg.semCount).map (semGet s t)
    queues := (List.range x.cfg.queues.length).map (fun q =>
      let (a, n) := nth (0, 1) x.cfg.queues q
      let r := mapGet {} x.queues q
      (r.head, r.count, a, n))
    seed := x.flint.seed
    descs := cs.flatMap (fun e => (e.2.descs.filter (fun p => !isColl p)).map (fun p => (e.1, p.raw)))
    gen := if x.gen.cfg.present then some (genCtx x.gen) else none
    lrn := if x.lrn.cfg.present then some (lrnCtx x.lrn) else none
    scorer := (scoredBy s t).map (fun g => ((s.gen g).ring.sHandCnt, (s.gen g).ring.sealCnt))
    cores := cs.map (fun e => (e.1, { e.2 with descs := [] })) }

/-- The context image of a troupe whose cores are saved, with its digest (R339). -/
def ctxImage (s : State) (t : Nat) : CtxImage :=
  let i := ctxContent s t
  { i with digest := i.sum }

/-- How an image is judged for a troupe (R341); 0 accepts it. -/
def judgeImage (s : State) (t : Nat) (i : CtxImage) : Nat :=
  let x := s.troupe t
  let home := homeLogicals s t
  if i.magic != 0x5854434B || i.version != 1 || i.digest != i.sum then stRestoreDigest
  else if i.cl != 1 then stClMismatch
  else if i.tenant != x.cfg.tenant then stRestoreTenant
  else if i.role != x.regs.role || home.length < i.cores.length || !i.cores.all (fun e => home.contains e.1) || !i.extra.isEmpty ||
      x.cfg.semCount < i.sems.length || x.cfg.queues.length < i.queues.length then stRestoreShape
  else stOk

/-- Restore the sections that the hub holds: semaphores, queues, Flint, generator, learner and scorer (R339). -/
def restoreHub (t : Nat) (i : CtxImage) (s : State) : State :=
  let s1 := (List.zip (List.range i.sems.length) i.sems).foldl (fun s e => semSet t e.1 e.2 s) s
  let s2 := s1.modTroupe t (fun (x : Troupe) =>
    { x with
      queues := (List.zip (List.range i.queues.length) i.queues).foldl (fun m e => mapPut m e.1 { head := e.2.1, count := e.2.2.1 }) x.queues
      flint.seed := i.seed, flint.key := flintKey i.seed, flint.keychk := flintKeyChk i.seed
      gen := (match i.gen with
        | some g =>
          { x.gen with queue := g.queue, slots := g.slots, vs := g.vs, live := g.live, vr := g.vr, used := g.used, rowsP := g.rowsP
                       rowsD := g.rowsD, resvs := g.resvs, nextResv := g.nextResv }
        | none => x.gen)
      lrn := (match i.lrn with
        | some l =>
          { x.lrn with gsets := l.gsets, gstates := l.gstates
                       regs := { x.lrn.regs with step := l.step, vStep := l.vStep, vCount := l.vCount, vReasons := l.vReasons
                                                 vReason := l.vReason, vValid := l.vValid, vSkip := l.vSkip
                                                 nextEpoch := l.nextEpoch, stallCnt := l.stallCnt, busy := l.busy, stall := l.stall } }
        | none => x.lrn) })
  let s2 := if i.lrn.isSome then syncOpt t s2 else s2
  match i.scorer, scoredBy s2 t with
  | some (h, k), some g => s2.modRing g (fun (r : Ring) => { r with sHandCnt := h, sealCnt := k })
  | _, _ => s2

/-- The core of an image with logical number `l`, its suspended descriptors posted; idle with every state zero without a
section (R341). Granules not live are zero (R340). -/
def imageCore (i : CtxImage) (l : Nat) : Core :=
  let k := match mapFind i.cores l with
    | some k => { k with store := liveBytes k, descs := [], regs := { k.regs with wait := .none } }
    | none => { regs := { state := .idle } }
  (i.descs.filter (fun e => e.1 == l)).foldl (fun k e => postDesc e.2 k) k

/-- Restore an accepted image onto the cores that troupe `t` holds, and into the hub (R341). -/
def restoreImage (t : Nat) (i : CtxImage) (s : State) : State :=
  let s1 := (homeCores s t).foldl (fun s c => giveCore t c (imageCore i (s.core c).regs.lcore) s) (restoreHub t i s)
  (chargeStacks t ((i.cores.map (fun e => coreSectionBytes e.2)).sum) 0 s1).modTroupe t (fun (x : Troupe) =>
    { x with regs.restored := true, regs.dclassDiff := x.regs.dclassDiff || i.dclass != dclass s, scrubbed := false })

/-! ### Switches -/

/-- Does a switch name troupe `t`? -/
def Switch.names (w : Switch) (t : Nat) : Bool := w.out == some t || w.inn == some t

/-- Is a switch that names a troupe of `w` under way (R335)? -/
def switchBusy (s : State) (w : Switch) : Bool :=
  s.switches.any (fun v => (match w.out with
    | some t => v.names t
    | none => false) || (match w.inn with
    | some t => v.names t
    | none => false))

/-- The troupe state of `t`. -/
def stateOf (s : State) (t : Nat) : TrpState := (s.troupe t).regs.state

/-- How a switch is judged (R335, R420); 0 starts it. -/
def judgeSwitch (s : State) (w : Switch) : Nat :=
  let outBad := match w.out with
    | some t => !(stateOf s t == .resident || stateOf s t == .waitPort)
    | none => false
  let inBad := match w.inn with
    | some t => stateOf s t != .off
    | none => false
  if outBad || inBad then stSwitchState
  else
    match w.inn with
    | none => stOk
    | some i =>
      if s.bt.withheld.contains i then stClusterDegraded
      else
        let alt := match w.out with
          | some o => alternates s o i
          | none => true
        if !alt || homeTaken s i (w.out.toList) then stSwitchShape else stOk

/-- A switch starts: OUT enters SAVING and its cores stop (R336 step 1). One that names no troupe has nothing to do and completes. -/
def startSwitch (w : Switch) (s : State) : State :=
  let s1 := { s with switches := s.switches ++ [w] }
  match w.out, w.inn with
  | none, none => complete w.hdr opTrpSwitch stOk s
  | none, some _ => s1
  | some o, _ =>
    (troupeCores s1 o).foldl (fun s c => stopCore c s) (s1.modTroupe o (fun (x : Troupe) => { x with regs.state := .saving }))

/-- Judge a switch and start or refuse it. -/
def takeSwitch (w : Switch) (s : State) : State :=
  let st := judgeSwitch s w
  if st == stOk then startSwitch w s else complete w.hdr opTrpSwitch st s

/-- Judge the switches that waited for an earlier one, in their order. -/
def settleSwitches (s : State) : State :=
  s.waitSw.foldl (fun s w =>
    if switchBusy s w then { s with waitSw := s.waitSw ++ [w] } else takeSwitch w s) { s with waitSw := [] }

/-- Has OUT drained (R336 step 2)? -/
def switchDrained (s : State) (w : Switch) : Bool :=
  match w.out with
  | none => true
  | some o => (troupeCores s o).all (coreDrained s)

/-- Contexts move: OUT's cores are saved and cleared, and IN is RESTORING (R336 step 3, R322). -/
def moveContexts (w : Switch) (s : State) : State :=
  let s1 := match w.out with
    | none => s
    | some o =>
      let s1 := (troupeCores s o).foldl (saveCore o) s
      s1.modTroupe o (fun (x : Troupe) => { x with area := some (ctxImage s1 o), toRestore := none })
  let s2 := match w.inn with
    | none => s1
    | some i => s1.modTroupe i (fun (x : Troupe) => { x with regs.state := .restoring })
  { s2 with switches := s2.switches.map (fun v => if v == w then { v with drained := true } else v) }

/-- Flits that waited for the core stores of troupe `t` land, and collectives go on (R336). -/
def redeliver (t : Nat) (s : State) : State :=
  let s1 := (s.fab.ports.map (·.1)).foldl (fun s p =>
    let x := s.port p
    let mine := fun (f : RxFlit) => (match x.tagEnt f.ltag with
      | some e => e.troupe == t
      | none => false)
    (x.waiting.filter mine).foldl (deliverFlit p) (s.modPort p (fun x => { x with waiting := x.waiting.filter (fun f => !mine f) }))) s
  settleLocal ((s1.fab.colls.filter (fun e => e.1.1 == t)).foldl (fun s e => tryNode e.1 s) s1)

/-- IN becomes resident on its home quads, from the accepted image or its saved context, and resumes (R336 step 4). -/
def arriveIn (i t0 : Nat) (s : State) : State :=
  let s1 := match (s.troupe i).toRestore with
    | some img => restoreImage i img (dropAway i s)
    | none => (homeCores s i).foldl (loadCore i) s
  let s2 := s1.modTroupe i (fun (x : Troupe) =>
    { x with regs.state := .resident, regs.restored := true, toRestore := none, regs.switchT := s.cue - t0, scrubbed := false })
  redeliver i (settlePort s2 i)

/-- OUT becomes OFF (R336 step 4). -/
def leaveOut (o : Nat) (s : State) : State :=
  s.modTroupe o (fun (x : Troupe) => { x with regs.state := .off, regs.saved := true, regs.switchCnt := inc16 x.regs.switchCnt })

/-! ### Creating and tearing down troupes -/

/-- The physical address that an image's initial entries give a troupe address. -/
def planPhys (p : TroupePlan) (a : Nat) : Nat :=
  match p.xlat.find? (fun e => e.1 == a / pageBytes) with
  | some e => entryPage e.2 * pageBytes + a % pageBytes
  | none => 0

/-- Records of a learner plan with their bindings, shard records and groups. -/
def planShards (l : LrnPlan) : List (Nat × BindRecord × ShardRec × GroupParam) :=
  (List.range l.binds.length).map (fun i => let b := nth {} l.binds i; (i, b, nth {} l.shards i, nth {} l.groups b.group))

/-- The NEAR ranges of a learner plan: the shards of bindings of NEAR groups, by the stack of their master weights (R207). -/
def planNear (p : TroupePlan) (l : LrnPlan) : List NearRange :=
  (planShards l).filterMap (fun e =>
    let (i, _, sh, g) := e
    if GroupParam.near g && sh.nblk != 0 then some { record := i, stack := planPhys p sh.theta / stackBytes } else none)

/-- Bindings that fall back: ORTHO bindings held WHOLE whose working set exceeds the troupe's cores (R198). -/
def planFallback (img : CastImage) (p : TroupePlan) (l : LrnPlan) : List Nat :=
  let cap := 1310720 * (imgCores img p.cfg.quads).length
  (planShards l).filterMap (fun e =>
    let (i, b, sh, g) := e
    let m := min b.rows b.cols
    if g.rule == 3 && sh.whole && cap < 4 * b.rows * b.cols + 6 * m * m then some i else none)

/-- KV parameters with the frames per block derived; a model that is absent has none (R85, R117). -/
def planModel (m : KvModel) : KvModel := if m.g == 0 then m else { m with g := ceilDiv m.layers m.ppf }

/-- What the casting gives troupe `p.t` at its creation (R320, R423): state OFF, nothing saved. -/
def planTroupe (img : CastImage) (p : TroupePlan) : Troupe :=
  let g := match img.gen.find? (fun g => g.t == p.t) with
    | none => {}
    | some g =>
      let vs : Map VSlot := if g.cfg.present && g.live < 3 then [(g.live, { st := .live, epoch := g.epoch })] else []
      ({ cfg := { g.cfg with policy := planModel g.cfg.policy, draft := planModel g.cfg.draft }, vs := vs, live := g.live
         vr := { pin := g.pin, auto := g.auto, maxLag := g.maxLag, lagchk := g.lagchk, alt := g.alt } } : Gen)
  let l := match img.lrn.find? (fun l => l.t == p.t) with
    | none => {}
    | some l =>
      let fb := planFallback img p l
      ({ cfg := l.cfg, binds := l.binds, gov := l.binds.map govInit, groups := l.groups, shards := l.shards
         near := planNear p l, fallback := fb
         regs := { step := l.step, nextEpoch := l.epoch, fallbackN := fb.length, fallback := !fb.isEmpty } } : Lrn)
  { cfg := p.cfg, regs := { state := .off, role := p.cfg.role }, gen := g, lrn := l }

/-- A troupe that returns from a teardown keeps the event bits of the old one; its counters are 0 (R8, R342 step 7). -/
def keepEvents (old new : Troupe) : Troupe :=
  let r := old.regs
  let lr := old.lrn.regs
  let kv := old.gen.kv
  let vr := old.gen.vr
  let rg := old.gen.ring
  { new with
    regs := { state := .off, role := new.cfg.role, torn := true, dclassDiff := r.dclassDiff, restored := r.restored, saved := r.saved
              semSat := r.semSat, xlat := r.xlat, xfValid := r.xfValid, xfKind := r.xfKind, xfAddr := r.xfAddr, switchT := r.switchT }
    flint := { busy := old.flint.busy, loaded := old.flint.loaded }
    lrn.regs := { new.lrn.regs with
      fallbackN := 0, fallback := lr.fallback, verdictLate := lr.verdictLate, lateLeaf := lr.lateLeaf, skip := lr.skip, commit := lr.commit
      whetMem := lr.whetMem, gsetLate := lr.gsetLate, gsetDone := lr.gsetDone, frozen := lr.frozen, stall := lr.stall }
    gen.kv := { diverge := kv.diverge, format := kv.format }
    gen.vr := { new.gen.vr with
      throttle := vr.throttle, flyNf := vr.flyNf, skipped := vr.skipped, flyWait := vr.flyWait, curtain := vr.curtain, curtainT := vr.curtainT }
    gen.ring := { doneBad := rg.doneBad, sealBad := rg.sealBad, sealcntBad := rg.sealcntBad, full := rg.full, drop := rg.drop, written := rg.written }
    scrubbed := true }

/-- The 64 bytes of an optimizer shard record (R205). -/
def shardRecBytes (r : ShardRec) : List Byte :=
  leBytes 8 r.theta ++ leBytes 8 r.m ++ leBytes 8 r.v ++ leBytes 8 r.first ++ leBytes 8 r.nblk ++ leBytes 1 (b2n r.whole) ++ leBytes 23 0

/-- Write the tables of a learner troupe into its windows (R166, R176, R187, R205, R216). -/
def writeTables (t : Nat) (s : State) : State :=
  let l := s.lrn t
  if !l.cfg.present then s
  else
    let s1 := windowWrite t l.cfg.shardRecAddr (l.shards.flatMap shardRecBytes) (windowWrite t l.cfg.bindAddr (l.binds.flatMap bindBytes) s)
    let s2 := (List.range l.groups.length).foldl (fun s g => syncGroup t g s) s1
    syncOpt t (syncGov t s2)

/-- The status with which a slot's request still has to end at a teardown: a running one with ABORTED, one cancelled at once in the step in
progress and one whose record waits for the end of the step with their own (R96, R100, R101, R102). -/
def owedStatus (g : Gen) (x : GSlot) : Option Nat :=
  if x.client.isSome then none
  else if x.running then some genAborted
  else if x.zombie then (if x.inStep && g.uncommitted then some genCancelled else none)
  else if x.lateRec then some x.status
  else none

/-- End the request of a slot of generator `g` at the teardown of its troupe `t`, if it still owes an outcome (R102). -/
def abortSlot (t : Nat) (g : Gen) (s : State) (e : Nat × GSlot) : State :=
  match owedStatus g e.2 with
  | none => s
  | some st =>
    let y := if st == genAborted then { e.2 with status := genAborted, tEnd := s.cue } else e.2
    finishReq t e.2.hdr e.2.record (some (e.1, y)) st s

/-- End the requests of troupe `t` at its teardown (R101, R102, R342). -/
def abortRequests (t : Nat) (s : State) : State :=
  let g := s.gen t
  g.slots.foldl (abortSlot t g) (g.queue.foldl (fun s q => finishReq t q.hdr q.record none genAborted s) s)

/-- Complete the held commands that name troupe `t` with TROUPE_GONE (R342). -/
def goneCommands (t : Nat) (s : State) : State :=
  let s1 := (s.wt.loads.filter (fun l => l.record.troupe == t)).foldl (fun s l => completeLoad l.hdr l.record stTroupeGone s)
    { s with wt.loads := s.wt.loads.filter (fun l => l.record.troupe != t) }
  let s2 := (s1.lrn t).gsets.foldl (fun s g => complete g.hdr opOptGset stTroupeGone s) s1
  let s3 := (s2.lrn t).skips.foldl (fun s k => complete k.1 opLrnSkip stTroupeGone s) s2
  let s3 := (s3.troupe t).maps.foldl (fun s m => complete m.hdr opTrpMap stTroupeGone s) s3
  let s3 := ((s3.lrn t).flyCmds ++ (s3.lrn t).flyHdrs).foldl (fun s k => complete k opFlyNow stTroupeGone s) s3
  let s4 := (s3.gen t).cancels.foldl (fun s k => complete k.1 opGenCancel stTroupeGone s) s3
  (s4.gen t).curtainReqs.foldl (fun s k => complete k.1 opGenCurtain stTroupeGone s) s4

/-- Unsent descriptors and collectives of core `c` complete with TROUPE_GONE (R342 step 2). -/
def goneDescs (s : State) (c : Nat) : State :=
  let gone := fun (p : Posted) => p.stage == .posted || (isColl p && p.stage == .sent)
  let k := s.core c
  let ids := (k.descs.filter gone).map (·.id)
  { s.setCore c { k with descs := k.descs.filter (fun p => !gone p) } with
    out.descs := ids.reverse.map (fun i => (c, i, stTroupeGone)) ++ s.out.descs
    fab.runs := s.fab.runs.filter (fun r => !(r.core == c && ids.contains r.desc)) }

/-- Core `c` stops for good: its instruction is abandoned (R342 step 1). -/
def haltCore (s : State) (c : Nat) : State :=
  (stopCore c s).modRegs c (fun (r : CoreRegs) =>
    { r with state := (if r.state == .running then .halted else r.state), stopping := false, kept := none })

/-- The long-reach keys of the tags of troupe `t` are erased, and flits that wait for it go with their credits returned (R342). -/
def clearTags (t p : Nat) (s : State) : State :=
  let x := s.port p
  let tags := (x.cfg.tags.filter (fun e => e.troupe == t)).map (·.ltag)
  let s0 := (x.waiting.filter (fun f => tags.contains f.ltag)).foldl (fun s f => discardFlit p f.ltag s) s
  let mine := fun (o : Owed) => o.port == p && tags.contains o.ltag
  let s1 := (s0.fab.owed.filter mine).foldl (fun s o => returnCredit p o.ltag s) { s0 with fab.owed := s0.fab.owed.filter (fun o => !mine o) }
  s1.modPort p (fun x =>
    { x with waiting := x.waiting.filter (fun f => !tags.contains f.ltag), keys := x.keys.filter (fun e => !tags.contains (e.1 / 2))
             active := x.active.filter (fun e => !tags.contains e.1) })

/-- Invalidate the troupe's prefix directory sets (R342 step 5). -/
def clearDir (t : Nat) (s : State) : State :=
  if (s.gen t).cfg.present then
    (dirAll (s.gen t).cfg).foldl (fun s i =>
      let e := dirGet s i
      if e.valid && e.troupe == t then dirPut i { e with valid := false } s else s) s
  else s

/-- A teardown of troupe `t` starts (R342 steps 1 to 5). -/
def startTear (t : Nat) (s : State) : State :=
  let cs := troupeCores s t ++ (awayCores s t).map (fun e => awayKey t e.1)
  let s1 := cs.foldl haltCore (s.modTroupe t (fun (x : Troupe) => { x with regs.state := .teardown }))
  let s2 := goneCommands t (abortRequests t (cs.foldl goneDescs s1))
  let s3 := s2.modTroupe t (fun (x : Troupe) =>
    { x with
      gen.queue := [], gen.jobs := [], gen.slots := [], gen.step := none, gen.cancels := [], gen.inbound := [], gen.curtainReqs := [], maps := [], lrn.gsets := [], lrn.skips := [], lrn.flyCmds := [], lrn.flyHdrs := []
      lrn.posted := none, lrn.heldPost := [] })
  let s4 := (s3.fab.ports.map (·.1)).foldl (fun s p => clearTags t p s) s3
  settleResets (settleHold t { clearDir t s4 with wt.shards := s4.wt.shards.filter (fun e => e.2.troupe != t) })

/-- Is a teardown's drain over: no started packet of the troupe's cores is outstanding? -/
def tearDrained (s : State) (t : Nat) : Bool :=
  (troupeCores s t ++ (awayCores s t).map (fun e => awayKey t e.1)).all (fun c => (s.core c).descs.all (fun p => p.stage != .sent))

/-- Pages that troupe `t` maps and no other one maps that has not been scrubbed since (R342 step 6). -/
def ownPages (s : State) (t : Nat) : List Nat :=
  let others := (presentTroupes s).filter (fun u => u != t && !(s.troupe u).scrubbed)
  let mine := ((xlatEntries s t).filter entryValid).map entryPage
  mine.filter (fun p => others.all (fun u => !(xlatEntries s u).any (fun e => entryValid e && entryPage e == p)))

/-- The tile buffer slices of troupe `t` (R320). -/
def zeroSlices (t : Nat) (s : State) : State :=
  let c := (s.troupe t).cfg
  ((List.range 4).filter (fun ti => bitsOf c.quads (16 * ti + 15) (16 * ti) != 0)).foldl (fun s ti =>
    { s with mem.tbuf := s.mem.tbuf.zeroRange (ti * 0x2000000 + c.tbBase * 65536) (c.tbSize * 65536) }) s

/-- Scrub troupe `t`: cores, slices, semaphores, queues, key, context area and pages (R342 step 6). -/
def scrubTroupe (t : Nat) (s : State) : State :=
  let pages := ownPages s t
  let s1 := (troupeCores s t).foldl (fun s c => s.setCore c (emptyCore (s.core c))) s
  let c := (s1.troupe t).cfg
  let s2 := zeroSlices t { dropAway t s1 with sems := s1.sems.filter (fun e => e.1 < c.semBase || c.semBase + c.semCount ≤ e.1) }
  let s3 := pages.foldl (fun s p => zeroMem (p * pageBytes) pageBytes s) (zeroMem c.ctxBase (c.ctxSize * 0x100000) s2)
  { s3 with
    fab.colls := s3.fab.colls.filter (fun e => e.1.1 != t), fab.runs := s3.fab.runs.filter (fun r => r.troupe != t)
    cueRegs.ndMap := setBitTo s3.cueRegs.ndMap t false }

/-- Troupe `t` takes its home quads: idle cores with every state zero. -/
def takeHome (t : Nat) (s : State) : State :=
  settlePort ((homeCores s t).foldl (fun s c => giveCore t c { regs := { state := .idle } } s)
    (s.modTroupe t (fun (x : Troupe) => { x with regs.state := .resident }))) t

/-- The troupe after a teardown (R343): its casting entry, its event bits, every counter 0; resident with idle cores when no
alternate holds its quads and it is not withheld (R420), OFF with an empty context otherwise. -/
def endTear (t : Nat) (s : State) : State :=
  let old := s.troupe t
  let plan : Option Troupe := match s.cast with
    | some img => (img.troupes.find? (fun (p : TroupePlan) => p.t == t)).map (planTroupe img)
    | none => none
  let new : Troupe := match plan with
    | some x => x
    | none => { cfg := old.cfg }
  let x := keepEvents old new
  let s1 := writeTables t ((scrubTroupe t s).setTroupe t x)
  let s2 := if homeTaken s1 t [t] || s1.bt.withheld.contains t then s1 else takeHome t s1
  let s3 := raiseEvent evTeardownDone t [] (settleWhets s2)
  old.tears.foldl (fun s e => complete e.1 e.2.1 e.2.2 s) s3

/-- A teardown that waited for SAVING or RESTORING starts now (R342). -/
def settleTears (t : Nat) (s : State) : State :=
  if (s.troupe t).tears.isEmpty || stateOf s t == .teardown || stateOf s t == .saving || stateOf s t == .restoring then s
  else startTear t s

end Sys2Proof.Machine
end

