-- ==== Sys2Proof/Machine/CkptImg.lean ====
section
/-! DEFINITION. Checkpoint images (R347, R355 to R362): the pieces of a troupe, their stored bytes, the manifest and the bytes of a
drain; and what a restore writes (R365, R366). -/

namespace Sys2Proof.Machine

/-! ### Save-set ranges and narrowing -/

/-- The code of a moment format byte: 0x00 FP32, 0x01 BF16, 0x10 FP8 E4M3. -/
def ckSize (fmt : Nat) : Nat := if fmt == 0x00 then 128 else if fmt == 0x01 then 64 else 33

/-- The values of a stored block of 32 elements; an FP8 block is 32 codes and its scale (assumption 27). -/
def blockWords (fmt : Nat) (bs : List Byte) : List F32 :=
  if fmt == 0x10 then
    let t := tagMake 0x10 true false false f32One
    (List.range 32).map (fun i => (widen t ((nth 0 bs i).toNat, (nth 0 bs 32).toNat)).1)
  else (List.range 32).map (fun i => stateVal fmt (leNat ((bs.drop (i * stateSize fmt)).take (stateSize fmt))))

/-- A block of 32 values stored in a format: FP32 or BF16 by R39 with RNE, FP8 with a scale chosen by R41 (R359). -/
def storeWords (fmt : Nat) (xs : List F32) : List Byte :=
  if fmt == 0x10 then
    let (ws, es, _) := convertTensor (tagMake 0x10 true false false f32One) .rne 32 [xs.map (fun x => (x, 0))]
    ((nth [] ws 0) ++ es).map (fun e => (BitVec.ofNat 8 e : Byte))
  else xs.flatMap (fun x => leBytes (stateSize fmt) (stateWord fmt x))

/-- Cut a byte list into pieces of `n`, by fuel. -/
def chunks (n : Nat) : Nat → List Byte → List (List Byte)
  | 0, _ => []
  | k + 1, bs => if bs.isEmpty then [] else bs.take n :: chunks n k (bs.drop n)

/-- Stored blocks from one format into another. -/
def recode (src dst : Nat) (bs : List Byte) : List Byte :=
  if src == dst then bs
  else (chunks (ckSize src) (bs.length / ckSize src + 1) bs).flatMap (fun b => storeWords dst (blockWords src b))

/-- The troupe address ranges that a piece of kind `kind` saves (R347). -/
def saveRanges (s : State) (t kind addr len : Nat) : List (Nat × Nat) :=
  if kind == 0x05 then
    let c := (s.gen t).cfg
    [(c.ring.ctrl, 128), (c.ring.base, c.ring.units * 256), (c.ring.logBase, c.slotCount * logStride c)]
  else if len == 0 then [] else [(addr, len)]

/-- The bytes of ranges of troupe `t` as memory holds them. -/
def rangeBytes (s : State) (t : Nat) (rs : List (Nat × Nat)) : List Byte :=
  rs.flatMap (fun r => match troupeRead s t r.1 r.2 with
    | some bs => bs
    | none => List.replicate r.2 0)

/-- The physical targets of ranges of troupe `t` that lie in memory. -/
def rangeMem (s : State) (t : Nat) (rs : List (Nat × Nat)) : List (Nat × Nat) :=
  rs.flatMap (fun r => match troupeRange s t r.1 r.2 false with
    | .ok ls => ls.filterMap (fun l => match l.1 with
      | .mem a => some (a, l.2)
      | _ => none)
    | .error _ => [])

/-! ### Pieces -/

/-- Where the core that carries logical number `l` of troupe `t` stands: in its saved context where the troupe is away (R353), an empty one while
another troupe holds that core. -/
def carrierKey (s : State) (t l : Nat) : Nat :=
  match coreOfLogical s l with
  | some c => if (mapFind s.cores (awayKey t l)).isNone && (s.core c).regs.troupe == t then c else awayKey t l
  | none => awayKey t l

/-- The core that carries logical number `l` of troupe `t`. -/
def logicalCore (s : State) (t l : Nat) : Core := s.core (carrierKey s t l)

/-- The register image of a troupe (R347). -/
def troupeImg (s : State) (t : Nat) : TroupeImg :=
  let x := s.troupe t
  let ring := (scoredBy s t).map (fun g => (s.gen g).ring)
  { sems := (List.range x.cfg.semCount).map (semGet s t)
    queues := (List.range x.cfg.queues.length).map (fun q =>
      let (a, n) := nth (0, 1) x.cfg.queues q
      let r := mapGet {} x.queues q
      (r.head, (List.range r.count).map (fun i => troupeNat s t (a + 8 * ((r.head + i) % (if n == 0 then 1 else n))) 8)))
    seed := x.flint.seed
    streams := (homeLogicals s t).map (fun l => (l, (List.range 16).map (fun r => ((logicalCore s t l).fGet r).toNat)))
    pin := x.gen.vr.pin, auto := x.gen.vr.auto, maxLag := x.gen.vr.maxLag, lagchk := x.gen.vr.lagchk, alt := x.gen.vr.alt
    epoch := x.gen.liveEpoch
    sHandCnt := match ring with
      | some r => r.sHandCnt
      | none => 0
    sealCnt := match ring with
      | some r => r.sealCnt
      | none => 0 }

/-- The register image of a learner (R347). -/
def learnerImg (s : State) (t : Nat) : LearnerImg :=
  let l := s.lrn t
  let r := l.regs
  { step := r.step, vStep := r.vStep, vCount := r.vCount, vReasons := r.vReasons, vReason := r.vReason, vValid := r.vValid,
    vSkip := r.vSkip, nextEpoch := r.nextEpoch, gstates := l.gstates, gsets := l.gsets, gov := l.gov }

/-- The members of a job: LMID and troupe of every rank of its barrier's group. -/
def jobMembers (s : State) (x : Job) : List (Nat × Nat) :=
  match jobTree s x with
  | some (_, g, _) => g.members
  | none => x.plan.troupes.map (fun p => (s.lmid, p.t))

/-- The GROUPS piece of a job (R347): the records that name its troupes, its LMIDs, and its learners' Prompter slots. -/
def groupsImg (s : State) (x : Job) : GroupsImg :=
  let ms := jobMembers s x
  let gs := (s.fab.groups.map (·.2)).filter (fun g => g.members.any (fun m => ms.contains m))
  { groups := gs
    trees := (s.fab.trees.map (·.2)).filter (fun tr => gs.any (fun g => g.group == tr.group))
    barriers := s.fab.barriers.filter (fun b => x.plan.troupes.any (fun p => p.t == b.troupe))
    members := (jobLmids s x).map (fun l => (l, lmidState s l))
    prompter := x.plan.troupes.flatMap (fun p =>
      let c := (s.lrn p.t).cfg
      if c.present then s.prm.filter (fun e => c.prmBase ≤ e.1 && e.1 < c.prmBase + c.prmCount) else []) }

/-- One moment or master piece of a shard (R347, R359). -/
def shardPiece (s : State) (t kind i addr live stored : Nat) (sh : ShardRec) : List Piece :=
  if addr == 0 && kind == 0x03 then []
  else
    let len := sh.nblk * 32 * stateSize live
    [{ kind := kind, troupe := t, fmt := stored, liveFmt := live, record := i, firstBlk := sh.first, nblk := sh.nblk, addr := addr
       len := len, val := .bytes (recode live stored (rangeBytes s t [(addr, len)])) }]

/-- The shard pieces of a learner troupe: master weights, first and second moments, by kind. -/
def shardPieces (s : State) (t : Nat) : List Piece :=
  let l := s.lrn t
  let own := (List.range l.binds.length).filter (fun i => (nth {} l.shards i).nblk != 0)
  let gr := fun (i : Nat) => nth {} l.groups (nth {} l.binds i).group
  own.flatMap (fun i => let sh := nth {} l.shards i; shardPiece s t 0x01 i sh.theta (gr i).mfmt (gr i).mfmt sh) ++
    own.flatMap (fun i => let sh := nth {} l.shards i; shardPiece s t 0x02 i sh.m (gr i).ofmt (gr i).ckfmt sh) ++
    own.flatMap (fun i => let sh := nth {} l.shards i; shardPiece s t 0x03 i sh.v (gr i).ofmt (gr i).ckfmt sh)

/-- The pieces of one troupe of a job, by kind (R347, R360); the job's GROUPS piece goes with its first troupe (assumption 27). -/
def troupePieces (s : State) (x : Job) (p : JobTrp) : List Piece :=
  let t := p.t
  let g := (s.gen t).cfg
  (if (s.lrn t).cfg.present then shardPieces s t ++ [({ kind := 0x04, troupe := t, val := .learner (learnerImg s t) } : Piece)] else []) ++
    (if g.present && g.ring.present then
      [({ kind := 0x05, troupe := t, addr := g.ring.ctrl, len := 128, val := .ring (rangeBytes s t (saveRanges s t 0x05 0 0)) (s.gen t).ring } : Piece)]
    else []) ++
    [({ kind := 0x06, troupe := t, val := .troupe (troupeImg s t) } : Piece)] ++
    (if (x.plan.troupes.map (fun (q : JobTrp) => q.t)).headD 0 == t then
      [({ kind := 0x07, troupe := t, val := .groups (groupsImg s x) } : Piece)] else []) ++
    (List.zip (List.range p.extra.length) p.extra).map (fun e =>
      ({ kind := 0x08, troupe := t, record := e.1, addr := e.2.1, len := e.2.2, val := .bytes (rangeBytes s t [e.2]) } : Piece))

/-- The pieces of a job on this module, ordered by troupe and kind (R360). -/
def jobPieces (s : State) (x : Job) : List Piece := x.plan.troupes.flatMap (troupePieces s x)

/-- The physical memory that a job's pieces save. -/
def jobMem (s : State) (x : Job) : List (Nat × Nat) :=
  (jobPieces s x).flatMap (fun p => rangeMem s p.troupe (saveRanges s p.troupe p.kind p.addr p.len))

/-- The stack pages that hold a unit of the save set (R356), in ascending order. -/
def savePages (s : State) (x : Job) : List Nat :=
  ((jobMem s x).foldl (fun (m : Map Unit) r =>
    (List.range (r.2 / 4096 + 2)).foldl (fun m i =>
      let a := r.1 / 4096 * 4096 + i * 4096
      if a < r.1 + r.2 then mapPut m (stackPage s a) () else m) m) []).map (·.1)

/-! ### Stored bytes -/

/-- Words of 8 bytes. -/
def words8 (xs : List Nat) : List Byte := xs.flatMap (leBytes 8)

/-- The stored bytes of a register piece: R347 gives its content, the model its order (assumption 27). -/
def learnerBytes (x : LearnerImg) : List Byte :=
  words8 [x.step, x.vStep, x.vCount, x.vReasons, x.vReason, b2n x.vValid + 2 * b2n x.vSkip, x.nextEpoch] ++
    x.gstates.flatMap (fun g => words8 [g.1, g.2.last, g.2.updates]) ++
    x.gsets.flatMap (fun g => words8 [g.group, g.n] ++ groupBytes g.r) ++
    x.gov.flatMap (fun g => words8 ([g.fmt, g.s, g.run, b2n g.halved, g.last, g.hist.length] ++ g.hist))

/-- The stored bytes of a TROUPE piece. -/
def troupeImgBytes (x : TroupeImg) : List Byte :=
  x.sems.flatMap (leBytes 4) ++ x.queues.flatMap (fun q => words8 ([q.1, q.2.length] ++ q.2)) ++ leBytes 32 x.seed ++
    x.streams.flatMap (fun e => words8 (e.1 :: e.2)) ++
    words8 [b2n x.pin + 2 * b2n x.auto + 4 * b2n x.lagchk + 8 * b2n x.alt, x.maxLag, x.epoch, x.sHandCnt, x.sealCnt]

/-- The stored bytes of a GROUPS piece. -/
def groupsBytes (x : GroupsImg) : List Byte :=
  x.groups.flatMap (fun g => words8 ([g.group, g.timeout, g.gchk, g.members.length] ++ g.members.flatMap (fun m => [m.1, m.2]))) ++
    x.trees.flatMap (fun t => words8 ([t.tree, t.group, t.n, t.root, t.tchk] ++ t.entries.flatMap (fun e => [e.parent, e.first, e.next, e.selfPos]))) ++
    x.barriers.flatMap (fun b => words8 [b.b, b.troupe, b.tree, b.lead, b.btimeout]) ++ x.members.flatMap (fun m => words8 [m.1, m.2]) ++
    x.prompter.flatMap (fun e => words8 [e.1, e.2.kind, e.2.warm, e.2.decay, e.2.qmul, e.2.start, e.2.wsteps, e.2.dsteps, e.2.period, e.2.floor, e.2.gamma])

/-- The stored bytes of a piece. -/
def Piece.stored (p : Piece) : List Byte :=
  match p.val with
  | .bytes b => b
  | .learner x => learnerBytes x
  | .ring b _ => b
  | .troupe x => troupeImgBytes x
  | .groups x => groupsBytes x

/-- Does the piece lie in the metadata area (R348)? -/
def Piece.isReg (p : Piece) : Bool :=
  match p.val with
  | .bytes _ => false
  | .ring _ _ => false
  | _ => true

/-- Is the piece stored narrower than it lives (R360)? -/
def Piece.narrow (p : Piece) : Bool := p.fmt != 0xFF && ckSize p.fmt < ckSize p.liveFmt

/-! ### Manifest and drain (R360, R362) -/

/-- The grains of a memory piece in source order: where each stored chunk came from, and its bytes. -/
def grains (s : State) (p : Piece) : List (Nat × List Byte) :=
  if p.isReg then []
  else
    let (live, store) := if p.fmt == p.liveFmt then (64, 64) else (ckSize p.liveFmt, ckSize p.fmt)
    let addrs := (saveRanges s p.troupe p.kind p.addr p.len).flatMap (fun r => (List.range (ceilDiv r.2 live)).map (fun i => r.1 + i * live))
    (List.zip addrs (chunks store (p.stored.length / store + 1) p.stored)).filterMap (fun e =>
      match xlate s p.troupe e.1 false with
      | some a => let (n, o) := stackOf s a; some (n * stackBytes + o, e.2)
      | none => none)

/-- The stored chunks of an image by the stack and offset of their source. -/
def imageGrains (s : State) (i : CkptImage) : Map (List Byte) := (i.pieces.flatMap (grains s)).foldl (fun m e => mapPut m e.1 e.2) []

/-- The stack parts of an image: the stored chunks by stack and ascending source offset (R356, R362). -/
def stackParts (s : State) (i : CkptImage) : List (List Byte) :=
  let m := imageGrains s i
  (List.range 20).map (fun n => (m.filter (fun e => e.1 / stackBytes == n)).flatMap (·.2))

/-- The 128 bytes of a piece entry (R360). -/
def pieceEntry (p : Piece) : List Byte :=
  leBytes 1 p.kind ++ leBytes 1 p.troupe ++ leBytes 1 p.fmt ++ leBytes 1 p.liveFmt ++ leBytes 4 p.record ++ leBytes 8 p.firstBlk ++
    leBytes 8 p.nblk ++ leBytes 8 (if p.isReg then 0 else p.addr) ++ leBytes 8 p.stored.length ++ leBytes 8 0 ++
    leBytes 32 p.digest ++ leBytes 48 0

/-- Offsets of the parts that are not empty, from `off` on. -/
def partOffs : Nat → List (List Byte) → List Nat
  | _, [] => []
  | off, p :: ps => (if p.isEmpty then 0 else off) :: partOffs (off + p.length) ps

/-- The manifest header of an image (R360). -/
def manifestHeader (i : CkptImage) : List Byte :=
  [0x4B, 0x4D, 0x41, 0x4E] ++ leBytes 2 1 ++ leBytes 1 i.cl ++ leBytes 1 (b2n i.complete + 2 * b2n i.skewed + 4 * b2n i.narrow) ++
    leBytes 2 i.job ++ leBytes 2 i.lmid ++ leBytes 4 i.pieces.length ++ leBytes 8 i.step ++ leBytes 8 i.no ++ leBytes 8 i.tCut ++
    leBytes 8 i.bytes ++ leBytes 32 i.dclass ++ leBytes 32 i.castDigest ++ (i.cursor ++ List.replicate (64 - i.cursor.length) 0) ++
    leBytes 32 i.digest ++ i.offs.flatMap (leBytes 8) ++ leBytes 144 0

/-- The register pieces of an image, in the order of its entries. -/
def regBytes (i : CkptImage) : List Byte := (i.pieces.filter Piece.isReg).flatMap Piece.stored

/-- The manifest of an image (R360): its header and its piece entries. -/
def manifestBytes (i : CkptImage) : List Byte := manifestHeader i ++ i.pieces.flatMap pieceEntry

/-- The digest of a manifest: of its bytes with the field 0 (R360). -/
def manifestSum (i : CkptImage) : Nat := digest32 (manifestBytes { i with digest := 0 })

/-- An image with the sizes and places of its parts and the digest of its manifest (R360, R362). -/
def sealImage (s : State) (i : CkptImage) : CkptImage :=
  let parts := stackParts s i
  let meta_ := 512 + 128 * i.pieces.length + (regBytes i).length
  let j := { i with bytes := meta_ + (parts.map List.length).sum, offs := partOffs meta_ parts }
  { j with digest := manifestSum j }

/-- The bytes of a stratum 1 image: manifest, register pieces, stack parts (R362). -/
def imageBytes (s : State) (i : CkptImage) : List Byte :=
  manifestBytes i ++ regBytes i ++ (stackParts s i).flatMap (fun p => p)

/-! ### The spare regions (R348, R356) -/

/-- The physical address of an offset in the spare region of stack `n`: the top of the stack (R245), outside the interleave band (R246). -/
def spareAt (s : State) (n o : Nat) : Nat := n * stackBytes + (stackBytes - (s.stack n).spare * 0x10000000) + o

/-- Write the metadata area of local job `j` from offset `o` on (R348). -/
def putMeta (j o : Nat) (bs : List Byte) (s : State) : State := hubWrite s (spareAt s s.mem.hubStack (0x400000 * j + o)) bs

/-- The stored bytes of a job's save set in stack `n`. -/
def partBytes (s : State) (x : Job) (n : Nat) : Nat :=
  (nth [] (stackParts s { job := x.plan.job, lmid := s.lmid, no := 0, step := 0, tCut := 0, pieces := jobPieces s x }) n).length

/-- Where the part of local job `j` begins in the spare region of stack `n`: after the metadata areas in HUB_STACK, and after the parts of the
jobs below it (assumption 85). -/
def partAt (s : State) (j n : Nat) : Nat :=
  (if n == s.mem.hubStack then 0x400000 * s.ckpt.jobs.length else 0) +
    ((s.ckpt.jobs.filter (fun e => e.1 < j)).map (fun e => partBytes s e.2 n)).sum

/-- In the copy begun at `s`, one chunk of stack `n`'s part of job `j`'s spare region is written at the offset so far, unless its source is poisoned (R356, R358). -/
def copyChunk (s : State) (j n : Nat) (x : State × Nat) (e : Nat × List Byte) : State × Nat :=
  let src := stackAt s n (e.1 % stackBytes) / 64 * 64
  (if unitLost s src then x.1 else hubWrite x.1 (spareAt s n (partAt s j n + x.2)) e.2, x.2 + e.2.length)

/-- Copy stack page `key` of image `i` of job `j`: each chunk goes to its packed place in the stack's part; one with a poisoned source cannot be
read (R356, R358). -/
def copyPage (j key : Nat) (i : CkptImage) (s : State) : State :=
  let n := key / 12288
  let mine := (imageGrains s i).filter (fun e => e.1 / stackBytes == n)
  let below := mine.filter (fun e => e.1 % stackBytes / pageBytes < key % 12288)
  let here := mine.filter (fun e => e.1 % stackBytes / pageBytes == key % 12288)
  (here.foldl (copyChunk s j n) (s, (below.map (fun e => e.2.length)).sum)).1

/-! ### Restoring (R365, R366) -/

/-- Write a byte list over ranges of troupe `t`. -/
def putRanges (t : Nat) : List (Nat × Nat) → List Byte → State → State
  | [], _, s => s
  | (a, n) :: rest, bs, s => putRanges t rest (bs.drop n) (troupePut s t a (bs.take n))

/-- Put the stream registers of logical core `l` of troupe `t`. -/
def putStreams (t l : Nat) (xs : List Nat) (s : State) : State :=
  let set := fun (k : Core) => { k with f := (List.zip (List.range xs.length) xs).foldl (fun m e => mapPut m e.1 (BitVec.ofNat 64 e.2)) k.f }
  s.modCore (carrierKey s t l) set

/-- Restore a TROUPE piece. -/
def putTroupe (t : Nat) (x : TroupeImg) (s : State) : State :=
  let s1 := (List.zip (List.range x.sems.length) x.sems).foldl (fun s e => semSet t e.1 e.2 s) s
  let s2 := (List.zip (List.range x.queues.length) x.queues).foldl (fun s e =>
    let (a, n) := nth (0, 1) (s.troupe t).cfg.queues e.1
    let w := (List.zip (List.range e.2.2.length) e.2.2).foldl (fun s v =>
      troupePut s t (a + 8 * ((e.2.1 + v.1) % (if n == 0 then 1 else n))) (leBytes 8 v.2)) s
    w.modTroupe t (fun (y : Troupe) => { y with queues := mapPut y.queues e.1 { head := e.2.1, count := e.2.2.length } })) s1
  let s3 := x.streams.foldl (fun s e => putStreams t e.1 e.2 s) s2
  let s4 := s3.modTroupe t (fun (y : Troupe) =>
    { y with
      flint.seed := x.seed, flint.key := flintKey x.seed, flint.keychk := flintKeyChk x.seed
      gen.vr.pin := x.pin, gen.vr.auto := x.auto, gen.vr.maxLag := x.maxLag, gen.vr.lagchk := x.lagchk, gen.vr.alt := x.alt
      gen.vs := mapPut y.gen.vs y.gen.live { y.gen.vslot y.gen.live with epoch := x.epoch } })
  match scoredBy s4 t with
  | some g => s4.modRing g (fun (r : Ring) => { r with sHandCnt := x.sHandCnt, sealCnt := x.sealCnt })
  | none => s4

/-- Restore a LEARNER piece: registers, groups' states, held changes and the governor; windows and NEAR ranges follow (R366,
R203). -/
def putLearner (t : Nat) (x : LearnerImg) (s : State) : State :=
  syncOpt t (syncGov t (s.modLrn t (fun (l : Lrn) =>
    { l with gstates := x.gstates, gsets := x.gsets, gov := x.gov
             near := l.near.map (fun r => { r with last := (mapGet {} x.gstates (nth {} l.binds r.record).group).last })
             regs := { l.regs with step := x.step, vStep := x.vStep, vCount := x.vCount, vReasons := x.vReasons, vReason := x.vReason
                                   vValid := x.vValid, vSkip := x.vSkip, nextEpoch := x.nextEpoch } })))

/-- Is an LMID held by a module: this one, a PRESENT slot's, or one of a job that no ensemble table lists? -/
def lmidHeld (s : State) (l : Nat) : Bool := l == s.lmid || s.thl.ens.table.isEmpty || lmidState s l == 2

/-- Does a GROUPS piece agree with the casting in force (R366)? -/
def groupsAgree (s : State) (x : Job) (g : GroupsImg) : Bool :=
  let now := groupsImg s x
  g.groups == now.groups && g.trees == now.trees && g.barriers == now.barriers && g.prompter == now.prompter &&
    g.members.all (fun m => lmidHeld s m.1)

/-- write_piece (R365): a piece whose digest matches is written to its live locations; the state is that after the write. -/
def writePiece (x : Job) (p : Piece) (s : State) : State × Bool :=
  if p.digest != shardDigest p.stored then (s, false)
  else
    match p.val with
    | .bytes b =>
      (putRanges p.troupe (saveRanges s p.troupe p.kind p.addr p.len) (if p.fmt == p.liveFmt then b else recode p.fmt p.liveFmt b) s, true)
    | .ring b r =>
      ((putRanges p.troupe (saveRanges s p.troupe 0x05 0 0) b s).modRing p.troupe (fun _ => { r with waiting := [], counted := [] }), true)
    | .learner i => (putLearner p.troupe i s, true)
    | .troupe i => (putTroupe p.troupe i s, true)
    | .groups g => (s, groupsAgree s x g)

/-- Write pieces until one fails. -/
def writePieces (x : Job) : List Piece → State → State × Bool
  | [], s => (s, true)
  | p :: ps, s => let (s1, ok) := writePiece x p s; if ok then writePieces x ps s1 else (s1, false)

/-- Does a manifest qualify for step `n` of the job under this module's LMID (R365)? -/
def manifestOk (s : State) (x : Job) (n : Nat) (i : CkptImage) : Bool :=
  i.digest == manifestSum i && i.complete && !i.skewed && i.job == x.plan.job && i.lmid == s.lmid && i.step == n && i.cl == 1 &&
    i.castDigest == s.bt.regs.digest

/-- The arrivals that cores of troupe `t`, saved ones too, keep at an abandoned barrier wait are void: barriers restart (R366). -/
def dropArrivals (t : Nat) (s : State) : State :=
  { s with cores := s.cores.map (fun e =>
      if e.2.regs.troupe == t || (512 * (t + 1) ≤ e.1 && e.1 < 512 * (t + 2)) then (e.1, { e.2 with regs.kept := none }) else e) }

/-- How a restore leaves troupe `t` beyond what the pieces hold (R366). -/
def restoredTroupe (dc : Nat) (t : Nat) (s : State) : State :=
  let s0 := dropArrivals t (clearDir t (abortRequests t s))
  let s1 := (s0.gen t).curtainReqs.foldl (fun s k => complete k.1 opGenCurtain stCurtainNotReady s) s0
  let s2 := s1.modTroupe t (fun (x : Troupe) =>
    let g := x.gen
    let l := x.lrn
    let role := x.regs.role
    { x with
      regs := { x.regs with dclassDiff := x.regs.dclassDiff || dc != dclass s, stopped := false
                            opened := (if role == 1 || role == 3 || g.cfg.present then false else x.regs.opened)
                            shut := (role == 1 || role == 3 || g.cfg.present) }
      scrubbed := false
      gen := (if g.cfg.present then
          { g with queue := [], jobs := [], slots := [], step := none, used := [], rowsP := [], rowsD := [], resvs := [], curtainReqs := []
                   flyWaits := [], inbound := [], vs := [(g.live, ({ st := .live, epoch := g.liveEpoch, void := true } : VSlot))] }
        else g)
      lrn := (if l.cfg.present then
          { l with near := l.near.map (fun r => { r with damaged := false, cmds := [] }), posted := none, heldPost := [], vOwn := none
                   vKids := [], vRoot := none, decided := none, midStep := false, flying := none, stalled := [], flyStatus := stOk
                   armed := !l.cfg.plan.isEmpty, flyForce := !l.cfg.plan.isEmpty
                   regs := { l.regs with vValid := false, busy := false } }
        else l) })
  let s2 := settleWhets s2
  { s2 with
    cueRegs.ndMap := setBitTo s2.cueRegs.ndMap t false, ckpt.sub.unfilled := s2.ckpt.sub.unfilled.filter (fun u => u != t)
    fab.nodes := s2.fab.nodes.filter (fun e => e.1 / 256 != t) }

end Sys2Proof.Machine
end

