-- ==== Sys2Proof/Machine/ThlOps.lean ====
section
/-! DEFINITION. Shared operations of the host link: queues (R377 to R379), the lead's checks of a fetched command (R380 to R382), its
fetch and reservations (R379, R385), completion entries (R384, R389), and the ensemble's membership (R392 to R394). -/

namespace Sys2Proof.Machine

/-! ### Slots -/

/-- Slot `n` as THL_SLOT shows it (R391, R399): a standalone module is the lead of one slot. -/
def slotRow (s : State) (n : Nat) : EnsSlot :=
  if s.thl.ens.standalone then
    (if n == 0 then { lmid := s.lmid, state := 2, serial := s.record.serial % 2 ^ 40, role := 1 } else {})
  else mapGet {} s.thl.ens.table n

/-- Number of slots (THL_ENS_CFG.SLOTS). -/
def slotCount (s : State) : Nat := if s.thl.ens.standalone then 1 else s.thl.ens.slots

/-- Is a slot no target of a command: beyond the ensemble or VACANT (R382)? -/
def slotVoid (s : State) (n : Nat) : Bool := slotCount s ≤ n || (slotRow s n).state == 0

/-! ### Queues -/

/-- Free entries of a completion queue: neither written and unread nor reserved (R385). -/
def CplQueue.room (c : CplQueue) : Nat := 2 ^ c.log2n - (c.unread + c.reserved)

/-- Does a queue exist for a doorbell (R379): kind 0 command, 1 completion, 2 event; an admin queue only while ENABLE is 1? -/
def queueThere (s : State) (kind q : Nat) : Bool :=
  (q != 0 || s.thl.regs.enable) && isLead s &&
    (if kind == 0 then (mapFind s.thl.cmdQs q).isSome
     else if kind == 1 then (mapFind s.thl.cplQs q).isSome
     else (mapFind s.thl.evtQs q).isSome)

/-- A doorbell write is discarded: THL_EVT.DB_BAD and its counter (R379). -/
def badDoorbell (s : State) : State :=
  { s with thl.regs.dbBad := true, thl.regs.dbBadCnt := inc16 s.thl.regs.dbBadCnt }

/-- Entries that a head at `index` passes, of a ring of `n` entries with its head at `head` (R379). A head equal to the old one passes
none. -/
def passed (n head index : Nat) : Nat := (index + n - head) % n

/-- Place the admin queues (R377). Commands that are outstanding keep their reservations. -/
def openAdmin (s : State) : State :=
  let r := s.thl.regs
  let ring := fun (w : Word) => ((bitsOf w.toNat 4 0), bitsOf w.toNat 63 12 * 4096)
  let old := mapGet {} s.thl.cplQs 0
  let c : CmdQueue := { log2n := (ring r.aqCmd).1, base := (ring r.aqCmd).2 }
  let p : CplQueue := { log2n := (ring r.aqCpl).1, base := (ring r.aqCpl).2, vector := r.cq0Vec, reserved := old.reserved }
  let e : EvtQueue := { log2n := (ring r.aqEvq).1, base := (ring r.aqEvq).2, vector := r.eq0Vec }
  { s with
    thl.cmdQs := mapPut s.thl.cmdQs 0 c
    thl.cplQs := mapPut s.thl.cplQs 0 p
    thl.evtQs := mapPut s.thl.evtQs 0 e }

/-! ### The checks of a fetched command (R380 to R382) -/

/-- A command entry by its fields (R380). -/
structure CmdEntry where
  opcode   : Nat
  slot     : Nat
  troupe   : Nat
  fence    : Bool
  multi    : Bool
  rsv      : Bool
  cmdId    : Nat
  slotMask : Nat
  deriving DecidableEq, Repr

/-- Read a command entry's 256 bytes (R380). -/
def CmdEntry.ofBytes (b : List Byte) : CmdEntry :=
  let f := fun (o n : Nat) => leNat ((b.drop o).take n)
  { opcode := f 0 2, slot := f 2 1, troupe := f 3 1, fence := bitOf (f 4 2) 0, multi := bitOf (f 4 2) 1
    rsv := f 4 2 / 4 != 0 || f 6 2 != 0 || f 24 40 != 0, cmdId := f 8 8, slotMask := f 16 8 }

/-- The opcodes of the table (R381, R433). -/
def opcodeListed (o : Nat) : Bool :=
  (1 ≤ o && o ≤ 3) || (0x100 ≤ o && o ≤ 0x102) || (0x200 ≤ o && o ≤ 0x202) || (0x300 ≤ o && o ≤ 0x302) ||
    (0x400 ≤ o && o ≤ 0x403) || (0x500 ≤ o && o ≤ 0x506) || o == 0x600 || (0x700 ≤ o && o ≤ 0x706) ||
    (0x800 ≤ o && o ≤ 0x802) || (0x900 ≤ o && o ≤ 0x90A)

/-- The slots that a command names (R380). -/
def CmdEntry.slots (e : CmdEntry) : List Nat :=
  if e.multi then (List.range 64).filter (fun i => bitOf e.slotMask i) else [e.slot]

/-- Entries to reserve for a command (R385). -/
def CmdEntry.need (e : CmdEntry) : Nat := if e.multi then (if e.slotMask == 0 then 1 else e.slots.length) else 1

/-- The tenant of a troupe: of this module's by its casting, of another slot's as the lead knows it (assumption 29). -/
def tenantOf (s : State) (tenants : List (Nat × Nat)) (slot t : Nat) : Option Nat :=
  if slot == s.thl.ens.mySlot then (if s.hasTroupe t then some (s.troupe t).cfg.tenant else none)
  else (tenants.find? (fun e => e.1 == 256 * slot + t)).map (·.2)

/-- Does a queue of one tenant keep a command from its slots (R382 check 4)? -/
def tenantBars (s : State) (tenants : List (Nat × Nat)) (tenant : Nat) (e : CmdEntry) : Bool :=
  tenant != 255 && (e.troupe == 255 || e.slots.any (fun n =>
    match tenantOf s tenants n e.troupe with
    | some u => u != tenant
    | none => false))

/-- The status with which the lead refuses a command whole, in the order of R382; a FAILED slot is judged slot by slot. -/
def judgeEntry (s : State) (q : Nat) (c : CmdQueue) (tenants : List (Nat × Nat)) (e : CmdEntry) : Nat :=
  if !opcodeListed e.opcode || e.rsv || (e.multi && (e.opcode != opWtLoad || e.slotMask == 0)) ||
      ((e.opcode == opQueueCreate || e.opcode == opQueueDelete) && q != 0) then stCmdInvalid
  else if e.slots.any (slotVoid s) then stSlotInvalid
  else if !e.multi && (slotRow s e.slot).state == 3 then stSlotFailed
  else if tenantBars s tenants c.tenant e then stCmdTenant
  else stOk

/-- A command passes to the slot that owns it: registered here when its meaning runs (R383), or relayed (R395). -/
def passCommand (q : Nat) (e : CmdEntry) (bytes : List Byte) (s : State) (n : Nat) : State :=
  let h : CmdHdr := { sq := q, slot := n, troupe := e.troupe, cmdId := e.cmdId }
  if (slotRow s n).state == 3 then complete h e.opcode stSlotFailed s
  else
    let s1 := { s with thl.fetched := s.thl.fetched ++ [({ hdr := h, opcode := e.opcode, fence := e.fence } : Fetched)] }
    if n == s.thl.ens.mySlot then s1
    else sendFab { kind := "command", dest := (slotRow s n).lmid, vals := [q, n, b2n e.fence], data := bytes } s1

/-- Fetch the next entry of command queue `q` (R379, R385): none when the queue is empty or its completion queue has no room. -/
def fetchOne (q : Nat) (mem : List (Nat × List Byte)) (tenants : List (Nat × Nat)) (s : State) : Option State :=
  match mapFind s.thl.cmdQs q with
  | none => none
  | some c =>
    match mapFind s.thl.cplQs c.cqid with
    | none => none
    | some p =>
      if c.fetch == c.tail then none
      else
        let bytes := match mem.find? (fun m => m.1 == c.base + 256 * c.fetch) with
          | some m => m.2
          | none => []
        let e := CmdEntry.ofBytes bytes
        if p.room < e.need then none
        else
          let st := judgeEntry s q c tenants e
          let n := if st == stOk then e.need else 1
          let s1 := { s with
            thl.cmdQs := mapPut s.thl.cmdQs q { c with fetch := (c.fetch + 1) % 2 ^ c.log2n }
            thl.cplQs := mapPut s.thl.cplQs c.cqid { p with reserved := p.reserved + n } }
          if st == stOk then some (e.slots.foldl (passCommand q e bytes) s1)
          else
            let slot := if st == stSlotFailed then e.slot else s.thl.ens.mySlot
            some (complete { sq := q, slot := slot, troupe := e.troupe, cmdId := e.cmdId } e.opcode st s1)

/-- Fetch up to `n` entries of one queue. -/
def fetchMore (q : Nat) (mem : List (Nat × List Byte)) (tenants : List (Nat × Nat)) : Nat → State → State
  | 0, s => s
  | n + 1, s =>
    match fetchOne q mem tenants s with
    | none => s
    | some s1 => fetchMore q mem tenants n s1

/-- The command queues in the order of the round robin from `wrrNext` on (R379). -/
def wrrOrder (s : State) : List Nat :=
  let qs := s.thl.cmdQs.map (·.1)
  qs.filter (fun q => s.thl.wrrNext ≤ q) ++ qs.filter (fun q => q < s.thl.wrrNext)

/-- One visit of the round robin: the first queue that gives a command, up to its WEIGHT and 64 entries. -/
def fetchVisit (mem : List (Nat × List Byte)) (tenants : List (Nat × Nat)) (s : State) : List Nat → State
  | [] => s
  | q :: qs =>
    match fetchOne q mem tenants s with
    | none => fetchVisit mem tenants s qs
    | some s1 =>
      let w := (mapGet {} s.thl.cmdQs q).weight
      { fetchMore q mem tenants (min w 64 - 1) s1 with thl.wrrNext := q + 1 }

/-! ### Completions -/

/-- Write a completion into its ring (R384, R389); a ring without room keeps it waiting. -/
def writeCpl (c : Cpl) (s : State) : Option State :=
  let q := mapGet {} s.thl.cmdQs c.hdr.sq
  match mapFind s.thl.cplQs q.cqid with
  | none => none
  | some p =>
    let n := 2 ^ p.log2n
    if n ≤ p.unread then none
    else
      let wrap := p.tail + 1 == n
      let p' := { p with
        tail := (if wrap then 0 else p.tail + 1), unread := p.unread + 1, reserved := p.reserved - 1
        phase := (if wrap then !p.phase else p.phase), armed := false }
      let ent : CplEntry := { cq := q.cqid, addr := p.base + 128 * p.tail, phase := p.phase, sqHead := q.fetch, cpl := c }
      let s1 := { s with thl.cplQs := mapPut s.thl.cplQs q.cqid p', out.completions := ent :: s.out.completions,
                         out.hostWrites := (ent.addr, ent.bytes) :: s.out.hostWrites }
      some (if p.armed then { s1 with out.irqs := { isEvq := false, q := q.cqid, vector := p.vector } :: s1.out.irqs } else s1)

/-- A command is complete: it leaves the list of those fetched. -/
def dropFetched (h : CmdHdr) (s : State) : State :=
  { s with thl.fetched := s.thl.fetched.eraseP (fun f => f.hdr == h) }

/-! ### Membership (R392 to R394) -/

/-- After a change of membership, nodes that treat a failed child as absent go on (R169, R300). -/
def afterChange (s : State) : State := settleLocal (s.fab.colls.foldl (fun s e => tryNode e.1 s) s)

/-- Write the state of slot `n` in this module's table. -/
def putSlot (n : Nat) (e : EnsSlot) (s : State) : State := { s with thl.ens.table := mapPut s.thl.ens.table n e }

/-- A membership message to another module. -/
def memberMsg (m : MemberMsg) (dest : Nat) : FabMsg :=
  { kind := "membership", dest := dest, vals := [m.lmid, m.state, m.version, m.serial, b2n m.subst] }

/-- Send a change to every other module of the ensemble and to every lead in PEER_LEADS (R393). -/
def sendChange (m : MemberMsg) (s : State) : State :=
  let mine := (s.thl.ens.table.filter (fun e => e.2.state != 0 && e.2.lmid != s.lmid)).map (·.2.lmid)
  (mine ++ s.thl.ens.peerLeads).foldl (fun s d => sendFab (memberMsg m d) s) s

/-- A module changes the state of a slot: the version of its LMID rises, and the change is sent (R393). -/
def changeSlot (n st : Nat) (subst : Bool) (s : State) : State :=
  let e := slotRow s n
  let e' := { e with state := st, version := e.version + 1 }
  afterChange (sendChange { lmid := e.lmid, state := st, version := e'.version, serial := e.serial, subst := subst } (putSlot n e' s))

/-- The slot of an LMID. -/
def slotOfLmid (s : State) (l : Nat) : Option Nat := (s.thl.ens.table.find? (fun e => e.2.lmid == l && e.2.state != 0)).map (·.1)

/-- DATA of MEMBER events: slot and LMID (assumption 20). -/
def memberData (n lmid : Nat) : List Byte := leBytes 1 n ++ leBytes 2 lmid

/-- Has no heartbeat of slot `n` arrived for HB_TIMEOUT (R393)? -/
def beatLost (s : State) (n : Nat) : Bool := (slotRow s n).beatAt + s.thl.ens.hbTimeout * cyclesMs ≤ s.cue

/-- The lead's order: every troupe of this module stops, and none starts before it is torn down or restored (R371, R394). -/
def stopTroupes (s : State) : State :=
  (presentTroupes s).foldl (fun s t =>
    checkBarriers t ((troupeCores s t).foldl (fun s c =>
      if (s.core c).regs.state == .running then settleStop c (s.modRegs c (fun (r : CoreRegs) => { r with stopping := true })) else s)
      (s.modTroupe t (fun (x : Troupe) => { x with regs.stopped := true })))) s

end Sys2Proof.Machine
end

