-- ==== Sys2Proof/Machine/CastOps.lean ====
section
/-! DEFINITION. Applying a casting image (R426): logical numbers and understudies (R13, R419, R420), memory map, troupes, ports, trees,
the Cue, the ensemble, and what a module holds of jobs and the error watch. -/

namespace Sys2Proof.Machine

/-! ### Cores (R13, R418 to R420) -/

/-- The physical core of the module for physical core `p` of a tile. -/
def physOf (tile p : Nat) : Nat := 68 * tile + p

/-- Is physical core `c` failed (R418)? -/
def coreFailed (s : State) (c : Nat) : Bool := (mapFind s.bt.failed c).isSome

/-- Physical core `c` fails for a reason (R418). -/
def failCore (reason : Nat) (s : State) (c : Nat) : State :=
  raiseModule evCoreFailed (leBytes 1 (c / 68) ++ leBytes 1 (c % 68) ++ leBytes 1 reason)
    ({ s with bt.failed := mapPut s.bt.failed c reason }.modRegs c (fun (r : CoreRegs) => { r with state := .failed }))

/-- The cores of cluster 4 t + c. -/
def clusterCores (cl : Nat) : List Nat := (List.range 17).map (fun i => physOf (cl / 4) (17 * (cl % 4) + i))

/-- Name core `c` by logical number `l` (0xFFFF for none), in a state in which it can be started when it has a number (R13, R17). -/
def nameCore (c l : Nat) (idleSt : CoreState) (s : State) : State :=
  s.modRegs c (fun (r : CoreRegs) =>
    { r with lcore := l, state := (if r.state == .failed then .failed else idleSt) })

/-- Give a cluster's cores the numbers of the image. Cores that a troupe in `keep` holds are left as they are. -/
def nameCluster (p : ClusterPlan) (keep : List Nat) (s : State) : State :=
  (clusterCores p.cluster).foldl (fun s c =>
    if keep.contains (s.core c).regs.troupe then s
    else
      match p.cores.find? (fun e => physOf (p.cluster / 4) e.1 == c) with
      | some e => nameCore c e.2 .idle s
      | none => nameCore c 0xFFFF (if physOf (p.cluster / 4) p.understudy == c then .standby else .reset) s) s

/-- Logical numbers of the cluster whose cores have failed, ascending. -/
def lostNumbers (s : State) (p : ClusterPlan) : List Nat :=
  let ls := (p.cores.filter (fun e => coreFailed s (physOf (p.cluster / 4) e.1))).map (·.2)
  (ls.foldl (fun (m : Map Unit) l => mapPut m l ()) []).map (·.1)

/-- Failed cores of a cluster, its understudy counted (R419). -/
def failCount (s : State) (p : ClusterPlan) : Nat :=
  (p.understudy :: p.cores.map (·.1)).countP (fun c => coreFailed s (physOf (p.cluster / 4) c))

/-- Match a cluster's failed cores (R419): the understudy takes the lowest logical number whose core failed; with two failed cores the
cluster is degraded. A failed core, the understudy among them, keeps no number: the number is vacant. -/
def matchCluster (s : State) (p : ClusterPlan) : State :=
  let u := physOf (p.cluster / 4) p.understudy
  let lost := lostNumbers s p
  let s1 := (p.understudy :: p.cores.map (·.1)).foldl (fun s i =>
    let c := physOf (p.cluster / 4) i
    if coreFailed s c then s.modRegs c (fun (r : CoreRegs) => { r with lcore := 0xFFFF }) else s) s
  let takes := !coreFailed s u
  let s2 := match takes, lost with
    | true, l :: _ =>
      if (s1.core u).regs.lcore == l then s1
      else { nameCore u l .idle s1 with bt.regs.subst := setBitTo s1.bt.regs.subst p.cluster true }
    | _, _ => { s1 with bt.regs.subst := setBitTo s1.bt.regs.subst p.cluster false }
  let s3 := if takes && !lost.isEmpty then { s2 with bt.regs.subst := setBitTo s2.bt.regs.subst p.cluster true } else s2
  if 2 ≤ failCount s p then
    raiseModule evClusterDegraded (leBytes 1 (p.cluster / 4) ++ leBytes 1 (p.cluster % 4))
      { s3 with bt.regs.degraded := setBitTo s3.bt.regs.degraded p.cluster true }
  else { s3 with bt.regs.degraded := setBitTo s3.bt.regs.degraded p.cluster false }

/-- Has a troupe plan a home quad in a degraded cluster (R420)? -/
def inDegraded (s : State) (p : TroupePlan) : Bool :=
  (List.range 64).any (fun q => bitOf p.cfg.quads q && bitOf s.bt.regs.degraded (q / 4))

/-- The troupes that are withheld (R420); one that is OFF has an empty context. -/
def withholdTroupes (img : CastImage) (s : State) : State :=
  let w := (img.troupes.filter (fun (p : TroupePlan) => !p.degOk && inDegraded s p)).map (fun (p : TroupePlan) => p.t)
  w.foldl (fun s t =>
    if stateOf s t == .off then (dropAway t s).modTroupe t (fun (x : Troupe) => { x with area := none, toRestore := none }) else s)
    { s with bt.withheld := w }

/-! ### Memory -/

/-- A value of a list by stack, 0 where it names none. -/
def byStack (l : List (Nat × Nat)) (n : Nat) : Nat :=
  match l.find? (fun e => e.1 == n) with
  | some e => e.2
  | none => 0

/-- The map registers and windows of an image (R244 to R247, R207). -/
def putMap (img : CastImage) (s : State) : State :=
  let m := img.memory
  let win := fun (n : Nat) => match m.whet.find? (fun e => e.1 == n) with
    | some e => e.2
    | none => (0, 0)
  let ranges := fun (n : Nat) => (img.lrn.flatMap (fun l =>
    match img.troupes.find? (fun (p : TroupePlan) => p.t == l.t) with
    | some p => (planNear p l).filter (fun r => r.stack == n)
    | none => [])).length
  (enabledStacks s).foldl (fun s n => s.modStack n (fun (k : Stack) =>
    { k with spare := byStack m.spare n, replay := byStack m.replay n, whetBase := (win n).1, whetSize := (win n).2, whetRanges := ranges n }))
    { s with mem.ilBase := m.ilBase, mem.ilTop := m.ilTop, mem.hubStack := img.hubStack }

/-- Keep of memory only the spare regions of stacks that `kept` names; everything else is zero (R426, R432). -/
def zeroBut (kept : Nat → Bool) (s : State) : State :=
  let keep := fun (a : Nat) =>
    let (n, o) := stackOf s a
    kept n && stackBytes - (s.stack n).spare * 0x10000000 ≤ o
  { s with
    mem.bytes := s.mem.bytes.filter (fun c => keep c.1), mem.poison := s.mem.poison.filter keep, mem.weak := s.mem.weak.filter (fun e => keep e.1), mem.tbuf := [], mem.pages := [], mem.stalled := [] }

/-- The stratum 0 images are lost: the spare region of a stack that holds part of them is zeroed or changes its extent (R348, R426). -/
def dropImages (s : State) : State := { s with ckpt.jobs := s.ckpt.jobs.map (fun (e : Nat × Job) => (e.1, { e.2 with image := none })) }

/-- What a change of the memory plan zeroes (R426), and, at the first casting after a reset that kept spare regions, what R432 step 5
zeroes: all spare regions unless every one keeps its size. -/
def zeroForPlan (img : CastImage) (s : State) : State :=
  let same := fun (n : Nat) => (s.stack n).spare == byStack img.memory.spare n
  match s.cast with
  | some old =>
    if old.memory == img.memory then s
    else zeroBut same (if (enabledStacks s).all same then s else dropImages s)
  | none =>
    match s.bt.flash.resetBlk with
    | some sp =>
      if s.bt.first && (enabledStacks s).any (fun n => byStack sp n != byStack img.memory.spare n) then
        dropImages
          { s with mem.bytes := s.mem.bytes.filter (fun c => !inSpare s sp c.1), mem.poison := s.mem.poison.filter (fun u => !inSpare s sp u)
                   mem.weak := s.mem.weak.filter (fun e => !inSpare s sp e.1) }
      else s
    | none => s

/-! ### Troupes -/

/-- The role parameters of a troupe in an image. -/
def rolePlans (img : CastImage) (t : Nat) : List GenPlan × List LrnPlan :=
  (img.gen.filter (fun g => g.t == t), img.lrn.filter (fun l => l.t == t))

/-- Does troupe `t` keep running under a new image (R426): equal entries, and the memory plan unchanged? -/
def troupeKept (old img : CastImage) (t : Nat) : Bool :=
  old.memory == img.memory &&
    (match old.troupes.find? (fun (p : TroupePlan) => p.t == t), img.troupes.find? (fun (p : TroupePlan) => p.t == t) with
      | some a, some b => a == b && rolePlans old t == rolePlans img t
      | _, _ => false)

/-- Troupes of the casting in force that a new image leaves running. -/
def keptTroupes (img : CastImage) (s : State) : List Nat :=
  match s.cast with
  | none => []
  | some old => (presentTroupes s).filter (troupeKept old img)

/-- Write a troupe's translation table with its initial entries (R323, R423). -/
def writeXlat (p : TroupePlan) (s : State) : State :=
  let s1 := { s with mem.bytes := s.mem.bytes.zeroRange p.cfg.xlatBase (8 * p.cfg.xlatPages) }
  p.xlat.foldl (fun s e => { s with mem.bytes := s.mem.bytes.putNat (p.cfg.xlatBase + 8 * e.1) 8 e.2 }) s1

/-- The Flint key of a troupe by the image's seed; 0 where the image gives none (R147, R160). -/
def castSeed (img : CastImage) (t : Nat) (s : State) : State :=
  let seed := match img.seeds.find? (fun e => e.1 == t) with
    | some e => e.2
    | none => 0
  s.modTroupe t (fun (x : Troupe) => { x with flint := { x.flint with seed := seed, key := flintKey seed, keychk := flintKeyChk seed } })

/-- Create the troupes of an image that do not keep running. -/
def createTroupes (img : CastImage) (keep : List Nat) (s : State) : State :=
  let new := img.troupes.filter (fun (p : TroupePlan) => !keep.contains p.t)
  let s1 := new.foldl (fun s (p : TroupePlan) => writeXlat p (s.setTroupe p.t (planTroupe img p)))
    { s with troupes := s.troupes.filter (fun e => keep.contains e.1) }
  let s2 := new.foldl (fun s (p : TroupePlan) => writeTables p.t s) s1
  img.troupes.foldl (fun s (p : TroupePlan) => castSeed img p.t s) s2

/-- Make troupes with INITIAL = 1 resident on their home quads unless they are withheld (R420, R426). -/
def startInitial (img : CastImage) (keep : List Nat) (s : State) : State :=
  img.troupes.foldl (fun s (p : TroupePlan) =>
    if p.cfg.initial && !keep.contains p.t && !s.bt.withheld.contains p.t && !homeTaken s p.t [p.t] then takeHome p.t s else s) s

/-! ### Fabric and Cue -/

/-- A port under a new image: an unchanged entry leaves it UP with its frame counters, a changed one has it train again from DETECT; at the
first casting ports go on from where they stand (R274, R411, R426). The next ranging result sets the reference length (R295). -/
def castPort (first : Bool) (cfg : PortCfg) (x : Port) (now : Nat) : Port :=
  if first then
    { x with cfg := cfg, st := (if cfg.role == 0 then .off else x.st), credits := fullCredits cfg, refSet := false }
  else if x.cfg == cfg then { x with refSet := false }
  else
    let same := x.cfg.role == cfg.role && x.cfg.peerLmid == cfg.peerLmid
    { x with
      cfg := cfg, st := (if cfg.role == 0 then .off else .detect), width := 0, quarters := 0, polarity := 0, dirswap := false, reversed := false
      down := x.down || x.st == .up, downAt := (if x.st == .up then now else x.downAt), credits := fullCredits cfg, sent := [], landing := []
      inord := [], keys := [], active := [], frames := [], authFails := [], barred := [], subLmid := none, fenced := x.fenced && same
      refSet := false, shifted := false, delays := [] }

/-- The ports of an image. -/
def castPorts (img : CastImage) (first : Bool) (s : State) : State :=
  ((List.range 18).filter (portEnabled s)).foldl (fun s p =>
    let cfg := match img.ports.find? (fun e => e.1 == p) with
      | some e => e.2
      | none => {}
    let s1 := if !first && (s.port p).cfg != cfg then
        let s0 := requeue p s
        { s0 with fab.owed := s0.fab.owed.filter (fun o => o.port != p) }
      else s
    s1.modPort p (fun x => castPort first cfg x s.cue)) s

/-- A list of records as a map by key. -/
def mapOf {α : Type} (l : List (Nat × α)) : Map α := l.foldl (fun m e => mapPut m e.1 e.2) []

/-- Routes, peers, groups, trees and barriers of an image. Barrier nodes of troupes that keep running stay. -/
def castFabric (img : CastImage) (keep : List Nat) (s : State) : State :=
  { s with
    fab.routes := mapOf (img.routes.hops.map (fun e => (e.1, e.2.take 4))), fab.peers := mapOf img.peers
    fab.groups := mapOf (img.groups.map (fun g => (g.group, g))), fab.trees := mapOf (img.trees.map (fun t => (t.tree, t)))
    fab.barriers := img.barriers, fab.routeTimeout := img.watch.routeTimeout
    fab.nodes := s.fab.nodes.filter (fun e =>
      keep.contains (e.1 / 256) && img.barriers.any (fun b => 256 * b.troupe + b.b == e.1) && s.fab.barriers.any (fun b => 256 * b.troupe + b.b == e.1))
    cueRegs.master := img.master, cueRegs.lock := img.master || (s.cueRegs.lock && !s.cueRegs.master), cueRegs.good := 0
    cueRegs.parent := (if img.master then 31 else img.parent), cueRegs.estimated := false, cueRegs.started := false }

/-! ### The ensemble -/

/-- An entry of an ensemble plan. -/
def ensEnt (p : EnsPlan) (n : Nat) : EnsEnt := nth {} p.entries n

/-- The table of an image at its application (R390 to R392): this module PRESENT (an understudy STANDBY), the others JOINING. -/
def ensTable (p : EnsPlan) (lmid serial now : Nat) : Map EnsSlot :=
  mapOf ((List.range p.entries.length).map (fun n =>
    let e := ensEnt p n
    let st := if e.role == 0 then 0 else if e.lmid == lmid then (if e.role == 2 then 4 else 2) else 1
    (n, { lmid := (if e.role == 0 then 0xFFF else e.lmid), state := st, bulk := e.bulk, serial := (if e.lmid == lmid then serial % 2 ^ 40 else 0)
          role := e.role, group := e.group, beatAt := now })))

/-- The slot of an LMID in a plan. -/
def planSlot (p : EnsPlan) (lmid : Nat) : Nat :=
  match (List.range p.entries.length).find? (fun n => (ensEnt p n).role != 0 && (ensEnt p n).lmid == lmid) with
  | some n => n
  | none => 0

/-- The ensemble of an image: none makes the module standalone (R391); a table equal to the one in force keeps the slots' states; a
follower sends its join message after each applied image (R392). -/
def castEnsemble (img : CastImage) (s : State) : State :=
  match img.ensemble with
  | none => { s with thl.ens := {} }
  | some p =>
    let same := match s.cast with
      | some old => old.ensemble == img.ensemble && old.lmid == img.lmid
      | none => false
    let n := planSlot p img.lmid
    let join := fun (s : State) =>
      if n == 0 then s
      else sendFab { kind := "join", dest := (ensEnt p 0).lmid, vals := [img.lmid, s.record.serial] } s
    if same then join s
    else
      let e : Ens := { standalone := false, mySlot := n, slots := p.entries.length, hbTimeout := p.hb
                       table := ensTable p img.lmid s.record.serial s.cue, peerLeads := p.leads, others := s.thl.ens.others, castAt := s.cue }
      join { s with thl.ens := e }

/-! ### Jobs and the error watch -/

/-- Jobs by local number, in ascending JOB (R346); a job whose parameters are unchanged keeps what it holds. -/
def castJobs (img : CastImage) (s : State) : State :=
  let sorted := mapOf (img.jobs.map (fun j => (j.job, j)))
  let old := s.ckpt.jobs.map (·.2)
  let mk := fun (j : JobPlan) => match old.find? (fun x => x.plan == j) with
    | some x => x
    | none => { plan := j }
  let w := img.watch
  let s1 := { s with
    ckpt.jobs := mapOf ((List.range sorted.length).map (fun i => (i, mk ((nth (0, { job := 0 }) sorted i).2))))
    ckpt.watch := { s.ckpt.watch with
      ceRate := w.ceRate, retryRate := w.retryRate, retrainHr := w.retrainHr, regWarn := w.regWarn, thermMargin := w.thermMargin
      holdoffS := w.holdoffS, auto := w.auto }
    wt.damageHold := w.damageHold
    prm := mapOf img.prompter }
  (presentTroupes s1).foldl (fun s t => settleHold t s) s1

/-! ### The whole -/

/-- The module under an image: everything but the boot state and the completion (R426). -/
def installCast (img : CastImage) (s : State) : State :=
  let keep := keptTroupes img s
  let first := s.cast.isNone
  let s1 := putMap img (zeroForPlan img s)
  let s2 := (List.range 16).foldl (fun s cl =>
    match img.cores.find? (fun (p : ClusterPlan) => p.cluster == cl) with
    | some p => nameCluster p keep s
    | none => (clusterCores cl).foldl (fun s c => nameCore c 0xFFFF .reset s) s) s1
  let s3 := castFabric img keep (castPorts img first (castEnsemble img s2))
  let s4 := castJobs img { s3 with cast := some img, lmid := img.lmid }
  let s5 := img.cores.foldl matchCluster s4
  startInitial img keep (withholdTroupes img (createTroupes img keep s5))

/-- An image has taken effect (R426, R434). -/
def finishCast (hdr : Option CmdHdr) (img : CastImage) (s : State) : State :=
  let s1 := installCast img { s with bt.applying := none }
  let us := (s.cue - s.bt.released) / cyclesUs
  let s2 := { s1 with
    boot := .ready, bt.first := false
    bt.regs.castDone := true, bt.regs.svn := img.sig.svn, bt.regs.nsect := img.dir.length, bt.regs.applyCnt := inc16 s1.bt.regs.applyCnt
    bt.regs.digest := img.sig.digest, bt.regs.ready := s1.bt.regs.ready || s.boot != .ready
    bt.regs.readyUs := (if s.boot == .ready then s1.bt.regs.readyUs else us % 2 ^ 32) }
  let s3 := portChanged (pump s2)
  match hdr with
  | some h => complete h opCastApply stCastDone s3
  | none => s3

/-- An accepted image begins to take effect: every troupe that it does not leave running is torn down first (R426). -/
def startCast (hdr : Option CmdHdr) (img : CastImage) (s : State) : State :=
  let keep := keptTroupes img s
  let gone := (presentTroupes s).filter (fun t => !keep.contains t)
  if gone.isEmpty then finishCast hdr img s
  else gone.foldl (fun s t => startTear t s) { s with bt.applying := some { hdr := hdr, img := img, waits := gone } }

/-- A troupe whose teardown was for a new image is scrubbed and is no longer there (R342, R426). -/
def removeTroupe (t : Nat) (s : State) : State :=
  let old := s.troupe t
  let s1 := raiseEvent evTeardownDone t [] (scrubTroupe t s)
  let s2 := { s1 with troupes := mapDel s1.troupes t }
  old.tears.foldl (fun s e => complete e.1 e.2.1 e.2.2 s) s2

/-- A teardown ends: for a new image the troupe goes, and with the last one the image takes effect; else it returns (R343, R426). -/
def settleTear (t : Nat) (s : State) : State :=
  match s.bt.applying with
  | some a =>
    if a.waits.contains t then
      let rest := a.waits.filter (fun u => u != t)
      let s1 := removeTroupe t { s with bt.applying := some { a with waits := rest } }
      if rest.isEmpty then finishCast a.hdr a.img s1 else s1
    else endTear t s
  | none => endTear t s

/-- TEARDOWN_DONE: the drain and the zeroing of a teardown have ended (R342, R343, R426). -/
def execTeardownDone (t : Nat) (s : State) : Host.Outcome State Fault Refusal :=
  engine (fun s => if stateOf s t == .teardown && tearDrained s t then settleSwitches (settleTear t s) else s) s

end Sys2Proof.Machine
end

