-- ==== Sys2Proof/Machine/Fly.lean ====
section
/-! DEFINITION. Fly-ins (R233 to R236), alternating roles (R240) and their registers (R241). -/

namespace Sys2Proof.Machine

/-! ### The source -/

/-- The tag in which a plan entry's blocks travel: FP8 and FP4 with block scales and TSCALE, BF16 with neither (R235). -/
def flyTag (e : FlyEntry) : Word :=
  if e.fmt == 0x01 then tagMake 0x01 false false false 0 else tagMake e.fmt true true false (BitVec.ofNat 32 e.tscale)

/-- The FP32 values of block `k` of a shard's master weights (R205). -/
def masterBlock (s : State) (t fmt theta k : Nat) : List F32 :=
  let n := stateSize fmt
  let bs := leBytes (32 * n) (troupeNat s t (theta + 32 * n * k) (32 * n))
  (List.range 32).map (fun i => stateVal fmt (leNat ((bs.drop (n * i)).take n)))

/-- Fields of bits of one converted block at their offsets in the binding's place, and whether it is non-finite: elements beyond
COLS are zero (R24, R235). -/
def flyBlock (e : FlyEntry) (b : BindRecord) (xs : List F32) (blk : Nat) : List (Nat × Nat × Nat) × Bool :=
  let t := flyTag e
  let qn := ceilDiv b.cols 32
  let r := blk / (if qn == 0 then 1 else qn)
  let q := blk % (if qn == 0 then 1 else qn)
  let real := (List.range 32).map (fun i => if 32 * q + i < b.cols then nth 0 xs i else 0)
  let (sc, ws, fl) := convertBlock t .rne (real.map (fun x => (x, 0)))
  let bits := (tagFormat t).bits
  let els := (List.range 32).map (fun i => (eltBit t e.layout b.cols e.dpitch r (32 * q + i), bits, nth 0 ws i))
  (els ++ (if tagBS t then [(8 * scaleOff t e.layout b.rows b.cols e.dpitch r q, 8, sc)] else []), fl.nf || (tagBS t && sc == 255))

/-- The LMID of an ensemble slot as this module knows it. -/
def slotLmid (s : State) (slot : Nat) : Nat := if slot == s.thl.ens.mySlot then s.lmid else (mapGet {} s.thl.ens.table slot).lmid

/-- The piece of a plan entry goes to its destination, with its fields of bits offset by DST_OFF: within the module, or as a message (R235). -/
def sendPiece (t epoch : Nat) (s : State) (e : FlyEntry) : State :=
  let l := s.lrn t
  let b := nth {} l.binds e.record
  let sh := nth {} l.shards e.record
  if sh.nblk == 0 then s
  else
    let fmt := (nth {} l.groups b.group).mfmt
    let parts := (List.range sh.nblk).map (fun k => flyBlock e b (masterBlock s t fmt sh.theta k) (sh.first + k))
    let nf := parts.any (fun p => p.2)
    let fields := parts.flatMap (fun p => p.1.map (fun x => (8 * e.dstOff + x.1, x.2.1, x.2.2)))
    let s1 := chargeRead t sh.theta (sh.nblk * 32 * stateSize fmt) s
    if slotLmid s e.dstModule == s.lmid then
      s1.modGen e.dstTroupe (fun (g : Gen) => { g with inbound := g.inbound ++ [{ src := t, epoch := epoch, nf := nf, fields := fields }] })
    else
      sendFab { kind := "fly_piece", dest := slotLmid s e.dstModule
                vals := [e.dstTroupe, epoch, e.record, b2n nf] ++ fields.flatMap (fun x => [x.1, x.2.1, x.2.2]) } s1

/-- May an armed fly-in of troupe `t` start (R233)? -/
def flyReady (s : State) (t : Nat) : Bool :=
  let l := s.lrn t
  l.armed && l.flying.isNone && (l.flyForce || l.cfg.fsemTarget ≤ semGet s t l.cfg.fsem) && l.near.all (fun r => r.cmds.isEmpty)

/-- Start a fly-in: FSEM is taken, the epoch named and counted on, and the pieces set out (R233 to R235). -/
def startFly (t : Nat) (s : State) : State :=
  let l := s.lrn t
  let e := l.regs.nextEpoch
  let s1 := if l.flyForce then s else semSet t l.cfg.fsem (semGet s t l.cfg.fsem - l.cfg.fsemTarget) s
  let s2 := s1.modLrn t (fun (l : Lrn) =>
    { l with armed := false, flyForce := false, flying := some e, flyStatus := stOk, regs := { l.regs with nextEpoch := (l.regs.nextEpoch + 1) % 2 ^ 32, busy := true } })
  l.cfg.plan.foldl (sendPiece t e) s2

/-- FLY_IN_START: an armed fly-in starts (R233). -/
def execFlyInStart (t : Nat) (s : State) : Host.Outcome State Fault Refusal :=
  engine (fun s => if flyReady s t then startFly t s else s) s

/-- Has a destination of the plan on this module not taken every piece of the epoch: it waits for a slot (R236), or pieces are on their way? -/
def flyWaiting (s : State) (t e : Nat) : Bool :=
  (s.lrn t).cfg.plan.any (fun p => slotLmid s p.dstModule == s.lmid && (s.gen p.dstTroupe).inbound.any (fun x => x.src == t && x.epoch == e))

/-- The fly-in of troupe `t` completes: the FLY_NOW commands that armed it complete with its status (R236; assumption 23). -/
def endFly (t st : Nat) (s : State) : State :=
  let l := s.lrn t
  let s1 := s.modLrn t (fun (l : Lrn) => { l with flying := none, stalled := [], flyHdrs := [], flyStatus := stOk, regs := { l.regs with busy := false } })
  l.flyHdrs.foldl (fun s h => complete h opFlyNow st s) (releaseOptm t s1)

/-- FLY_SOURCE_READ_DONE: the fly-in has read its sources, and waiting updates go on (R234); not while a destination has no slot,
which keeps the sources unread (R236). `away` is the status that destinations on other modules have answered. -/
def execFlySourceReadDone (t away : Nat) (s : State) : Host.Outcome State Fault Refusal :=
  engine (fun s =>
    let l := s.lrn t
    match l.flying with
    | none => s
    | some e => if flyWaiting s t e then s else endFly t (if l.flyStatus == stOk then away else l.flyStatus) s) s

/-- FLY_NOW: arm a fly-in at the learner troupe's next commit; the command completes with the fly-in (R233, R236). -/
def execFlyNow (h : CmdHdr) (s : State) : Host.Outcome State Fault Refusal :=
  hostCmd h opFlyNow (fun s =>
    if isLearner s h.troupe then s.modLrn h.troupe (fun (l : Lrn) => { l with flyCmds := l.flyCmds ++ [h] })
    else complete h opFlyNow stCmdInvalid s) s

/-! ### The destination (R236) -/

/-- Epochs held in version slots that are not FREE. -/
def heldEpochs (g : Gen) : List Nat := (g.vs.filter (fun e => e.2.st != .free)).map (fun e => e.2.epoch)

/-- The FREE version slot of the lowest letter. -/
def freeVslot (g : Gen) : Option Nat := (List.range 3).find? (fun k => (g.vslot k).st == .free)

/-- The slot that a fly-in of epoch `e` fills. -/
def fillingSlot (g : Gen) (e : Nat) : Option Nat :=
  (List.range 3).find? (fun k => (g.vslot k).st == .filling && (g.vslot k).epoch == e && !(g.vslot k).byLoads)

/-- Claim version slot `k` for epoch `e`. -/
def claimSlot (t k e : Nat) (s : State) : State :=
  let c := (s.gen t).cfg
  endShards t (nth 0 c.vbases k) c.vbytes (s.modGen t (fun (g : Gen) =>
    { g.modVslot k (fun _ => { st := .filling, epoch := e }) with flyWaits := g.flyWaits.filter (fun x => x != e) }))

/-- Does a field of a piece fall on a good registered shard (R265)? -/
def pieceMeets (s : State) (t base : Nat) (data : List (Nat × Nat × Nat)) : Bool :=
  data.any (fun w => match troupeRange s t (base + w.1 / 8) ((w.1 + w.2.1 + 7) / 8 - w.1 / 8) true with
    | .ok ls => locsMeetShard s none ls
    | .error _ => false)

/-- A sender of pieces: a learner troupe of this module, or another module (its LMID). -/
inductive FlySrc where
  | troupe (t : Nat)
  | lmid (l : Nat)
  deriving DecidableEq, Repr

/-- The sender of refused pieces is told: its fly-in completes with the status (R236, R265). -/
def refuseTo (src : FlySrc) (t e st : Nat) (s : State) : State :=
  match src with
  | .troupe u => s.modLrn u (fun (l : Lrn) => { l with flyStatus := st })
  | .lmid m => sendFab { kind := "fly_refused", dest := m, vals := [t, e, st] } s

/-- Write a piece into a slot and count it; the last one makes the slot READY, or FREE when anything was non-finite.
A piece that meets a registered shard is refused whole (R265). -/
def fillSlot (t k : Nat) (src : FlySrc) (nf : Bool) (data : List (Nat × Nat × Nat)) (s : State) : State :=
  let g0 := s.gen t
  let base := nth 0 g0.cfg.vbases k
  let s1 := data.foldl (writeBits t base) s
  let v := (s1.gen t).vslot k
  let bad := v.nf || nf
  if pieceMeets s t base data then refuseTo src t v.epoch stShardRo s
  else if v.pieces + 1 < g0.cfg.flyPieces then
    s1.modGen t (fun (g : Gen) => g.modVslot k (fun v => { v with pieces := v.pieces + 1, nf := bad }))
  else if bad then
    raiseEvent evFlyNf t (leBytes 4 v.epoch) (s1.modGen t (fun (g : Gen) =>
      { g.modVslot k (fun _ => {}) with vr := { g.vr with flyNf := true, nfCnt := inc16 g.vr.nfCnt } }))
  else s1.modGen t (fun (g : Gen) => g.modVslot k (fun v => { v with st := .ready, pieces := v.pieces + 1 }))

/-- Every piece of an epoch from this module's learner troupes that is on its way to troupe `t` is refused with FLY_EPOCH. -/
def refuseInbound (t e : Nat) (s : State) : State :=
  let mine := (s.gen t).inbound.filter (fun x => x.epoch == e)
  mine.foldl (fun s x => refuseTo (.troupe x.src) t e stFlyEpoch s)
    (s.modGen t (fun (g : Gen) => { g with inbound := g.inbound.filter (fun x => x.epoch != e) }))

/-- The epoch is not greater than every epoch held: its pieces are refused (R236). -/
def epochOld (g : Gen) (e : Nat) : Bool := (heldEpochs g).any (fun x => e ≤ x)

/-- A piece reaches troupe `t`: it fills the slot of its epoch, which the first piece claims; no slot is FREE, and the epoch waits; or it is
refused, with the others of its epoch (R236). Answers whether it was taken. -/
def takePiece (t epoch : Nat) (src : FlySrc) (nf : Bool) (data : List (Nat × Nat × Nat)) (s : State) : State × Bool :=
  let g := s.gen t
  match fillingSlot g epoch with
  | some k => (fillSlot t k src nf data s, true)
  | none =>
    if epochOld g epoch then (refuseTo src t epoch stFlyEpoch (refuseInbound t epoch s), true)
    else
      match freeVslot g with
      | some k => (fillSlot t k src nf data (claimSlot t k epoch s), true)
      | none =>
        (raiseEvent evFlyWait t (leBytes 4 epoch) (s.modGen t (fun (g : Gen) =>
          { g with flyWaits := g.flyWaits ++ [epoch], vr := { g.vr with flyWait := true, waitCnt := inc16 g.vr.waitCnt } })), false)

/-- FLY_PIECE_ARRIVAL: a piece of epoch `epoch` reaches generator troupe `t` (R236): the next one that a learner troupe of this module has
sent, or with `away` one from another module, by its LMID, with its fields of bits by offset in the slot. -/
def execFlyPieceArrival (t epoch : Nat) (away : Option (Nat × Bool × List (Nat × Nat × Nat))) (s : State) : Host.Outcome State Fault Refusal :=
  engine (fun s =>
    let g := s.gen t
    if !g.cfg.present || g.flyWaits.contains epoch then s
    else
      match away with
      | some (m, nf, data) => (takePiece t epoch (.lmid m) nf data s).1
      | none =>
        match g.inbound.find? (fun x => x.epoch == epoch) with
        | none => s
        | some x =>
          let (s1, taken) := takePiece t epoch (.troupe x.src) x.nf x.fields s
          if taken then s1.modGen t (fun (g : Gen) => { g with inbound := g.inbound.erase x }) else s1) s

/-- Modules with learner troupes whose pieces of an epoch wait are told that it is refused (R236); which they are, their own plans say. -/
def tellSenders (t e : Nat) (s : State) : State :=
  ((s.thl.ens.table.filter (fun x => x.2.state == 2 && x.2.lmid != s.lmid)).map (fun x => x.2.lmid)).foldl (fun s m =>
    refuseTo (.lmid m) t e stFlyEpoch s) s

/-- FLY_RESUME: the fly-in that waits longest is judged again once a slot is FREE (R236): it claims the slot and its pieces resume, or it is
refused. -/
def execFlyResume (t : Nat) (s : State) : Host.Outcome State Fault Refusal :=
  engine (fun s =>
    let g := s.gen t
    match g.flyWaits, freeVslot g with
    | e :: _, some k =>
      let s1 := s.modGen t (fun (g : Gen) => { g with flyWaits := g.flyWaits.filter (fun x => x != e) })
      if epochOld g e then refuseInbound t e (tellSenders t e s1) else claimSlot t k e s1
    | _, _ => s) s

/-! ### Alternating roles (R240) -/

/-- ROLE_SWITCH: end the current role at its next boundary; refused during step 4, and for a troupe that does not alternate
(assumption 23). -/
def execRoleSwitch (h : CmdHdr) (s : State) : Host.Outcome State Fault Refusal :=
  hostCmd h opRoleSwitch (fun s =>
    let t := h.troupe
    let x := s.troupe t
    if !x.gen.vr.alt || x.gen.alt.flying then complete h opRoleSwitch stRoleBusy s
    else if x.regs.role == 1 then complete h opRoleSwitch stOk (stopPhase t s)
    else complete h opRoleSwitch stOk (s.modGen t (fun (g : Gen) => { g with alt := { g.alt with stopping := true } }))) s

/-- FLY_EVT_CLR: the counters of TRP_FLY_EVT and STALL_CNT return to 0 (R241). -/
def execFlyEvtClr (t : Nat) (s : State) : Host.Outcome State Fault Refusal :=
  regWrite (fun s => if s.hasTroupe t then s.modTroupe t (fun (x : Troupe) =>
    { x with
      gen.vr := { x.gen.vr with waitCnt := 0, skippedCnt := 0, nfCnt := 0 }
      lrn.regs := { x.lrn.regs with stallCnt := 0 } }) else s) s

end Sys2Proof.Machine
end

