-- ==== Sys2Proof/Machine/CastJudge.lean ====
section
/-! DEFINITION. Accepting signed objects (R401, R402, R408) and judging casting images (R425 and the refusals of each section's
chapter). -/

namespace Sys2Proof.Machine

/-! ### Signed objects -/

/-- The serial number that objects are bound to: that of the module record in force or in flash (R402, R405). -/
def moduleSerial (s : State) : Nat :=
  match s.bt.force.modRec, s.bt.flash.modRec with
  | some r, _ => r.body.serial
  | none, some r => r.body.serial
  | none, none => 0

/-- Owner keys in force (R407). -/
def ownerKeys (s : State) : Nat :=
  match s.bt.force.owner with
  | some o => o.nkeys
  | none => 0

/-- Bytes of a signed object: header, body padded to 16, signature (R401). -/
def signedSize (x : Signed) : Nat := 256 + roundUp x.bytes 16 + 3309

/-- Is a signed object of a type accepted from an area or host range of `area` bytes (R402)? -/
def signedOk (s : State) (x : Signed) (type area : Nat) : Bool :=
  x.magic == 0x4B4F424A && x.type == type && x.rsv == 0 && x.svn < 65536 && signedSize x ≤ area && x.digestOk && x.sigOk &&
    (x.serial == 0 || x.serial == moduleSerial s) &&
    (if type == 7 then x.signer == 1 && x.keyIdx < ownerKeys s else x.signer == 0 && x.keyIdx == 0)

/-- The counter of a type (R408). -/
def counterOf (c : Rpf) (type : Nat) : Nat :=
  if type == 1 then c.hub else if type == 2 then c.core else if type == 3 then c.link else if type == 4 then c.bundle
  else if type == 5 then c.modRec else if type == 6 then c.owner else c.cast

/-- How an object is judged by R402 and R408. -/
def judgeSigned (s : State) (x : Signed) (type area : Nat) : Nat :=
  if !signedOk s x type area then stSigInvalid
  else if x.svn < counterOf s.bt.counters type then stRollback
  else stOk

/-! ### Firmware in force (R415, R416) -/

/-- The RELEASE values in force: hub, core, link. -/
def releases (s : State) : Nat × Nat × Nat :=
  let r := fun (x : Option FwImage) => match x with
    | some i => i.release
    | none => 0
  (r s.bt.force.hub, r s.bt.force.core, r s.bt.force.link)

/-- The largest BUNDLE among the entries that hold the RELEASE values in force (R415). -/
def bundleOf (s : State) : Option Nat :=
  match s.bt.force.bundle with
  | none => none
  | some b =>
    let rs := releases s
    let ms := (b.entries.filter (fun e => e.2 == rs)).map (·.1)
    match ms with
    | [] => none
    | m :: rest => some (rest.foldl max m)

/-- May unlisted firmware run: the owner record allows it (R407, R416)? -/
def ownerOverride (s : State) : Bool :=
  match s.bt.force.owner with
  | some o => o.override
  | none => false

/-! ### CORES and MEMORY -/

/-- Quads of a tile of which an image gives cores logical numbers. -/
def tileQuads (img : CastImage) (ti : Nat) : Nat := (List.range 16).countP (fun k => !(imgQuad img (16 * ti + k)).isEmpty)

/-- Does an image keep the variant record (R17, R18): clusters, cores, stacks, ports and quads that it lists, logical numbers given
once (R13)? The cores are spread alike over the four tiles: a tile uses no more whole quads than a fourth of the record's cores fill, so
that a NYM-K600 leaves one quad of each tile unused (R17). -/
def variantOk (r : ModRecord) (img : CastImage) : Bool :=
  let ls := img.cores.flatMap (fun p => p.cores.map (·.2))
  let stacks_ := img.memory.spare.map (·.1) ++ img.memory.replay.map (·.1) ++ img.memory.whet.map (·.1)
  let clusterOk := fun (p : ClusterPlan) =>
    let c := p.cluster % 4
    let inCl := fun (i : Nat) => 17 * c ≤ i && i < 17 * c + 17
    p.cluster < 16 && bitOf r.clusterMask p.cluster && inCl p.understudy && p.cores.all (fun e => inCl e.1 && e.1 != p.understudy && e.2 < 256) &&
      (p.cores.map (·.1)).Nodup
  img.cores.all clusterOk && (img.cores.map (fun p => p.cluster)).Nodup && ls.Nodup && ls.length ≤ r.maxCores &&
    (List.range 4).all (fun ti => 16 * tileQuads img ti ≤ r.maxCores) && (List.range 20).countP stacks_.contains ≤ r.maxStacks &&
    stacks_.all (fun n => n < 20 && bitOf r.stackMask n) && (img.ports.filter (fun e => e.2.role != 0)).length ≤ r.maxPorts &&
    img.ports.all (fun e => e.2.role == 0 || (e.1 < 18 && bitOf r.portMask e.1)) &&
    img.troupes.all (fun (p : TroupePlan) => (List.range 64).all (fun q => !bitOf p.cfg.quads q || bitOf r.clusterMask (q / 4)))

/-- Do two ranges of `n` and `m` bytes at `a` and `b` meet? An empty range meets none. -/
def meet (a n b m : Nat) : Bool := 0 < n && 0 < m && a < b + m && b < a + n

/-- The replay-window bytes that the long-reach ports of an image require of a stack (R246, R287): a window and a landing space of
WIN x 256 MiB each, over the stacks named. -/
def replayNeed (img : CastImage) (n : Nat) : Nat :=
  (img.ports.map (fun e =>
    let c := e.2
    let k := (List.range 20).countP (bitOf c.stks)
    if c.role == 3 && bitOf c.stks n then 2 * ceilDiv (c.win * 128) k * 0x200000 else 0)).foldl (· + ·) 0

/-- Is the MEMORY section accepted (R246)? -/
def memoryOk (r : ModRecord) (img : CastImage) : Bool :=
  let m := img.memory
  let lo := m.ilBase * 0x200000
  let hi := m.ilTop * 0x200000
  let okStack := fun (n : Nat) =>
    let sp := byStack m.spare n
    let rp := byStack m.replay n
    let keep := (sp + rp) * 0x10000000 + (if n == img.hubStack then 0x4000000 else 0)
    let win := match m.whet.find? (fun e => e.1 == n) with
      | some e => (e.2.1 * 0x200000, e.2.2 * 0x10000000)
      | none => (0, 0)
    sp ≤ 48 && rp ≤ 4 && !meet (stackBytes - keep) keep lo (hi - lo) && win.2 ≤ 8 * 0x10000000 && win.1 + win.2 ≤ stackBytes &&
      (win.2 == 0 || !meet win.1 win.2 lo (hi - lo)) && (win.2 == 0 || win.1 + win.2 ≤ stackBytes - keep) && replayNeed img n ≤ rp * 0x10000000
  m.ilBase ≤ m.ilTop && m.ilTop ≤ 12288 && img.hubStack < 20 && bitOf r.stackMask img.hubStack &&
    ((List.range 20).filter (bitOf r.stackMask)).all okStack

/-! ### TROUPES -/

/-- Does `p` hold of every two of a list? -/
def pairwise {α : Type} (p : α → α → Bool) : List α → Bool
  | [] => true
  | x :: xs => xs.all (p x) && pairwise p xs

/-- Does every field of a troupe's parameters lie in its range (R320)? -/
def troupeFieldsOk (p : TroupePlan) : Bool :=
  let c := p.cfg
  let w := fun (n : Nat) => 1 ≤ n && n ≤ 255
  p.t < 64 && c.tenant ≤ 63 && c.role ≤ 3 && c.quads != 0 && c.quads < 2 ^ 64 && c.altset ≤ 63 && w c.stkW && w c.fabW && w c.hubW &&
    c.qslice ≤ 64 && c.xlatBase % 4096 == 0 && 1 ≤ c.xlatPages && c.xlatPages ≤ 524288 && c.semBase ≤ 16383 && 1 ≤ c.semCount &&
    c.semCount ≤ 1024 && c.queues.length ≤ 16 && c.tbBase ≤ 511 && c.tbSize ≤ 512 && c.ctxBase % 0x200000 == 0 &&
    p.xlat.all (fun e => e.1 < c.xlatPages)

/-- May two troupes stand side by side (R321)? -/
def troupesFit (a b : TroupePlan) : Bool :=
  let shared := Nat.land a.cfg.quads b.cfg.quads
  let tiles := fun (q : Nat) => (List.range 4).filter (fun t => bitsOf q (16 * t + 15) (16 * t) != 0)
  a.t != b.t && (shared == 0 || (a.cfg.altset == b.cfg.altset && !(a.cfg.initial && b.cfg.initial))) &&
    !meet a.cfg.semBase a.cfg.semCount b.cfg.semBase b.cfg.semCount &&
    (!(tiles a.cfg.quads).any ((tiles b.cfg.quads).contains ·) || !meet a.cfg.tbBase a.cfg.tbSize b.cfg.tbBase b.cfg.tbSize)

/-- The places that a troupe's table and context area take: base and bytes. -/
def troupePlaces (p : TroupePlan) : List (Nat × Nat) := [(p.cfg.xlatBase, 8 * p.cfg.xlatPages), (p.cfg.ctxBase, p.cfg.ctxSize * 0x100000)]

/-- What the mapping rules see of an image's troupes. -/
def planViews (img : CastImage) : List XlatView :=
  img.troupes.map (fun (p : TroupePlan) =>
    { t := p.t, tenant := p.cfg.tenant, base := p.cfg.xlatBase, pages := p.cfg.xlatPages, ctxBase := p.cfg.ctxBase, ctxSize := p.cfg.ctxSize
      entries := p.xlat.map (·.2) })

/-- The kept regions of an image's memory plan (R245). -/
def planKept (img : CastImage) (p : Nat) : Bool :=
  pageKept (byStack img.memory.spare) (byStack img.memory.replay) img.hubStack p

/-- Is the TROUPES section accepted (R321)? -/
def troupesOk (img : CastImage) : Bool :=
  let ps := img.troupes
  let places := ps.flatMap troupePlaces
  let mapped := (ps.flatMap (fun p => p.xlat.map (·.2))).filter entryValid |>.map entryPage
  let pages := fun (r : Nat × Nat) => (List.range ((r.1 % pageBytes + r.2 + pageBytes - 1) / pageBytes)).map (fun i => r.1 / pageBytes + i)
  ps.all troupeFieldsOk && pairwise troupesFit ps && ps.all (fun p => p.cfg.semBase + p.cfg.semCount ≤ 16384 && p.cfg.tbBase + p.cfg.tbSize ≤ 512) &&
    pairwise (fun (a b : Nat × Nat) => !meet a.1 a.2 b.1 b.2) places &&
    places.all (fun r => r.1 + r.2 ≤ 20 * stackBytes && (pages r).all (fun p => !planKept img p && !mapped.contains p)) &&
    ps.all (fun p => 2001024 * (imgCores img p.cfg.quads).length + 4 * 0x100000 ≤ p.cfg.ctxSize * 0x100000) &&
    (ps.map (fun p => p.cfg.qslice)).foldl (· + ·) 0 ≤ 192

/-! ### PORTS, TREES, CUE, ENSEMBLE -/

/-- Is a port's entry accepted (R270, R283, R287)? -/
def portOk (r : ModRecord) (img : CastImage) (e : Nat × PortCfg) : Bool :=
  let c := e.2
  let alloc := (c.tags.map (fun t => t.credits)).foldl (· + ·) 64
  let lr := e.1 == 16 || e.1 == 17
  let k := (List.range 20).countP (bitOf c.stks)
  c.role ≤ 3 && (c.role != 3 || (lr && r.longReach && (c.win == 1 || c.win == 2) && 1 ≤ k && alloc ≤ c.win * 0x80000 &&
      (List.range 20).all (fun n => !bitOf c.stks n || replayNeed img n ≤ byStack img.memory.replay n * 0x10000000))) &&
    !(c.role == 2 && lr) && c.minW ≤ 2 && c.tags.length ≤ 64 && (c.role == 3 || alloc ≤ 4096)

/-- The bytes of a group record with its GCHK field given (R306). -/
def groupRecBytes (g : GroupRec) (chk : Nat) : List Byte :=
  leBytes 2 g.group ++ leBytes 2 g.members.length ++ leBytes 4 g.timeout ++ leBytes 4 chk ++ leBytes 4 0 ++
    g.members.flatMap (fun m => leBytes 2 m.1 ++ leBytes 1 m.2 ++ leBytes 1 0)

/-- The bytes of a tree record with its TCHK field given (R307). -/
def treeRecBytes (t : TreeRec) (chk : Nat) : List Byte :=
  leBytes 2 t.tree ++ leBytes 2 t.group ++ leBytes 2 t.n ++ leBytes 2 t.root ++ leBytes 4 chk ++ leBytes 4 0 ++
    t.entries.flatMap (fun e => leBytes 2 e.parent ++ leBytes 2 e.first ++ leBytes 2 e.next ++ leBytes 1 e.selfPos ++ leBytes 1 0)

/-- The check value of a record's bytes: their first 4 digest bytes (R306, R307). -/
def recordChk (bytes : List Byte) : Nat := leNat (shake256 bytes 4)

/-- Is a group record accepted (R306)? A learner's reduce-scatter runs over the group of its verdict tree (assumption 30). -/
def groupRecOk (img : CastImage) (g : GroupRec) : Bool :=
  g.group ≤ 1023 && 1 ≤ g.members.length && g.members.length ≤ 4096 && 1 ≤ g.timeout && g.timeout ≤ 10000000 && g.members.Nodup &&
    g.members.all (fun m => m.1 < 4096 && m.2 < 64) && g.gchk == recordChk (groupRecBytes g 0) &&
    img.lrn.all (fun l => !img.trees.any (fun t => t.tree == l.cfg.vTree && t.group == g.group) || l.cfg.leafTimeout == g.timeout)

/-- Ranks that a walk from rank `r` reaches, by fuel. -/
def treeWalk (t : TreeRec) : Nat → Nat → List Nat
  | 0, _ => []
  | k + 1, r => r :: (treeKids t r).flatMap (treeWalk t k)

/-- Is a tree record accepted (R307, R309)? -/
def treeRecOk (img : CastImage) (t : TreeRec) : Bool :=
  let walk := treeWalk t (t.n + 1) t.root
  t.tree < 65536 && 1 ≤ t.n && t.n ≤ 4096 && t.entries.length == t.n && t.root < t.n && (t.ent t.root).parent == 0xFFFF && (t.ent t.root).next == 0xFFFF && walk.length == t.n &&
    walk.Nodup && walk.all (fun r => r < t.n && (treeKids t r).all (fun k => (t.ent k).parent == r) && (t.ent r).selfPos ≤ (treeKids t r).length) &&
    (match img.groups.find? (fun g => g.group == t.group) with
      | some g => g.members.length == t.n
      | none => false) &&
    t.tchk == recordChk (treeRecBytes t 0)

/-- Is the TREES section accepted (R306, R307, R309)? -/
def treesOk (img : CastImage) : Bool :=
  let bytes := (img.groups.map (fun g => 16 + 4 * g.members.length)).foldl (· + ·) 0 + (img.trees.map (fun t => 16 + 8 * t.entries.length)).foldl (· + ·) 0
  img.treeRsv == 0 && img.groups.length ≤ 1024 && (img.groups.map (fun g => g.group)).Nodup && img.groups.all (groupRecOk img) &&
    img.trees.length ≤ 8192 && bytes ≤ 0x400000 && (img.trees.map (fun t => t.tree)).Nodup && img.trees.all (treeRecOk img)

/-- Is the CUE section accepted (R311, R314)? -/
def cueOk (img : CastImage) : Bool :=
  let parentOk := img.master || img.ports.any (fun e => e.1 == img.parent && (e.2.role == 1 || e.2.role == 3))
  let entOk := fun (e : BarrierEnt) =>
    e.b ≤ 255 && e.troupe < 64 && 1000 ≤ e.lead && e.lead < 2 ^ 32 && 1 ≤ e.btimeout && e.btimeout ≤ 600000 &&
      (match img.trees.find? (fun t => t.tree == e.tree) with
        | some t => img.groups.any (fun g => g.group == t.group && g.members.contains (img.lmid, e.troupe))
        | none => false)
  parentOk && img.barriers.length ≤ 256 && img.barriers.all entOk

/-- Is the ENSEMBLE section accepted (R16, R390)? `agree`: it equals the table of every module that is PRESENT. -/
def ensembleOk (img : CastImage) (agree : Bool) : Bool :=
  match img.ensemble with
  | none => true
  | some p =>
    let used := p.entries.filter (fun e => e.role != 0)
    16 ≤ used.length && p.entries.length ≤ 64 && (ensEnt p 0).role == 1 && p.entries.all (fun e => e.role ≤ 2) && 1 ≤ p.hb && p.hb ≤ 1000 &&
      p.leads.length ≤ 63 && (used.map (fun e => e.lmid)).Nodup && used.any (fun e => e.lmid == img.lmid) && agree

/-! ### GEN -/

/-- Is a number a power of two? -/
def isPow2 (n : Nat) : Bool := n != 0 && 2 ^ Nat.log2 n == n

/-- Does a PARTNER name a module slot and a troupe that can be (R85)? -/
def partnerOk : Partner → Bool
  | .none => true
  | .prefill sl tr | .decode sl tr => sl < 64 && tr < 64

/-- Do a generator troupe's parameters and classes lie in their ranges (R85, R240)? -/
def genParamsOk (c : GenCfg) : Bool :=
  let d := fun (n : Nat) => n < 2 ^ 32
  c.slotBase ≤ 1023 && 1 ≤ c.slotCount && c.slotCount ≤ 1024 && 1 ≤ c.queueDepth && c.queueDepth ≤ 4096 && 32 ≤ c.ctxLimit &&
    c.ctxLimit ≤ 1048576 && d c.stepA && d c.stepB && d c.pfC && 256 ≤ c.specY && c.specY ≤ 2304 && c.classes.length ≤ 8 && partnerOk c.partner &&
    c.classes.all (fun k => k.prio ≤ 7)

/-- Do an alternating troupe's parameters lie in their ranges (R240)? -/
def altOk (g : GenPlan) : Bool :=
  !g.alt || (1 ≤ g.cfg.altRecords && g.cfg.altRecords ≤ 2 ^ 24 && 1 ≤ g.cfg.altSteps && g.cfg.altSteps ≤ 65535)

/-- Is a KV model accepted (R116, R117)? -/
def kvModelOk (m : KvModel) : Bool :=
  let e2 := if m.fmt == 0x01 then 4 else if m.fmt == 0x10 then 2 else 1
  let pb := 256 + m.heads * 32 * m.hw * e2 + (if m.fmt == 0x01 then 0 else 2 * m.heads * m.hw)
  1 ≤ m.layers && m.layers ≤ 4096 && (m.fmt == 0x01 || m.fmt == 0x10 || m.fmt == 0x14) && (m.ppf == 1 || m.ppf == 2 || m.ppf == 4 || m.ppf == 8) &&
    (m.hw == 64 || m.hw == 128) && m.headBase ≤ 255 && 1 ≤ m.heads && m.heads ≤ 64 && 1 ≤ m.qpk && m.qpk ≤ 64 && m.modelId < 2 ^ 64 &&
    pb ≤ 131072 / m.ppf

/-- Are the members of a head group on this module alike (R142)? -/
def headsAlike (slot : Nat) (img : CastImage) (g : GenPlan) : Bool :=
  let key := fun (c : GenCfg) =>
    let ofModel := fun (m : KvModel) =>
      let p := planModel m
      if m.g == 0 then [0] else ([p.g, p.ppf, p.hw, p.fmt, p.modelId, b2n p.epochKey] : List Nat)
    [c.poolFrames, c.slotBase, c.slotCount, c.dirSets] ++ ofModel c.policy ++ ofModel c.draft
  g.cfg.headGroup.all (fun m => m.1 != slot || (match img.gen.find? (fun x => x.t == m.2) with
    | some x => key x.cfg == key g.cfg
    | none => true))

/-- Have a prefill troupe and its decode troupe on this module the same PPF, HW, KV_HEAD_BASE and KV_HEADS (R143)? -/
def pairAlike (slot : Nat) (img : CastImage) (g : GenPlan) : Bool :=
  let shape := fun (m : KvModel) => if m.g == 0 then [] else ([m.ppf, m.hw, m.headBase, m.heads] : List Nat)
  let same := fun (sl tr : Nat) => sl != slot || (match img.gen.find? (fun x => x.t == tr) with
    | some x => shape x.cfg.policy == shape g.cfg.policy && shape x.cfg.draft == shape g.cfg.draft
    | none => true)
  match g.cfg.partner with
  | .none => true
  | .prefill sl tr => same sl tr
  | .decode sl tr => same sl tr

/-- Are a troupe's KV parameters accepted (R116, R117, R142, R143)? -/
def kvOk (slot : Nat) (img : CastImage) (g : GenPlan) : Bool :=
  g.cfg.poolBase % 0x20000 == 0 && 1 ≤ g.cfg.poolFrames && g.cfg.poolFrames ≤ 2 ^ 24 && g.cfg.policy.g != 0 && kvModelOk g.cfg.policy &&
    (g.cfg.draft.g == 0 || kvModelOk g.cfg.draft) && headsAlike slot img g && pairAlike slot img g

/-- Are the directory sets accepted (R138)? -/
def dirsOk (img : CastImage) : Bool :=
  img.gen.all (fun g => g.cfg.dirBase ≤ 131071 && isPow2 g.cfg.dirSets && g.cfg.dirSets ≤ 131072 && g.cfg.dirBase + g.cfg.dirSets ≤ 131072) &&
    pairwise (fun (a b : GenPlan) => !meet a.cfg.dirBase a.cfg.dirSets b.cfg.dirBase b.cfg.dirSets) img.gen

/-- The tenant and role of a troupe in an image. -/
def planWho (img : CastImage) (t : Nat) : Option (Nat × Nat) :=
  (img.troupes.find? (fun (p : TroupePlan) => p.t == t)).map (fun (p : TroupePlan) => (p.cfg.tenant, p.cfg.role))

/-- Units of the largest record of a troupe (R220, R222). -/
def largestUnits (c : GenCfg) : Nat :=
  let d := c.ctxLimit - 1
  ceilDiv (256 + 16 + 16 * d + (if c.ring.reflp then roundUp (4 * d) 16 else 0)) 256

/-- Is a generator troupe's ring accepted (R220)? -/
def ringOk (img : CastImage) (g : GenPlan) : Bool :=
  let r := g.cfg.ring
  let tenant := (planWho img g.t).map (·.1)
  let sem := fun (t n : Nat) => img.troupes.any (fun (p : TroupePlan) => p.t == t && n < p.cfg.semCount)
  if !r.present then !g.cfg.classes.any (fun k => k.exp)
  else
    r.base % 4096 == 0 && isPow2 r.units && 16 ≤ r.units && r.units ≤ 2 ^ 24 && r.ctrl % 128 == 0 && r.logBase % 4096 == 0 &&
      (planWho img r.consumer).map (·.1) == tenant && img.lrn.any (fun l => l.t == r.consumer) && r.hand % 16 == 0 && isPow2 r.handLen &&
      16 ≤ r.handLen && r.handLen ≤ 65536 && sem r.consumer r.esem &&
      (!r.byScorer || ((planWho img r.scorer).map (·.1) == tenant && (planWho img r.scorer).map (·.2) == some 3 && r.sHand % 16 == 0 &&
        16 ≤ r.sHandLen && r.sHandLen ≤ 65536 && sem r.scorer r.ssem && r.sealAddr % 32 == 0)) &&
      g.maxLag ≤ 15 && largestUnits g.cfg ≤ r.units

/-- How the GEN section is judged: R85, R117, R138, R220 in that order. -/
def judgeGen (slot : Nat) (img : CastImage) : Nat :=
  let gens := img.gen.filter (fun g => g.cfg.present)
  if 1024 < (gens.map (fun g => g.cfg.slotCount)).foldl (· + ·) 0 || gens.any (fun g => g.cfg.slotBase ≤ 1023 && g.cfg.slotCount ≤ 1024 && 1024 < g.cfg.slotBase + g.cfg.slotCount) ||
      !pairwise (fun (a b : GenPlan) => !meet a.cfg.slotBase a.cfg.slotCount b.cfg.slotBase b.cfg.slotCount) gens then stSlotLimit
  else if !gens.all (fun g => genParamsOk g.cfg && altOk g) then stGenParam
  else if !img.gen.all (kvOk slot img) then stKvShape
  else if !dirsOk img then stDirLimit
  else if !gens.all (ringOk img) then stExpShape
  else stOk

/-! ### LRN, PROMPTER -/

/-- How a binding table is judged (R166, R167): the records in order, each against those before it. -/
def judgeBinds : List BindRecord → List BindRecord → Nat
  | _, [] => stOk
  | before, b :: rest =>
    if !bindFieldsOk b then stBindInvalid
    else if before.any (bindClash b) then stBindTwice
    else judgeBinds (before ++ [b]) rest

/-- Do a learner troupe's parameters lie in their ranges (R185, R233)? -/
def lrnParamsOk (img : CastImage) (l : LrnPlan) : Bool :=
  let c := l.cfg
  let sems := match img.troupes.find? (fun (p : TroupePlan) => p.t == l.t) with
    | some p => p.cfg.semCount
    | none => 0
  1 ≤ l.binds.length && l.binds.length ≤ 4096 && c.vsem < sems && 1 ≤ c.expected && c.expected ≤ 2 ^ 31 && 1 ≤ c.countFloor &&
    c.countFloor ≤ c.expected && (f32Positive c.clipC || c.clipC == 0x7F800000) && f32Positive c.clipEps && c.lossMax ≤ 65535 &&
    1 ≤ c.narrowHold && c.narrowHold ≤ 16 && 1 ≤ c.leafTimeout && c.leafTimeout ≤ 10000000 && 1 ≤ c.verdictTimeout && c.verdictTimeout ≤ 600000 &&
    c.flyEvery ≤ 65535 && c.bindAddr < 2 ^ 40 && c.govAddr < 2 ^ 40 && c.verdictAddr < 2 ^ 40

/-- Are a learner troupe's groups, shards and optimizer parameters accepted (R187, R188, R198, R205)? -/
def optParamsOk (img : CastImage) (l : LrnPlan) : Bool :=
  let c := l.cfg
  let prm := mapOf img.prompter
  let plan := img.troupes.find? (fun (p : TroupePlan) => p.t == l.t)
  let sems := match plan with
    | some p => p.cfg.semCount
    | none => 0
  let fb := match plan with
    | some p => planFallback img p l
    | none => []
  1 ≤ l.groups.length && l.groups.length ≤ 256 && c.groupAddr < 2 ^ 40 && c.shardRecAddr < 2 ^ 40 && c.optAddr < 2 ^ 40 && c.prmBase ≤ 255 && 1 ≤ c.prmCount && c.prmBase + c.prmCount ≤ 256 && c.wsem < sems &&
    l.groups.all (groupOk prm c.prmBase c.prmCount) && l.binds.all (fun b => b.group < l.groups.length) && l.shards.all (fun sh => sh.rsv == 0) &&
    fb.all (fun i => (nth ({} : ShardRec) l.shards i).v != 0)

/-- Does a troupe range lie in one stack's NEAR window (R207)? -/
def inNear (img : CastImage) (p : TroupePlan) (n a len : Nat) : Bool :=
  match img.memory.whet.find? (fun e => e.1 == n) with
  | none => false
  | some w =>
    let lo := n * stackBytes + w.2.1 * 0x200000
    let hi := lo + w.2.2 * 0x10000000
    (pagePieces (len / pageBytes + 2) a len).all (fun r =>
      let q := planPhys p r.1
      p.xlat.any (fun e => e.1 == r.1 / pageBytes && entryValid e.2) && lo ≤ q && q + r.2 ≤ hi)

/-- Are a learner troupe's NEAR ranges placed by R207? The reduced gradient has the binding's first format (R168; assumption 78). -/
def nearOk (img : CastImage) (l : LrnPlan) : Bool :=
  match img.troupes.find? (fun (p : TroupePlan) => p.t == l.t) with
  | none => true
  | some p =>
    let near := planNear p l
    near.length ≤ 64 && near.all (fun r =>
      let b := nth ({} : BindRecord) l.binds r.record
      let sh := nth ({} : ShardRec) l.shards r.record
      let g := nth ({} : GroupParam) l.groups b.group
      let n := 32 * sh.nblk
      inNear img p r.stack sh.theta (n * stateSize g.mfmt) && inNear img p r.stack sh.m (n * stateSize g.ofmt) &&
        (g.rule != 1 || inNear img p r.stack sh.v (n * stateSize g.ofmt)) &&
        inNear img p r.stack b.shardAddr (if b.initFmt == 0x01 then 2 * n else n + sh.nblk))

/-- No stack has more than 32 NEAR ranges (R207). -/
def nearCountOk (img : CastImage) : Bool :=
  let all := img.lrn.flatMap (fun l => match img.troupes.find? (fun (p : TroupePlan) => p.t == l.t) with
    | some p => planNear p l
    | none => [])
  (List.range 20).all (fun n => all.countP (fun r => r.stack == n) ≤ 32)

/-- Is a fly plan entry accepted (R235)? The version slots of other modules are not known here. -/
def flyEntryOk (slot : Nat) (img : CastImage) (l : LrnPlan) (e : FlyEntry) : Bool :=
  let b := nth ({} : BindRecord) l.binds e.record
  let vbytes := if e.dstModule == slot then
      (match img.gen.find? (fun g => g.t == e.dstTroupe) with
        | some g => some g.cfg.vbytes
        | none => none)
    else none
  e.record < l.binds.length && e.record < l.shards.length && (e.fmt == 0x10 || e.fmt == 0x14 || e.fmt == 0x01) && e.layout ≤ 2 && e.rsv == 0 &&
    (e.fmt == 0x01 || (e.tscale % 2 ^ 23 == 0 && 1 ≤ e.tscale / 2 ^ 23 && e.tscale / 2 ^ 23 ≤ 254)) &&
    (match vbytes with
      | some v => e.dstOff + layoutSpan (flyTag e) e.layout b.rows b.cols e.dpitch ≤ v
      | none => true)

/-- The first code that is not OK. -/
def firstBad : List Nat → Nat
  | [] => stOk
  | c :: cs => if c == stOk then firstBad cs else c

/-- How one learner troupe's parameters are judged: R167, R185, R187 to R205, R207, R235 in that order. -/
def judgeLearner (slot : Nat) (img : CastImage) (l : LrnPlan) : Nat :=
  firstBad [judgeBinds [] l.binds, (if lrnParamsOk img l then stOk else stLrnParam), (if optParamsOk img l then stOk else stOptParam),
    (if nearOk img l then stOk else stNearPlace), (if l.cfg.plan.all (flyEntryOk slot img l) then stOk else stExpShape)]

/-- How the LRN section is judged. -/
def judgeLrn (slot : Nat) (img : CastImage) : Nat :=
  firstBad (img.lrn.map (judgeLearner slot img) ++ [if nearCountOk img then stOk else stNearPlace])

/-- Is a record of kind ACTION accepted: ACT 1, a PERIOD, and every other field 0 (R350)? -/
def actionOk (x : PromSlot) : Bool :=
  x.warm == 1 && x.start < 2 ^ 64 && 1 ≤ x.period && x.period < 2 ^ 32 && x.decay == 0 && x.qmul == 0 && x.wsteps == 0 && x.dsteps == 0 &&
    x.floor == 0 && x.gamma == 0

/-- Is a Prompter record accepted (R213)? -/
def promSlotOk (x : PromSlot) : Bool :=
  x.kind == 0 || (x.kind ≤ 2 && x.rsv == 0 && ((x.kind == 2 && actionOk x) || (x.kind == 1 &&
    x.warm ≤ 1 && x.decay ≤ 4 && 1 ≤ x.qmul && x.qmul ≤ 16 && x.start < 2 ^ 64 && (x.warm == 0 || 1 ≤ x.wsteps) && x.wsteps < 2 ^ 32 &&
      1 ≤ x.dsteps && x.dsteps < 2 ^ 32 && x.period < 2 ^ 32 && f32Nonneg x.floor && !f32Lt f32One (BitVec.ofNat 32 x.floor) &&
      f32Positive x.gamma && !f32Lt f32One (BitVec.ofNat 32 x.gamma))))

/-! ### JOBS -/

/-- Is a job accepted but for its size (R346, R348)? -/
def jobOk (img : CastImage) (j : JobPlan) : Bool :=
  let members : List (Nat × Nat) := match img.barriers.find? (fun (b : BarrierEnt) => b.b == j.bar) with
    | none => []
    | some b => (match img.trees.find? (fun (t : TreeRec) => t.tree == b.tree) with
      | none => []
      | some t => (match img.groups.find? (fun (g : GroupRec) => g.group == t.group) with
        | some g => g.members
        | none => []))
  let xl : Nat → List Nat := fun (t : Nat) => match img.troupes.find? (fun (p : TroupePlan) => p.t == t) with
    | some p => (p.xlat.filter (fun e => entryValid e.2)).map (·.1)
    | none => []
  let trpOk : JobTrp → Bool := fun (p : JobTrp) =>
    members.contains (img.lmid, p.t) && p.extra.length ≤ 16 && p.extra.all (fun r => r.1 % pageBytes == 0 && r.2 % pageBytes == 0 &&
      (List.range (r.2 / pageBytes)).all (fun i => (xl p.t).contains (r.1 / pageBytes + i))) && p.repl.2 ≤ 2 ^ 40 &&
      (match p.mirror with
        | none => true
        | some m => members.contains m && (m.1 != img.lmid || (img.lrn.any (fun l => l.t == m.2) && j.troupes.any (fun (q : JobTrp) => q.t == m.2))))
  j.job ≤ 255 && j.troupes.all trpOk

/-- Does every stack's spare region hold what the jobs save in it (R348)? The candidate is the module under the image. -/
def spareFits (img : CastImage) (s : State) : Bool :=
  let s1 := installCast img { s with cast := none, troupes := [] }
  let parts := img.jobs.map (fun j =>
    (stackParts s1 { job := j.job, lmid := img.lmid, no := 0, step := 0, tCut := 0, pieces := jobPieces s1 { plan := j } }).map List.length)
  (List.range 20).all (fun n =>
    (parts.map (fun l => nth 0 l n)).foldl (· + ·) 0 + (if n == img.hubStack then 0x400000 * img.jobs.length else 0) ≤
      byStack img.memory.spare n * 0x10000000)

/-- Is the JOBS section accepted (R346, R348)? -/
def jobsOk (img : CastImage) (s : State) : Bool :=
  img.jobs.length ≤ 16 && (img.jobs.map (fun j => j.job)).Nodup && img.jobs.all (jobOk img) &&
    (img.jobs.flatMap (fun j => j.troupes.map (fun (p : JobTrp) => p.t))).Nodup && (img.jobs.isEmpty || spareFits img s)

/-! ### The whole image (R425) -/

/-- The sections' own refusals in ascending KIND. -/
def judgeSections (img : CastImage) (agree : Bool) (s : State) : Nat :=
  let r := s.record
  let slot := match img.ensemble with
    | some p => planSlot p img.lmid
    | none => 0
  if img.lmid ≥ 4096 then stCastInvalid
  else if !memoryOk r img then stMemPlan
  else if !troupesOk img then stTroupePlan
  else if !xlatOk (planViews img) (planKept img) then stXlatPlan
  else if !img.ports.all (portOk r img) then stPortPlan
  else if !treesOk img then stTreeShape
  else if !cueOk img then stCuePlan
  else if !ensembleOk img agree then stEnsPlan
  else if judgeGen slot img != stOk then judgeGen slot img
  else if judgeLrn slot img != stOk then judgeLrn slot img
  else if !img.prompter.all (fun e => e.1 < 256 && promSlotOk e.2) then stOptParam
  else if !jobsOk img s then stCkptPlan
  else stOk

/-- Is a section kind one of the table (R423)? -/
def kindKnown (k : Nat) : Bool := (1 ≤ k && k ≤ 0x0F) || k == 0x7F

/-- Does the directory of an image keep R422 and R423: kinds known, ascending and not repeated, 0x01 to 0x04 present; sections at multiples of
16, after the directory, within the body and without overlap? -/
def dirOk (img : CastImage) : Bool :=
  let d := img.dir
  d.all (fun e => kindKnown e.kind && e.rsv == 0 && e.off % 16 == 0 && 32 + 16 * d.length ≤ e.off && e.off + e.len ≤ img.sig.bytes) &&
    (List.zip d (d.drop 1)).all (fun p => p.1.kind < p.2.kind) && [1, 2, 3, 4].all (fun k => d.any (fun e => e.kind == k)) &&
    d.all (fun e => d.all (fun f => e.kind == f.kind || e.off + e.len ≤ f.off || f.off + f.len ≤ e.off))

/-- Steps 1 to 6 of R425. -/
def judgeObject (img : CastImage) (area : Nat) (s : State) : Nat :=
  let owner := match s.bt.force.owner with
    | some o => o.owner
    | none => 0
  let bundle := match bundleOf s with
    | some b => b
    | none => 0
  if !signedOk s img.sig 7 area || img.owner != owner then stSigInvalid
  else if img.sig.svn < s.bt.counters.cast then stRollback
  else if img.cl != 1 then stClMismatch
  else if img.magic != 0x5453434B || img.rsv != 0 || !dirOk img then stCastInvalid
  else if img.bundle != 0 && img.bundle != bundle then stBundleMismatch
  else if (bundleOf s).isNone && !ownerOverride s then stOverrideDenied
  else stOk

/-- Is the module busy for a casting image (R425 step 7)? -/
def castBusy (s : State) : Bool :=
  !s.switches.isEmpty || !s.waitSw.isEmpty || s.bt.applying.isSome || (1 ≤ s.ckpt.sub.state && s.ckpt.sub.state ≤ 3) ||
    (presentTroupes s).any (fun t => stateOf s t == .teardown || stateOf s t == .saving || stateOf s t == .restoring || !(s.troupe t).tears.isEmpty) ||
    s.ckpt.jobs.any (fun e => e.2.st == .copying)

/-- How a casting image is judged (R425). -/
def judgeCast (img : CastImage) (area : Nat) (agree : Bool) (s : State) : Nat :=
  let st := judgeObject img area s
  if st != stOk then st
  else if castBusy s then stCastBusy
  else if !variantOk s.record img then stVariantLimit
  else judgeSections img agree s

end Sys2Proof.Machine
end

