-- ==== Sys2Proof/Machine/PwrOps.lean ====
section
/-! DEFINITION. Shared operations of power and reset: what a module reset and a power-fail shutdown leave (R432, R437), the fault log
(R435), rail sequencing (R439), and the reference (R444, R472). -/

namespace Sys2Proof.Machine

/-! ### What is left of the state -/

/-- The state with everything volatile gone: what flash, the replay-protected device, the input controller and the outside hold
(R431, R437). Commands that wait to reach the module still wait. -/
def volatileGone (s : State) : State :=
  { pending := s.pending, out := s.out, fresh := s.fresh, hw := s.hw
    bt := { flash := s.bt.flash, counters := s.bt.counters }
    thl := { regs := { prsnt := s.thl.regs.prsnt } } }

/-- The spare region sizes in force by stack (R245). Before a casting image is in force they are those that the latest reset kept. -/
def sparesNow (s : State) : List (Nat × Nat) :=
  if s.cast.isSome then (s.mem.stks.filter (fun (e : Nat × Stack) => e.2.spare != 0)).map (fun (e : Nat × Stack) => (e.1, e.2.spare))
  else match s.bt.flash.resetBlk with
    | some sp => sp
    | none => []

/-- What a reset keeps of a job with its spare region: the stratum 0 image, incomplete when its copy was abandoned (R432). -/
def keptJob (j : Job) : Job :=
  { plan := j.plan
    image := match j.image with
      | some i => some (if j.st == .copying then { i with complete := false } else i)
      | none => none }

/-- A module reset (R432): `cause` is LAST_RESET; `keep` keeps the spare regions, whose extents go to the reset block. Boot runs again from
the release of hub reset. Memory keeps its bytes until the zeroing that follows. -/
def moduleReset (cause : Nat) (keep : Bool) (s : State) : State :=
  let s1 := volatileGone s
  { s1 with
    bt.flash.resetBlk := (if keep then some (sparesNow s) else none)
    bt.regs.lastReset := cause, bt.regs.spareKept := keep
    bt.after := (if cause == 3 then some evHubWatchdog else if cause == 4 then some evHubEcc else s.bt.after)
    mem.bytes := s.mem.bytes, mem.poison := s.mem.poison, mem.weak := s.mem.weak
    ckpt.jobs := (if keep then s.ckpt.jobs.map (fun (e : Nat × Job) => (e.1, keptJob e.2)) else []) }

/-! ### The input controller -/

/-- A new entry of the fault log; a full log loses its oldest and is marked (R435). -/
def logFault (code num : Nat) (s : State) : State :=
  let e : LogEnt := { code := code, num := num, ups := s.hw.ups }
  if s.hw.log.length < 16 then { s with hw.log := s.hw.log ++ [e] }
  else { s with hw.log := s.hw.log.drop 1 ++ [e], hw.logOvf := true }

/-- Are rails on? -/
def railsUp (s : State) : Bool := s.hw.phase == .rising || s.hw.phase == .good || s.hw.phase == .up

/-- A power-fail shutdown: hub reset is held, the rails go down, and everything volatile is lost, spare regions too (R437). -/
def powerFail (next : PwrPhase) (s : State) : State :=
  let s1 := volatileGone s
  { s1 with bt.flash.resetBlk := none, hw.phase := next, hw.seqStep := 0, hw.railsOn := [], hw.onLocal := [], hw.retryOf := none }

/-- A power-up: rail sequencing starts at step 1 (R436, R440). The sense inputs are checked again (R441). -/
def powerUp (retry : Option Nat) (s : State) : State :=
  { s with
    hw.phase := .rising, hw.seqStep := 1, hw.railsOn := [], hw.onLocal := [], hw.retryOf := retry, hw.stopAt := none, hw.ups := s.hw.ups + 1, hw.pins := []
    hw.uvArmed := true, hw.ovArmed := true, hw.hotArmed := true, hw.flowArmed := true }

/-- The sequence step of a rail (R439); 0 for a number that names none. -/
def railStep (r : Nat) : Nat :=
  if r == 0 then 1 else if r == 1 then 2 else if r ≤ 3 then 3 else if r ≤ 7 then 4 else if r ≤ 11 then 5 else if r ≤ 19 then 6
  else if r ≤ 28 then 7 else 0

/-- Is a rail on now: its step has started? -/
def railLive (s : State) (r : Nat) : Bool :=
  railStep r != 0 && (s.hw.phase == .good || s.hw.phase == .up || (s.hw.phase == .rising && railStep r ≤ s.hw.seqStep))

/-- Does every rail of a step report power-good? -/
def stepGood (on : List Nat) (k : Nat) : Bool := (List.range 29).all (fun r => railStep r != k || on.contains r)

/-! ### Warnings -/

/-- A regulator warning: its event, HUB_PWR_EVT.WARN_CNT, and the error watch's count (R442, R351). -/
def warnEvent (code : Nat) (data : List Byte) (s : State) : State :=
  raiseModule code data (countWatch .reg 0 { s with pwr.warnCnt := inc16 s.pwr.warnCnt })

/-! ### The reference -/

/-- The reference goes away: a root PLL that had it enters holdover (R444). -/
def loseRef (s : State) : State :=
  let s1 := { s with hw.refOk := false }
  if s.hw.refOk && s.alive && s.pwr.locked then
    raiseModule evClkRefLost [] { s1 with pwr.holdover := true, pwr.refLost := true }
  else s1

/-- Step 1 of R411: the root PLL locks, and with stable clocks THL training and port DETECT begin. Memory zeroing has its own command. -/
def startClocks (s : State) : State :=
  { s with
    pwr.waitRef := false, pwr.locked := true, bt.released := s.cue, thl.regs.link := (if s.thl.regs.prsnt then 1 else 0)
    fab.ports := (((List.range 18).filter (portEnabled s)).map (fun p => (p, ({ s.port p with st := .detect } : Port)))) }

end Sys2Proof.Machine
end

