-- ==== Sys2Proof/Machine/Boot.lean ====
section
/-! DEFINITION. From reset to READY (R411 to R418), and the resets that the hub causes itself (R413, R431). -/

namespace Sys2Proof.Machine

/-! ### Objects of flash -/

/-- Which bank is taken, and whether it is not the selected one (R411); else the status of the failure: ROLLBACK when a bank was turned
away by its SVN, else that of the selected bank. -/
def pickBank (judge : Bool → Nat) (sel : Bool) : Except Nat (Bool × Bool) :=
  if judge sel == stOk then .ok (sel, false)
  else if judge (!sel) == stOk then .ok (!sel, true)
  else if judge sel == stRollback || judge (!sel) == stRollback then .error stRollback
  else .error (judge sel)

/-- Size of a firmware bank (R404). -/
def bankBytes (type : Nat) : Nat := if type == 1 then 0x400000 else 0x100000

/-- How a firmware image is judged (R402, R408): its descriptor's reserved bytes are 0, a hub image needs no interface, and a core
firmware body has at most 524,288 bytes (R414). -/
def judgeFw (s : State) (type area : Nat) (x : FwImage) : Nat :=
  if x.rsv != 0 || (type == 1 && x.needs != 0) || (type == 2 && 524288 < x.sig.bytes) then stSigInvalid else judgeSigned s x.sig type area

/-- How the image of a bank is judged; an empty bank holds no signed object. -/
def judgeBank (s : State) (type : Nat) (bank : Bank FwImage) (b : Bool) : Nat :=
  match bank.at b with
  | none => stSigInvalid
  | some x => judgeFw s type (bankBytes type) x

/-- How a bundle record is judged (R402, R408, R415). -/
def judgeBundle (s : State) (area : Nat) (x : BundleRec) : Nat :=
  if !(1 ≤ x.entries.length && x.entries.length ≤ 4096 && x.entries.all (fun e => 1 ≤ e.1 && e.1 ≤ 65535)) then stSigInvalid
  else judgeSigned s x.sig 4 area

/-- How the bundle record of a bank is judged. -/
def judgeBundleBank (s : State) (b : Bool) : Nat :=
  match s.bt.flash.bundle.at b with
  | none => stSigInvalid
  | some x => judgeBundle s 0x100000 x

/-- How an owner record is judged (R402, R407, R408). -/
def judgeOwner (s : State) (area : Nat) (x : OwnerRec) : Nat :=
  if !(1 ≤ x.nkeys && x.nkeys ≤ 4 && x.rsv == 0) then stSigInvalid else judgeSigned s x.sig 6 area

/-! ### The end of boot -/

/-- Boot has ended: the event of the watchdog or ECC reset that went before is raised (R413). -/
def bootEnded (s : State) : State :=
  match s.bt.after with
  | some code => raiseModule code [] { s with bt.after := none }
  | none => s

/-- Boot stops in STOPPED (R411). -/
def stopBoot (code : Nat) (s : State) : State := bootEnded { s with boot := .stopped, bt.regs.stopCode := code }

/-! ### Steps 1 and 2 -/

/-- Step 2 of R411: the vendor key, and the hub firmware of the selected bank, else of the other one. -/
def romStep (s : State) : State :=
  if !s.bt.flash.keyOk then { s with bt.regs.stopCode := stRomFail, thl.regs.link := 0 }
  else
    match pickBank (judgeBank s 1 s.bt.flash.hub) s.bt.flash.hub.sel with
    | .ok (b, fb) =>
      { s with
        bt.force.hub := s.bt.flash.hub.at b, bt.regs.fwFallback := fb, bt.regs.banks := setBitTo s.bt.regs.banks 0 b
        bt.regs.hubIfv := (match s.bt.flash.hub.at b with
          | some x => x.ifv
          | none => 0) }
    | .error c => { s with boot := .recovery, bt.regs.stopCode := (if c == stRollback then stRollback else stRomFail) }

/-- HUB_RESET_RELEASE: after rail sequencing, or after a module reset, hub reset is released and the boot ROM runs steps 1 and 2 of R411;
without a reference it waits in ROM (R473). -/
def execHubResetRelease (s : State) : Host.Outcome State Fault Refusal :=
  nextS (if s.boot == .reset && (s.hw.phase == .good || s.hw.phase == .up) then
      let s1 := { s with boot := .rom, hw.phase := .up, hw.retryOf := none }
      if s.hw.refOk then romStep (startClocks s1) else { s1 with pwr.waitRef := true }
    else s)

/-- REFCLK_QUALIFY: the reference is present and within 500 ppm at a detected cable. A boot that waits for it continues from step 1
(R472, R473). -/
def execRefclkQualify (s : State) : Host.Outcome State Fault Refusal :=
  nextS (if !s.hw.cable then s
    else
      let s1 := { s with hw.refOk := true }
      if s.boot == .rom && s.pwr.waitRef then romStep (startClocks s1) else s1)

/-! ### Steps 3 and 4 -/

/-- The event of one entry of the fault log. INPUT_OV and SENSE_OPEN are regulator warnings and set their HUB_PWR_EVT bit (R435, R442,
R459). -/
def raiseLogged (e : LogEnt) (s : State) : State :=
  let data := leBytes 1 e.num ++ leBytes 4 e.ups
  if e.code == evInputOv then warnEvent e.code data { s with pwr.inputOv := true }
  else if e.code == evSenseOpen then warnEvent e.code data { s with pwr.senseOpen := true }
  else raiseModule e.code data s

/-- The fault log is read: one event for each entry, naming it, LOG_OVF, and the log is cleared (R435). -/
def readFaultLog (s : State) : State :=
  let s1 := s.hw.log.foldl (fun s e => raiseLogged e s) s
  { s1 with pwr.logOvf := s1.pwr.logOvf || s.hw.logOvf, hw.log := [], hw.logOvf := false }

/-- Step 3 of R411: module record, owner record, bundle record, replay-protected device and identity, in that order; or the code at which
boot stops (R405 to R409). -/
def recordStep (rpfOk : Bool) (s : State) : Except (Nat × State) State :=
  match s.bt.flash.modRec with
  | none => .error (stRecordInvalid, s)
  | some m =>
    if judgeSigned s m.sig 5 0x10000 != stOk || m.sig.serial != m.body.serial then .error (stRecordInvalid, s)
    else
      let s1 := { s with bt.force.modRec := some m, record := m.body }
      match s.bt.flash.owner with
      | none => .error (stOwnerInvalid, s1)
      | some o =>
        if judgeOwner s1 0x10000 o != stOk then .error (stOwnerInvalid, s1)
        else
          let s2 := { s1 with bt.force.owner := some o }
          match pickBank (judgeBundleBank s2) s2.bt.flash.bundle.sel with
          | .error _ => .error (stFwBundle, s2)
          | .ok (b, fb) =>
            let s3 := { s2 with
              bt.force.bundle := s2.bt.flash.bundle.at b, bt.regs.banks := setBitTo s2.bt.regs.banks 3 b
              bt.regs.fwFallback := s2.bt.regs.fwFallback || fb }
            if !rpfOk then .error (stRpfFail, s3)
            else
              let s4 := { s3 with bt.regs.rpfOk := true, bt.regs.rpf := s3.bt.counters }
              if m.pufOk then .ok { s4 with bt.regs.pufOk := true } else .ok (raiseModule evPufFail [] s4)

/-- Step 4 of R411: link and core firmware, each from its selected bank or else the other one, and their interface versions (R414). -/
def firmwareStep (s : State) : Except (Nat × State) State :=
  match pickBank (judgeBank s 3 s.bt.flash.link) s.bt.flash.link.sel with
  | .error c => .error (c, s)
  | .ok (lb, lf) =>
    let link := s.bt.flash.link.at lb
    let s1 := { s with
      bt.force.link := link, bt.regs.banks := setBitTo s.bt.regs.banks 2 lb, bt.regs.fwFallback := s.bt.regs.fwFallback || lf
      bt.regs.linkIfv := (match link with
        | some x => x.ifv
        | none => 0) }
    match pickBank (judgeBank s1 2 s1.bt.flash.core) s1.bt.flash.core.sel with
    | .error c => .error (c, s1)
    | .ok (cb, cf) =>
      let core := s1.bt.flash.core.at cb
      let s2 := { s1 with
        bt.force.core := core, bt.regs.banks := setBitTo s1.bt.regs.banks 1 cb, bt.regs.fwFallback := s1.bt.regs.fwFallback || cf
        bt.regs.coreIfv := (match core with
          | some x => x.ifv
          | none => 0) }
      let fits := fun (x : Option FwImage) => match x with
        | some i => i.needs == s.bt.regs.hubIfv
        | none => false
      if fits link && fits core then .ok s2 else .error (stFwInterface, s2)

/-- The boot casting image that is accepted, its slot, and whether it is not the selected one (R411 step 6). No other module is PRESENT yet. -/
def bootImage (s : State) : Option (CastImage × Bool × Bool) :=
  let judge := fun (b : Bool) => match s.bt.flash.cast.at b with
    | none => stSigInvalid
    | some img => judgeCast img 0x1000000 true s
  match pickBank judge s.bt.flash.cast.sel with
  | .ok (b, fb) => (s.bt.flash.cast.at b).map (fun img => (img, b, fb))
  | .error _ => none

/-- Does the boot casting image let a combination run that no bundle lists (R416)? -/
def overrideNames (s : State) : Bool :=
  match bootImage s with
  | some (img, _, _) => ownerOverride s && img.override == some (releases s)
  | none => false

/-- Physical cores that take part in the broadcast of a boot: those of the enabled clusters but the ones of repair entries (R417). -/
def bootCores (s : State) : List Nat :=
  ((List.range 16).filter (bitOf s.record.clusterMask)).flatMap clusterCores |>.filter (fun c => !s.record.repair.contains (c % 68, c / 68))

/-- The end of step 4: the combination is listed, or runs under an override; the broadcast of core firmware begins, and the cores of repair
entries are failed with reason 4 (R415 to R418). -/
def listStep (s : State) : State :=
  let run := fun (s : State) =>
    let s1 := s.record.repair.foldl (fun s e => failCore 4 s (physOf e.2 e.1)) s
    { s1 with bt.bcast := { on := true, cores := bootCores s1 } }
  match bundleOf s with
  | some b => run { s with bt.regs.bundle := b }
  | none => if overrideNames s then run { s with bt.regs.unlisted := true } else stopBoot stFwUnlisted s

/-- Steps 3 and 4 of R411. -/
def hubFirmware (rpfOk : Bool) (s : State) : State :=
  match recordStep rpfOk (readFaultLog s) with
  | .error (c, s1) => stopBoot c s1
  | .ok s1 =>
    match firmwareStep s1 with
    | .error (c, s2) => stopBoot c s2
    | .ok s2 => listStep s2

/-- HUB_FIRMWARE_START: the accepted hub firmware starts and runs steps 3 and 4 of R411; `rpfOk` says whether the replay-protected device
answers and authenticates (R409). -/
def execHubFirmwareStart (rpfOk : Bool) (s : State) : Host.Outcome State Fault Refusal :=
  engine (fun s =>
    if s.boot == .rom && s.bt.force.hub.isSome then
      hubFirmware rpfOk { s with boot := .hubfw, bt.regs.romUs := (s.cue - s.bt.released) / cyclesUs % 2 ^ 32 }
    else s) s

/-! ### Step 5 -/

/-- The reason for which a core is not started after the last round (R418); `none` for one that is. -/
def coreVerdict (lack silent bad : List Nat) (c : Nat) : Option Nat :=
  if silent.contains c then some 3 else if lack.contains c then some 1 else if bad.contains c then some 2 else none

/-- The broadcast is over: cores fail or become idle (R418, R431). -/
def startCores (lack silent bad : List Nat) (s : State) : State :=
  s.bt.bcast.cores.foldl (fun s c =>
    match coreVerdict lack silent bad c with
    | some r => failCore r s c
    | none => s.modRegs c (fun (r : CoreRegs) => { r with state := (if r.state == .reset then .idle else r.state) })) s

/-- A cluster reset ends with R419 and R420 applied to the cluster (R431). -/
def clusterBack (h : CmdHdr) (cl : Nat) (s : State) : State :=
  let s1 := match s.cast with
    | none => s
    | some img =>
      match img.cores.find? (fun (p : ClusterPlan) => p.cluster == cl) with
      | some p => withholdTroupes img (matchCluster (nameCluster p [] s) p)
      | none => (clusterCores cl).foldl (fun s c => nameCore c 0xFFFF .reset s) s
  complete h opReset stResetDone s1

/-- CORE_FW_BROADCAST_ROUND: a round ends with the cores that reported missing chunks and those that did not report (R417); the
broadcast ends when no core lacks a chunk, or after round 3, and cores whose digest does not match fail too (R418). -/
def execCoreFwBroadcastRound (missing silent badDigest : List Nat) (s : State) : Host.Outcome State Fault Refusal :=
  engine (fun s =>
    let x := s.bt.bcast
    if !x.on then s
    else
      let asked := if x.round == 0 then x.cores else x.missing
      let lack := asked.filter (fun c => missing.contains c || silent.contains c)
      if !lack.isEmpty && x.round < 3 then { s with bt.bcast.round := x.round + 1, bt.bcast.missing := lack }
      else
        let s1 := { startCores lack (silent.filter (lack.contains ·)) badDigest s with bt.bcast := {}, bt.bcastDone := true }
        settleResets (match x.hdr, x.cluster with
          | some h, some cl => clusterBack h cl s1
          | _, _ => s1)) s

/-! ### Steps 6 and 7 -/

/-- BOOT_CASTING_APPLY: with the broadcast over and memory zeroed, the boot casting image takes effect and the module is READY; without an
acceptable one it is UNCAST (R411). -/
def execBootCastingApply (s : State) : Host.Outcome State Fault Refusal :=
  engine (fun s =>
    if s.boot == .hubfw && s.bt.bcastDone && s.mem.zeroed then
      match bootImage s with
      | none => bootEnded { s with boot := .uncast }
      | some (img, b, fb) =>
        bootEnded (startCast none img { s with bt.regs.castFallback := fb, bt.regs.banks := setBitTo s.bt.regs.banks 4 b })
    else s) s

/-! ### Resets that no command brings -/

/-- HUB_WATCHDOG: a stagehand's watchdog expires (R413). -/
def execHubWatchdog (s : State) : Host.Outcome State Fault Refusal := engine (moduleReset 3 true) s

/-- HUB_ECC: an uncorrectable error in stagehand storage (R413). -/
def execHubEcc (s : State) : Host.Outcome State Fault Refusal := engine (moduleReset 4 true) s

/-- RESET_PIN: RESET# gives a module reset with KEEP_SPARE = 0, in a freeze too; the pin counts as inactive while no cable is detected
(R431, R454, R472). -/
def execResetPin (s : State) : Host.Outcome State Fault Refusal :=
  nextS (if s.hw.cable && s.boot != .reset then moduleReset 1 false s else s)

end Sys2Proof.Machine
end

