-- ==== Sys2Proof/Machine/BootCmds.lean ====
section
/-! DEFINITION. The commands of boot, casting and firmware (R421, R425 to R433) and LR_KEY (R292, R430). -/

namespace Sys2Proof.Machine

/-! ### Casting images -/

/-- CAST_APPLY: an image of `len` bytes of host memory is judged and takes effect (R425, R426). `agree`: its ensemble table equals that of
every PRESENT module of the ensemble (R390). -/
def execCastApply (h : CmdHdr) (len : Nat) (img : CastImage) (agree : Bool) (s : State) : Host.Outcome State Fault Refusal :=
  hostCmd h opCastApply (fun s =>
    let st := judgeCast img len agree s
    if st != stOk then complete h opCastApply st s else startCast (some h) img s) s

/-- What a bank holds after a flash write into it that failed: the old object, the new one, or none that is accepted (R427, R433 leave it
open). -/
def tornBank {α : Type} (old new : Option α) (s : State) : Option α × State :=
  let (n, s1) := s.draw
  (match Config.pick n % 3 with
    | 0 => old
    | 1 => new
    | _ => none, s1)

/-- CAST_STORE: an image accepted by steps 1 to 6 of R425 is written into the boot casting slot that is not selected, which is then selected
(R427). -/
def execCastStore (h : CmdHdr) (len : Nat) (img : CastImage) (flashOk : Bool) (s : State) : Host.Outcome State Fault Refusal :=
  hostCmd h opCastStore (fun s =>
    let st := judgeObject img (min len 0x1000000) s
    let b := s.bt.flash.cast
    if st != stOk then complete h opCastStore st s
    else if !flashOk then
      let (v, s1) := tornBank (b.at (!b.sel)) (some img) s
      complete h opCastStore stFlashFail { s1 with bt.flash.cast := b.put (!b.sel) v }
    else complete h opCastStore stCastStored { s with bt.flash.cast := { b.put (!b.sel) (some img) with sel := !b.sel } }) s

/-! ### Firmware, bundle and owner records -/

/-- The firmware bank of a type. -/
def fwBank (f : Flash) (type : Nat) : Bank FwImage := if type == 1 then f.hub else if type == 2 then f.core else f.link

/-- Replace the firmware bank of a type. -/
def putFwBank (f : Flash) (type : Nat) (b : Bank FwImage) : Flash :=
  if type == 1 then { f with hub := b } else if type == 2 then { f with core := b } else { f with link := b }

/-- How a staged object is judged for its type (R402, R408). -/
def judgeStaged (s : State) (type len : Nat) : FwObject → Nat
  | .image x => if 1 ≤ type && type ≤ 3 then judgeFw s type (min len (bankBytes type)) x else stSigInvalid
  | .bundle x => if type == 4 then judgeBundle s (min len 0x100000) x else stSigInvalid

/-- Write a staged object into the bank of its type that is not selected. -/
def stageObject (type : Nat) (ok : Bool) (x : FwObject) (s : State) : State :=
  match x with
  | .image i =>
    let b := fwBank s.bt.flash type
    if ok then { s with bt.flash := putFwBank s.bt.flash type (b.put (!b.sel) (some i)) }
    else
      let (v, s1) := tornBank (b.at (!b.sel)) (some i) s
      { s1 with bt.flash := putFwBank s.bt.flash type (b.put (!b.sel) v) }
  | .bundle r =>
    let b := s.bt.flash.bundle
    if ok then { s with bt.flash.bundle := b.put (!b.sel) (some r) }
    else
      let (v, s1) := tornBank (b.at (!b.sel)) (some r) s
      { s1 with bt.flash.bundle := b.put (!b.sel) v }

/-- FW_STAGE: an accepted object goes into the bank not selected for its TYPE; RECOVERY accepts TYPE 1 only (R410, R433). A TYPE beyond 4
is CMD_INVALID (assumption 26). -/
def execFwStage (h : CmdHdr) (type len : Nat) (x : FwObject) (flashOk : Bool) (s : State) : Host.Outcome State Fault Refusal :=
  hostCmd h opFwStage (fun s =>
    if s.boot == .recovery && type != 1 then complete h opFwStage stBootState s
    else if type == 0 || 4 < type then complete h opFwStage stCmdInvalid s
    else
      let st := judgeStaged s type len x
      if st != stOk then complete h opFwStage st s
      else complete h opFwStage (if flashOk then stFwStaged else stFlashFail) (stageObject type flashOk x s)) s

/-- FW_SELECT: a bank for each of types 1 to 4, from the next module reset on (R433). -/
def execFwSelect (h : CmdHdr) (hub core link bundle : Bool) (s : State) : Host.Outcome State Fault Refusal :=
  hostCmd h opFwSelect (fun s =>
    complete h opFwSelect stFwSelected
      { s with
        bt.flash.hub.sel := hub, bt.flash.core.sel := core, bt.flash.link.sel := link, bt.flash.bundle.sel := bundle }) s

/-- REC_GET: the module, owner and bundle records in force go to host memory (R433). -/
def execRecGet (h : CmdHdr) (addr : Nat) (s : State) : Host.Outcome State Fault Refusal :=
  hostCmd h opRecGet (fun s =>
    let f := s.bt.force
    complete h opRecGet stRecDone { s with out.records := (addr, f.modRec, f.owner, f.bundle) :: s.out.records }) s

/-- OWN_INSTALL: an accepted owner record is written into flash; one with another OWNER_ID than the record in force erases both boot
casting slots (R407). -/
def execOwnInstall (h : CmdHdr) (len : Nat) (x : OwnerRec) (flashOk : Bool) (s : State) : Host.Outcome State Fault Refusal :=
  hostCmd h opOwnInstall (fun s =>
    let st := judgeOwner s (min len 0x10000) x
    let same := match s.bt.force.owner with
      | some o => o.owner == x.owner
      | none => false
    if st != stOk then complete h opOwnInstall st s
    else if !flashOk then
      let (v, s1) := tornBank s.bt.flash.owner (some x) s
      complete h opOwnInstall stFlashFail { s1 with bt.flash.owner := v }
    else
      complete h opOwnInstall stOwnStaged
        { s with
          bt.flash.owner := some x
          bt.flash.cast := (if same then s.bt.flash.cast else { s.bt.flash.cast with a := none, b := none }) }) s

/-- Raise a counter to the security version of an object in force (R408). -/
def raiseTo (n : Nat) (x : Option Signed) : Nat :=
  match x with
  | some o => max n o.svn
  | none => n

/-- The counters after RPF_COMMIT (R408). -/
def committed (s : State) : Rpf :=
  let f := s.bt.force
  let c := s.bt.counters
  { hub := raiseTo c.hub (f.hub.map (·.sig)), core := raiseTo c.core (f.core.map (·.sig)), link := raiseTo c.link (f.link.map (·.sig))
    bundle := raiseTo c.bundle (f.bundle.map (·.sig)), modRec := raiseTo c.modRec (f.modRec.map (·.sig))
    owner := raiseTo c.owner (f.owner.map (·.sig)), cast := raiseTo c.cast (s.cast.map (·.sig)) }

/-- RPF_COMMIT: each counter rises to the SVN of the object of its type in force; a device that fails changes none (R408, R409). -/
def execRpfCommit (h : CmdHdr) (ok : Bool) (s : State) : Host.Outcome State Fault Refusal :=
  hostCmd h opRpfCommit (fun s =>
    if !ok then complete h opRpfCommit stRpfFail s
    else complete h opRpfCommit stRpfDone { s with bt.counters := committed s, bt.regs.rpf := committed s }) s

/-! ### Attestation and delivered secrets -/

/-- HUB_BOOT as a word (R434). -/
def hubBootWord (s : State) : Nat :=
  let r := s.bt.regs
  let st := match s.boot with
    | .reset => 0 | .rom => 1 | .recovery => 2 | .hubfw => 3 | .stopped => 4 | .uncast => 5 | .ready => 6
  r.stopCode * 2 ^ 56 + r.lastReset * 2 ^ 52 + st * 2 ^ 48 + r.banks * 2 ^ 32 + b2n r.castFallback * 128 + b2n r.fwFallback * 64 +
    b2n r.unlisted * 32 + b2n r.pufOk * 16 + b2n r.spareKept * 8 + b2n r.rpfOk * 4 + b2n r.castDone * 2 + b2n r.ready

/-- Word `i` of HUB_CORE_FAIL (R434). -/
def coreFailWord (s : State) (i : Nat) : Nat :=
  ((List.range 64).map (fun b => if coreFailed s (64 * i + b) then 2 ^ b else 0)).foldl (· + ·) 0

/-- BODY_DIGEST of an object in force; 0 for none. -/
def digestOf (x : Option Signed) : Nat :=
  match x with
  | some o => o.digest
  | none => 0

/-- The 352 bytes of an attestation report (R428). -/
def attReport (nonce : Nat) (s : State) : List Byte :=
  let f := s.bt.force
  let c := s.bt.counters
  let b := hubBootWord s
  [0x4B, 0x41, 0x54, 0x54] ++ leBytes 2 1 ++ leBytes 2 0 ++ leBytes 8 s.record.serial ++ leBytes 8 s.cue ++ leBytes 32 nonce ++ leBytes 32 (if classKnown s then dclass s else 0) ++
    leBytes 32 (digestOf (f.hub.map (·.sig))) ++ leBytes 32 (digestOf (f.core.map (·.sig))) ++ leBytes 32 (digestOf (f.link.map (·.sig))) ++
    leBytes 32 (digestOf (f.bundle.map (·.sig))) ++ leBytes 32 (digestOf (f.owner.map (·.sig))) ++ leBytes 32 s.bt.regs.digest ++
    ([c.hub, c.core, c.link, c.bundle, c.modRec, c.owner, c.cast].flatMap (leBytes 2)) ++ leBytes 2 0 ++
    ((List.range 5).flatMap (fun i => leBytes 8 (coreFailWord s i))) ++ leBytes 2 s.bt.regs.degraded ++ leBytes 1 (b / 2 ^ 48 % 16) ++
    leBytes 1 s.bt.regs.lastReset ++ leBytes 4 (b % 2 ^ 32) ++ leBytes 8 0

/-- ATT_REPORT: the report and its signature under the identity key go to host memory (R428); without an identity it is refused
(R406). -/
def execAttReport (h : CmdHdr) (nonce addr : Nat) (s : State) : Host.Outcome State Fault Refusal :=
  hostCmd h opAttReport (fun s =>
    if !s.bt.regs.pufOk then complete h opAttReport stPufFail s
    else
      let (n, s1) := s.draw
      complete h opAttReport stAttDone (hostWrite addr (attReport nonce s ++ (List.range 3309).map (Config.signByte n)) s1)) s

/-- The session key of a shared secret (R429): the session number takes one byte. -/
def sessionKey (s : State) (n shared : Nat) : Nat :=
  leNat (shake256 ([0x4B, 0x53, 0x45, 0x53] ++ leBytes 32 shared ++ leBytes 8 s.record.serial ++ leBytes 1 n) 32)

/-- KEY_SESSION: `shared` is the secret that the ciphertext decapsulates to (R429). A session or tenant out of range is CMD_INVALID
(assumption 26). -/
def execKeySession (h : CmdHdr) (n tenant shared : Nat) (s : State) : Host.Outcome State Fault Refusal :=
  hostCmd h opKeySession (fun s =>
    if !s.bt.regs.pufOk then complete h opKeySession stPufFail s
    else if 63 < n || (63 < tenant && tenant != 0xFF) then complete h opKeySession stCmdInvalid s
    else complete h opKeySession stKeyDone
      { s with bt.sessions := mapPut s.bt.sessions n { tenant := tenant, key := sessionKey s n shared, counter := 0 } }) s

/-- The tenant of the troupe that a port's tag maps to; none for a transit tag. -/
def tagTenant (s : State) (e : TagEnt) : Option Nat := if s.hasTroupe e.troupe then some (s.troupe e.troupe).cfg.tenant else none

/-- Does a session bar a secret for a target of a tenant (R430)? -/
def sessionBars (s : State) (n : Nat) (tenant : Option Nat) : Bool :=
  match mapFind s.bt.sessions n with
  | none => true
  | some k => k.tenant != 0xFF && some k.tenant != tenant

/-- The `n` bytes of a number, least significant first, as numbers. -/
def byteNums (n v : Nat) : List Nat := (List.range n).map (fun i => v / 256 ^ i % 256)

/-- The authenticated data of a secret that LR_KEY carries (R430): SERIAL, bytes 0x00 to 0x03 of the wrapped secret, and the command's
target: port, tag and slot in 1, 2 and 1 bytes (assumption 83). -/
def wrapAad (serial p ltag slot : Nat) (w : Wrapped) : List Nat :=
  byteNums 8 serial ++ byteNums 1 w.session ++ byteNums 1 w.purpose ++ byteNums 2 w.rsv ++ byteNums 1 p ++ byteNums 2 ltag ++ byteNums 1 slot

/-- Unwrap a secret under a session key by AES-256-GCM, whose IV is four zero bytes and COUNTER (R430); none where the tag fails. -/
def unwrapSecret (key : Nat) (aad : List Nat) (w : Wrapped) : Option Nat :=
  let iv := List.replicate 4 0 ++ byteNums 8 w.counter
  let plain := (gcmSeal (byteNums 32 key) iv aad (byteNums 32 w.cipher)).1
  let tag := beNum (gcmSeal (byteNums 32 key) iv aad plain).2.reverse
  if w.tag % 2 ^ 128 == tag % 2 ^ 128 then some (beNum plain.reverse) else none

/-- LR_KEY: loads a tag's key slot on a long-reach port and, with ACTIVATE, makes this end encrypt under it from its next frame
(R292); a tag that was stopped is accepted again (R293). The key comes wrapped under a session key (R430). A port, tag, slot or purpose that
there is not is CMD_INVALID (assumption 26). COUNTER is accepted from 1 on. -/
def execLrKey (h : CmdHdr) (p ltag slot : Nat) (activate : Bool) (w : Wrapped) (s : State) : Host.Outcome State Fault Refusal :=
  hostCmd h opLrKey (fun s =>
    let x := s.port p
    match (if 18 ≤ p || x.cfg.role != 3 || 1 < slot || w.purpose != 1 || ltag == 0xFFF then none else x.tagEnt ltag) with
    | none => complete h opLrKey stCmdInvalid s
    | some e =>
      let k := mapGet { tenant := 0xFF } s.bt.sessions w.session
      if sessionBars s w.session (tagTenant s e) then complete h opLrKey stKeySession s
      else if w.counter ≤ k.counter then complete h opLrKey stKeyReplay s
      else
        match unwrapSecret k.key (wrapAad s.record.serial p ltag slot w) w with
        | none => complete h opLrKey stKeyUnwrap s
        | some key =>
          let s1 := { s with bt.sessions := mapPut s.bt.sessions w.session { k with counter := w.counter } }
          let s2 := s1.modPort p (fun x =>
            { x with
              keys := mapPut x.keys (2 * ltag + slot) key, barred := x.barred.filter (fun b => b != 0x1000 + ltag)
              authFails := mapDel x.authFails ltag, active := (if activate then mapPut x.active ltag slot else x.active) })
          let s3 := if tagBarred x ltag then sendLink p 2 "tag_accepted" 0 0 [ltag] s2 else s2
          complete h opLrKey stOk (pump s3)) s

/-! ### Reset (R431) -/

/-- The physical core that holds a logical number. -/
def coreNamed (s : State) (l : Nat) : Option Nat := if l < 256 then coreOfLogical s l else none

/-- Is a troupe in one of some states? -/
def inStates (s : State) (t : Nat) (l : List TrpState) : Bool := t < 64 && l.contains (stateOf s t)

/-- Level 0: a core. -/
def resetOneCore (h : CmdHdr) (target : Nat) (s : State) : State :=
  match coreNamed s target with
  | none => complete h opReset stCmdInvalid s
  | some c =>
    let t := (s.core c).regs.troupe
    if inStates s t [.saving, .restoring, .teardown] then complete h opReset stResetState s
    else
      let s1 := s.modRegs c (fun (r : CoreRegs) => { r with state := .reset, wait := .none, stopping := false, kept := none })
      settleResets { s1 with takers := s1.takers.filter (fun d => d != c), bt.resets := s1.bt.resets ++ [({ hdr := h, cores := [c] } : CoreReset)] }

/-- Has a troupe with a home quad in cluster 4 t + c a state that refuses a reset of the cluster? -/
def clusterBusy (s : State) (cl : Nat) : Bool :=
  (presentTroupes s).any (fun t =>
    inStates s t [.resident, .waitPort, .saving, .restoring] && (List.range 4).any (fun k => bitOf (s.troupe t).cfg.quads (4 * cl + k)))

/-- Level 1: a cluster, 4 t + c. -/
def resetCluster (h : CmdHdr) (cl : Nat) (s : State) : State :=
  if 16 ≤ cl || !bitOf s.record.clusterMask cl then complete h opReset stCmdInvalid s
  else if clusterBusy s cl then complete h opReset stResetState s
  else
    let cs := clusterCores cl
    let s1 := cs.foldl (fun s c =>
      s.modRegs c (fun (r : CoreRegs) =>
        { r with state := (if r.state == .failed then .failed else .reset), wait := .none, stopping := false, kept := none })) s
    settleResets
      { s1 with
        takers := s1.takers.filter (fun d => !cs.contains d), notStarted := s1.notStarted.filter (fun d => !cs.contains d)
        bt.resets := s1.bt.resets ++ [({ hdr := h, cores := cs, cluster := some cl } : CoreReset)] }

/-- Level 2: a troupe, as a teardown (R342). -/
def resetTroupe (h : CmdHdr) (t : Nat) (s : State) : State :=
  if 64 ≤ t || !s.hasTroupe t then complete h opReset stCmdInvalid s
  else settleTears t (s.modTroupe t (fun (x : Troupe) => { x with tears := x.tears ++ [(h, opReset, stResetDone)] }))

/-- Level 3: the module. The completion of the command is written first (R432 step 1); a follower sends it to the lead (R395). -/
def resetModule (h : CmdHdr) (keep : Bool) (s : State) : State :=
  let c : Cpl := { hdr := h, opcode := opReset, status := stResetDone, tDone := s.cue }
  let s1 := if isLead s then (match writeCpl c s with
      | some s2 => s2
      | none => s)
    else sendFab { kind := "completion", dest := (mapGet {} s.thl.ens.table 0).lmid
                   vals := [h.sq, h.slot, h.troupe, h.cmdId, opReset, stResetDone, 0, s.cue] } s
  moduleReset 2 keep s1

/-- RESET: level 0 core, 1 cluster, 2 troupe, 3 module (R431). A level or target that there is not is CMD_INVALID (assumption 26). -/
def execReset (h : CmdHdr) (level target : Nat) (keep : Bool) (s : State) : Host.Outcome State Fault Refusal :=
  hostCmd h opReset (fun s =>
    if level == 0 then resetOneCore h target s
    else if level == 1 then resetCluster h target s
    else if level == 2 then resetTroupe h target s
    else if level == 3 then resetModule h keep s
    else complete h opReset stCmdInvalid s) s

/-- CORE_RETIRE: the physical core of a logical core fails with reason 5, and its cluster is matched again (R419 to R421). -/
def execCoreRetire (h : CmdHdr) (l : Nat) (s : State) : Host.Outcome State Fault Refusal :=
  hostCmd h opCoreRetire (fun s =>
    match coreNamed s l with
    | none => complete h opCoreRetire stCmdInvalid s
    | some c =>
      if inStates s (s.core c).regs.troupe [.resident, .waitPort, .saving, .restoring, .teardown] then complete h opCoreRetire stSwitchState s
      else
        let s1 := failCore 5 s c
        let s2 := match s.cast with
          | none => s1
          | some img =>
            match img.cores.find? (fun (p : ClusterPlan) => (clusterCores p.cluster).contains c) with
            | some p => withholdTroupes img (matchCluster s1 p)
            | none => s1
        complete h opCoreRetire stRetired s2) s

end Sys2Proof.Machine
end

