-- ==== Sys2Proof/Machine/Ckpt.lean ====
section
/-! DEFINITION. The commands of checkpoints (R349 to R368, R373): arming, the cut, the copy, the drain, restore and replica comparison. -/

namespace Sys2Proof.Machine

/-! ### Triggers -/

/-- CKPT_TAKE: the host arms a checkpoint of a job (R349); a job that is not on the module is CMD_INVALID. -/
def execCkptTake (h : CmdHdr) (job : Nat) (s : State) : Host.Outcome State Fault Refusal :=
  hostCmd h opCkptTake (fun s =>
    match jobIndex s job with
    | none => complete h opCkptTake stCmdInvalid s
    | some j => complete h opCkptTake stOk (armJob j s)) s

/-- The window of a cause in bins of 1 s (R351). -/
def watchWindow (c : WatchCause) : Nat :=
  match c with
  | .ce => 60
  | .retry => 1
  | .retrain | .reg | .therm => 3600

/-- The quantity that the error watch measures (R351): the largest count of any one stack or port within the window, the regulator warnings
within theirs, or the module margin (R446). -/
def watchQuantity (s : State) (c : WatchCause) : Int :=
  if c == .therm then s.pwr.margin
  else
    let live := s.ckpt.watch.marks.filter (fun m => m.cause == c && watchSec s.cue < m.sec + watchWindow c)
    live.foldl (fun (a : Int) m => max a ((live.filter (fun k => k.unit == m.unit)).map (fun k => k.n)).sum) 0

/-- Does a measured quantity cross its threshold (R351)? A threshold of 0 disables it; the thermal margin crosses below its
threshold, the others at or above it (assumption 28). RETRY_RATE counts 1,024 flits. -/
def watchCrossed (w : Watch) (c : WatchCause) (v : Int) : Bool :=
  match c with
  | .ce => w.ceRate != 0 && (w.ceRate : Int) ≤ v
  | .retry => w.retryRate != 0 && (w.retryRate * 1024 : Int) ≤ v
  | .retrain => w.retrainHr != 0 && (w.retrainHr : Int) ≤ v
  | .reg => w.regWarn != 0 && (w.regWarn : Int) ≤ v
  | .therm => w.thermMargin != 0 && v < (w.thermMargin : Int)

/-- The cause's bit in WCH_EVT. -/
def watchBit (c : WatchCause) (w : Watch) : Watch :=
  match c with
  | .ce => { w with ce := true }
  | .retry => { w with retry := true }
  | .retrain => { w with retrain := true }
  | .reg => { w with reg := true }
  | .therm => { w with therm := true }

/-- The number of a cause in the event: its bit in WCH_EVT. -/
def causeCode (c : WatchCause) : Nat :=
  match c with
  | .ce => 0 | .retry => 1 | .retrain => 2 | .therm => 3 | .reg => 4

/-- A quantity crosses its threshold (R351): the cause's bit; during the hold-off it is only counted; else CKPT_REQUEST is raised, the
hold-off begins, and with AUTO every job of the module is armed. -/
def crossWatch (c : WatchCause) (s : State) : State :=
  let w := s.ckpt.watch
  let held : Bool := match w.holdUntil with
    | some u => s.cue < u
    | none => false
  if held then { s with ckpt.watch := { watchBit c w with suppCnt := inc16 w.suppCnt } }
  else
    let w' := { watchBit c w with reqCnt := inc16 w.reqCnt, holdUntil := some (s.cue + w.holdoffS * 1000 * cyclesMs) }
    let s1 := raiseModule evCkptRequest (leBytes 1 (causeCode c)) { s with ckpt.watch := w' }
    if w.auto then (s.ckpt.jobs.map (·.1)).foldl (fun s j => armJob j s) s1 else s1

/-- CKPT_REQUEST: the error watch's quantity of a cause crosses its threshold (R351). -/
def execCkptRequest (c : WatchCause) (s : State) : Host.Outcome State Fault Refusal :=
  engine (fun s => if watchCrossed s.ckpt.watch c (watchQuantity s c) then crossWatch c s else s) s

/-- HOLDOFF_EXPIRY: HOLDOFF_S seconds have passed since CKPT_REQUEST (R351). -/
def execHoldoffExpiry (s : State) : Host.Outcome State Fault Refusal :=
  engine (fun s =>
    match s.ckpt.watch.holdUntil with
    | some u => if u ≤ s.cue then { s with ckpt.watch.holdUntil := none } else s
    | none => s) s

/-! ### The drain's end and the coordinator -/

/-- The coordinator's held arm is taken once the drain of every module has ended (R352, R363). -/
def releaseHeld (j : Nat) (s : State) : State :=
  match s.job? j with
  | none => s
  | some x =>
    if !x.waitDrain.isEmpty then s
    else
      let s1 := s.modJob j (fun y => { y with st := .idle })
      if x.held && !substituting s1 then takeArm j s1 else s1

/-- Module `l`'s drain has ended, at the coordinator. -/
def drainEnded (j l : Nat) (s : State) : State :=
  match s.job? j with
  | none => s
  | some x =>
    if x.st == .copying && l == s.lmid || x.waitDrain.isEmpty then s
    else
      let s1 := s.modJob j (fun y => { y with waitDrain := y.waitDrain.filter (fun m => m != l) })
      if x.st == .draining then releaseHeld j s1 else s1

/-- This module's drain of job `j` ends (R363): buffers that were not filled complete with no bytes; the coordinator learns of it. -/
def endDrain (j : Nat) (s : State) : State :=
  match s.job? j with
  | none => s
  | some x =>
    let rec_ := leBytes 8 x.no ++ leBytes 2 s.lmid ++ leBytes 6 0 ++ leBytes 8 x.drained ++ leBytes 8 0
    let s1 := x.bufs.foldl (fun s b => completeRec b.hdr opCkptBuf stOk rec_ s) s
    let s2 := s1.modJob j (fun y => { y with bufs := [], st := (if coordinates s x then .draining else .idle) })
    if coordinates s x then drainEnded j s.lmid s2
    else sendFab { kind := "ckpt_drained", dest := (jobRoot s x).1, vals := [x.plan.job, s.lmid] } s2

/-- CKPT_ARM: a hub control message of job `j`: an arm at the coordinator, the coordinator's order at another module, or the end of
a module's drain at the coordinator (R349, R352, R363). -/
def execCkptArm (j : Nat) (m : JobMsg) (s : State) : Host.Outcome State Fault Refusal :=
  engine (fun s =>
    match s.job? j with
    | none => s
    | some x =>
      match m with
      | .arm => if coordinates s x then coordArm j s else s
      | .armed n => if coordinates s x || x.st != .idle then s else s.modJob j (fun y => { y with st := .armed, no := n % 2 ^ 32 })
      | .drained l => if coordinates s x then drainEnded j l s else s) s

/-! ### The cut -/

/-- The armed job of troupe `t` for which it has not reached its cut point. -/
def armedJob (s : State) (t : Nat) : Option (Nat × Job) :=
  s.ckpt.jobs.find? (fun e => e.2.plan.troupes.any (fun p => p.t == t) && e.2.st == .armed && !e.2.atCut.contains t)

/-- Are all cores of troupe `t` idle or halted? -/
def coresQuiet (s : State) (t : Nat) : Bool :=
  (troupeCores s t).all (fun c => (s.core c).regs.state == .idle || (s.core c).regs.state == .halted)

/-- Has a learner troupe reached its cut point (R353)? -/
def learnerAtCut (s : State) (t : Nat) : Bool :=
  let l := s.lrn t
  !l.midStep && l.posted.isNone && l.heldPost.isEmpty && l.near.all (fun r => r.cmds.isEmpty) && !l.armed && l.flying.isNone && coresQuiet s t

/-- Has troupe `t` reached its cut point (R353)? -/
def reachesCut (s : State) (t : Nat) : Bool :=
  let x := s.troupe t
  match x.regs.state with
  | .off => true
  | .resident | .waitPort =>
    if x.regs.role == 2 then learnerAtCut s t
    else if x.gen.cfg.present then (match x.gen.step with
      | some st => st.committed
      | none => true)
    else x.regs.role != 3 || coresQuiet s t
  | _ => false

/-- The end of a generator's step before the cut: registrations and releases (R141, R353). -/
def endStep (t : Nat) (s : State) : State :=
  if (s.gen t).cfg.present && stateOf s t != .off then
    let s1 := boundaryRegister t s
    (((s1.gen t).slots.map (·.1)).foldl (boundaryRelease t) s1).modGen t (fun (g : Gen) => { freeHeld g with step := none })
  else s

/-! ### Replica comparison (R368) -/

/-- Do the learner troupes of the job here stand at a cut point (R353)? -/
def learnersQuiet (s : State) (x : Job) : Bool :=
  x.plan.troupes.all (fun p => !(s.lrn p.t).cfg.present || (s.troupe p.t).regs.state == .off || learnerAtCut s p.t)

/-- Does troupe `t` stand at a cut point for a comparison: a learner at its cut, or OFF? -/
def cmpStands (s : State) (t : Nat) : Bool := (s.lrn t).cfg.present && ((s.troupe t).regs.state == .off || learnerAtCut s t)

/-- The rank of a troupe of this module in the job's group. -/
def rankHere (s : State) (x : Job) (t : Nat) : Nat :=
  match jobTree s x with
  | some (_, g, _) => (rankOf g s.lmid t).getD 0xFFFF
  | none => 0

/-- The digests of the REPL ranges of this module's learner troupes. -/
def ownRepl (s : State) (x : Job) : List ReplDigest :=
  (x.plan.troupes.filter (fun p => (s.lrn p.t).cfg.present)).map (fun p =>
    { rank := rankHere s x p.t, lmid := s.lmid, digest := shardDigest (rangeBytes s p.t [p.repl]) })

/-- How many of the digests equal `d`. -/
def votes (ds : List ReplDigest) (d : Nat) : Nat := (ds.filter (fun e => e.digest == d)).length

/-- The digest held by most troupes, a tie going to the one of the lowest rank (R368). -/
def majority (ds : List ReplDigest) : Option ReplDigest :=
  ds.foldl (fun m e => match m with
    | none => some e
    | some b =>
      let low := fun (d : Nat) => (ds.filter (fun y => y.digest == d)).foldl (fun n y => if y.rank < n then y.rank else n) 0x10000
      if votes ds b.digest < votes ds e.digest || (votes ds b.digest == votes ds e.digest && low e.digest < low b.digest) then some e else some b) none

/-- The bytes of θ, m and v of the blocks from `a` to `b` of binding `i` at troupe `t`. -/
def mirrorBytes (s : State) (t i a b : Nat) : List Byte :=
  let l := s.lrn t
  let sh := nth {} l.shards i
  let gr := nth {} l.groups (nth {} l.binds i).group
  let part := fun (base fmt : Nat) => rangeBytes s t [(base + (a - sh.first) * 32 * stateSize fmt, (b - a) * 32 * stateSize fmt)]
  part sh.theta gr.mfmt ++ part sh.m gr.ofmt ++ (if sh.v == 0 then [] else part sh.v gr.ofmt)

/-- Do the block ranges that troupe `t` and its mirror `u` on this module both hold agree? -/
def mirrorAgrees (s : State) (t u : Nat) : Bool :=
  (List.range (s.lrn t).binds.length).all (fun i =>
    let x := nth {} (s.lrn t).shards i
    let y := nth {} (s.lrn u).shards i
    let a := if x.first ≤ y.first then y.first else x.first
    let b := if x.first + x.nblk ≤ y.first + y.nblk then x.first + x.nblk else y.first + y.nblk
    b ≤ a || shardDigest (mirrorBytes s t i a b) == shardDigest (mirrorBytes s u i a b))

/-- The LMIDs of mirror pairs on this module that differ. -/
def ownMirrors (s : State) (x : Job) : List Nat :=
  x.plan.troupes.flatMap (fun p => match p.mirror with
    | some (l, u) => if l == s.lmid && !mirrorAgrees s p.t u then [s.lmid] else []
    | none => [])

/-- LMIDs without repeats, in ascending order. -/
def distinct (ls : List Nat) : List Nat := (ls.foldl (fun m l => mapPut m l ()) ([] : Map Unit)).map (·.1)

/-- The comparison of a job's digests (R368). -/
def compareJob (x : Job) (c : Compare) (s : State) : State :=
  let ds := ownRepl s x ++ c.others
  let odd := match majority ds with
    | some m => (ds.filter (fun d => d.digest != m.digest)).map (fun d => d.lmid)
    | none => []
  let bad := distinct (odd ++ ownMirrors s x ++ c.pairs.flatMap (fun p => [p.1, p.2]))
  if bad.isEmpty then complete c.hdr opRplCompare stReplicaMatch s
  else
    let body := (bad.take 32).flatMap (leBytes 2)
    raiseModule evReplicaDiff (leBytes 2 x.plan.job ++ (bad.take 19).flatMap (leBytes 2))
      (completeRec c.hdr opRplCompare stReplicaDiff (body ++ List.replicate (64 - body.length) 0xFF) s)

/-- A troupe that stands at a cut point is held for the comparisons that wait for it; once all learner troupes of the job stand there they run,
and the troupes go on (R368). -/
def settleCompare (t : Nat) (s : State) : State :=
  s.ckpt.jobs.foldl (fun s e =>
    let x := e.2
    if x.cmp.isEmpty || !x.plan.troupes.any (fun p => p.t == t) then s
    else if learnersQuiet s x then
      x.cmp.foldl (fun s c => compareJob x c s) (s.modJob e.1 (fun y => { y with cmp := [], cmpAt := [] }))
    else s.modJob e.1 (fun y => { y with cmpAt := (y.plan.troupes.map (·.t)).filter (cmpStands s) })) s

/-! ### The cut point -/

/-- CKPT_CUT_POINT: troupe `t` reaches its cut point, and the hub arrives at CKBAR for it, with a learner's step (R353, R354); one that has no
cut to reach stands there for a replica comparison (R368). -/
def execCkptCutPoint (t : Nat) (s : State) : Host.Outcome State Fault Refusal :=
  engine (fun s =>
    match armedJob s t with
    | none => settleCompare t s
    | some (j, x) =>
      if !reachesCut s t then s
      else
        let cut := x.atCut ++ [t]
        let all := x.plan.troupes.all (fun p => cut.contains p.t)
        let s1 := (endStep t s).modJob j (fun y => { y with atCut := cut, st := (if all then .paused else .armed) })
        let l := s1.lrn t
        memberArrive t x.plan.bar (if l.cfg.present then some (l.regs.step, l.regs.step) else none) s1) s

/-- The release of job `x`'s cut when every one of its troupes here has it and its count has come. -/
def cutRelease (s : State) (x : Job) : Option (Nat × Option (Nat × Nat)) :=
  match x.plan.troupes with
  | [] => none
  | p :: _ =>
    match (s.bar p.t x.plan.bar).tRel with
    | none => none
    | some r =>
      if r ≤ s.cue && x.plan.troupes.all (fun q => (s.bar q.t x.plan.bar).tRel == some r) then some (r, (s.bar p.t x.plan.bar).relSteps)
      else none

/-- The image of a cut (R355, R360). -/
def cutImage (s : State) (x : Job) (rel : Nat) (steps : Option (Nat × Nat)) : CkptImage :=
  let ps := (jobPieces s x).map (fun p => { p with digest := shardDigest p.stored })
  let (step, skew) := match steps with
    | some (a, b) => (a, a != b)
    | none => (x.no, false)
  { job := x.plan.job, lmid := s.lmid, no := x.no, step := step, tCut := rel, skewed := skew, narrow := ps.any Piece.narrow,
    dclass := dclass s, castDigest := s.bt.regs.digest, cursor := x.cursor, pieces := ps }

/-- The nodes of a job's barrier move to their next instance. -/
def passBarrier (x : Job) (s : State) : State :=
  x.plan.troupes.foldl (fun s p => s.setBar p.t x.plan.bar (nextInstance (s.bar p.t x.plan.bar))) s

/-- CKPT_CUT: at T_REL the module captures its register pieces, sets its pending bits, and its troupes resume (R355, R356). -/
def execCkptCut (j : Nat) (s : State) : Host.Outcome State Fault Refusal :=
  engine (fun s =>
    match s.job? j with
    | none => s
    | some x =>
      if x.st != .paused then s
      else
        match cutRelease s x with
        | none => s
        | some (rel, steps) =>
          let i := cutImage s x rel steps
          let pages := savePages s x
          let s1 := putMeta j (512 + 128 * i.pieces.length) (regBytes i) (passBarrier x s)
          let s2 := s1.modJob j (fun y =>
            { y with cursor := y.later.getD y.cursor, later := none, st := .copying, step := i.step, tCut := rel, cut := true, atCut := [], pages := pages, bad := false, image := some i
                     drained := 0, waitDrain := (if coordinates s x then jobLmids s x else []) })
          let s3 := { s2 with mem.pages := s2.mem.pages ++ pages.filter (fun p => !s2.mem.pages.contains p) }
          (List.range 20).foldl (fun s n =>
            if pages.any (fun p => p / 12288 == n) then s.modStack n (fun (k : Stack) => { k with snapBusy := true }) else s) s3) s

/-- Is a cut to be aborted: a module of the job is marked failed, or a troupe of it is torn down (R355)? -/
def cutBroken (s : State) (x : Job) : Bool :=
  (jobLmids s x).any (fun l => lmidState s l == 3) || x.plan.troupes.any (fun p => stateOf s p.t == .teardown)

/-- A cancelled cut: its barrier's nodes stand as before the arrivals, and the troupes resume. -/
def dropCut (j : Nat) (x : Job) (s : State) : State :=
  (x.plan.troupes.foldl (fun s p =>
    let n := s.bar p.t x.plan.bar
    s.setBar p.t x.plan.bar { instNo := n.instNo, lastRel := n.lastRel }) s).modJob j (fun y => { y with st := .idle, atCut := [] })

/-- CKPT_ABORT: before T_REL a member failure or a teardown, or the coordinator's message, cancels the cut (R355). -/
def execCkptAbort (j : Nat) (ordered : Bool) (s : State) : Host.Outcome State Fault Refusal :=
  engine (fun s =>
    match s.job? j with
    | none => s
    | some x =>
      if (x.st == .armed || x.st == .paused) && (ordered || cutBroken s x) then
        let s1 := (dropCut j x s).modJob j (fun y => { y with abort := true, abortCnt := inc16 y.abortCnt })
        let s2 := raiseModule evCkptAbort (leBytes 2 x.plan.job) s1
        if coordinates s x then sendJob x "ckpt_abort" [] s2
        else if ordered then s2
        else sendFab { kind := "ckpt_abort", dest := (jobRoot s x).1, vals := [x.plan.job] } s2
      else s) s

/-! ### The copy (R356 to R358) -/

/-- The page that the copier of stack `n` takes next: the one that has stalled a write first, else the lowest (R356, R357). -/
def nextPage (s : State) (n : Nat) : Option Nat :=
  match s.mem.stalled.find? (fun w => w.key / 12288 == n && s.mem.pages.contains w.key) with
  | some w => some w.key
  | none => (s.mem.pages.filter (fun p => p / 12288 == n)).foldl (fun m p => match m with
    | none => some p
    | some q => some (if p < q then p else q)) none

/-- The units of a job's save set that lie in a stack page. -/
def pageUnits (s : State) (x : Job) (key : Nat) : List Nat :=
  (jobMem s x).flatMap (fun r => (unitsOf r.1 r.2).filter (fun u => stackPage s u == key))

/-- Copy stack page `key` for one job that has it in its image: the job's page is done, and it is bad if a unit of it is poisoned (R356). -/
def copyFor (key : Nat) (s : State) (e : Nat × Job) : State :=
  if e.2.pages.contains key then
    let us := pageUnits s e.2 key
    let bad := us.any (unitLost s)
    let s1 := s.modJob e.1 (fun y => { y with pages := y.pages.filter (fun p => p != key), bad := y.bad || bad })
    us.foldl (fun s u => chargeStacks (pageOwner s u) 64 0 s) (match e.2.image with
      | some i => copyPage e.1 key i s1
      | none => s1)
  else s

/-- The targets that the copy of stack page `key` reads, for all jobs that have it in their image. -/
def copyReads (s : State) (key : Nat) : List (Loc × Nat) :=
  (s.ckpt.jobs.filter (fun e => e.2.pages.contains key)).flatMap (fun e => (pageUnits s e.2 key).map (fun u => (Loc.mem u, 64)))

/-- SNAPSHOT_PAGE_COPY: the copier of stack `n` copies its next page and clears its bit (R356); a poisoned unit spoils the image
(R358); reads are charged to the page's troupe (R331). -/
def execSnapshotPageCopy (n : Nat) (s : State) : Host.Outcome State Fault Refusal :=
  engine (fun s =>
    match nextPage s n with
    | none => s
    | some key =>
      let s1 := s.ckpt.jobs.foldl (copyFor key) (findErrors (copyReads s key) { s with mem.pages := s.mem.pages.filter (fun p => p != key) })
      if s1.mem.pages.any (fun p => p / 12288 == n) then s1 else s1.modStack n (fun (k : Stack) => { k with snapBusy := false })) s

/-- What follows a stalled write: a descriptor of this module that met a poisoned unit, and acknowledgements (R250, R286). -/
def afterStalled (w : Stalled) (bad : Bool) (s : State) : State :=
  match w.owner with
  | .none => s
  | .desc c id => if bad then setStage c id (.done stMemUe) s else s
  | .remote _ _ _ => settleAcks s

/-- STALLED_WRITE_PROCEED: the oldest write whose page's bit has cleared proceeds (R357). -/
def execStalledWriteProceed (s : State) : Host.Outcome State Fault Refusal :=
  engine (fun s =>
    match s.mem.stalled.find? (fun w => !s.mem.pages.contains w.key) with
    | none => s
    | some w =>
      let (m, bad) := storeUnits { s.mem with stalled := s.mem.stalled.erase w } w.addr w.bytes
      settleMaps (afterStalled w bad { s with mem := m })) s

/-- CKPT_S0_DONE: every page is copied and every piece digested: the manifest is written with COMPLETE, or without it where a
source unit was poisoned (R358); a complete image drains (R362). -/
def execCkptS0Done (j : Nat) (s : State) : Host.Outcome State Fault Refusal :=
  engine (fun s =>
    match s.job? j with
    | none => s
    | some x =>
      if x.st != .copying || !x.pages.isEmpty then s
      else if x.bad then
        let s0 := match x.image with
          | some i => putMeta j 0 (manifestBytes (sealImage s i)) s
          | none => s
        endDrain j (raiseModule evCkptUe (leBytes 2 x.plan.job ++ leBytes 4 x.no) (s0.modJob j (fun y => { y with ue := true, st := .draining })))
      else
        let img := x.image.map (fun (i : CkptImage) => sealImage s { i with complete := true })
        let s1 := raiseModule evCkptS0Done (leBytes 2 x.plan.job ++ leBytes 4 x.no)
          (s.modJob j (fun y => { y with st := .draining, s0Done := true, image := img }))
        match img with
        | some i => i.pieces.foldl (fun s p => if p.isReg then s else chargeStacks p.troupe 0 p.stored.length s) (putMeta j 0 (manifestBytes i) s1)
        | none => s1) s

/-! ### The drain (R361 to R363) -/

/-- The image that job `x` drains. -/
def drainBytes (s : State) (x : Job) : List Byte :=
  match x.image with
  | some i => imageBytes s i
  | none => []

/-- CKPT_BUF: a host buffer for the drain of a checkpoint; its length is a multiple of 4 KiB (R362). A job, number or length that is
not right is CMD_INVALID (assumption 28). -/
def execCkptBuf (h : CmdHdr) (job no addr len : Nat) (s : State) : Host.Outcome State Fault Refusal :=
  hostCmd h opCkptBuf (fun s =>
    match jobIndex s job with
    | none => complete h opCkptBuf stCmdInvalid s
    | some j =>
      match s.job? j with
      | none => complete h opCkptBuf stCmdInvalid s
      | some x =>
        if len % 4096 != 0 || len == 0 || x.no != no || !(x.st == .copying || x.st == .draining) then complete h opCkptBuf stCmdInvalid s
        else s.modJob j (fun y => { y with bufs := y.bufs ++ [({ hdr := h, addr := addr, len := len } : DrainBuf)] })) s

/-- CKPT_BUFFER_FILLED: the oldest buffer is filled with the next bytes of the image and completes with its record (R362). -/
def execCkptBufferFilled (j : Nat) (s : State) : Host.Outcome State Fault Refusal :=
  engine (fun s =>
    match s.job? j with
    | none => s
    | some x =>
      match x.bufs with
      | [] => s
      | b :: bs =>
        if x.st != .draining then s
        else
          let data := ((drainBytes s x).drop x.drained).take b.len
          let rec_ := leBytes 8 x.no ++ leBytes 2 s.lmid ++ leBytes 6 0 ++ leBytes 8 x.drained ++ leBytes 8 data.length
          completeRec b.hdr opCkptBuf stOk rec_
            (hostWrite b.addr data (s.modJob j (fun y => { y with bufs := bs, drained := y.drained + data.length })))) s

/-- CKPT_STORED: the checkpoint is in the shared store; refused with CKPT_PARTIAL before the last buffer has completed (R363). -/
def execCkptStored (h : CmdHdr) (job no : Nat) (s : State) : Host.Outcome State Fault Refusal :=
  hostCmd h opCkptStored (fun s =>
    match jobIndex s job with
    | none => complete h opCkptStored stCmdInvalid s
    | some j =>
      match s.job? j with
      | none => complete h opCkptStored stCmdInvalid s
      | some x =>
        if x.no != no || !(x.st == .copying || x.st == .draining) then complete h opCkptStored stCmdInvalid s
        else if x.st == .copying || x.drained < (drainBytes s x).length then complete h opCkptStored stCkptPartial s
        else
          complete h opCkptStored stOk
            (endDrain j (raiseModule evCkptStored (leBytes 2 job ++ leBytes 4 no) (s.modJob j (fun y => { y with s1Done := true }))))) s

/-- CKPT_DISCARD: the drain stops, and stratum 0 stays undrained (R363). -/
def execCkptDiscard (h : CmdHdr) (job no : Nat) (s : State) : Host.Outcome State Fault Refusal :=
  hostCmd h opCkptDiscard (fun s =>
    match jobIndex s job with
    | none => complete h opCkptDiscard stCmdInvalid s
    | some j =>
      match s.job? j with
      | none => complete h opCkptDiscard stCmdInvalid s
      | some x =>
        if x.no != no || x.st != .draining then complete h opCkptDiscard stCmdInvalid s
        else complete h opCkptDiscard stOk (endDrain j s)) s

/-- CKPT_CURSOR: the host's 64 bytes are recorded in the next cut; from T_REL on the cut whose release is due is not it (R361). -/
def execCkptCursor (h : CmdHdr) (job : Nat) (bytes : List Byte) (s : State) : Host.Outcome State Fault Refusal :=
  hostCmd h opCkptCursor (fun s =>
    match jobIndex s job with
    | none => complete h opCkptCursor stCmdInvalid s
    | some j => complete h opCkptCursor stOk (s.modJob j (fun y =>
        if y.st == .paused && (cutRelease s y).isSome then { y with later := some (bytes.take 64) }
        else { y with cursor := bytes.take 64 }))) s

/-! ### Restore (R364 to R367) -/

/-- What a restore has counted so far: `fails` are the entries of the step being tried that failed. -/
structure RestoreRun where
  s     : State
  fails : Nat := 0
  last  : Nat := 0xFFFF
  tried : Nat := 0
  used  : List CatEntry := []

/-- A checkpoint of job `j` in progress is abandoned: an armed cut is cancelled, a copy or a drain stops (R364). -/
def abandonCkpt (j : Nat) (s : State) : State :=
  match s.job? j with
  | none => s
  | some x =>
    let rec_ := leBytes 8 x.no ++ leBytes 2 s.lmid ++ leBytes 6 0 ++ leBytes 8 x.drained ++ leBytes 8 0
    let s1 := x.bufs.foldl (fun s b => completeRec b.hdr opCkptBuf stOk rec_ s) (if x.st == .armed || x.st == .paused then dropCut j x s else s)
    let s2 := s1.modJob j (fun y => { y with st := .idle, atCut := [], pages := [], bufs := [], waitDrain := [], held := false })
    let s3 := { s2 with mem.pages := s2.mem.pages.filter (fun p => !x.pages.contains p || s2.ckpt.jobs.any (fun e => e.2.pages.contains p)) }
    (List.range 20).foldl (fun s n =>
      if s.mem.pages.any (fun p => p / 12288 == n) then s else s.modStack n (fun (k : Stack) => { k with snapBusy := false })) s3

/-- apply_one for this module's own LMID: the first qualifying entry whose pieces are all written (R365). -/
def applyOwn (x : Job) (n : Nat) : List CatEntry → RestoreRun → RestoreRun × Bool
  | [], r => (r, false)
  | e :: es, r =>
    match e.image with
    | none => applyOwn x n es { r with fails := r.fails + 1, last := e.lmid }
    | some i =>
      if !manifestOk r.s x n i then applyOwn x n es { r with fails := r.fails + 1, last := e.lmid }
      else
        let (s1, ok) := writePieces x i.pieces r.s
        if ok then ({ r with s := s1, used := e :: r.used }, true)
        else applyOwn x n es { r with s := s1, fails := r.fails + 1, last := e.lmid }

/-- apply_one for another module's LMID: as the entries say. -/
def applyOther : List CatEntry → RestoreRun → RestoreRun × Bool
  | [], r => (r, false)
  | e :: es, r => if e.ok then ({ r with used := e :: r.used }, true) else applyOther es { r with fails := r.fails + 1, last := e.lmid }

/-- The entries of a step and LMID, SOURCE 0 first (R365). -/
def entriesFor (cat : List CatEntry) (n l : Nat) : List CatEntry :=
  let es := cat.filter (fun e => e.step == n && e.lmid == l)
  es.filter (fun e => e.source == 0) ++ es.filter (fun e => e.source != 0)

/-- Apply step `n` at the LMIDs in ascending order, until one fails. -/
def applyStep (x : Job) (cat : List CatEntry) (n : Nat) : List Nat → RestoreRun → RestoreRun × Bool
  | [], r => (r, true)
  | l :: ls, r =>
    let es := entriesFor cat n l
    let (r1, ok) := if l == r.s.lmid then applyOwn x n es r else applyOther es r
    if ok then applyStep x cat n ls r1 else (r1, false)

/-- Try steps in descending order (R365). -/
def trySteps (x : Job) (cat : List CatEntry) (lmids : List Nat) : List Nat → RestoreRun → RestoreRun × Option Nat
  | [], r => (r, none)
  | n :: ns, r =>
    let (r1, ok) := applyStep x cat n lmids { r with tried := r.tried + 1, used := [], fails := 0 }
    if ok then (r1, some n) else trySteps x cat lmids ns r1

/-- The steps of a catalogue in descending order, without repeats. -/
def catSteps (cat : List CatEntry) : List Nat := ((cat.foldl (fun m e => mapPut m e.step ()) ([] : Map Unit)).map (·.1)).reverse

/-- The 64-byte completion record of a restore (R367). -/
def restoreRecord (job status : Nat) (dc : Bool) (s0 s1 step no tried ignored now last : Nat) : List Byte :=
  leBytes 2 job ++ leBytes 1 (status % 256) ++ leBytes 1 (b2n dc) ++ leBytes 2 s0 ++ leBytes 2 s1 ++ leBytes 8 step ++ leBytes 8 no ++
    leBytes 4 tried ++ leBytes 4 ignored ++ leBytes 8 now ++ leBytes 2 last ++ leBytes 22 0

/-- A restore refused before it began. -/
def refuseRestore (h : CmdHdr) (job status : Nat) (s : State) : State :=
  completeRec h opCkptRestore status (restoreRecord job status false 0 0 0 0 0 0 s.cue 0xFFFF) s

/-- The SOURCE 0 entry of this module's manifest for the job (R364). -/
def ownEntry (x : Job) : List CatEntry :=
  match x.image with
  | some i => [{ step := i.step, lmid := i.lmid, source := 0, image := some i }]
  | none => []

/-- Restore job `j` from a catalogue (R364 to R367). -/
def restoreJob (h : CmdHdr) (j : Nat) (x : Job) (cat : List CatEntry) (s : State) : State :=
  let all := cat ++ ownEntry x
  let s0 := abandonCkpt j s
  let (r, done) := trySteps x all (jobLmids s x) (catSteps all) { s := s0 }
  match done with
  | none =>
    completeRec h opCkptRestore stRestoreMixed
      (restoreRecord x.plan.job stRestoreMixed false 0 0 0 0 r.tried all.length r.s.cue r.last) r.s
  | some n =>
    let own := r.used.find? (fun e => e.lmid == s.lmid)
    let img := match own with
      | some e => e.image
      | none => none
    let (dc, no) := match img with
      | some i => (i.dclass, i.no)
      | none => (dclass s, x.no)
    let s1 := x.plan.troupes.foldl (fun s p => restoredTroupe dc p.t s) r.s
    let ignored := (all.filter (fun e => e.step != n)).length + r.fails
    completeRec h opCkptRestore stRestoreDone
      (restoreRecord x.plan.job stRestoreDone (dc != dclass s) (r.used.filter (fun e => e.source == 0)).length
        (r.used.filter (fun e => e.source != 0)).length n no r.tried ignored s1.cue r.last)
      (sendJob x "ckpt_restored" [n] s1)

/-- CKPT_RESTORE: restores a job from the newest step whose images all apply (R364 to R367). The catalogue's entries come with
their images, and with the SOURCE 0 entries of the job's other modules; `busy` says that a core of the job runs on another module. -/
def execCkptRestore (h : CmdHdr) (job : Nat) (cat : List CatEntry) (busy : Bool) (s : State) : Host.Outcome State Fault Refusal :=
  hostCmd h opCkptRestore (fun s =>
    match jobIndex s job with
    | none => complete h opCkptRestore stCmdInvalid s
    | some j =>
      match s.job? j with
      | none => complete h opCkptRestore stCmdInvalid s
      | some x =>
        if busy || x.plan.troupes.any (fun p => (troupeCores s p.t).any (fun c => (s.core c).regs.state == .running)) then
          refuseRestore h job stSwitchState s
        else if !cat.all (fun e => e.layoutOk && e.source ≤ 1) then refuseRestore h job stCatalogueInvalid s
        else restoreJob h j x cat s) s

/-! ### The command of a replica comparison (R368) -/

/-- RPL_COMPARE: the digests of the job's learner troupes are compared (R368). `others` are the digests that the job's other modules
report over CKBAR's tree, `pairs` the LMIDs of mirror pairs across modules that differ. The command waits until every learner troupe here
stands at a cut point, and no list starts on those that do. -/
def execRplCompare (h : CmdHdr) (job : Nat) (others : List ReplDigest) (pairs : List (Nat × Nat)) (s : State) :
    Host.Outcome State Fault Refusal :=
  hostCmd h opRplCompare (fun s =>
    match jobIndex s job with
    | none => complete h opRplCompare stCmdInvalid s
    | some j =>
      match s.job? j with
      | none => complete h opRplCompare stCmdInvalid s
      | some x =>
        let c : Compare := { hdr := h, others := others, pairs := pairs }
        if learnersQuiet s x then compareJob x c s
        else s.modJob j (fun y => { y with cmp := y.cmp ++ [c], cmpAt := (y.plan.troupes.map (·.t)).filter (cmpStands s) })) s

/-! ### Counters (R373) -/

/-- WCH_EVT_CLR: both counters of WCH_EVT return to 0. -/
def execWchEvtClr (s : State) : Host.Outcome State Fault Refusal :=
  regWrite (fun s => { s with ckpt.watch.reqCnt := 0, ckpt.watch.suppCnt := 0 }) s

/-- WCH_CKPT_EVT_CLR: the three counters of a job's WCH_CKPT_EVT return to 0. -/
def execWchCkptEvtClr (j : Nat) (s : State) : Host.Outcome State Fault Refusal :=
  regWrite (fun s => s.modJob j (fun y => { y with abortCnt := 0, heldCnt := 0, stallCnt := 0 })) s

end Sys2Proof.Machine
end

