-- ==== Sys2Proof/Machine/Flint.lean ====
section
/-! DEFINITION. The FLINT class (R152 to R159) and the commands on a troupe's Flint registers (R160). -/

namespace Sys2Proof.Machine

/-- The frame of a FLINT instruction: the VL rule, then the body, which gives the core after it (R153). -/
def flintIssue (c : Nat) (w : VecWord) (cycles : Nat) (body : State → Core → Core) (s : State) :
    Host.Outcome State Fault Refusal :=
  coreIssue c w.nd (fun s =>
    if !vlOk w then .refuse rfOpInvalid
    else .ok (chargeVec c cycles (s.setCore c (body s (s.core c))))) s

/-- The field of width `n` that element `e` of the instruction draws (R150, R153). -/
def drawn (s : State) (c : Nat) (w : VecWord) (n e : Nat) : Nat :=
  let k := s.core c
  flintField (coreKey s c) (k.fGet w.sri).toNat ((k.sGet w.six).toNat + e) n

/-- FSTR: stream register f(SRI) becomes s(SIX) (R152). -/
def execFstr (c : Nat) (w : VecWord) (s : State) : Host.Outcome State Fault Refusal :=
  flintIssue c w 1 (fun _ k => { k with f := mapPut k.f w.sri (k.sGet w.six) }) s

/-- FRAW: raw fields of 8, 16 or 32 bits (R153). -/
def execFraw (c : Nat) (w : VecWord) (s : State) : Host.Outcome State Fault Refusal :=
  coreIssue c w.nd (fun s =>
    let code := w.imm % 4
    if !vlOk w || code == 3 then .refuse rfOpInvalid
    else .ok (chargeVec c (ceilDiv w.vl 64)
      (s.setCore c (vecWrite (s.core c) w (fun e => BitVec.ofNat 32 (drawn s c w (8 * 2 ^ code) e)))))) s

/-- FUNI: uniform values (R154). -/
def execFuni (c : Nat) (w : VecWord) (s : State) : Host.Outcome State Fault Refusal :=
  flintIssue c w (ceilDiv w.vl 64) (fun s k => vecWrite k w (fun e => uniformOf (drawn s c w 32 e))) s

/-- FBER: 1.0 when the 16-bit field is below the threshold in IMM, else +0.0 (R158). -/
def execFber (c : Nat) (w : VecWord) (s : State) : Host.Outcome State Fault Refusal :=
  coreIssue c w.nd (fun s =>
    if !vlOk w || 65536 < w.imm then .refuse rfOpInvalid
    else .ok (chargeVec c (ceilDiv w.vl 64)
      (s.setCore c (vecWrite (s.core c) w (fun e => if drawn s c w 16 e < w.imm then f32One else 0))))) s

/-- FGUM: Gumbel values (R156). -/
def execFgum (c : Nat) (w : VecWord) (s : State) : Host.Outcome State Fault Refusal :=
  flintIssue c w (ceilDiv w.vl 16) (fun s k => vecWrite k w (fun e => gumbelOf (drawn s c w 32 e))) s

/-- FNRM: standard normal values (R157). -/
def execFnrm (c : Nat) (w : VecWord) (s : State) : Host.Outcome State Fault Refusal :=
  flintIssue c w (ceilDiv w.vl 16) (fun s k => vecWrite k w (fun e => normalOf (drawn s c w 32 e))) s

/-- The better of two candidates (sum, logical index): the larger sum, then the lower index (R159). -/
def discBetter (x y : F32 × Nat) : F32 × Nat :=
  if f32Lt x.1 y.1 then y
  else if f32Lt y.1 x.1 then x
  else if y.2 < x.2 then y else x

/-- The best of a list of candidates. -/
def discBest : List (F32 × Nat) → Option (F32 × Nat)
  | [] => none
  | x :: xs =>
    match discBest xs with
    | none => some x
    | some y => some (discBetter x y)

/-- The lowest of a list of indices. -/
def lowestOf : List Nat → Option Nat
  | [] => none
  | x :: xs =>
    match lowestOf xs with
    | none => some x
    | some y => some (if x < y then x else y)

/-- Is the score NaN or +∞? -/
def f32NanOrInf (x : F32) : Bool := f32IsNaN x || x == f32Inf false

/-- The three words of a discrete draw over scores with their logical indices; `g` draws the Gumbel value of an index (R159). -/
def discDraw (scores : List (F32 × Nat)) (g : Nat → F32) : F32 × Nat :=
  match lowestOf ((scores.filter (fun x => f32NanOrInf x.1)).map (·.2)) with
  | some i => (f32NaN, i)
  | none =>
    match discBest ((scores.filter (fun x => x.1 != f32Inf true)).map (fun x => (f32Add x.1 (g x.2), x.2))) with
    | none => (f32Inf true, 2 ^ 64 - 1)
    | some b => b

/-- FDISC: a draw from the row of scores in VA; elements 0, 1 and 2 of VD receive the sum and the index (R159). -/
def execFdisc (c : Nat) (w : VecWord) (s : State) : Host.Outcome State Fault Refusal :=
  flintIssue c w (ceilDiv w.vl 16) (fun s k =>
    let six := (k.sGet w.six).toNat
    let key := coreKey s c
    let stream := (k.fGet w.sri).toNat
    let scores := (selected k w).map (fun e => (k.vGet w.va e, (six + e) % 2 ^ 64))
    let (v, i) := discDraw scores (fun i => gumbelOf (flintField key stream i 32))
    ((k.vPut w.vd 0 v).vPut w.vd 1 (BitVec.ofNat 32 i)).vPut w.vd 2 (BitVec.ofNat 32 (i / 2 ^ 32))) s

/-- Is a core of troupe `t` running (R160)? -/
def anyRunning (s : State) (t : Nat) : Bool := s.cores.any (fun e => e.1 < physCores && e.2.regs.troupe == t && e.2.regs.state == .running)

/-- FLINT_LOAD: derives the key from the staged seed when no core of the troupe runs, else discards the load with FLINT_BUSY
(R160). The registers of a troupe that the image does not hold are absent: the write is discarded (R462). -/
def execFlintLoad (t : Nat) (s : State) : Host.Outcome State Fault Refusal :=
  regWrite (fun s =>
    if !s.hasTroupe t then s
    else if anyRunning s t then
      raiseEvent evFlintBusy t []
        (s.modTroupe t (fun (x : Troupe) => { x with flint.busy := true, flint.busyCnt := inc16 x.flint.busyCnt }))
    else
      s.modTroupe t (fun (x : Troupe) =>
        { x with
          flint.seed := x.flint.staged, flint.key := flintKey x.flint.staged, flint.keychk := flintKeyChk x.flint.staged
          flint.loaded := true, flint.staged := 0 })) s

/-- FLINT_CNT_CLR: BUSY_CNT becomes 0 (R160). -/
def execFlintCntClr (t : Nat) (s : State) : Host.Outcome State Fault Refusal :=
  regWrite (fun s => if s.hasTroupe t then s.modTroupe t (fun (x : Troupe) => { x with flint.busyCnt := 0 }) else s) s

end Sys2Proof.Machine
end

