-- ==== Sys2Proof/Machine/Vec.lean ====
section
/-! DEFINITION. The VEC class (R69 to R71): arithmetic, compares, reductions, permutes and scatter-adds. -/

namespace Sys2Proof.Machine

/-- An elementwise operation: `f` gives element i from the registers as they stood; VL of 0 or above 256 is refused (R71). -/
def vecBody (c : Nat) (w : VecWord) (lanes : Nat) (f : Core → Nat → F32) (s : State) : Issue :=
  let k := s.core c
  if !vlOk w then .refuse rfOpInvalid
  else .ok (chargeVec c (ceilDiv w.vl lanes) (s.setCore c (vecWrite k w (f k))))

/-- A one-operand elementwise operation on VA. -/
def vec1 (c : Nat) (w : VecWord) (lanes : Nat) (f : F32 → F32) (s : State) : Host.Outcome State Fault Refusal :=
  coreIssue c w.nd (vecBody c w lanes (fun k i => f (k.vGet w.va i))) s

/-- A two-operand elementwise operation on VA and VB. -/
def vec2 (c : Nat) (w : VecWord) (lanes : Nat) (f : F32 → F32 → F32) (s : State) : Host.Outcome State Fault Refusal :=
  coreIssue c w.nd (vecBody c w lanes (fun k i => f (k.vGet w.va i) (k.vGet w.vb i))) s

/-- ADD (R46). -/
def execVadd (c : Nat) (w : VecWord) (s : State) : Host.Outcome State Fault Refusal := vec2 c w 64 f32Add s
/-- SUB (R46). -/
def execVsub (c : Nat) (w : VecWord) (s : State) : Host.Outcome State Fault Refusal := vec2 c w 64 f32Sub s
/-- MUL (R46). -/
def execVmul (c : Nat) (w : VecWord) (s : State) : Host.Outcome State Fault Refusal := vec2 c w 64 f32Mul s
/-- FMA: VA x VB + VC, rounded once (R46, R71). -/
def execVfma (c : Nat) (w : VecWord) (s : State) : Host.Outcome State Fault Refusal :=
  coreIssue c w.nd (vecBody c w 64 (fun k i => f32Fma (k.vGet w.va i) (k.vGet w.vb i) (k.vGet w.vc i))) s
/-- MIN (R70). -/
def execVmin (c : Nat) (w : VecWord) (s : State) : Host.Outcome State Fault Refusal := vec2 c w 64 f32Min s
/-- MAX (R70). -/
def execVmax (c : Nat) (w : VecWord) (s : State) : Host.Outcome State Fault Refusal := vec2 c w 64 f32Max2 s
/-- ABS (R46). -/
def execVabs (c : Nat) (w : VecWord) (s : State) : Host.Outcome State Fault Refusal := vec1 c w 64 f32Abs s
/-- NEG (R46). -/
def execVneg (c : Nat) (w : VecWord) (s : State) : Host.Outcome State Fault Refusal := vec1 c w 64 f32Negate s

/-- The 32-bit integer sum of two element words. -/
def vecIntAdd (a b : F32) : F32 :=
  BitVec.ofNat 32 (intResult 32 0 a.toNat b.toNat ((a.toNat : Int) + b.toNat) (ofTwos 32 a.toNat + ofTwos 32 b.toNat))
/-- INT_ADD (R71). -/
def execVintAdd (c : Nat) (w : VecWord) (s : State) : Host.Outcome State Fault Refusal := vec2 c w 64 vecIntAdd s
/-- INT_SHIFT: R71 names the operation and neither its direction nor its count; the value is free (assumption 10). -/
def execVintShift (c : Nat) (w : VecWord) (s : State) : Host.Outcome State Fault Refusal :=
  vec2 c w 64 (fun a b => BitVec.ofNat 32 (Config.intShift w.imm a.toNat b.toNat)) s
/-- DIV (R46, R69). -/
def execVdiv (c : Nat) (w : VecWord) (s : State) : Host.Outcome State Fault Refusal := vec2 c w 16 f32Div s
/-- SQRT (R46, R69). -/
def execVsqrt (c : Nat) (w : VecWord) (s : State) : Host.Outcome State Fault Refusal := vec1 c w 16 f32Sqrt s
/-- RSQRT: 1.0 divided by the square root, with two roundings (R70). -/
def execVrsqrt (c : Nat) (w : VecWord) (s : State) : Host.Outcome State Fault Refusal :=
  vec1 c w 16 (fun a => f32Div f32One (f32Sqrt a)) s

/-- A compare into a predicate register. -/
def cmpBody (c : Nat) (w : VecWord) (f : F32 → F32 → Bool) (s : State) : Issue :=
  let k := s.core c
  if !vlOk w then .refuse rfOpInvalid
  else .ok (chargeVec c (ceilDiv w.vl 64) (s.setCore c (predWrite k w (fun i => f (k.vGet w.va i) (k.vGet w.vb i)))))

/-- EQ (R71). -/
def execVeq (c : Nat) (w : VecWord) (s : State) : Host.Outcome State Fault Refusal := coreIssue c w.nd (cmpBody c w f32Eq) s
/-- LT (R71). -/
def execVlt (c : Nat) (w : VecWord) (s : State) : Host.Outcome State Fault Refusal := coreIssue c w.nd (cmpBody c w f32Lt) s
/-- LE (R71). -/
def execVle (c : Nat) (w : VecWord) (s : State) : Host.Outcome State Fault Refusal := coreIssue c w.nd (cmpBody c w f32Le) s
/-- ISNAN (R71). -/
def execVisNan (c : Nat) (w : VecWord) (s : State) : Host.Outcome State Fault Refusal :=
  coreIssue c w.nd (cmpBody c w (fun a _ => f32IsNaN a)) s
/-- ISINF (R71). -/
def execVisInf (c : Nat) (w : VecWord) (s : State) : Host.Outcome State Fault Refusal :=
  coreIssue c w.nd (cmpBody c w (fun a _ => f32IsInf a)) s

/-- A reduction: the value goes to element 0 of VD (assumption 10). -/
def reduceBody (c : Nat) (w : VecWord) (f : Core → F32) (s : State) : Issue :=
  let k := s.core c
  if !vlOk w then .refuse rfOpInvalid
  else .ok (chargeVec c (ceilDiv w.vl 64 + 8) (s.setCore c (k.vPut w.vd 0 (f k))))

/-- RSUM: masked elements enter the tree as +0.0 (R70). -/
def execRsum (c : Nat) (w : VecWord) (s : State) : Host.Outcome State Fault Refusal :=
  coreIssue c w.nd (reduceBody c w (fun k =>
    treeSum ((List.range w.vl).map (fun i => if k.pGet w.pred i then k.vGet w.va i else 0)))) s
/-- RMAX: masked elements are skipped (R70). -/
def execRmax (c : Nat) (w : VecWord) (s : State) : Host.Outcome State Fault Refusal :=
  coreIssue c w.nd (reduceBody c w (fun k => treeMax ((selected k w).map (k.vGet w.va)))) s
/-- RMIN (R70). -/
def execRmin (c : Nat) (w : VecWord) (s : State) : Host.Outcome State Fault Refusal :=
  coreIssue c w.nd (reduceBody c w (fun k => treeMin ((selected k w).map (k.vGet w.va)))) s
/-- RAMAX: the maximum of the absolute values (R70, R71). -/
def execRamax (c : Nat) (w : VecWord) (s : State) : Host.Outcome State Fault Refusal :=
  coreIssue c w.nd (reduceBody c w (fun k => treeMax ((selected k w).map (fun i => f32Abs (k.vGet w.va i))))) s

/-- The element that an index names; beyond 255 the spec states none (assumption 10). -/
def permIndex (i : Nat) : Nat := if i < 256 then i else Config.permuteBeyond i % 256

/-- GATHER: element i of VD is the element of VA that VB(i) names by logical index (R71). -/
def execGather (c : Nat) (w : VecWord) (s : State) : Host.Outcome State Fault Refusal :=
  coreIssue c w.nd (vecBody c w 64 (fun k i => k.vGet w.va (permIndex (k.vGet w.vb i).toNat))) s

/-- What a SCATTER leaves in element `j` of VD: the element of VA with the highest index among those that VB sends to `j`, else what it held
(R71; assumption 10). -/
def scatterVal (k : Core) (w : VecWord) (j : Nat) : F32 :=
  match (List.range w.vl).reverse.find? (fun i => permIndex (k.vGet w.vb i).toNat == j) with
  | some i => k.vGet w.va i
  | none => k.vGet w.vd j

/-- SCATTER: element VB(i) of VD takes element i of VA. The destination follows R69: elements from VL on keep their values, and the predicate and
PZ act on the destination's elements (R69, R71). -/
def execScatter (c : Nat) (w : VecWord) (s : State) : Host.Outcome State Fault Refusal :=
  coreIssue c w.nd (vecBody c w 64 (fun k j => scatterVal k w j)) s

/-- The core-store offset of the FP32 word that element i of a scatter-add adds to (assumption 10). -/
def scatAddr (k : Core) (w : VecWord) (i : Nat) : Nat := w.addr * 128 + 4 * (k.vGet w.vb i).toNat

/-- Add the elements of a list to the core store, in the list's order, each addition rounded (R46, R71). -/
def scatAddAll (k : Core) (w : VecWord) (order : List Nat) : Core :=
  order.foldl (fun (k' : Core) i =>
    let a := scatAddr k w i
    let x : F32 := BitVec.ofNat 32 (k'.store.nat a 4)
    { k' with store := k'.store.putNat a 4 (f32Add x (k.vGet w.va i)).toNat }) k

/-- A scatter-add in the order that `ord` gives the selected elements. -/
def scatAddBody (c : Nat) (w : VecWord) (s : State) (order : List Nat) (t : State) : Issue :=
  let k := s.core c
  if !vlOk w then .refuse rfOpInvalid
  else if (selected k w).any (fun i => storeBytes < scatAddr k w i + 4) then .refuse rfStoreRange
  else .ok (chargeVec c (ceilDiv w.vl 16) (t.setCore c (scatAddAll k w order)))

/-- SCATADD.O: colliding elements add in ascending logical index (R71). -/
def execScataddO (c : Nat) (w : VecWord) (s : State) : Host.Outcome State Fault Refusal :=
  coreIssue c w.nd (fun s => scatAddBody c w s (selected (s.core c) w) s) s

/-- Insert an element into a list ordered by rank, then by element. -/
def insertBy (rank : Nat → Nat) (i : Nat) : List Nat → List Nat
  | [] => [i]
  | j :: js => if rank i < rank j || (rank i == rank j && i ≤ j) then i :: j :: js else j :: insertBy rank i js

/-- Order the elements by the ranks that the banks' arrival gives them. -/
def arrivalOrder (n : Nat) (xs : List Nat) : List Nat := xs.foldr (insertBy (Config.bankOrder n)) []

/-- SCATADD.U: the banks' order of arrival, which is free; without the ND mark it is refused with ND_REQUIRED (R53, R71). -/
def execScataddU (c : Nat) (w : VecWord) (s : State) : Host.Outcome State Fault Refusal :=
  coreIssue c w.nd (fun s =>
    if !w.nd then .refuse rfNdRequired
    else
      let (n, t) := s.draw
      scatAddBody c w s (arrivalOrder n (selected (s.core c) w)) t) s

end Sys2Proof.Machine
end

