-- ==== Sys2Proof/Machine/Func.lean ====
section
/-! DEFINITION. The FUNC class (R72 to R75) and XPOSE (R67, R68). -/

namespace Sys2Proof.Machine

/-- A function slot's half: 0 forward, 1 derivative (R75). -/
def slotHalf (k : Core) (fs kind : Nat) : Option FTable := mapFind k.slots (2 * fs + kind)

/-- FUNC: the forward table on each element of VA (R73); an empty half is refused with FTAB_INVALID (R75). -/
def funcBody (c : Nat) (w : VecWord) (fs : Nat) (s : State) : Issue :=
  if 8 ≤ fs then .refuse rfOpInvalid
  else if !vlOk w then .refuse rfOpInvalid
  else
    match slotHalf (s.core c) fs 0 with
    | none => .refuse rfFtabInvalid
    | some t => vecBody c w 64 (fun k i => t.eval (k.vGet w.va i)) s
/-- FUNC (R73). -/
def execFunc (c : Nat) (w : VecWord) (fs : Nat) (s : State) : Host.Outcome State Fault Refusal :=
  coreIssue c w.nd (funcBody c w fs) s

/-- FUNCD: g x d(x) with the saved forward input x in VA, the first source, and the gradient g in VB, the second (R71, R74; assumption 73). -/
def funcdBody (c : Nat) (w : VecWord) (fs : Nat) (s : State) : Issue :=
  if 8 ≤ fs then .refuse rfOpInvalid
  else if !vlOk w then .refuse rfOpInvalid
  else
    match slotHalf (s.core c) fs 1 with
    | none => .refuse rfFtabInvalid
    | some t => vecBody c w 64 (fun k i => f32Mul (k.vGet w.vb i) (t.eval (k.vGet w.va i))) s
/-- FUNCD (R74). -/
def execFuncd (c : Nat) (w : VecWord) (fs : Nat) (s : State) : Host.Outcome State Fault Refusal :=
  coreIssue c w.nd (funcdBody c w fs) s

/-- Parse a function table in the core store: its KIND and the table, or nothing when it is malformed (R72, R75); a KIND of 2 or more is malformed
(assumption 73). -/
def parseTable (m : Memory) (a : Nat) : Option (Nat × FTable) :=
  let w := fun off => (BitVec.ofNat 32 (m.nat (a + off) 4) : F32)
  let kind := m.nat (a + 5) 1
  let wexp := ofTwos 8 (m.nat (a + 4) 1)
  if !f32Finite (w 0) || wexp < -32 || 31 < wexp || 1 < kind || m.nat (a + 6) 2 != 0 || m.nat (a + 0x18) 40 != 0 then none
  else some (kind, { lo := w 0, wexp := wexp, la := w 8, lb := w 0xC, ra := w 0x10, rb := w 0x14, segs := m.nat (a + 0x40) 4096 })

/-- FLOAD: one table into the half of the slot that its KIND names; a malformed one leaves the slot as it was (R75). -/
def floadBody (c fs addr : Nat) (s : State) : Issue :=
  let k := s.core c
  if 8 ≤ fs then .refuse rfOpInvalid
  else if storeBytes < addr + 4160 then .refuse rfStoreRange
  else
    match parseTable k.store addr with
    | none => .refuse rfFtabInvalid
    | some (kind, t) => .ok (s.setCore c { k with slots := mapPut k.slots (2 * fs + kind) t })
/-- FLOAD (R75). -/
def execFload (c : Nat) (nd : Bool) (fs addr : Nat) (s : State) : Host.Outcome State Fault Refusal :=
  coreIssue c nd (floadBody c fs addr) s

/-- The 512 scale bytes of a transposed tile, from those of the stored one (R68, R480). -/
def xposeScales (bax : Bool) (sc : List Byte) : List Byte :=
  if bax then (List.range 512).map (fun i => nth 0 sc (128 * (i % 4) + i / 4))
  else (List.range 512).map (fun i => nth 0 sc (4 * (i % 128) + i / 128))

/-- The element bytes of a transposed tile. -/
def xposeElems (t : Word) (bs : List Byte) : List Byte :=
  let f := tagFormat t
  let rb := f.bytes 128
  let rows := (List.range 128).map (fun r => unpackElts f ((bs.drop (r * rb)).take rb) 128)
  (colsOf 0 128 rows).flatMap (packElts f)

/-- The core store after the transposed copies of an XPOSE, and of their block scales (R67, R68). Every source tile is read before any destination
tile is written (assumption 73). -/
def xposeStore (k : Core) (w : XposeWord) : Memory :=
  let t := k.tagGet w.ta
  let tb := elemBytes t 128 128
  let step := fun (m : Memory) i =>
    let m1 := m.writeN (w.dst + i * tb) (xposeElems t (k.store.readN (w.src + i * tb) tb))
    if tagBS t then m1.writeN (w.dscale + i * 512) (xposeScales (tagBAX t) (k.store.readN (w.sscale + i * 512) 512)) else m1
  (List.range w.tiles).foldl step k.store

/-- Why an XPOSE is refused, if it is (R25, R66 to R68, R84). -/
def xposeRefusal (k : Core) (w : XposeWord) : Option Nat :=
  let t := k.tagGet w.ta
  let tb := elemBytes t 128 128
  let past := fun a n => storeBytes < a + w.tiles * n
  if tagInvalid t then some rfTagInvalid
  else if past w.src tb || past w.dst tb || (tagBS t && (past w.sscale 512 || past w.dscale 512)) then some rfStoreRange
  else if (tagFormat t).bits == 6 then some rfXposeFormat
  else if w.src % tb != 0 then some rfXposeAlign
  else none

/-- XPOSE: transposed copies of whole tiles within the core store (R67, R68); the block scales, where the instruction names
them, are reordered to the transposed element order. -/
def xposeBody (c : Nat) (w : XposeWord) (s : State) : Issue :=
  match xposeRefusal (s.core c) w with
  | some code => .refuse code
  | none => .ok (s.modCore c (fun (k : Core) => { k with store := xposeStore k w }))
/-- XPOSE (R68). -/
def execXpose (c : Nat) (w : XposeWord) (s : State) : Host.Outcome State Fault Refusal :=
  coreIssue c w.nd (xposeBody c w) s

end Sys2Proof.Machine
end

