-- ==== Sys2Proof/Machine/Opt.lean ====
section
/-! DEFINITION. The Whetstones (R207 to R212). -/

namespace Sys2Proof.Machine

/-- Does any of the bytes at a troupe address lie in a poisoned unit? An address that may not be read counts as one. -/
def badRead (s : State) (t a n : Nat) : Bool :=
  match troupeRange s t a n false with
  | .ok ls => ls.any (fun l => (poisonFlags s l.1 l.2).any (fun b => b))
  | .error _ => true

/-- The ranges that the update of element `e` reads: its gradient block with the scale, and its state (R209). -/
def eltReads (r : GroupParam) (sh : ShardRec) (tag : Word) (gaddr e : Nat) : List (Nat × Nat) :=
  let f := tagFormat tag
  let ts := stateSize r.mfmt
  let ms := stateSize r.ofmt
  [(gaddr + e / 32 * f.bytes 32, f.bytes 32)] ++ (if tagBS tag then [(gaddr + sh.nblk * f.bytes 32 + e / 32, 1)] else []) ++
    [(sh.theta + ts * e, ts), (sh.m + ms * e, ms)] ++ (if r.rule == 1 then [(sh.v + ms * e, ms)] else [])

/-- Element `e` (counted through the shard's blocks) of a NEAR range: updated, or none where memory fails (R209, R212). -/
def whetElt (t : Nat) (r : GroupParam) (c : GroupConst) (gfac : F32) (sh : ShardRec) (tag : Word) (gaddr e : Nat) (s : State) :
    Option State :=
  let f := tagFormat tag
  let blk := e / 32
  let ts := stateSize r.mfmt
  let ms := stateSize r.ofmt
  let gb := gaddr + blk * f.bytes 32
  let sa := gaddr + sh.nblk * f.bytes 32 + blk
  let useV := r.rule == 1
  if (eltReads r sh tag gaddr e).any (fun x => badRead s t x.1 x.2) then none
  else
    let bs := leBytes (f.bytes 32) (troupeNat s t gb (f.bytes 32))
    let sc := if tagBS tag then troupeNat s t sa 1 else 127
    let gh := (widen tag (unpackElt f bs (e % 32), sc)).1
    let th := stateVal r.mfmt (troupeNat s t (sh.theta + ts * e) ts)
    let m := stateVal r.ofmt (troupeNat s t (sh.m + ms * e) ms)
    let v := if useV then stateVal r.ofmt (troupeNat s t (sh.v + ms * e) ms) else 0
    let (th1, m1, v1) := groupRule r c (f32Mul gfac gh) th m v
    let s1 := troupeWrite s t (sh.theta + ts * e) (leBytes ts (stateWord r.mfmt th1))
    let s2 := troupeWrite s1 t (sh.m + ms * e) (leBytes ms (stateWord r.ofmt m1))
    some (if useV then troupeWrite s2 t (sh.v + ms * e) (leBytes ms (stateWord r.ofmt v1)) else s2)

/-- The elements of a shard that hold parameters: positions beyond COLS hold +0 and are left alone (R205). -/
def shardElts (b : BindRecord) (sh : ShardRec) : List Nat :=
  let qn := ceilDiv b.cols 32
  (List.range (32 * sh.nblk)).filter (fun e => 32 * ((sh.first + e / 32) % (if qn == 0 then 1 else qn)) + e % 32 < b.cols)

/-- Update elements in order until memory fails: the state, how many were written, and whether it failed. -/
def whetRun (t : Nat) (r : GroupParam) (c : GroupConst) (gfac : F32) (sh : ShardRec) (tag : Word) (gaddr : Nat) :
    List Nat → Nat → State → State × Nat × Bool
  | [], n, s => (s, n, false)
  | e :: es, n, s =>
    match whetElt t r c gfac sh tag gaddr e s with
    | none => (s, n, true)
    | some s1 => whetRun t r c gfac sh tag gaddr es (n + 1) s1

/-- A Whetstone meets an uncorrectable error (R212). -/
def whetFails (t stack record : Nat) (s : State) : State :=
  raiseEvent evWhetMem t (leBytes 1 stack ++ leBytes 4 record)
    (s.modStack stack (fun (k : Stack) => { k with memErr := true, memErrCnt := inc16 k.memErrCnt }))

/-- A Whetstone carries out its command for range `j`: a frozen group is a no-op, another is updated (R208, R209). -/
def runWhet (t j : Nat) (r : NearRange) (k : WhetCmd) (s : State) : State :=
  let l := s.lrn t
  let b := nth {} l.binds r.record
  let g := nth {} l.groups b.group
  if k.frozen then endWhet t j 1 0 s
  else
    let sh := nth {} l.shards r.record
    let tag := govTag k.fmt k.scale
    let es := shardElts b sh
    let seen := (whetRun t g k.const k.gfac sh tag b.shardAddr es 0 s).2.1 + 1
    let s0 := findErrors (readTargets s t ((es.take seen).flatMap (eltReads g sh tag b.shardAddr))) s
    let (s1, n, bad) := whetRun t g k.const k.gfac sh tag b.shardAddr es 0 s0
    let per := stateSize g.mfmt + (if g.rule == 1 then 2 else 1) * stateSize g.ofmt
    let grad := n * (tagFormat tag).bits / 8 + (if tagBS tag then ceilDiv n 32 else 0)
    let s2 := chargeStacks t (n * per + grad) 0 (s1.modStack r.stack (fun (k : Stack) => { k with whetElems := (k.whetElems + n) % 2 ^ 64 }))
    endWhet t j (if bad then 3 else 0) n (if bad then whetFails t r.stack r.record s2 else s2)

/-- Is a command of the same stack still to be served before command `k` of range `j`: one of an earlier step, or one of its step for an
earlier range (R208)? -/
def whetEarlier (l : Lrn) (j stack : Nat) (k : WhetCmd) : Bool :=
  (List.range l.near.length).any (fun i =>
    match l.near[i]? with
    | some r => r.stack == stack && r.cmds.any (fun q => q.step < k.step || (q.step == k.step && i < j))
    | none => false)

/-- WHETSTONE_COMPLETE: the Whetstone of NEAR range `j` carries out its oldest command; one that would write what a fly-in still has to
read waits (R208 to R212, R234). -/
def execWhetstoneComplete (t j : Nat) (s : State) : Host.Outcome State Fault Refusal :=
  engine (fun s =>
    let l := s.lrn t
    match l.near[j]? with
    | none => s
    | some r =>
      match r.cmds with
      | [] => s
      | k :: _ =>
        if whetEarlier l j r.stack k then s
        else if l.flying.isSome && l.cfg.plan.any (fun e => e.record == r.record) && !k.frozen then countStall t (1000 + j) s
        else runWhet t j r k s) s

end Sys2Proof.Machine
end

