-- ==== Sys2Proof/Machine/Power.lean ====
section
/-! DEFINITION. The input, the rails, the clocks, the temperature and the management SMBus (R435 to R450), and what the connectors do
(R470 to R475). -/

namespace Sys2Proof.Machine

/-! ### The input (R436 to R438) -/

/-- INPUT_QUALIFY: at least 48 V for 100 ms; rail sequencing starts (R436). -/
def execInputQualify (s : State) : Host.Outcome State Fault Refusal :=
  nextS (if s.hw.phase == .off then powerUp none { s with hw.present := true } else s)

/-- INPUT_UV: the input crosses below 50 V; INPUT_UV once per crossing, re-armed by a measurement of at least 51 V (R436, R442). -/
def execInputUv (s : State) : Host.Outcome State Fault Refusal :=
  engine (fun s =>
    if s.hw.uvArmed then warnEvent evInputUv [] { s with hw.uvArmed := false, pwr.inputUv := true } else s) s

/-- INPUT_OV: the input crosses above 66 V; INPUT_OV once per crossing, re-armed by a measurement of at most 65 V (R436, R442). -/
def execInputOv (s : State) : Host.Outcome State Fault Refusal :=
  engine (fun s =>
    if s.hw.ovArmed then warnEvent evInputOv [] { s with hw.ovArmed := false, pwr.inputOv := true } else s) s

/-- INPUT_OVERVOLTAGE_TRIP: above 72 V for more than 100 ms, or above 80 V: the input switch opens and a power-fail shutdown follows;
INPUT_OV is raised at the next power-up (R436, R437). A fault stop stays (R440, R448). -/
def execInputOvervoltageTrip (s : State) : Host.Outcome State Fault Refusal :=
  nextS (if s.hw.phase == .off then s
    else
      let s1 := logFault evInputOv 0 s
      if s.hw.phase == .faultStop then s1 else powerFail .off s1)

/-- INPUT_LOST: below 46 V for more than 1 ms: a running module shuts down, and INPUT_LOST is raised at the next power-up (R436, R437).
`removed`: the input is gone, which ends a fault stop (R440, R448). -/
def execInputLost (removed : Bool) (s : State) : Host.Outcome State Fault Refusal :=
  nextS (
    let s1 := if railsUp s then powerFail .off (logFault evInputLost 0 s)
      else if s.hw.phase == .faultStop && !removed then s
      else { s with hw.phase := .off, hw.retryOf := none, hw.stopAt := none }
    if removed then { s1 with hw.present := false } else s1)

/-- INPUT_REVERSED: below 0 V the input stage blocks current and no rail starts; INPUT_REVERSED is raised at the next power-up with
correct polarity (R436). -/
def execInputReversed (s : State) : Host.Outcome State Fault Refusal :=
  nextS (
    let s1 := logFault evInputReversed 0 s
    let s2 := if railsUp s then powerFail .off s1 else { s1 with hw.phase := .off, hw.retryOf := none, hw.stopAt := none }
    { s2 with hw.present := false })

/-- POWER_MEASURE: every 1 ms the input's voltage (10 mV), current (10 mA) and power (W); capping begins when the mean
power over 10 ms, the latest ten measurements, is above CAP_W (R438; assumption 84). -/
def execPowerMeasure (vin iin pin : Nat) (s : State) : Host.Outcome State Fault Refusal :=
  nextS (if !s.hw.present then s
    else
      let s1 := { s with
        hw.vin := vin % 65536, hw.iin := iin % 65536, hw.pin := pin % 65536, hw.pins := (pin % 65536 :: s.hw.pins).take 10
        hw.uvArmed := s.hw.uvArmed || 5100 ≤ vin, hw.ovArmed := s.hw.ovArmed || vin ≤ 6500 }
      if !s.alive then s1
      else
        let cap : Bool := s.pwr.capW * s1.hw.pins.length < s1.hw.pins.sum
        let s2 := { s1 with pwr.vin := vin % 65536, pwr.iin := iin % 65536, pwr.pin := pin % 65536, pwr.capping := cap }
        if cap && !s.pwr.capping then
          raiseModule evPowerCap [] { s2 with pwr.powerCap := true, pwr.capCnt := inc16 s2.pwr.capCnt }
        else s2)

/-! ### The rails (R439 to R442) -/

/-- RAIL_POWER_GOOD: a rail of the step under way reports power-good; with the step's last rail the next step starts, and after the last
step hub reset can be released (R439). -/
def execRailPowerGood (r : Nat) (s : State) : Host.Outcome State Fault Refusal :=
  nextS (if s.hw.phase == .rising && railStep r == s.hw.seqStep && railStep r != 0 && !s.hw.railsOn.contains r then
      let on := s.hw.railsOn ++ [r]
      let s1 := { s with hw.railsOn := on }
      if !stepGood on s.hw.seqStep then s1
      else if s.hw.seqStep == 7 then { s1 with hw.phase := .good, hw.seqStep := 0 }
      else { s1 with hw.seqStep := s.hw.seqStep + 1 }
    else s)

/-- RAIL_SHORT: a rail is switched off, the hub is held in reset, the others go down and the log names the rail; after 2 s one power-up
runs, and a short of the same rail during it stops the module until the input is removed or RESTART is received (R440). -/
def execRailShort (r : Nat) (s : State) : Host.Outcome State Fault Refusal :=
  nextS (if !railLive s r then s
    else
      let again := s.hw.phase != .up && s.hw.retryOf == some r
      let s1 := logFault evRailShort r s
      if again then
        let s2 := powerFail .faultStop s1
        { s2 with hw.stopAt := some (evRailShort, r) }
      else
        let s2 := powerFail .shortWait s1
        { s2 with hw.retryOf := some r })

/-- RAIL_RESTART_TIMER: 2 s after a rail short the input controller runs one power-up (R440). -/
def execRailRestartTimer (s : State) : Host.Outcome State Fault Refusal :=
  nextS (if s.hw.phase == .shortWait then powerUp s.hw.retryOf s else s)

/-- SENSE_OPEN: a regulator falls back to local sense and its rail stays on, until the next power-up; SENSE_OPEN names the rail, or a log
entry while the hub does not run (R441, R442). -/
def execSenseOpen (r : Nat) (s : State) : Host.Outcome State Fault Refusal :=
  nextS (if !railLive s r || s.hw.onLocal.contains r then s
    else
      let s1 := { s with hw.onLocal := r :: s.hw.onLocal }
      if s.alive then warnEvent evSenseOpen (leBytes 1 r) { s1 with pwr.senseOpen := true } else logFault evSenseOpen r s1)

/-- RAIL_OC_WARN: a rail's current is above 90 % of its limit for 1 ms (R442). -/
def execRailOcWarn (r : Nat) (s : State) : Host.Outcome State Fault Refusal :=
  engine (fun s => if railLive s r then warnEvent evRailOcWarn (leBytes 1 r) { s with pwr.ocWarn := true } else s) s

/-- REG_HOT: the regulator of a rail is above its throttle point (R442, R446). -/
def execRegHot (r : Nat) (s : State) : Host.Outcome State Fault Refusal :=
  engine (fun s => if railLive s r then warnEvent evRegHot (leBytes 1 r) { s with pwr.regHot := true } else s) s

/-- PWR_EVT_CLR: a write of 1 to HUB_PWR_EVT.CLR (R459). -/
def execPwrEvtClr (s : State) : Host.Outcome State Fault Refusal :=
  regWrite (fun s => { s with pwr.warnCnt := 0, pwr.capCnt := 0 }) s

/-! ### The clocks (R443 to R445, R472, R473) -/

/-- CLK_REF_LOST: the reference is absent or more than 500 ppm off for 10 µs; the root PLL enters holdover (R444). -/
def execClkRefLost (s : State) : Host.Outcome State Fault Refusal := nextS (loseRef s)

/-- REFERENCE_RETURN: the reference returns at a detected cable; the root PLL relocks by slewing and HOLDOVER clears (R444). A boot that
waits for it goes on when it has qualified (R473). -/
def execReferenceReturn (s : State) : Host.Outcome State Fault Refusal :=
  nextS (if s.hw.cable && s.pwr.locked then { s with hw.refOk := true, pwr.holdover := false } else s)

/-- CLK_FAIL: the root PLL loses lock while it has a reference: a power-fail shutdown with a log entry, and a restart after 100 ms
(R445). -/
def execClkFail (s : State) : Host.Outcome State Fault Refusal :=
  nextS (if s.pwr.locked && s.hw.refOk then powerFail .clkWait (logFault evClkFail 0 s) else s)

/-- CLK_FAIL_RESTART_TIMER: 100 ms after such a shutdown the module powers up (R445). -/
def execClkFailRestartTimer (s : State) : Host.Outcome State Fault Refusal :=
  nextS (if s.hw.phase == .clkWait then powerUp none s else s)

/-- CABLE_DETECT: CBL_DET# goes low or high; without a cable the J2 signals are isolated and the reference is taken as absent (R472). -/
def execCableDetect (low : Bool) (s : State) : Host.Outcome State Fault Refusal :=
  nextS (if low then { s with hw.cable := true } else loseRef { s with hw.cable := false })

/-! ### Temperature (R446 to R449) -/

/-- The throttle point of a die by its HOTTEST code (R446, R459), in °C. -/
def throttlePoint (die : Nat) : Int := if die ≤ 4 then 100 else if die < 64 then 90 else 125

/-- The die of least margin and that margin, the lowest code among equals; the samples give the hottest sensor of each die in °C. -/
def leastMargin : List (Nat × Int) → Option (Nat × Int)
  | [] => none
  | (d, t) :: rest =>
    let m := throttlePoint d - t
    match leastMargin rest with
    | none => some (d, m)
    | some (e, n) => if n < m || (n == m && e < d) then some (e, n) else some (d, m)

/-- The dies whose margin sets the thermal term of tile `t` (R447): the tile, its five stacks, the hub, and the regulators that feed
it. IB feeds every other regulator and is not counted among them (assumption 31). -/
def diesOf (t : Nat) : List Nat :=
  [t, 4] ++ (List.range 5).map (fun i => 8 + 5 * t + i) ++ ([4, 8, 12, 16, 20] : List Nat).map (fun r => 64 + r + t)

/-- The margins of some dies in a sample. -/
def marginsOf (sample : List (Nat × Int)) (dies : List Nat) : List Int :=
  (sample.filter (fun (e : Nat × Int) => dies.contains e.1)).map (fun (e : Nat × Int) => throttlePoint e.1 - e.2)

/-- A term rises by 1 or falls by 1 within 0 to 12 (R447). -/
def moveTerm (up down : Bool) (n : Nat) : Nat := if up then min 12 (n + 1) else if down then n - 1 else n

/-- The thermal term of tile `t` after a sample: up with a negative margin, down when every margin is at least 3 °C (R447). -/
def nextTerm (sample : List (Nat × Int)) (t n : Nat) : Nat :=
  let ms := marginsOf sample (diesOf t)
  moveTerm (ms.any (fun (m : Int) => m < 0)) (ms.all (fun (m : Int) => 3 ≤ m)) n

/-- The throttle level of tile `t`: the larger of its thermal term and the power term (R447). -/
def throttleLevel (s : State) (t : Nat) : Nat := max (mapGet 0 s.pwr.terms t) s.pwr.power

/-- THERMAL_SAMPLE: every 100 µs the sensors are read: `sample` gives the hottest sensor of each die, `inlet` and `outlet` the coolant. The
terms of R447 move; THERM_THROTTLE is raised when a thermal term becomes nonzero while every one was 0. -/
def execThermalSample (sample : List (Nat × Int)) (inlet outlet : Nat) (s : State) : Host.Outcome State Fault Refusal :=
  engine (fun s =>
    let was := (List.range 4).any (fun t => mapGet 0 s.pwr.terms t != 0)
    let terms := (List.range 4).foldl (fun m t => mapPut m t (nextTerm sample t (mapGet 0 s.pwr.terms t))) s.pwr.terms
    let now := (List.range 4).any (fun t => mapGet 0 terms t != 0)
    let (die, m) := match leastMargin sample with
      | some x => x
      | none => (s.pwr.hottest, s.pwr.margin)
    let s1 := { s with
      pwr.margin := m, pwr.hottest := die, pwr.inlet := inlet % 256, pwr.outlet := outlet % 256, pwr.terms := terms
      pwr.power := moveTerm s.pwr.capping true s.pwr.power
      hw.hotArmed := s.hw.hotArmed || inlet < 38, hw.flowArmed := s.hw.flowArmed || outlet < inlet + 18 }
    if now && !was then
      raiseModule evThermThrottle [] { s1 with pwr.throttle := true, pwr.throtCnt := inc16 s1.pwr.throtCnt }
    else s1) s

/-- THERM_TRIP: a sensor reaches its die's trip point, or every sensor of a die fails: a power-fail shutdown, a log entry naming the die, and
the rails stay off (R448). -/
def execThermTrip (die : Nat) (s : State) : Host.Outcome State Fault Refusal :=
  nextS (if !railsUp s then s
    else
      let s1 := powerFail .faultStop (logFault evThermTrip die s)
      { s1 with hw.stopAt := some (evThermTrip, die) })

/-- COOLANT_HOT: the inlet passes 40 °C; re-armed below 38 °C (R449). -/
def execCoolantHot (s : State) : Host.Outcome State Fault Refusal :=
  engine (fun s => if s.hw.hotArmed then raiseModule evCoolantHot [] { s with hw.hotArmed := false, pwr.hotEv := true } else s) s

/-- COOLANT_FLOW: the outlet exceeds the inlet by more than 20 °C; re-armed below 18 °C (R449). -/
def execCoolantFlow (s : State) : Host.Outcome State Fault Refusal :=
  engine (fun s => if s.hw.flowArmed then raiseModule evCoolantFlow [] { s with hw.flowArmed := false, pwr.flowEv := true } else s) s

/-- THERM_CLR: a write of 1 to HUB_THERM.CLR (R459). -/
def execThermClr (s : State) : Host.Outcome State Fault Refusal := regWrite (fun s => { s with pwr.throtCnt := 0 }) s

/-! ### The management SMBus (R450, R472) -/

/-- Does the input controller answer at 0x4C: the input is present, and a cable is detected? -/
def smbAnswers (s : State) : Bool := s.hw.present && s.hw.cable

/-- An answer to a reader outside. -/
def answerRead (vals : List Nat) (s : State) : State := { s with out.reads := vals ++ s.out.reads }

/-- SMB_READ_STATUS: input voltage, current and power, the rail state, and any fault stop as 1 with its code and rail or die (R450). The answer's
layout is not given (assumption 20). -/
def execSmbReadStatus (s : State) : Host.Outcome State Fault Refusal :=
  nextS (if smbAnswers s then
      let stop := match s.hw.stopAt with
        | some (c, n) => [1, c, n]
        | none => [0, 0, 0]
      answerRead ([s.hw.vin, s.hw.iin, s.hw.pin, s.hw.phase.code] ++ stop) s
    else s)

/-- SMB_READ_LOG: the fault log, oldest entry first, and its OVERFLOW mark (R435, R450). -/
def execSmbReadLog (s : State) : Host.Outcome State Fault Refusal :=
  nextS (if smbAnswers s then answerRead (s.hw.log.flatMap (fun e => [e.code, e.num, e.ups]) ++ [b2n s.hw.logOvf]) s else s)

/-- SMB_RESTART: clears a fault stop and runs a power-up; in any other state it is ignored (R450). -/
def execSmbRestart (s : State) : Host.Outcome State Fault Refusal :=
  nextS (if smbAnswers s && s.hw.phase == .faultStop then powerUp none s else s)

/-- Is ALERT# asserted (R450)? -/
def alertAsserted (s : State) : Bool :=
  let p := s.pwr
  s.hw.cable && (s.hw.stopAt.isSome || p.logOvf || p.powerCap || p.regHot || p.ocWarn || p.senseOpen || p.inputOv || p.inputUv || p.flowEv || p.hotEv ||
    p.throttle)

/-! ### Host link and port cages (R474, R475) -/

/-- THL_PRESENT: THL_PRSNT# goes low or high; THL trains only while it is low (R474). -/
def execThlPresent (low : Bool) (s : State) : Host.Outcome State Fault Refusal :=
  nextS (if low then
      { s with thl.regs.prsnt := true, thl.regs.link := (if s.thl.regs.link == 0 && s.alive && linksRun s then 1 else s.thl.regs.link) }
    else { s with thl.regs.prsnt := false, thl.regs.link := 0, thl.regs.width := 0 })

/-- PLUGIN_INSERT: the module reads the power that a plug-in declares; one of more than 20 W is not powered (R475). -/
def execPluginInsert (p watts : Nat) (s : State) : Host.Outcome State Fault Refusal :=
  nextS (if p < 18 then
      { s with hw.plugs := mapPut s.hw.plugs p watts }
    else s)

end Sys2Proof.Machine
end

