-- ==== Sys2Proof/Machine/RingRows.lean ====
section
/-! DEFINITION. The events and commands of the experience ring (R223 to R228, R241). -/

namespace Sys2Proof.Machine

/-- Does troupe `t` have a ring? -/
def hasRing (s : State) (t : Nat) : Bool := isGen s t && (s.gen t).cfg.ring.present

/-- RING_RECORD_WRITE: the engine writes the next record, with a pad if needed, once it fits; not while a notice of the troupe's
event queue waits at the module (R223, R388). -/
def execRingRecordWrite (t : Nat) (s : State) : Host.Outcome State Fault Refusal :=
  engine (fun s => if hasRing s t && !noticeHolds s t then ringWrite t s else s) s

/-- SCORER_HAND: a written record is handed to the scorer and SSEM rises (R225). -/
def execScorerHand (t : Nat) (s : State) : Host.Outcome State Fault Refusal :=
  engine (fun s => if hasRing s t then scorerHand t s else s) s

/-- EXP_SEAL: the host seals or drops a record (R224, R226). -/
def execExpSeal (h : CmdHdr) (seqNo reward reward2 : Nat) (drop : Bool) (s : State) : Host.Outcome State Fault Refusal :=
  hostCmd h opExpSeal (fun s =>
    if !hasRing s h.troupe then complete h opExpSeal stSealUnknown s
    else
      let (s1, st) := sealRecord h.troupe false seqNo reward reward2 drop s
      complete h opExpSeal st s1) s

/-- RING_POLL: the engine reads SEAL_CNT and DONE_CNT, takes seal entries and reclaims records (R226, R228). -/
def execRingPoll (t : Nat) (s : State) : Host.Outcome State Fault Refusal :=
  engine (fun s => if hasRing s t then ringPoll t s else s) s

/-- CONSUMER_HAND: a sealed record is handed to the consumer and ESEM rises (R227). -/
def execConsumerHand (t : Nat) (s : State) : Host.Outcome State Fault Refusal :=
  engine (fun s => if hasRing s t then consumerHand t s else s) s

/-- EXP_EVT_CLR: the three counters of TRP_EXP_EVT become 0 (R241). -/
def execExpEvtClr (t : Nat) (s : State) : Host.Outcome State Fault Refusal :=
  regWrite (fun s =>
    if s.hasTroupe t then
      s.modRing t (fun (r : Ring) => { r with fullCnt := 0, sealBadCnt := 0, dropCnt := 0 })
    else s) s

end Sys2Proof.Machine
end

