-- ==== Sys2Proof/Machine/Tableau.lean ====
section
/-! DEFINITION. The Tableau (R451 to R458): freezing, reading out and resuming. The THL Tableau registers and the IEEE 1149.1 port stay
active while the module is frozen (R454). -/

namespace Sys2Proof.Machine

/-! ### Freezing (R451, R452, R458) -/

/-- A condition outside the hub triggers a freeze unless the hub is held in reset. -/
def outsideTrigger (src : Nat) (s : State) : State := if s.boot == .reset then s else freezeTrigger src s

/-- FREEZE_PIN: FREEZE# is low for 2 debug clock periods; inactive while no cable is detected (R451, R472). -/
def execFreezePin (s : State) : Host.Outcome State Fault Refusal := nextS (if s.hw.cable then outsideTrigger 1 s else s)

/-- FREEZE: a write of 1 to HUB_TAB_TRIG.FREEZE (R451). -/
def execFreeze (s : State) : Host.Outcome State Fault Refusal := regWrite (freezeTrigger 2) s

/-- FREEZE_CUE_TRIGGER: with ARM and EN_CUE set, the Cue count is HUB_TAB_CUE (R451). -/
def execFreezeCueTrigger (s : State) : Host.Outcome State Fault Refusal :=
  engine (fun s => if s.tab.arm && s.tab.enCue && s.cue == s.tab.cueAt then freezeTrigger 4 s else s) s

/-- FREEZE_MARKER_RECEIVE: a freeze marker arrives on a port in UP (R451, R458). The freeze that follows forwards it. -/
def execFreezeMarkerReceive (p : Nat) (s : State) : Host.Outcome State Fault Refusal :=
  nextS (if (s.port p).st == .up then outsideTrigger 6 s else s)

/-- Ports in UP. -/
def upPorts (s : State) : List Nat := (s.fab.ports.filter (fun (e : Nat × Port) => e.2.st == .up)).map (fun (e : Nat × Port) => e.1)

/-- FREEZE_STOP: from T_F on, with stacks in self-refresh and ports idle after their freeze markers, the divided clocks stop (R452, R453,
R458). -/
def execFreezeStop (s : State) : Host.Outcome State Fault Refusal :=
  nextS (if s.tab.state == .freezing && s.tab.tF ≤ s.cue then
      let up := upPorts s
      up.foldl (fun s p => sendFab { kind := "freeze", dest := p } s) { s with tab.state := .frozen, tab.upPorts := up }
    else s)

/-- TAB_IGN_CLR: a write of 1 to HUB_TAB_TRIG.CLR (R459). -/
def execTabIgnClr (s : State) : Host.Outcome State Fault Refusal := regWrite (fun s => { s with tab.ignCnt := 0 }) s

/-! ### Reading out (R455, R456) -/

/-- May a read-out or a resume begin: frozen, and no read-out in progress? -/
def tabIdle (s : State) : Bool := s.tab.state == .frozen && s.tab.job == .none

/-- A write to THL_TAB_CTRL: discarded with BAD unless the module is frozen and no read-out is in progress (R457, R459). -/
def tabWrite (f : State → State) (s : State) : Host.Outcome State Fault Refusal :=
  nextS (if s.boot == .reset then s else if tabIdle s then f s else { s with tab.bad := true })

/-- An IEEE 1149.1 instruction; without a cable the port reads as idle (R472). -/
def jtag (f : State → State) (s : State) : Host.Outcome State Fault Refusal := nextS (if s.hw.cable && tabIdle s then f s else s)

/-- READ: a write of 1 to THL_TAB_CTRL.READ begins to write the scan image to the host (R455). -/
def execRead (s : State) : Host.Outcome State Fault Refusal := tabWrite (fun s => { s with tab.job := .scan }) s

/-- TAB_READ: the IEEE 1149.1 instruction begins to shift the scan image out (R455). -/
def execTabRead (s : State) : Host.Outcome State Fault Refusal := jtag (fun s => { s with tab.job := .jtag }) s

/-- MEMREAD: a write of 1 to THL_TAB_CTRL.MEMREAD begins to read the pages of THL_TAB_MEM (R456). -/
def execMemread (s : State) : Host.Outcome State Fault Refusal := tabWrite (fun s => { s with tab.job := .pages }) s

/-- The scan image of the frozen module (R455). -/
def scanImage (addr : Option Nat) (s : State) : ScanImage :=
  { addr := addr, serial := s.record.serial, tF := s.tab.tF, src := s.tab.src, dclass := dclass s
    cores := s.cores.filter (fun (e : Nat × Core) => e.1 < physCores), tbuf := s.mem.tbuf, ports := s.fab.ports }

/-- The units of a page of a stack whose content is lost, by their addresses. -/
def pagePoison (s : State) (n page : Nat) : List Nat :=
  ((List.range 32768).map (fun i => stackAt s n (page * pageBytes + 64 * i) / 64 * 64)).filter (unitLost s)

/-- What MEMREAD writes for one page: its bytes, a poisoned unit as zeros, and the 64-byte trailer with the addresses of the first eight poisoned
units (R456). -/
def pageOut (s : State) (n page : Nat) : List Byte :=
  let bad := pagePoison s n page
  ((List.range pageBytes).map (fun i =>
    let a := stackAt s n (page * pageBytes + i)
    if bad.contains (a / 64 * 64) then (0 : Byte) else s.mem.bytes.read a)) ++
    (((bad.take 8).flatMap (leBytes 8)) ++ List.replicate (64 - 8 * (bad.take 8).length) (0 : Byte))

/-- Write the pages of THL_TAB_MEM to the host, one after the other. -/
def writePages (s : State) : State :=
  let t := s.tab
  (List.range (t.memPages + 1)).foldl (fun s i =>
    hostWrite (t.dma + i * (pageBytes + 64)) (pageOut s t.memStack (t.memPage + i)) s) s

/-- A frozen module resumes: the wake signal goes out on every port that was in UP at the freeze (R457, R458). -/
def resume (s : State) : State :=
  s.tab.upPorts.foldl (fun s p => sendFab { kind := "wake", dest := p } s) { s with tab.state := .resuming, tab.wake := false }

/-- TAB_READOUT_DONE: a read-out is complete and DONE is set; read-out changes no state of the module (R455, R456). A wake signal that came
meanwhile takes effect now. -/
def execTabReadoutDone (s : State) : Host.Outcome State Fault Refusal :=
  nextS (
    let done := fun (s : State) => { s with tab.job := .none, tab.done := true }
    let s1 := match s.tab.job with
      | .none => s
      | .scan => { done s with out.scans := scanImage (some s.tab.dma) s :: s.out.scans }
      | .jtag => { done s with out.scans := scanImage none s :: s.out.scans }
      | .pages => done (writePages s)
    if s.tab.job != .none && s.tab.wake then resume s1 else s1)

/-! ### Resuming (R457, R458) -/

/-- RESUME: a write of 1 to THL_TAB_CTRL.RESUME (R457). -/
def execResume (s : State) : Host.Outcome State Fault Refusal := tabWrite resume s

/-- TAB_RESUME: the IEEE 1149.1 instruction (R457). -/
def execTabResume (s : State) : Host.Outcome State Fault Refusal := jtag resume s

/-- WAKE_SIGNAL_RECEIVE: a wake signal from a peer port resumes a frozen module, which forwards it (R457, R458). During a read-out it waits
for the read-out's end, since the scan chains are shifting. -/
def execWakeSignalReceive (p : Nat) (s : State) : Host.Outcome State Fault Refusal :=
  nextS (if s.tab.state == .frozen && s.tab.upPorts.contains p then
      (if s.tab.job == .none then resume s else { s with tab.wake := true })
    else s)

/-- DIVIDER_RESTART: 10 µs after a resume the dividers restart together, and cores and the Cue go on from T_F; every port that was in UP
retrains from EQUALIZE; for 200 ms no slot is marked FAILED (R457, R458). -/
def execDividerRestart (s : State) : Host.Outcome State Fault Refusal :=
  nextS (if s.tab.state == .resuming then
      let s1 := { s with tab.state := .running, tab.upPorts := [], tab.graceTo := s.cue + 200 * cyclesMs }
      portChanged (s.tab.upPorts.foldl (fun s p => retrainPort p s) s1)
    else s)

end Sys2Proof.Machine
end

