-- ==== Sys2Proof/Machine/Thl.lean ====
section
/-! DEFINITION. The host link's own commands (R374 to R389) and the ensemble's (R390 to R397). -/

namespace Sys2Proof.Machine

/-- Messages that waited for the link go to their queues (R374). -/
def flushMsgs (s : State) : State := s.thl.msgWait.foldl postAtLead { s with thl.msgWait := [] }

/-- Does this module have a link of its own for bulk data, as a follower (R396)? -/
def isBulk (s : State) : Bool := !isLead s && (mapGet {} s.thl.ens.table s.thl.ens.mySlot).bulk

/-- THL_TRAINING: THL trains on both groups of lanes, on the one that locked, or not at all (R374). -/
def execThlTraining (lo hi : Bool) (s : State) : Host.Outcome State Fault Refusal :=
  engine (fun s =>
    if !s.thl.regs.prsnt || !linksRun s || s.thl.regs.link == 2 then s
    else if lo && hi then flushMsgs { s with thl.regs.link := 2, thl.regs.width := 8 }
    else if lo || hi then
      raiseModule evThlNarrow [] (flushMsgs { s with thl.regs.link := 2, thl.regs.width := 4, thl.regs.narrow := true })
    else { s with thl.regs.link := 0, thl.regs.width := 0 }) s

/-- THL_LOCK_LOSS: a loss of lock of `ms` milliseconds; from 250 ms on the link is down (R374), and a follower's bulk data goes
through the lead (R396). -/
def execThlLockLoss (ms : Nat) (s : State) : Host.Outcome State Fault Refusal :=
  engine (fun s =>
    if ms < 250 || s.thl.regs.link != 2 then s
    else
      let s1 := { s with thl.regs.link := 0, thl.regs.width := 0 }
      if isBulk s then raiseModule evThlBulkDown [] s1 else s1) s

/-- HOST_FAULT: the adapter could not complete a host access of the command `h`: THL_EVT.HOST_FAULT, and the command completes with
HOST_FAULT; what it has written stays (R375). -/
def execHostFault (h : CmdHdr) (opcode : Nat) (s : State) : Host.Outcome State Fault Refusal :=
  engine (fun s =>
    let s1 := { s with thl.regs.hostFault := true }
    match s.wt.loads.find? (fun l => l.running && l.hdr == h), s.ckpt.jobs.find? (fun e => e.2.bufs.any (fun b => b.hdr == h)) with
    | some l, _ => endLoad l stHostFault s1
    | none, some e =>
      complete h opCkptBuf stHostFault (s1.modJob e.1 (fun y => { y with bufs := y.bufs.filter (fun b => b.hdr != h) }))
    | none, none => if s.thl.fetched.any (fun f => f.hdr == h) then complete h opcode stHostFault s1 else s1) s

/-- ENABLE: a write of THL_CTRL: the vectors of the admin queues, and ENABLE, which starts the admin queues or stops fetch (R377). -/
def execEnable (v : Nat) (s : State) : Host.Outcome State Fault Refusal :=
  regWrite (fun s =>
    let on := bitOf v 0
    let s1 := { s with thl.regs.enable := on, thl.regs.cq0Vec := bitsOf v 26 16, thl.regs.eq0Vec := bitsOf v 42 32 }
    if on && !s.thl.regs.enable then openAdmin s1
    else
      let s2 := match mapFind s1.thl.cplQs 0 with
        | some p => { s1 with thl.cplQs := mapPut s1.thl.cplQs 0 { p with vector := bitsOf v 26 16 } }
        | none => s1
      match mapFind s2.thl.evtQs 0 with
      | some e => { s2 with thl.evtQs := mapPut s2.thl.evtQs 0 { e with vector := bitsOf v 42 32 } }
      | none => s2) s

/-- ADMIN_QUEUE_WRITE: THL_AQ_CMD (0), THL_AQ_CPL (1) or THL_AQ_EVQ (2); discarded while ENABLE is 1 and when LOG2N is not 4 to 16
(R377, R399). -/
def execAdminQueueWrite (which v : Nat) (s : State) : Host.Outcome State Fault Refusal :=
  regWrite (fun s =>
    let n := bitsOf v 4 0
    if s.thl.regs.enable || n < 4 || 16 < n then s
    else
      let w := BitVec.ofNat 64 (bitsOf v 63 12 * 4096 + n)
      if which == 0 then { s with thl.regs.aqCmd := w }
      else if which == 1 then { s with thl.regs.aqCpl := w }
      else if which == 2 then { s with thl.regs.aqEvq := w }
      else s) s

/-- Is a QUEUE_CREATE body accepted (R378)? -/
def queueRecOk (s : State) (r : QueueRec) : Bool :=
  let top := if r.kind == 2 then 63 else 255
  let free := if r.kind == 0 then (mapFind s.thl.cmdQs r.qid).isNone
    else if r.kind == 1 then (mapFind s.thl.cplQs r.qid).isNone
    else (mapFind s.thl.evtQs r.qid).isNone
  let bound : Bool := if r.kind == 0 then
      match mapFind s.thl.cplQs r.cqid with
      | some p => !(r.tenant == 255 && p.tenant != 255)
      | none => false
    else r.cqid == 0
  r.kind ≤ 2 && 1 ≤ r.qid && r.qid ≤ top && free && (r.tenant ≤ 63 || r.tenant == 255) && 4 ≤ r.log2n && r.log2n ≤ 16 &&
    (if r.kind == 0 then 1 ≤ r.weight && r.weight ≤ 255 else r.weight == 0) && bound && r.addr % 4096 == 0 && r.addr < 2 ^ 64 &&
    (r.kind == 0 || r.vector ≤ 2047)

/-- QUEUE_CREATE: creates a queue (R378). -/
def execQueueCreate (h : CmdHdr) (r : QueueRec) (s : State) : Host.Outcome State Fault Refusal :=
  hostCmd h opQueueCreate (fun s =>
    if h.sq != 0 || r.rsv != 0 then complete h opQueueCreate stCmdInvalid s
    else if !queueRecOk s r || !isLead s then complete h opQueueCreate stQueueInvalid s
    else
      let c : CmdQueue := { tenant := r.tenant, log2n := r.log2n, weight := r.weight, cqid := r.cqid, base := r.addr }
      let p : CplQueue := { tenant := r.tenant, log2n := r.log2n, base := r.addr, vector := r.vector }
      let e : EvtQueue := { tenant := r.tenant, log2n := r.log2n, base := r.addr, vector := r.vector }
      complete h opQueueCreate stOk
        (if r.kind == 0 then { s with thl.cmdQs := mapPut s.thl.cmdQs r.qid c }
         else if r.kind == 1 then { s with thl.cplQs := mapPut s.thl.cplQs r.qid p }
         else { s with thl.evtQs := mapPut s.thl.evtQs r.qid e })) s

/-- Is a queue still in use (R378): a command outstanding, or a command queue or event binding that names it? -/
def queueBusy (s : State) (kind q : Nat) : Bool :=
  if kind == 0 then s.thl.fetched.any (fun f => f.hdr.sq == q) || s.thl.cplWait.any (fun c => c.hdr.sq == q)
  else if kind == 1 then s.thl.cmdQs.any (fun e => e.2.cqid == q) || (mapGet {} s.thl.cplQs q).reserved != 0
  else s.thl.bindings.any (fun e => e.2 == q)

/-- QUEUE_DELETE: deletes a queue that QUEUE_CREATE created; one that is in use is refused with QUEUE_BUSY (R378). -/
def execQueueDelete (h : CmdHdr) (qid kind : Nat) (s : State) : Host.Outcome State Fault Refusal :=
  hostCmd h opQueueDelete (fun s =>
    if h.sq != 0 then complete h opQueueDelete stCmdInvalid s
    else if qid == 0 || 2 < kind || !queueThere s kind qid then complete h opQueueDelete stQueueInvalid s
    else if queueBusy s kind qid then complete h opQueueDelete stQueueBusy s
    else complete h opQueueDelete stOk
      (if kind == 0 then { s with thl.cmdQs := mapDel s.thl.cmdQs qid }
       else if kind == 1 then { s with thl.cplQs := mapDel s.thl.cplQs qid }
       else { s with thl.evtQs := mapDel s.thl.evtQs qid })) s

/-- Would a binding bring events of another tenant, or of the module, into a queue of one tenant (R387)? -/
def bindBreaks (s : State) (tenants : List (Nat × Nat)) (e : EvtQueue) (slots : List Nat) (t : Nat) : Bool :=
  e.tenant != 255 && (t == 255 || slots.any (fun n => tenantOf s tenants n t != some e.tenant))

/-- EVQ_BIND: events of a slot (255 for all) and troupe (255 for module-wide) go to event queue `eqid` (R381, R387). A slot or troupe out
of range is CMD_INVALID (assumption 26). -/
def execEvqBind (h : CmdHdr) (slot troupe eqid : Nat) (tenants : List (Nat × Nat)) (s : State) : Host.Outcome State Fault Refusal :=
  hostCmd h opEvqBind (fun s =>
    if (slot != 255 && slotCount s ≤ slot) || (troupe != 255 && 64 ≤ troupe) then complete h opEvqBind stCmdInvalid s
    else
      let slots := if slot == 255 then List.range (slotCount s) else [slot]
      match mapFind s.thl.evtQs eqid with
      | none => complete h opEvqBind stQueueInvalid s
      | some e =>
        if !isLead s || bindBreaks s tenants e slots troupe then complete h opEvqBind stQueueInvalid s
        else complete h opEvqBind stOk
          { s with thl.bindings := slots.foldl (fun m n => mapPut m (256 * n + troupe) eqid) s.thl.bindings }) s

/-- DOORBELL: the new tail of a command queue (kind 0), or the new head of a completion (1) or event queue (2), with ARM (R379, R389,
R399). -/
def execDoorbell (kind q v : Nat) (s : State) : Host.Outcome State Fault Refusal :=
  regWrite (fun s =>
    let i := bitsOf v 15 0
    let arm := bitOf v 63
    if !queueThere s kind q then badDoorbell s
    else if kind == 0 then
      let c := mapGet {} s.thl.cmdQs q
      if 2 ^ c.log2n ≤ i then badDoorbell s else { s with thl.cmdQs := mapPut s.thl.cmdQs q { c with tail := i } }
    else if kind == 1 then
      let p := mapGet {} s.thl.cplQs q
      let n := passed (2 ^ p.log2n) p.head i
      if 2 ^ p.log2n ≤ i || p.unread < n then badDoorbell s
      else { s with thl.cplQs := mapPut s.thl.cplQs q { p with head := i, unread := p.unread - n, armed := p.armed || arm } }
    else
      let e := mapGet {} s.thl.evtQs q
      let n := passed (2 ^ e.log2n) e.head i
      if 2 ^ e.log2n ≤ i || e.unread < n then badDoorbell s
      else { s with thl.evtQs := mapPut s.thl.evtQs q { e with head := i, unread := e.unread - n, armed := e.armed || arm } }) s

/-- COMMAND_FETCH: one visit of the lead's round robin. `mem` gives the entries that host memory holds, by address (R379, R382, R385). -/
def execCommandFetch (mem : List (Nat × List Byte)) (tenants : List (Nat × Nat)) (s : State) : Host.Outcome State Fault Refusal :=
  engine (fun s =>
    if isLead s && s.thl.regs.enable && s.thl.regs.link == 2 then fetchVisit mem tenants s (wrrOrder s) else s) s

/-- COMMAND_RELAY: a command that the lead relayed arrives at this follower (R395). -/
def execCommandRelay (h : CmdHdr) (opcode : Nat) (fence : Bool) (s : State) : Host.Outcome State Fault Refusal :=
  engine (fun s =>
    if isLead s then s
    else { s with thl.fetched := s.thl.fetched ++ [({ hdr := h, opcode := opcode, fence := fence } : Fetched)] }) s

/-- COMPLETION_WRITE: a follower's completion arrives at the lead, or the oldest completion that waits is written into its reserved entry
(R384, R385, R389); a follower sends it to the lead (R395), unless the lead is FAILED (R397). -/
def execCompletionWrite (c : Option Cpl) (s : State) : Host.Outcome State Fault Refusal :=
  engine (fun s =>
    match c with
    | some x => if isLead s then { s with thl.cplWait := s.thl.cplWait ++ [x] } else s
    | none =>
      match s.thl.cplWait with
      | [] => s
      | x :: xs =>
        let s1 := dropFetched x.hdr { s with thl.cplWait := xs }
        if isLead s then
          (if s.thl.regs.link == 2 then
            (match writeCpl x s1 with
              | some s2 => s2
              | none => s)
           else s)
        else if leadLost s then s
        else sendFab { kind := "completion", dest := (mapGet {} s.thl.ens.table 0).lmid
                       vals := [x.hdr.sq, x.hdr.slot, x.hdr.troupe, x.hdr.cmdId, x.opcode, x.status, b2n x.isRec, x.tDone], data := x.body } s1) s

/-- EVENT_RAISE: an event of this module is raised (R386, R387; a code that is not assigned never is, R466), or a follower's message or notice arrives at the lead (R395). -/
def execEventRaise (e : EventIn) (s : State) : Host.Outcome State Fault Refusal :=
  engine (fun s =>
    match e with
    | .raised code troupe data => if evAssigned code then raiseEvent code troupe data s else s
    | .relayed m key =>
      if !isLead s then s
      else if m.notice then noticeAtLead m key s
      else if s.thl.regs.link == 2 then postAtLead s m
      else { s with thl.msgWait := s.thl.msgWait ++ [m] }) s

/-- The oldest notice that waits at the module for queue `q` enters the buffer (R388). -/
def enterBuffer (q : Nat) (s : State) : State :=
  match s.thl.atModule.find? (fun n => n.eq == q) with
  | none => s
  | some n => { s with thl.atModule := s.thl.atModule.erase n, thl.buffers := s.thl.buffers ++ [n] }

/-- NOTICE_BUFFER_DRAIN: the oldest notice of event queue `q` leaves the buffer for a free entry, and one that waited at the module
enters it (R388); a follower sends its oldest one to a lead that is back (R397). -/
def execNoticeBufferDrain (q : Nat) (s : State) : Host.Outcome State Fault Refusal :=
  engine (fun s =>
    if isLead s then
      match s.thl.buffers.find? (fun n => n.eq == q), evtQueue? s q with
      | some n, some e =>
        if s.thl.regs.link == 2 && e.unread < 2 ^ e.log2n then
          enterBuffer q (writeEvent { s with thl.buffers := s.thl.buffers.erase n } q e n.msg)
        else s
      | _, _ => s
    else if leadLost s then s
    else
      match s.thl.atModule with
      | [] => s
      | n :: ns => relayNotice n.msg n.key { s with thl.atModule := ns }) s

/-- PEND_CLEAR: a write of 1 to HUB_EVT_OCC.PEND of a code (R386, R400). -/
def execPendClear (code : Nat) (s : State) : Host.Outcome State Fault Refusal :=
  regWrite (fun s =>
    match mapFind s.thl.events code with
    | some o => { s with thl.events := mapPut s.thl.events code { o with pend := false } }
    | none => s) s

/-- EVT_CNT_CLR: a write of 1 to HUB_EVT_OCC.CNT_CLR of a code (R386, R400). -/
def execEvtCntClr (code : Nat) (s : State) : Host.Outcome State Fault Refusal :=
  regWrite (fun s =>
    match mapFind s.thl.events code with
    | some o => { s with thl.events := mapPut s.thl.events code { o with count := 0 } }
    | none => s) s

/-- THL_EVT_CLR: a write of 1 to THL_EVT.CLR sets the three counters to 0 (R399). -/
def execThlEvtClr (s : State) : Host.Outcome State Fault Refusal :=
  regWrite (fun s => { s with thl.regs.evqDropCnt := 0, thl.regs.dbBadCnt := 0, thl.regs.regFailCnt := 0 }) s

/-! ### The ensemble -/

/-- MEMBER_JOINED: a follower's join message makes its slot PRESENT, an understudy's STANDBY, and the lead raises MEMBER_JOINED (R392). A
FAILED slot stays FAILED (R394). -/
def execMemberJoined (lmid serial : Nat) (s : State) : Host.Outcome State Fault Refusal :=
  engine (fun s =>
    match slotOfLmid s lmid with
    | none => s
    | some n =>
      let e := slotRow s n
      if s.thl.ens.standalone || s.thl.ens.mySlot != 0 || e.state == 3 then s
      else
        let s1 := putSlot n { e with serial := serial % 2 ^ 40, beatAt := s.cue } s
        raiseModule evMemberJoined (memberData n lmid) (changeSlot n (if e.role == 2 then 4 else 2) false s1)) s

/-- JOIN_TIMEOUT: a slot that has not joined within 10 s of the lead's casting becomes FAILED (R392). -/
def execJoinTimeout (slot : Nat) (s : State) : Host.Outcome State Fault Refusal :=
  engine (fun s =>
    if !s.thl.ens.standalone && s.thl.ens.mySlot == 0 && (slotRow s slot).state == 1 && s.thl.ens.castAt + 10000 * cyclesMs ≤ s.cue then
      changeSlot slot 3 false s
    else s) s

/-- HEARTBEAT_SEND: a follower sends the lead a heartbeat, the lead one to every follower; a standalone module sends none (R391,
R393). -/
def execHeartbeatSend (s : State) : Host.Outcome State Fault Refusal :=
  engine (fun s =>
    if s.thl.ens.standalone then s
    else
      let ds := if s.thl.ens.mySlot == 0 then (s.thl.ens.table.filter (fun e => e.1 != 0 && e.2.state != 0)).map (·.2.lmid)
        else [(slotRow s 0).lmid]
      ds.foldl (fun s d => sendFab { kind := "heartbeat", dest := d, vals := [s.thl.ens.mySlot] } s) s) s

/-- HEARTBEAT_RECEIVE: a heartbeat of a slot arrives; at the lead, one from a FAILED slot whose heartbeat was gone raises MEMBER_BACK and
orders the module to stop its troupes; `stop` is such an order of the lead (R393, R394). -/
def execHeartbeatReceive (slot : Nat) (stop : Bool) (s : State) : Host.Outcome State Fault Refusal :=
  engine (fun s =>
    if s.thl.ens.standalone || (slotRow s slot).state == 0 then s
    else
      let e := slotRow s slot
      let lost := beatLost s slot
      let s1 := putSlot slot { e with beatAt := s.cue } s
      if s.thl.ens.mySlot == 0 then
        (if e.state == 3 && lost then
          raiseModule evMemberBack (memberData slot e.lmid) (sendFab { kind := "stop", dest := e.lmid } s1)
         else s1)
      else if stop && slot == 0 then stopTroupes s1
      else s1) s

/-- MEMBER_FAILED: no heartbeat of a slot for HB_TIMEOUT; the lead marks it FAILED, raises the event and sends the change (R393); a
follower does so for the lead's slot, without the event (R397). None is marked in the time after a resume (R458). -/
def execMemberFailed (slot : Nat) (s : State) : Host.Outcome State Fault Refusal :=
  engine (fun s =>
    let e := slotRow s slot
    let mine := s.thl.ens.mySlot
    if s.thl.ens.standalone || slot == mine || !(e.state == 2 || e.state == 4) || !beatLost s slot || s.cue < s.tab.graceTo then s
    else if mine == 0 then raiseModule evMemberFailed (memberData slot e.lmid) (changeSlot slot 3 false s)
    else if slot == 0 then changeSlot slot 3 false s
    else s) s

/-- A change that says that an understudy took the LMID over: routes to it use their substitution hops (R371 step 3), and an UNDERSTUDY
link of the same group accepts the LMID (R274). -/
def rerouteLmid (l : Nat) (s : State) : State :=
  let s1 := match s.cast with
    | some img =>
      (match img.routes.subs.find? (fun e => e.1 == l) with
        | some e => { s with fab.routes := mapPut s.fab.routes l e.2 }
        | none => s)
    | none => s
  let groupOf := fun (m : Nat) => (s.thl.ens.table.find? (fun e => e.2.lmid == m)).map (·.2.group)
  if groupOf l == groupOf s.lmid && (groupOf l).isSome then
    (s1.fab.ports.map (·.1)).foldl (fun s p =>
      if (s.port p).cfg.role == 2 then s.modPort p (fun x => { x with subLmid := some l }) else s) (pump s1)
  else pump s1

/-- Every port whose peer is a substituted module is fenced: HELD, without retries, until a casting changes its role or peer (R371
step 1). -/
def fencePorts (l : Nat) (s : State) : State :=
  portChanged ((s.fab.ports.map (·.1)).foldl (fun s p =>
    let x := s.port p
    if x.cfg.peerLmid == l && x.st != .off then
      (if x.st == .up then leaveUp p .held s else s).modPort p (fun x => { x with st := .held, width := 0, fenced := true })
    else s) s)

/-- A substitution begins (R371 step 1): ports are fenced, a failed module that still answers is ordered by the lead to stop its troupes, and
checkpoints of this module's jobs wait for its end (R352). -/
def subBegins (l : Nat) (s : State) : State :=
  let s1 := fencePorts l { s with ckpt.sub.away := s.ckpt.sub.away || !s.ckpt.jobs.isEmpty }
  match slotOfLmid s l with
  | some n => if !s.thl.ens.standalone && s.thl.ens.mySlot == 0 && !beatLost s n then sendFab { kind := "stop", dest := l } s1 else s1
  | none => s1

/-- What a change brings beside the state: with `subst`, FAILED says that a substitution begins, PRESENT that the understudy holds the LMID;
a later PRESENT without it ends the substitution. -/
def subChange (m : MemberMsg) (s : State) : State :=
  if m.subst then (if m.state == 3 then subBegins m.lmid s else rerouteLmid m.lmid s)
  else if m.state == 2 then releaseAllHeld { s with ckpt.sub.away := false }
  else s

/-- MEMBERSHIP_CHANGE: a change whose version is newer than the one held is applied, and a lead that has it from another ensemble
forwards it to its followers (R393). -/
def execMembershipChange (m : MemberMsg) (s : State) : Host.Outcome State Fault Refusal :=
  engine (fun s =>
    let after := fun (s : State) => afterChange (subChange m s)
    match slotOfLmid s m.lmid with
    | some n =>
      let e := slotRow s n
      if m.version ≤ e.version then s
      else after (putSlot n { e with state := m.state, version := m.version, serial := m.serial, beatAt := s.cue } s)
    | none =>
      if m.version ≤ (mapGet (0, 0) s.thl.ens.others m.lmid).2 then s
      else
        let s1 := after { s with thl.ens.others := mapPut s.thl.ens.others m.lmid (m.state, m.version) }
        if s.thl.ens.standalone || s.thl.ens.mySlot != 0 then s1
        else
          let ds := (s.thl.ens.table.filter (fun e => e.1 != 0 && e.2.state != 0)).map (·.2.lmid)
          ds.foldl (fun s d => sendFab (memberMsg m d) s) s1) s

/-- ENS_READMIT: a FAILED slot whose heartbeat is there becomes PRESENT; else READMIT_STATE (R394). -/
def execEnsReadmit (h : CmdHdr) (lmid : Nat) (s : State) : Host.Outcome State Fault Refusal :=
  hostCmd h opEnsReadmit (fun s =>
    match slotOfLmid s lmid with
    | none => complete h opEnsReadmit stReadmitState s
    | some n =>
      let e := slotRow s n
      if s.thl.ens.standalone || s.thl.ens.mySlot != 0 || e.state != 3 || beatLost s n then complete h opEnsReadmit stReadmitState s
      else complete h opEnsReadmit stOk (changeSlot n 2 false s)) s

end Sys2Proof.Machine
end

