-- ==== Sys2Proof/Machine/Troupes.lean ====
section
/-! DEFINITION. The commands of troupes (R326, R328, R335 to R344): mappings, queues, switches, context images and teardown. -/

namespace Sys2Proof.Machine

/-- The mapping rules' view of the module's troupes with entry `i` of troupe `t` replaced. -/
def viewsWith (s : State) (t i e : Nat) : List XlatView :=
  (xlatViews s).map (fun v => if v.t == t then { v with entries := setNth v.entries i e } else v)

/-- Would the new entry break R325: its page is forbidden or wrongly shared? -/
def mapBreaks (s : State) (t i e : Nat) : Bool :=
  entryValid e &&
    (pageForbidden (xlatViews s) (keptNow s) (entryPage e) || !shareOk (viewsWith s t i e) (entryPage e))

/-- TRP_MAP: changes one translation entry (R326) and completes once no access through the old one remains. A page number at or beyond
XLAT_PAGES, or reserved bits set, is no entry of the table (CMD_INVALID; assumption 26). -/
def execTrpMap (h : CmdHdr) (page entry : Nat) (s : State) : Host.Outcome State Fault Refusal :=
  hostCmd h opTrpMap (fun s =>
    let t := h.troupe
    let c := (s.troupe t).cfg
    if !s.hasTroupe t || c.xlatPages ≤ page || bitsOf entry 59 48 != 0 || bitsOf entry 20 0 != 0 then complete h opTrpMap stCmdInvalid s
    else if mapBreaks s t page entry then complete h opTrpMap stXlatPlan s
    else
      let old := xlatEntry s t page
      let s1 := hubWrite s (c.xlatBase + 8 * page) (leBytes 8 entry)
      settleMap t s1 { hdr := h, page := if entryValid old then some (entryPage old) else none }) s

/-- TRP_QPUSH: pushes an entry into queue `q` (R328); a queue that the troupe does not have is CMD_INVALID (assumption 26). -/
def execTrpQpush (h : CmdHdr) (q value : Nat) (s : State) : Host.Outcome State Fault Refusal :=
  hostCmd h opTrpQpush (fun s =>
    let t := h.troupe
    let c := (s.troupe t).cfg
    if !s.hasTroupe t || c.queues.length ≤ q then complete h opTrpQpush stCmdInvalid s
    else
      let (ring, len) := nth (0, 1) c.queues q
      let x := mapGet {} (s.troupe t).queues q
      if len ≤ x.count then complete h opTrpQpush stQueueFull s
      else
        let at_ := if x.head + x.count < len then x.head + x.count else x.head + x.count - len
        let s1 := troupePut s t (ring + 8 * at_) (leBytes 8 value)
        complete h opTrpQpush stOk
          (s1.modTroupe t (fun (y : Troupe) => { y with queues := mapPut y.queues q { x with count := x.count + 1 }, scrubbed := false }))) s

/-- TRP_SWITCH: a switch of cores from OUT to IN is judged, or waits for an earlier switch that names one of them (R335, R336). -/
def execTrpSwitch (h : CmdHdr) (out inn : Option Nat) (s : State) : Host.Outcome State Fault Refusal :=
  hostCmd h opTrpSwitch (fun s =>
    let w : Switch := { hdr := h, out := out, inn := inn, t0 := s.cue }
    if switchBusy s w || s.waitSw.any (fun v => switchBusy { s with switches := [v] } w) then { s with waitSw := s.waitSw ++ [w] }
    else takeSwitch w s) s

/-- The switch that names troupe `t` and has, or has not, drained. -/
def switchOf (s : State) (t : Nat) (drained : Bool) : Option Switch := s.switches.find? (fun w => w.names t && w.drained == drained)

/-- SWITCH_DRAIN_DONE: OUT's started packets have completed, and the contexts move (R336 steps 2 and 3). -/
def execSwitchDrainDone (t : Nat) (s : State) : Host.Outcome State Fault Refusal :=
  engine (fun s =>
    match switchOf s t false with
    | none => s
    | some w => if switchDrained s w then moveContexts w s else s) s

/-- SWITCH_COMPLETE: clearing is done; OUT is OFF, IN is resident and resumes, and what waited for the switch follows (R335, R336,
R342). -/
def execSwitchComplete (t : Nat) (s : State) : Host.Outcome State Fault Refusal :=
  engine (fun s =>
    match switchOf s t true with
    | none => s
    | some w =>
      let s0 := { s with switches := s.switches.erase w }
      let s1 := match w.out with
        | some o => leaveOut o s0
        | none => s0
      let s2 := match w.inn with
        | some i => arriveIn i w.t0 s1
        | none => s1
      let s3 := complete w.hdr opTrpSwitch stOk s2
      let s4 := (w.out.toList ++ w.inn.toList).foldl (fun s t => settleTears t s) s3
      settleSwitches s4) s

/-- TRP_CTX_PUT: places a context image in the troupe's context area (R341). It takes effect only through TRP_RESTORE. -/
def execTrpCtxPut (h : CmdHdr) (img : CtxImage) (s : State) : Host.Outcome State Fault Refusal :=
  hostCmd h opTrpCtxPut (fun s =>
    if !s.hasTroupe h.troupe then complete h opTrpCtxPut stCmdInvalid s
    else complete h opTrpCtxPut stOk (s.modTroupe h.troupe (fun (x : Troupe) => { x with area := some img }))) s

/-- TRP_CTX_GET: writes the image in the troupe's context area into host memory (R341); an empty area holds none. -/
def execTrpCtxGet (h : CmdHdr) (addr : Nat) (s : State) : Host.Outcome State Fault Refusal :=
  hostCmd h opTrpCtxGet (fun s =>
    if !s.hasTroupe h.troupe then complete h opTrpCtxGet stCmdInvalid s
    else
      match (s.troupe h.troupe).area with
      | none => complete h opTrpCtxGet stOk s
      | some i => complete h opTrpCtxGet stOk (hostWrite addr i.bytes { s with out.images := (addr, i) :: s.out.images })) s

/-- TRP_RESTORE: checks the image in the context area and applies it: at once on a resident troupe with no core running, at the
next switch in on one that is OFF (R341). -/
def execTrpRestore (h : CmdHdr) (s : State) : Host.Outcome State Fault Refusal :=
  hostCmd h opTrpRestore (fun s =>
    let t := h.troupe
    let st := stateOf s t
    let idle := st == .resident && !anyRunning s t
    if !(st == .off || idle) then complete h opTrpRestore stSwitchState s
    else
      match (s.troupe t).area with
      | none => complete h opTrpRestore stRestoreDigest s
      | some i =>
        let code := judgeImage s t i
        if code != stOk then complete h opTrpRestore code s
        else
          let s1 := s.modTroupe t (fun (x : Troupe) => { x with regs.stopped := false })
          let s2 := if st == .off then s1.modTroupe t (fun (x : Troupe) => { x with toRestore := some i, scrubbed := false })
            else restoreImage t i s1
          complete h opTrpRestore stRestoreDone s2) s

/-- TRP_TEARDOWN: the troupe is torn down (R342); one that is SAVING or RESTORING when that ends, and a teardown registered during
a teardown completes with the first (R343). -/
def execTrpTeardown (h : CmdHdr) (s : State) : Host.Outcome State Fault Refusal :=
  hostCmd h opTrpTeardown (fun s =>
    if !s.hasTroupe h.troupe then complete h opTrpTeardown stCmdInvalid s
    else settleTears h.troupe (s.modTroupe h.troupe (fun (x : Troupe) => { x with tears := x.tears ++ [(h, opTrpTeardown, stOk)] }))) s

/-- TRP_EVT_CLR: both counters of TRP_EVT return to 0, and TRP_XLAT_FAULT is no longer valid (R344). -/
def execTrpEvtClr (t : Nat) (s : State) : Host.Outcome State Fault Refusal :=
  regWrite (fun s => if s.hasTroupe t then
    s.modTroupe t (fun (x : Troupe) => { x with regs.xlatCnt := 0, regs.switchCnt := 0, regs.xfValid := false }) else s) s

end Sys2Proof.Machine
end

