-- ==== Sys2Proof/Machine/RegMap.lean ====
section
/-! DEFINITION. Register space (R460 to R464): what every register reads, and what a write to it does by its access code (R8, R9); rejected
accesses (R462) and accesses through the adapter (R398). -/

namespace Sys2Proof.Machine

/-! ### Fields -/

/-- A W1C bit after a write (R8): a 1 clears it. -/
def w1c (v i : Nat) (cur : Bool) : Bool := cur && !bitOf v i

/-- Run a register command's meaning when bit `i` of the word written is 1. -/
def onBit (v i : Nat) (f : State → Host.Outcome State Fault Refusal) (s : State) : State := if bitOf v i then stateAfter s (f s) else s

/-- Word `i` of a list of bytes. -/
def byteWord (b : List Byte) (i : Nat) : Nat := leNat ((b.drop (8 * i)).take 8)

/-! ### Identity, events, boot -/

/-- Identity and status block. -/
def readIdent (s : State) (o : Nat) : Nat :=
  let r := s.record
  if o == 0x00 then word [(48, 16, r.part), (40, 8, r.stepping), (32, 8, 1), (23, 9, r.maxCores), (18, 5, r.maxStacks), (13, 5, r.maxPorts), (12, 1, b2n r.longReach)]
  else if o == 0x08 then r.serial
  else if o == 0x18 then word [(48, 16, s.accErr.cnt), (3, 37, s.accErr.offset / 8), (2, 1, b2n s.accErr.kind), (0, 1, b2n s.accErr.err)]
  else if 0x20 ≤ o && o ≤ 0x38 && classKnown s then byteWord (dclassBytes s) ((o - 0x20) / 8)
  else 0

/-- Events block. -/
def readEvents (s : State) (o : Nat) : Nat :=
  if o ≤ 0x38 then flags ((List.range 64).map (fun b => (s.occ (8 * o + b)).pend))
  else if 0x1000 ≤ o && o < 0x2000 then
    let e := s.occ ((o - 0x1000) / 8)
    word [(48, 16, e.count), (1, 1, b2n e.mask), (0, 1, b2n e.pend)]
  else 0

/-- Casting and boot block. -/
def readBoot (s : State) (o : Nat) : Nat :=
  let r := s.bt.regs
  if o == 0x00 then hubBootWord s
  else if o == 0x08 then word [(32, 32, r.romUs), (0, 32, r.readyUs)]
  else if o == 0x10 then word [(48, 16, r.bundle), (32, 16, r.hubIfv), (16, 16, r.coreIfv), (0, 16, r.linkIfv)]
  else if o == 0x18 then word [(48, 16, r.svn), (32, 16, r.nsect), (16, 16, r.applyCnt)]
  else if 0x20 ≤ o && o ≤ 0x38 then byteWord (leBytes 32 r.digest) ((o - 0x20) / 8)
  else if o == 0x40 then word [(48, 16, r.rpf.hub), (32, 16, r.rpf.core), (16, 16, r.rpf.link), (0, 16, r.rpf.bundle)]
  else if o == 0x48 then word [(48, 16, r.rpf.owner), (32, 16, r.rpf.cast), (16, 16, r.rpf.modRec)]
  else if 0x50 ≤ o && o ≤ 0x70 then coreFailWord s ((o - 0x50) / 8)
  else if o == 0x78 then word [(16, 16, r.subst), (0, 16, r.degraded)]
  else if o == 0x800 then word [(46, 14, s.mem.ilTop), (32, 14, s.mem.ilBase), (0, 5, s.mem.hubStack)]
  else 0

/-! ### Power, Cue -/

/-- Power, clocks and thermal block (R459). -/
def readPower (s : State) (o : Nat) : Nat :=
  let p := s.pwr
  let t := s.tab
  let r := variantRec s
  let on := p.locked
  if o == 0x00 then word [(48, 16, p.vin), (32, 16, p.iin), (16, 16, p.pin)]
  else if o == 0x08 then p.capW
  else if o == 0x10 then
    word [(48, 16, p.warnCnt), (32, 16, p.capCnt), (0, 7, flags [p.inputUv, p.inputOv, p.senseOpen, p.ocWarn, p.regHot, p.powerCap, p.logOvf])]
  else if o == 0x20 then
    word [(44, 20, if on then r.stackMask else 0), (26, 18, if on then r.portMask else 0), (25, 1, b2n on),
      (0, 4, flags [on, s.hw.refOk, p.holdover, p.refLost])]
  else if o == 0x28 then
    word [(56, 8, toTwos 8 p.margin), (48, 8, p.hottest), (40, 8, p.inlet), (32, 8, p.outlet), (16, 16, p.throtCnt),
      (0, 3, flags [p.throttle, p.hotEv, p.flowEv])]
  else if o == 0x30 then word ((16, 4, p.power) :: (List.range 4).map (fun i => (4 * i, 4, throttleLevel s i)))
  else if o == 0x40 then
    word [(48, 16, t.evCode), (32, 16, t.ignCnt), (6, 1, b2n t.arm), (5, 1, b2n t.enFault), (4, 1, b2n t.enCue), (3, 1, b2n t.enEvent)]
  else if o == 0x48 then t.cueAt
  else 0

/-- Cue block (R319). -/
def readCue (s : State) (o : Nat) : Nat :=
  let c := s.cueRegs
  if o == 0x00 then s.cue
  else if o == 0x08 then word [(32, 32, toTwos 32 c.offsetPs), (5, 5, c.parent), (1, 1, b2n c.master), (0, 1, b2n c.lock)]
  else if o == 0x10 then
    word [(48, 16, c.lateCnt), (32, 16, c.stallCnt), (16, 16, c.unlockCnt), (0, 4, flags [c.unlock, c.late, c.stall, c.tree])]
  else if o == 0x18 then c.ndMap
  else 0

/-! ### Troupe table -/

/-- TRP_CFG to TRP_SWITCH_T (R344). -/
def readTrp (s : State) (t o : Nat) : Nat :=
  let x := s.troupe t
  let c := x.cfg
  let r := x.regs
  if o == 0x00 then
    word [(58, 6, c.tenant), (56, 2, r.role), (50, 6, c.altset), (49, 1, b2n c.initial), (40, 8, c.stkW), (32, 8, c.fabW), (24, 8, c.hubW), (16, 8, c.qslice)]
  else if o == 0x08 then c.quads
  else if o == 0x10 then word [(16, 9, (troupeCores s t).length), (6, 1, b2n r.held), (5, 1, b2n r.opened), (0, 4, r.state.code)]
  else if o == 0x18 then word [(44, 20, c.xlatPages), (12, 28, c.xlatBase / 4096)]
  else if o == 0x20 then word [(50, 14, c.semBase), (39, 11, c.semCount), (34, 5, c.queues.length)]
  else if o == 0x28 then word [(32, 10, c.tbBase), (16, 10, c.tbSize)]
  else if o == 0x30 then word [(48, 16, c.ctxSize), (21, 27, c.ctxBase / 2 ^ 21)]
  else if o == 0x38 then
    word [(48, 16, r.xlatCnt), (32, 16, r.switchCnt), (0, 7, flags [false, r.xlat, r.semSat, r.saved, r.restored, r.torn, r.dclassDiff])]
  else if o == 0x40 then word [(63, 1, b2n r.xfValid), (61, 2, r.xfKind), (0, 48, r.xfAddr)]
  else if o == 0x48 then r.switchT
  else 0

/-- TRP_ACCT_CORE to TRP_ACCT_THL (R344). -/
def readAcct (a : Acct) (o : Nat) : Nat :=
  if o == 0x00 then a.core else if o == 0x08 then a.array else if o == 0x10 then a.vec else if o == 0x18 then a.stkRd
  else if o == 0x20 then a.stkWr else if o == 0x28 then a.fabTx else if o == 0x30 then a.fabRx else if o == 0x38 then a.thl else 0

/-- TRP_KV_LOOK to TRP_KV_EVT (R146). -/
def readKv (k : KvRegs) (o : Nat) : Nat :=
  if o == 0x00 then word [(32, 32, k.lookups), (0, 32, k.hits)]
  else if o == 0x08 then word [(32, 32, k.registered), (0, 32, k.evicted)]
  else if o == 0x10 then word [(32, 32, k.cowFrames), (0, 32, k.fmtStops)]
  else if o == 0x18 then word [(48, 16, k.divergeCnt), (32, 16, k.dupCnt), (16, 16, k.nosetCnt), (0, 2, flags [k.format, k.diverge])]
  else 0

/-- TRP_FLINT_SEED0 to TRP_FLINT_STATUS (R160): the seeds and the control register read 0. -/
def readFlint (f : TrpFlint) (o : Nat) : Nat :=
  if o == 0x28 then word [(32, 32, f.keychk), (16, 16, f.busyCnt), (0, 2, flags [f.loaded, f.busy])] else 0

/-- TRP_VSLOT_A to TRP_FLY_SRC (R241). -/
def readFly (s : State) (t o : Nat) : Nat :=
  let g := s.gen t
  let r := g.vr
  let l := (s.lrn t).regs
  if o ≤ 0x10 then vslotWord (mapGet {} g.vs (o / 8))
  else if o == 0x18 then vctrlWord r g.live
  else if o == 0x20 then flyEvtWord r
  else if o == 0x28 then r.curtainT
  else if o == 0x30 then flySrcWord l.nextEpoch l.stallCnt l.stall l.busy
  else 0

/-- TRP_LRN_STEP to TRP_LRN_EVT (R186). -/
def readLrn (r : LrnRegs) (o : Nat) : Nat :=
  if o == 0x00 then r.step
  else if o == 0x08 then r.vStep
  else if o == 0x10 then verdictWord r.vCount r.vReasons r.vReason r.vSkip r.vValid
  else if o == 0x18 then
    word [(48, 16, r.skipCnt), (32, 16, r.lateCnt), (16, 16, r.halveCnt), (0, 4, flags [r.commit, r.skip, r.lateLeaf, r.verdictLate])]
  else 0

/-- TRP_EXP_SEQ to TRP_EXP_EVT (R241). -/
def readExp (r : Ring) (o : Nat) : Nat :=
  if o == 0x00 then r.wrSeq
  else if o == 0x08 then word [(32, 32, r.head - r.tail), (16, 16, r.counted.length)]
  else if o == 0x10 then word [(32, 32, r.oldEpoch), (0, 1, b2n r.oldValid)]
  else if o == 0x18 then
    word [(48, 16, r.fullCnt), (32, 16, r.sealBadCnt), (16, 16, r.dropCnt), (0, 6, flags [r.written, r.drop, r.full, r.sealcntBad, r.sealBad, r.doneBad])]
  else 0

/-- TRP_OPT_RPT and TRP_OPT_EVT (R217). -/
def readOpt (r : LrnRegs) (o : Nat) : Nat :=
  if o == 0x00 then word [(32, 32, r.updatedOps), (0, 32, r.frozenOps)]
  else if o == 0x08 then
    word [(48, 16, r.frozenCnt), (32, 16, r.gsetCnt), (16, 16, r.fallbackN), (0, 5, flags [r.frozen, r.fallback, r.gsetDone, r.gsetLate, r.whetMem])]
  else 0

/-- The window, troupe and offset of an offset in the troupe table block (R464). -/
def troupeWindow (o : Nat) : Nat × Nat × Nat :=
  if o < 0x4000 then (0, o / 0x100, o % 0x100)
  else if o < 0x5000 then (1, (o - 0x4000) / 0x40, o % 0x40)
  else if 0x8000 ≤ o && o < 0x8800 then (2, (o - 0x8000) / 0x20, o % 0x20)
  else if 0xA000 ≤ o && o < 0xB000 then (3, (o - 0xA000) / 0x40, o % 0x40)
  else if 0xB000 ≤ o && o < 0xC000 then (4, (o - 0xB000) / 0x40, o % 0x40)
  else if 0xC000 ≤ o && o < 0xD000 then (5, (o - 0xC000) / 0x40, o % 0x40)
  else if 0xD000 ≤ o && o < 0xE000 then (6, (o - 0xD000) / 0x40, o % 0x40)
  else if 0xE000 ≤ o && o < 0xF000 then (7, (o - 0xE000) / 0x40, o % 0x40)
  else (8, 0, 0)

/-- Troupe table block (R464): a troupe that the casting image does not hold has no registers. -/
def readTroupe (s : State) (o : Nat) : Nat :=
  let (w, t, r) := troupeWindow o
  if !s.hasTroupe t then 0
  else if w == 0 then readTrp s t r
  else if w == 1 then readAcct (s.troupe t).regs.acct r
  else if w == 2 then readKv (s.gen t).kv r
  else if w == 3 then readFlint (s.troupe t).flint r
  else if w == 4 then readFly s t r
  else if w == 5 then readLrn (s.lrn t).regs r
  else if w == 6 then readExp (s.gen t).ring r
  else if w == 7 then readOpt (s.lrn t).regs r
  else 0

/-! ### THL -/

/-- A slot's register (R399). -/
def slotWord (s : State) (n : Nat) : Nat :=
  let e := slotRow s n
  word [(52, 12, e.lmid), (48, 4, e.state), (47, 1, b2n e.bulk), (0, 40, e.serial)]

/-- A doorbell reads the last accepted index (R399). -/
def readDoorbell (s : State) (kind q : Nat) : Nat :=
  if kind == 0 then (mapGet {} s.thl.cmdQs q).tail else if kind == 1 then (mapGet {} s.thl.cplQs q).head else (mapGet {} s.thl.evtQs q).head

/-- The doorbell of an offset in the THL block: kind and queue. -/
def doorbellOf (o : Nat) : Option (Nat × Nat) :=
  if 0x1000 ≤ o && o < 0x1800 then some (0, (o - 0x1000) / 8)
  else if 0x2000 ≤ o && o < 0x2800 then some (1, (o - 0x2000) / 8)
  else if 0x3000 ≤ o && o < 0x3200 then some (2, (o - 0x3000) / 8)
  else none

/-- THL block (R399, R459). -/
def readThl (s : State) (o : Nat) : Nat :=
  let r := s.thl.regs
  let t := s.tab
  let present := if isLead s then ((List.range (slotCount s)).filter (fun n => (slotRow s n).state == 2)).length else 0
  if o == 0x00 then word [(48, 1, b2n (isLead s)), (40, 8, present), (8, 4, r.width), (0, 2, r.link)]
  else if o == 0x08 then word [(32, 11, r.eq0Vec), (16, 11, r.cq0Vec), (0, 1, b2n r.enable)]
  else if o == 0x10 then r.aqCmd.toNat
  else if o == 0x18 then r.aqCpl.toNat
  else if o == 0x20 then r.aqEvq.toNat
  else if o == 0x28 then
    word [(48, 16, r.evqDropCnt), (32, 16, r.dbBadCnt), (16, 16, r.regFailCnt), (0, 5, flags [r.narrow, r.evqDrop, r.dbBad, r.regFail, r.hostFault])]
  else if o == 0x30 then word [(32, 16, s.thl.ens.hbTimeout), (0, 7, slotCount s)]
  else if 0x800 ≤ o && o < 0xA00 then slotWord s ((o - 0x800) / 8)
  else if o == 0x4000 then
    word [(60, 4, t.state.code), (56, 4, t.src), (55, 1, b2n (t.job != .none)), (54, 1, b2n t.bad), (53, 1, b2n t.done), (0, 48, t.tF)]
  else if o == 0x4010 then t.dma
  else if o == 0x4018 then word [(59, 5, t.memStack), (32, 14, t.memPages), (0, 14, t.memPage)]
  else match doorbellOf o with
    | some (k, q) => readDoorbell s k q
    | none => 0

/-! ### Prompter, error watch -/

/-- The 64-byte record of a Prompter slot (R213). -/
def promBytes (x : PromSlot) : List Byte :=
  leBytes 1 x.kind ++ leBytes 1 x.warm ++ leBytes 1 x.decay ++ leBytes 1 x.qmul ++ leBytes 4 0 ++ leBytes 8 x.start ++ leBytes 4 x.wsteps ++
    leBytes 4 x.dsteps ++ leBytes 4 x.period ++ leBytes 4 x.floor ++ leBytes 4 x.gamma ++ leBytes 28 0

/-- Prompter block (R219). -/
def readPrompter (s : State) (o : Nat) : Nat :=
  if o == 0x00 then word [(32, 9, (s.prm.filter (fun (e : Nat × PromSlot) => e.2.kind != 0)).length)]
  else if 0x1000 ≤ o && o < 0x5000 then
    (match mapFind s.prm ((o - 0x1000) / 0x40) with
      | some x => byteWord (promBytes x) (o % 0x40 / 8)
      | none => 0)
  else 0

/-- A local job's registers (R373). -/
def readJob (s : State) (x : Job) (o : Nat) : Nat :=
  if o == 0x00 then
    word [(56, 8, x.plan.job), (52, 4, x.st.code), (51, 1, b2n x.held), (50, 1, b2n (coordinates s x)), (0, 32, x.no)]
  else if o == 0x08 then x.step
  else if o == 0x10 then x.tCut
  else word [(48, 16, x.abortCnt), (32, 16, x.heldCnt), (16, 16, x.stallCnt), (0, 6, flags [x.cut, x.s0Done, x.s1Done, x.heldEv, x.abort, x.ue])]

/-- Error watch and checkpoint block (R267, R373). -/
def readWatch (s : State) (o : Nat) : Nat :=
  let w := s.ckpt.watch
  if o == 0x00 then
    word [(48, 16, w.ceRate), (32, 16, w.retryRate), (24, 8, w.retrainHr), (16, 8, w.regWarn), (10, 6, w.thermMargin), (1, 9, w.holdoffS), (0, 1, b2n w.auto)]
  else if o == 0x08 then word [(48, 16, w.reqCnt), (32, 16, w.suppCnt), (0, 5, flags [w.ce, w.retry, w.retrain, w.therm, w.reg])]
  else if o == 0x100 then word [(32, 16, s.wt.digestMin), (24, 8, s.wt.patrolH), (0, 1, b2n s.wt.damageHold)]
  else if o == 0x108 then word [(48, 16, s.wt.failCnt), (32, 16, s.wt.shards.length), (0, 2, flags [s.wt.fail, s.wt.round])]
  else if 0x200 ≤ o && o < 0x400 then
    (match s.job? ((o - 0x200) / 0x20) with
      | some x => readJob s x (o % 0x20)
      | none => 0)
  else if o == 0x400 then
    word [(52, 12, s.ckpt.sub.lmid), (48, 4, s.ckpt.sub.state), (32, 16, s.ckpt.sub.staged.length), (0, 1, b2n s.ckpt.sub.subDone)]
  else 0

/-! ### Ports, stacks, tiles -/

/-- Port block (R301). -/
def readPort (p : Nat) (x : Port) (o : Nat) : Nat :=
  let c := x.cfg
  let lr := p == 16 || p == 17
  if o == 0x00 then
    word [(48, 16, x.polarity), (36, 4, x.quarters), (35, 1, b2n x.dirswap), (34, 1, b2n x.reversed), (24, 5, x.width), (0, 4, x.st.code)]
  else if o == 0x08 then word [(52, 12, c.peerLmid), (47, 5, c.peerPort), (28, 4, c.role), (26, 2, c.minW), (25, 1, b2n c.required)]
  else if o == 0x18 then
    word [(48, 16, x.retrainCnt), (32, 16, x.tagCnt), (16, 16, x.authCnt),
      (0, 8, flags [x.up, x.down, x.belowMin, x.miswire, x.tag, x.lrAuth, x.lrWindow, x.rangeShift])]
  else if o == 0x20 then word [(32, 32, x.replayFlits), (0, 32, x.fecCorr)]
  else if o == 0x28 then word [(52, 12, x.peerLmid), (47, 5, x.peerPort), (0, 40, x.peerSerial)]
  else if !lr then 0
  else if o == 0x30 then word [(44, 20, c.stks), (42, 2, c.win), (32, 9, x.rate), (0, 32, x.rttNs)]
  else if o == 0x38 then word [(32, 32, x.delayPs), (0, 32, x.lenMm)]
  else if o == 0x40 then word [(32, 16, x.rangeS), (0, 32, x.refMm)]
  else if o == 0x48 then word [(32, 32, x.gidx), (0, 32, x.extPs)]
  else 0

/-- Stack block (R218, R247, R251 and chapter 18). -/
def readStack (s : State) (n o : Nat) : Nat :=
  let k := s.stack n
  if o == 0x00 then word [(48, 6, k.spare), (40, 3, k.replay), (0, 1, b2n (s.cast.isSome && s.mem.hubStack == n))]
  else if o == 0x08 then word [(32, 32, k.ceCnt), (16, 16, k.ueCnt), (0, 3, flags [k.ce, k.ue, k.patrolDone])]
  else if o == 0x10 then word [(63, 1, b2n k.eccValid), (0, 48, k.eccAddr)]
  else if o == 0x200 then word [(32, 4, k.whetSize), (0, 14, k.whetBase)]
  else if o == 0x208 then word [(48, 16, k.memErrCnt), (40, 8, k.whetRanges), (0, 2, flags [k.whetBusy, k.memErr])]
  else if o == 0x210 then k.whetElems
  else if o == 0x300 then
    word [(36, 14, s.mem.pages.countP (fun p => p / 12288 == n)), (20, 16, k.stallCnt), (0, 1, b2n k.snapBusy)]
  else 0

/-- The clusters of tile `t` in a mask over all. -/
def tileBits (mask t : Nat) : Nat := bitsOf mask (4 * t + 3) (4 * t)

/-- Is physical core `c` in an enabled cluster (R17)? -/
def coreThere (s : State) (c : Nat) : Bool := c < physCores && bitOf s.record.clusterMask (4 * (c / 68) + c % 68 / 17)

/-- Tile block. -/
def readTile (s : State) (t o : Nat) : Nat :=
  if o == 0x800000 then
    word [(16, 4, throttleLevel s t), (4, 4, tileBits s.bt.regs.degraded t), (0, 4, tileBits s.record.clusterMask t)]
  else
    let c := 68 * t + o / 0x10000
    if o / 0x10000 < 68 && coreThere s c then readCore (s.core c) (o % 0x10000) else 0

/-! ### The whole of register space (R463) -/

/-- What the register at an offset from 0xFF00_0000_0000 reads; 0 where there is none (R462). -/
def regRead (s : State) (off : Nat) : Nat :=
  let b := off / 0x10000
  let o := off % 0x10000
  if b == 0 then readIdent s o
  else if b == 1 then readEvents s o
  else if b == 2 then readBoot s o
  else if b == 3 then readPower s o
  else if b == 4 then readCue s o
  else if b == 5 then readTroupe s o
  else if b == 6 then readThl s o
  else if b == 7 then readPrompter s o
  else if b == 8 then readWatch s o
  else if 0x10 ≤ b && b < 0x22 then (if portEnabled s (b - 0x10) then readPort (b - 0x10) (s.port (b - 0x10)) o else 0)
  else if 0x40 ≤ b && b < 0x54 then (if bitOf (variantRec s).stackMask (b - 0x40) then readStack s (b - 0x40) o else 0)
  else if 0x100 ≤ b && b < 0x500 then readTile s (b / 0x100 - 1) (off % 0x1000000)
  else 0

/-! ### Writes -/

/-- Identity and events. -/
def writeIdent (o v : Nat) (s : State) : State :=
  if o == 0x18 then
    { s with accErr.cnt := (if bitOf v 1 then 0 else s.accErr.cnt), accErr.err := w1c v 0 s.accErr.err }
  else s

/-- An event's entry: PEND, CNT_CLR and MASK; the entry of a code that is not assigned takes nothing (R400, R466). -/
def writeEvents (o v : Nat) (s : State) : State :=
  let c := (o - 0x1000) / 8
  if 0x1000 ≤ o && o < 0x2000 && evAssigned c then
    let s1 := onBit v 2 (execEvtCntClr c) (onBit v 0 (execPendClear c) s)
    { s1 with thl.events := mapPut s1.thl.events c { s1.occ c with mask := bitOf v 1 } }
  else s

/-- HUB_BOOT's W1C bits. -/
def writeBoot (o v : Nat) (s : State) : State :=
  if o == 0 then
    let r := s.bt.regs
    { s with bt.regs := { r with castFallback := w1c v 7 r.castFallback, fwFallback := w1c v 6 r.fwFallback, castDone := w1c v 1 r.castDone, ready := w1c v 0 r.ready } }
  else s

/-- A condition that holds in the hub clock period of the write that sets ARM triggers (R451): the Cue count, or a standing core fault. -/
def armTrigger (s : State) : State :=
  let t := s.tab
  if t.arm && t.enCue && s.cue == t.cueAt then freezeTrigger 4 s
  else if t.arm && t.enFault && s.cores.any (fun e => e.2.regs.fault) then freezeTrigger 5 s
  else s

/-- Power, clocks, thermal and Tableau triggers (R459). -/
def writePower (o v : Nat) (s : State) : State :=
  let p := s.pwr
  if o == 0x08 then (let c := v % 2 ^ 13; if 2000 ≤ c && c ≤ 4400 then { s with pwr.capW := c } else s)
  else if o == 0x10 then
    onBit v 7 execPwrEvtClr
      { s with pwr := { p with logOvf := w1c v 6 p.logOvf, powerCap := w1c v 5 p.powerCap, regHot := w1c v 4 p.regHot, ocWarn := w1c v 3 p.ocWarn
                               senseOpen := w1c v 2 p.senseOpen, inputOv := w1c v 1 p.inputOv, inputUv := w1c v 0 p.inputUv } }
  else if o == 0x20 then { s with pwr := { p with refLost := w1c v 3 p.refLost } }
  else if o == 0x28 then
    onBit v 3 execThermClr
      { s with pwr := { p with flowEv := w1c v 2 p.flowEv, hotEv := w1c v 1 p.hotEv, throttle := w1c v 0 p.throttle } }
  else if o == 0x40 then
    let s1 := onBit v 8 execTabIgnClr
      { s with tab.evCode := bitsOf v 63 48, tab.arm := bitOf v 6, tab.enFault := bitOf v 5, tab.enCue := bitOf v 4, tab.enEvent := bitOf v 3 }
    if bitOf v 7 then onBit v 7 execFreeze s1 else armTrigger s1
  else if o == 0x48 then { s with tab.cueAt := v % 2 ^ 64 }
  else s

/-- Cue (R319). -/
def writeCue (o v : Nat) (s : State) : State :=
  let c := s.cueRegs
  if o == 0x10 then
    onBit v 4 execCueEvtClr
      { s with cueRegs := { c with tree := w1c v 3 c.tree, stall := w1c v 2 c.stall, late := w1c v 1 c.late, unlock := w1c v 0 c.unlock } }
  else if o == 0x18 then
    { s with cueRegs.ndMap := (List.range 64).foldl (fun m i => if bitOf v i then setBitTo m i false else m) c.ndMap }
  else s

/-- Replace bytes 8 i to 8 i + 7 of a 32-byte number. -/
def putWord (n i v : Nat) : Nat := n - bitsOf n (64 * i + 63) (64 * i) * 2 ^ (64 * i) + v % 2 ^ 64 * 2 ^ (64 * i)

/-- TRP_EVT (R344). -/
def writeTrp (t o v : Nat) (s : State) : State :=
  if o == 0x38 then
    onBit v 7 (execTrpEvtClr t) (s.modTroupe t (fun (x : Troupe) =>
      let r := x.regs
      { x with regs := { r with dclassDiff := w1c v 6 r.dclassDiff, torn := w1c v 5 r.torn, restored := w1c v 4 r.restored, saved := w1c v 3 r.saved
                                semSat := w1c v 2 r.semSat, xlat := w1c v 1 r.xlat } }))
  else s

/-- TRP_FLY_EVT and TRP_FLY_SRC (R241). -/
def writeFly (t o v : Nat) (s : State) : State :=
  if o == 0x20 then
    onBit v 5 (execFlyEvtClr t) (s.modGen t (fun (g : Gen) =>
      let r := g.vr
      { g with vr := { r with throttle := w1c v 4 r.throttle, flyNf := w1c v 3 r.flyNf, skipped := w1c v 2 r.skipped, flyWait := w1c v 1 r.flyWait
                              curtain := w1c v 0 r.curtain } }))
  else if o == 0x30 then s.modLregs t (fun (r : LrnRegs) => { r with stall := w1c v 0 r.stall })
  else s

/-- The learner's and optimizer's event registers (R186, R217). -/
def writeLrn (w t o v : Nat) (s : State) : State :=
  if w == 5 && o == 0x18 then
    onBit v 4 (execLrnEvtClr t) (s.modLregs t (fun (r : LrnRegs) =>
      { r with verdictLate := w1c v 3 r.verdictLate, lateLeaf := w1c v 2 r.lateLeaf, skip := w1c v 1 r.skip, commit := w1c v 0 r.commit }))
  else if w == 7 && o == 0x08 then
    onBit v 5 (execOptEvtClr t) (s.modLregs t (fun (r : LrnRegs) =>
      { r with whetMem := w1c v 4 r.whetMem, gsetLate := w1c v 3 r.gsetLate, gsetDone := w1c v 2 r.gsetDone, fallback := w1c v 1 r.fallback
               frozen := w1c v 0 r.frozen }))
  else s

/-- Troupe table. The Flint seed registers stage bytes (R160). -/
def writeTroupe (o v : Nat) (s : State) : State :=
  let (w, t, r) := troupeWindow o
  if !s.hasTroupe t then s
  else if w == 0 then writeTrp t r v s
  else if w == 2 && r == 0x18 then
    onBit v 2 (execKvEvtClr t) (s.modKv t (fun (k : KvRegs) => { k with diverge := w1c v 1 k.diverge, format := w1c v 0 k.format }))
  else if w == 3 && r ≤ 0x18 then s.modTroupe t (fun (x : Troupe) => { x with flint.staged := putWord x.flint.staged (r / 8) v })
  else if w == 3 && r == 0x20 then onBit v 0 (execFlintLoad t) (onBit v 1 (execFlintCntClr t) s)
  else if w == 3 && r == 0x28 then
    s.modTroupe t (fun (x : Troupe) => { x with flint.busy := w1c v 1 x.flint.busy, flint.loaded := w1c v 0 x.flint.loaded })
  else if w == 4 then writeFly t r v s
  else if w == 5 || w == 7 then writeLrn w t r v s
  else if w == 6 && r == 0x18 then
    onBit v 6 (execExpEvtClr t) (s.modRing t (fun (x : Ring) =>
      { x with doneBad := w1c v 5 x.doneBad, sealBad := w1c v 4 x.sealBad, sealcntBad := w1c v 3 x.sealcntBad, full := w1c v 2 x.full
               drop := w1c v 1 x.drop, written := w1c v 0 x.written }))
  else s

/-- THL (R399). -/
def writeThl (o v : Nat) (s : State) : State :=
  let r := s.thl.regs
  if o == 0x08 then stateAfter s (execEnable v s)
  else if o == 0x10 then stateAfter s (execAdminQueueWrite 0 v s)
  else if o == 0x18 then stateAfter s (execAdminQueueWrite 1 v s)
  else if o == 0x20 then stateAfter s (execAdminQueueWrite 2 v s)
  else if o == 0x28 then
    onBit v 5 execThlEvtClr
      { s with thl.regs := { r with hostFault := w1c v 4 r.hostFault, regFail := w1c v 3 r.regFail, dbBad := w1c v 2 r.dbBad
                                    evqDrop := w1c v 1 r.evqDrop, narrow := w1c v 0 r.narrow } }
  else match doorbellOf o with
    | some (k, q) => stateAfter s (execDoorbell k q v s)
    | none => s

/-- The THL Tableau registers, which stay active while the module is frozen (R454, R459). -/
def writeTab (o v : Nat) (s : State) : State :=
  let t := s.tab
  if o == 0x4000 then { s with tab := { t with bad := w1c v 54 t.bad, done := w1c v 53 t.done } }
  else if o == 0x4008 then onBit v 0 execResume (onBit v 2 execMemread (onBit v 1 execRead s))
  else if o == 0x4010 then { s with tab := { t with dma := bitsOf v 63 12 * 4096 } }
  else if o == 0x4018 then { s with tab := { t with memStack := bitsOf v 63 59, memPages := bitsOf v 45 32, memPage := bitsOf v 13 0 } }
  else s

/-- Error watch and checkpoint (R267, R373). -/
def writeWatch (o v : Nat) (s : State) : State :=
  let w := s.ckpt.watch
  let j := (o - 0x200) / 0x20
  if o == 0x08 then
    onBit v 5 execWchEvtClr
      { s with ckpt.watch := { w with reg := w1c v 4 w.reg, therm := w1c v 3 w.therm, retrain := w1c v 2 w.retrain, retry := w1c v 1 w.retry, ce := w1c v 0 w.ce } }
  else if o == 0x100 then
    let d := bitsOf v 47 32
    let h := bitsOf v 31 24
    { s with wt.digestMin := (if 1 ≤ d && d ≤ 1440 then d else s.wt.digestMin), wt.patrolH := (if 1 ≤ h && h ≤ 168 then h else s.wt.patrolH) }
  else if o == 0x108 then onBit v 2 execScrubEvtClr { s with wt.round := w1c v 1 s.wt.round, wt.fail := w1c v 0 s.wt.fail }
  else if 0x200 ≤ o && o < 0x400 && o % 0x20 == 0x18 && (s.job? j).isSome then
    onBit v 6 (execWchCkptEvtClr j) (s.modJob j (fun x =>
      { x with ue := w1c v 5 x.ue, abort := w1c v 4 x.abort, heldEv := w1c v 3 x.heldEv, s1Done := w1c v 2 x.s1Done, s0Done := w1c v 1 x.s0Done
               cut := w1c v 0 x.cut }))
  else if o == 0x400 then { s with ckpt.sub.subDone := w1c v 0 s.ckpt.sub.subDone }
  else s

/-- Does an FP32 word lie in 1.0 to 2.0 (PORT_RANGE_CAL.GIDX)? -/
def gidxOk (g : Nat) : Bool := 0x3F800000 ≤ g && g ≤ 0x40000000

/-- Ports (R301). -/
def writePort (p o v : Nat) (s : State) : State :=
  let lr := p == 16 || p == 17
  if o == 0x10 then onBit v 3 (execAccept p) (onBit v 2 (execRelease p) (onBit v 0 (execRetrain p) (onBit v 1 (execPortClr p) s)))
  else if o == 0x18 then
    s.modPort p (fun x =>
      { x with rangeShift := w1c v 7 x.rangeShift, lrWindow := w1c v 6 x.lrWindow, lrAuth := w1c v 5 x.lrAuth, tag := w1c v 4 x.tag
               miswire := w1c v 3 x.miswire, belowMin := w1c v 2 x.belowMin, down := w1c v 1 x.down, up := w1c v 0 x.up })
  else if lr && o == 0x40 then
    let n := bitsOf v 47 32
    let s1 := s.modPort p (fun x => { x with rangeS := (if 1 ≤ n && n ≤ 3600 then n else x.rangeS) })
    stateAfter s1 (execRefMmWrite p (v % 2 ^ 32) s1)
  else if lr && o == 0x48 then
    let g := bitsOf v 63 32
    s.modPort p (fun x => { x with gidx := (if gidxOk g then g else x.gidx), extPs := v % 2 ^ 32 })
  else s

/-- Stacks. -/
def writeStack (n o v : Nat) (s : State) : State :=
  if o == 0x08 then
    onBit v 3 (execStkEccClr n) (s.modStack n (fun (k : Stack) =>
      { k with patrolDone := w1c v 2 k.patrolDone, ue := w1c v 1 k.ue, ce := w1c v 0 k.ce }))
  else if o == 0x208 then onBit v 2 (execWhetStatusClr n) (s.modStack n (fun (k : Stack) => { k with memErr := w1c v 1 k.memErr }))
  else if o == 0x300 then if bitOf v 1 then s.modStack n (fun (k : Stack) => { k with stallCnt := 0 }) else s
  else s

/-- Do a core's live flags take a write: its troupe is not SAVING or RESTORING (R345)? -/
def liveWritable (s : State) (c : Nat) : Bool :=
  let t := (s.core c).regs.troupe
  !(t < 64 && ((s.troupe t).regs.state == .saving || (s.troupe t).regs.state == .restoring))

/-- Cores (R48, R81 to R84, R345). A write of CORE_CTRL with several bits acts on ND_CLR, then STOP, then START (assumption 74). -/
def writeCore (c o v : Nat) (s : State) : State :=
  if o == 0x00 then
    onBit v 2 (execFaultClear c) (s.modRegs c (fun (r : CoreRegs) => { r with haltEv := w1c v 1 r.haltEv, ndSeen := w1c v 0 r.ndSeen }))
  else if o == 0x08 then onBit v 0 (execCoreStart c) (onBit v 1 (execCoreStop c) (onBit v 2 (execNdClr c) s))
  else if o == 0x10 then stateAfter s (execCorePcWrite c (BitVec.ofNat 64 v) s)
  else if o == 0x20 then if liveWritable s c then s.modRegs c (fun (r : CoreRegs) => { r with live0 := BitVec.ofNat 64 v }) else s
  else if o == 0x28 then if liveWritable s c then s.modRegs c (fun (r : CoreRegs) => { r with live1 := BitVec.ofNat 64 (v % 2 ^ 32) }) else s
  else if o == 0x100 then
    onBit v 6 (execArithCntClr c) (s.modCore c (fun (k : Core) =>
      let a := k.arith
      { k with arith := { a with chunkAlign := w1c v 5 a.chunkAlign, tagInvalid := w1c v 4 a.tagInvalid, convSat := w1c v 3 a.convSat
                                 awHigh := w1c v 2 a.awHigh, awLow := w1c v 1 a.awLow, nf := w1c v 0 a.nf } }))
  else s

/-- A write of a word to the register at an offset (R461, R463); discarded where there is none (R462). -/
def regPut (off v : Nat) (s : State) : State :=
  let b := off / 0x10000
  let o := off % 0x10000
  if b == 0 then writeIdent o v s
  else if b == 1 then writeEvents o v s
  else if b == 2 then writeBoot o v s
  else if b == 3 then writePower o v s
  else if b == 4 then writeCue o v s
  else if b == 5 then writeTroupe o v s
  else if b == 6 then writeThl o v s
  else if b == 8 then writeWatch o v s
  else if 0x10 ≤ b && b < 0x22 then (if portEnabled s (b - 0x10) then writePort (b - 0x10) o v s else s)
  else if 0x40 ≤ b && b < 0x54 then (if bitOf (variantRec s).stackMask (b - 0x40) then writeStack (b - 0x40) o v s else s)
  else if 0x100 ≤ b && b < 0x500 then
    let t := b / 0x100 - 1
    let x := off % 0x1000000
    if x / 0x10000 < 68 && coreThere s (68 * t + x / 0x10000) then writeCore (68 * t + x / 0x10000) (x % 0x10000) v s else s
  else s

/-- Is an offset one of the THL Tableau registers? -/
def isTabReg (off : Nat) : Bool := 0x64000 ≤ off && off ≤ 0x64018

/-- A write that reaches the module: in a freeze only the THL Tableau registers take it (R454). -/
def hostWriteReg (off v : Nat) (s : State) : State :=
  if isTabReg off then (if s.boot == .reset then s else writeTab (off % 0x10000) v s) else if s.alive then regPut off v s else s

/-- A read that reaches the module; `none` where the hub answers none (R454). -/
def hostReadReg (off : Nat) (s : State) : Option Nat :=
  if (isTabReg off && s.boot != .reset) || s.alive then some (regRead s off) else none

/-! ### The commands -/

/-- What a read that is not answered, or that is rejected, returns. -/
def allOnes : Nat := 0xFFFFFFFFFFFFFFFF

/-- A rejected access (R462): recorded in HUB_ACC_ERR; a read returns all ones, a write is discarded. -/
def rejectAccess (off : Nat) (wr : Bool) (s : State) : State :=
  let s1 := { s with accErr := { cnt := inc16 s.accErr.cnt, offset := off % 2 ^ 40 / 8 * 8, kind := wr, err := true } }
  if wr then s1 else answerRead [allOnes] s1

/-- REJECTED_ACCESS: an access that is not 8 bytes wide or not aligned to 8 (R462). -/
def execRejectedAccess (off : Nat) (wr : Bool) (s : State) : Host.Outcome State Fault Refusal := regWrite (rejectAccess off wr) s

/-- ACC_ERR_CLR: a write of 1 to HUB_ACC_ERR.CLR (R462). -/
def execAccErrClr (s : State) : Host.Outcome State Fault Refusal := regWrite (fun s => { s with accErr.cnt := 0 }) s

/-- REGISTER_WRITE: 8 bytes to a register offset; each field takes the write by its access code (R8, R9, R461). -/
def execRegisterWrite (off v : Nat) (s : State) : Host.Outcome State Fault Refusal :=
  if off % 8 != 0 then regWrite (rejectAccess off true) s else nextS (hostWriteReg off v s)

/-- A relayed access failed (R398): THL_EVT.REG_FAIL and its counter. -/
def relayFails (s : State) : State := { s with thl.regs.regFail := true, thl.regs.regFailCnt := inc16 s.thl.regs.regFailCnt }

/-- REGISTER_ACCESS_RELAY: an access through BAR2 to slot `n`: `wr` is the word written, or none for a read; `answer` what a follower returns
to a read within 1 ms. The slot of the module itself is served directly, a PRESENT follower's over tag 0xFFF; an access to another slot is
discarded, and a read that gets no answer returns all ones (R398). -/
def execRegisterAccessRelay (n off : Nat) (wr answer : Option Nat) (s : State) : Host.Outcome State Fault Refusal :=
  nextS (
    if n == s.thl.ens.mySlot then
      (if s.boot == .reset then s
       else if off % 8 != 0 then (if s.alive then rejectAccess off wr.isSome s else s)
       else match wr with
        | some v => hostWriteReg off v s
        | none => answerRead [(hostReadReg off s).getD allOnes] s)
    else if !s.alive || !isLead s then s
    else if (slotRow s n).state != 2 then
      let s1 := relayFails s
      if wr.isSome then s1 else answerRead [allOnes] s1
    else match wr, answer with
      | some v, _ => sendFab { kind := "reg_write", dest := (slotRow s n).lmid, vals := [off, v] } s
      | none, some a => answerRead [a] s
      | none, none => answerRead [allOnes] (relayFails s))

end Sys2Proof.Machine
end

