-- ==== Sys2Proof/Machine/Samp.lean ====
section
/-! DEFINITION. The SAMP class (R103 to R110): masks, draws and speculative acceptance over rows of FP32 scores in the core store.
The spec gives the class no layout: the row's addresses and the slot are operands (assumption 18). -/

namespace Sys2Proof.Machine

/-- A row of `n` FP32 values in the core store. -/
def rowAt (k : Core) (a n : Nat) : List F32 := (List.range n).map (fun i => BitVec.ofNat 32 (k.store.nat (a + 4 * i) 4))

/-- A row with the indices of its entries. -/
def indexed (z : List F32) : List (F32 × Nat) := List.zip z (List.range z.length)

/-- Does a judged row stop its sequence: a NaN or +∞, or no finite value (R104)? -/
def rowBad (z : List F32) : Bool := z.any f32NanOrInf || !z.any f32Finite

/-- Is TEMP zero? -/
def tempZero (r : ReqRecord) : Bool := r.temp % 0x80000000 == 0

/-- Step 1 of R103: z = s / T; the scores themselves at T = 1.0, and at T = 0, where they are not divided. -/
def tempered (r : ReqRecord) (row : List F32) : List F32 :=
  if tempZero r || r.temp == 0x3F800000 then row else row.map (fun x => f32Div x (BitVec.ofNat 32 r.temp))

/-- Does x come before y: the larger value, then the lower index (R103)? -/
def zBefore (x y : F32 × Nat) : Bool := if f32Lt y.1 x.1 then true else if f32Lt x.1 y.1 then false else x.2 < y.2

/-- Insert by that order. -/
def zInsert (x : F32 × Nat) : List (F32 × Nat) → List (F32 × Nat)
  | [] => [x]
  | y :: ys => if zBefore x y then x :: y :: ys else y :: zInsert x ys

/-- Entries in order, largest first. -/
def zSorted (xs : List (F32 × Nat)) : List (F32 × Nat) := xs.foldl (fun l x => zInsert x l) []

/-- The length of the shortest leading run whose running sum reaches `thr` (R103 step 3). -/
def runLen (thr : F32) : List F32 → F32 → Nat → Nat
  | [], _, k => k
  | e :: es, sum, k =>
    let s1 := if k == 0 then e else f32Add sum e
    if f32Lt s1 thr then runLen thr es s1 (k + 1) else k + 1

/-- The largest value of a row of values that are not NaN; -∞ for none. -/
def rowMax (z : List F32) : F32 := z.foldl (fun m x => if f32Lt m x then x else m) (f32Inf true)

/-- The indices that top-k and top-p keep of the tempered row (R103 steps 2 and 3); entries of -∞ are masked (R104). -/
def keptOf (r : ReqRecord) (z : List F32) : List Nat :=
  let order := zSorted ((indexed z).filter (fun x => x.1 != f32Inf true))
  let top := if r.topK == 0 then order else order.take r.topK
  if r.topP == 0x3F800000 then top.map (·.2)
  else
    let m := rowMax (top.map (·.1))
    let ks := top.map (·.2)
    let e := fun (x : F32) => fexp (f32Sub x m)
    let sum := treeSum ((indexed z).map (fun x => if ks.contains x.2 then e x.1 else 0))
    let n := runLen (f32Mul (BitVec.ofNat 32 r.topP) sum) (top.map (fun x => e x.1)) 0 0
    (top.take n).map (·.2)

/-- A row with every entry outside `ks` masked to -∞. -/
def maskRow (z : List F32) (ks : List Nat) : List F32 := (indexed z).map (fun x => if ks.contains x.2 then x.1 else f32Inf true)

/-- The masked row that a draw reads: the tempered row under its masks, or at T = 0 the scores (R103). -/
def maskedRow (r : ReqRecord) (row : List F32) : List F32 :=
  let z := tempered r row
  if tempZero r then z else maskRow z (keptOf r z)

/-- The logical element index of a generation draw (R106). -/
def drawIndex (purpose pos v : Nat) : Nat := purpose * 2 ^ 62 + pos % 2 ^ 30 * 2 ^ 32 + v % 2 ^ 32

/-- Gumbel-max over the entries that are not -∞; among equal sums the lower index (R103 steps 4 and 5). -/
def gumbelMax (key : Nat) (r : ReqRecord) (purpose pos : Nat) (z : List F32) : Nat :=
  match discBest (((indexed z).filter (fun x => x.1 != f32Inf true)).map (fun x =>
      (f32Add x.1 (gumbelOf (flintField key r.sstream (drawIndex purpose pos x.2) 32)), x.2))) with
  | some b => b.2
  | none => 0

/-- The index of the largest entry, the lower index among equal ones. -/
def argMax (z : List F32) : Nat :=
  match zSorted ((indexed z).filter (fun x => x.1 != f32Inf true)) with
  | x :: _ => x.2
  | [] => 0

/-- Draw a token from a masked row (R103). -/
def drawToken (key : Nat) (r : ReqRecord) (purpose pos : Nat) (masked : List F32) : Nat :=
  if tempZero r then argMax masked else gumbelMax key r purpose pos masked

/-- ln q of entry `x` in the softmax of the entries that are not -∞ of a row (R105). -/
def lnSoft (z : List F32) (x : Nat) : F32 :=
  let m := rowMax z
  let sum := treeSum (z.map (fun v => if v == f32Inf true then 0 else fexp (f32Sub v m)))
  f32Sub (nth 0 z x) (f32Add m (fln sum))

/-- LOGP of a token from the policy's scores and their masked row (R105). -/
def logpOf (r : ReqRecord) (scores masked : List F32) (x : Nat) : F32 :=
  if tempZero r || reqLp r == 2 then lnSoft scores x
  else if reqLp r == 1 then lnSoft masked x
  else lnSoft (tempered r scores) x

/-- The distribution over a masked row: EXP(z - m) / S, +0 for a masked entry (R109). -/
def probsOf (masked : List F32) : List F32 :=
  let m := rowMax masked
  let e := masked.map (fun v => if v == f32Inf true then (0 : F32) else fexp (f32Sub v m))
  let sum := treeSum e
  List.zipWith (fun v x => if v == f32Inf true then (0 : F32) else f32Div x sum) masked e

/-- The frame of a SAMP instruction: VL is 1 to 256 (R71), the slot lies in the troupe's range (R468), the rows lie in the core store (R66); a slot that
holds no sequence has no row to sample. -/
def sampIssue (c : Nat) (w : VecWord) (slot : Nat) (rows : List (Nat × Nat)) (body : Nat → GSlot → State → State) (s : State) :
    Host.Outcome State Fault Refusal :=
  coreIssue c w.nd (fun s =>
    let t := (s.core c).regs.troupe
    let g := s.gen t
    if !vlOk w || !isGen s t || slot < g.cfg.slotBase || g.cfg.slotBase + g.cfg.slotCount ≤ slot then .refuse rfOpInvalid
    else if rows.any (fun r => storeBytes < r.1 + r.2) then .refuse rfStoreRange
    else
      match mapFind g.slots slot with
      | none => .ok s
      | some x => .ok (body t x s)) s

/-- SAMP_MASK: the masked row of a row of scores (R103). It judges no row: only a draw that reads it does (R104). The masks of a row that
R104 would stop are free values (assumption 79). -/
def execSampMask (c : Nat) (w : VecWord) (slot n src dst : Nat) (s : State) : Host.Outcome State Fault Refusal :=
  sampIssue c w slot [(src, 4 * n), (dst, 4 * n)] (fun _ x s =>
    let row := rowAt (s.core c) src n
    let (z, s1) := if rowBad (tempered x.record row) then
        let (k, s1) := s.draw
        ((List.range n).map (Config.maskBeyond k), s1)
      else (maskedRow x.record row, s)
    chargeVec c (ceilDiv n 64) (s1.modCore c (fun (k : Core) =>
      { k with store := k.store.writeN dst (z.flatMap (fun v => leBytes 4 v.toNat)) }))) s

/-- SAMP_DRAW: a token from a masked row: the policy's with its LOGP from the scores (`draft` false, PURPOSE 0), or a draft proposal
(PURPOSE 1), at the position that follows the sequence's tokens and samples (R103, R105). A step proposes at most d draft tokens and
draws one policy token beside those that an accept yields (R108, R109): a draw beyond them changes nothing. -/
def execSampDraw (c : Nat) (w : VecWord) (slot n scores masked : Nat) (draft : Bool) (s : State) :
    Host.Outcome State Fault Refusal :=
  sampIssue c w slot [(scores, 4 * n), (masked, 4 * n)] (fun t x s =>
    let z := rowAt (s.core c) masked n
    let sc := rowAt (s.core c) scores n
    if x.nf || (if draft then draftCount x ≤ x.props.length else !x.drawn.isEmpty) then s
    else if rowBad (tempered x.record sc) then s.modSlot t slot (fun y => { y with nf := true })
    else
      let key := coreKey s c
      let base := x.record.p + x.toks.length
      let s1 := chargeVec c (ceilDiv n 16) s
      if draft then
        let tok := drawToken key x.record 1 (base + x.props.length) z
        s1.modSlot t slot (fun y => { y with props := y.props ++ [tok] })
      else
        let tok := drawToken key x.record 0 (base + x.drawn.length) z
        s1.modSlot t slot (fun y => { y with drawn := y.drawn ++ [(tok, (logpOf x.record sc z tok).toNat)] })) s

/-- What a speculative accept yields: tokens with LOGP, how many proposals were accepted, and whether a row stopped it. -/
structure SpecOut where
  toks : List (Nat × Nat) := []
  acc  : Nat := 0
  bad  : Bool := false

/-- Judge the proposals in order (R109): `dr` and `pr` give the draft's and the policy's scores of proposal `i`. -/
def specRun (key : Nat) (r : ReqRecord) (n : Nat) (dr pr : Nat → List F32) : List Nat → Nat → SpecOut
  | [], i =>
    let row := pr i
    if rowBad (tempered r row) then { bad := true }
    else
      let z := maskedRow r row
      let tok := drawToken key r 0 (n + i) z
      { toks := [(tok, (logpOf r row z tok).toNat)] }
  | x :: xs, i =>
    let row := pr i
    if rowBad (tempered r row) || rowBad (tempered r (dr i)) then { bad := true }
    else
      let z := maskedRow r row
      let lp := fun (tok : Nat) => (logpOf r row z tok).toNat
      let accept := fun (_ : Unit) =>
        let o := specRun key r n dr pr xs (i + 1)
        { o with toks := (x, lp x) :: o.toks, acc := o.acc + 1 }
      if tempZero r then
        let b := argMax z
        if b == x then accept () else { toks := [(b, lp b)] }
      else
        let qt := probsOf z
        let qd := probsOf (maskedRow r (dr i))
        let u := uniformOf (flintField key r.sstream (drawIndex 2 (n + i) 0) 32)
        if f32Lt (f32Mul u (nth 0 qd x)) (nth 0 qt x) then accept ()
        else
          let res := List.zipWith (fun a b => let v := f32Sub a b; if f32Lt 0 v then v else (0 : F32)) qt qd
          let tok :=
            if res.all (fun v => f32IsZero v) then gumbelMax key r 3 (n + i) z
            else gumbelMax key r 3 (n + i) (res.map fln)
          { toks := [(tok, lp tok)] }

/-- SAMP_ACCEPT: judges the sequence's proposals against the policy's rows and yields the step's tokens; `drafts` and `policies` are
the addresses of the draft's and the policy's rows of scores, one after another (R109). -/
def execSampAccept (c : Nat) (w : VecWord) (slot n drafts policies : Nat) (s : State) : Host.Outcome State Fault Refusal :=
  sampIssue c w slot [] (fun t x s =>
    let k := s.core c
    if x.nf then s
    else
      let o := specRun (coreKey s c) x.record (x.record.p + x.toks.length) (fun i => rowAt k (drafts + 4 * n * i) n)
        (fun i => rowAt k (policies + 4 * n * i) n) x.props 0
      let s1 := chargeVec c (ceilDiv n 16 * (x.props.length + 1)) s
      if o.bad then s1.modSlot t slot (fun y => { y with nf := true })
      else s1.modSlot t slot (fun y => { y with drawn := o.toks, acc := o.acc })) s

end Sys2Proof.Machine
end

