-- ==== Sys2Proof/Machine/Sync.lean ====
section
/-! DEFINITION. The SYNC class (R78, R315, R316, R327, R328) and the ends of its waits. -/

namespace Sys2Proof.Machine

/-- FENCE_L: every earlier instruction has completed, its writes included; an instruction's effects are complete when it has
issued (R50, R78). -/
def execFenceL (c : Nat) (nd : Bool) (s : State) : Host.Outcome State Fault Refusal :=
  coreIssue c nd .ok s

/-- FENCE_M: waits until every posted descriptor has completed (R78). -/
def execFenceM (c : Nat) (nd : Bool) (s : State) : Host.Outcome State Fault Refusal :=
  coreIssue c nd (fun s =>
    if (s.core c).descs.isEmpty then .ok s
    else .ok (s.modRegs c (fun (r : CoreRegs) => { r with wait := .fenceM }))) s

/-- SEM_SIG: adds a count to a semaphore of the core's troupe (R78, R327). -/
def execSemSig (c : Nat) (nd : Bool) (sem count : Nat) (s : State) : Host.Outcome State Fault Refusal :=
  coreIssue c nd (fun s =>
    let t := (s.core c).regs.troupe
    if !semNamed s t sem then .refuse rfOpInvalid else .ok (semAdd t sem count s)) s

/-- SEM_WAIT: goes on once the count has reached the operand, which it leaves unchanged (R78). -/
def execSemWait (c : Nat) (nd : Bool) (sem count : Nat) (s : State) : Host.Outcome State Fault Refusal :=
  coreIssue c nd (fun s =>
    let t := (s.core c).regs.troupe
    if !semNamed s t sem then .refuse rfOpInvalid
    else if count ≤ semGet s t sem then .ok s
    else .ok (s.modRegs c (fun (r : CoreRegs) => { r with wait := .sem sem count false }))) s

/-- SEM_TAKE: needs ND (R53); takes the count once it is reached, in the order of acceptance (R78). -/
def execSemTake (c : Nat) (nd : Bool) (sem count : Nat) (s : State) : Host.Outcome State Fault Refusal :=
  coreIssue c nd (fun s =>
    let t := (s.core c).regs.troupe
    if !nd then .refuse rfNdRequired
    else if !semNamed s t sem then .refuse rfOpInvalid
    else if count ≤ semGet s t sem && !earlierTaker s c ((s.troupe t).cfg.semBase + sem) then
      .ok (semSet t sem (semGet s t sem - count) s)
    else
      .ok ({ s with takers := s.takers.filter (fun x => x != c) ++ [c] }.modRegs c
        (fun (r : CoreRegs) => { r with wait := .sem sem count true }))) s

/-- SEM_WAIT_SATISFIED: a waiting SEM.WAIT or SEM.TAKE finds its count reached and completes (R78). -/
def execSemWaitSatisfied (c : Nat) (s : State) : Host.Outcome State Fault Refusal :=
  engine (semWaitDone c) s

/-- QPOP: needs ND (R53); takes the oldest entry of a queue of the troupe, or waits while it is empty (R328). A queue that the
troupe does not have is refused with OP_INVALID. -/
def execQpop (c : Nat) (nd : Bool) (q rd : Nat) (s : State) : Host.Outcome State Fault Refusal :=
  coreIssue c nd (fun s =>
    let t := (s.core c).regs.troupe
    if !nd then .refuse rfNdRequired
    else if (s.troupe t).cfg.queues.length ≤ q then .refuse rfOpInvalid
    else if (s.queue t q).count == 0 then .ok (s.modRegs c (fun (r : CoreRegs) => { r with wait := .qpop q rd }))
    else .ok (popQueue c q rd s)) s

/-- QUEUE_ENTRY_AVAILABLE: a waiting QPOP takes an entry that has arrived (R328). Of several cores that wait the one whose event comes first takes
it (assumption 74). -/
def execQueueEntryAvailable (c : Nat) (s : State) : Host.Outcome State Fault Refusal :=
  engine (qpopDone c) s

/-- Did core `c` arrive at barrier `b` before a switch, and has that instance been released since (R336, R338)? -/
def releasedAway (s : State) (c t b : Nat) : Bool :=
  match (s.core c).regs.kept with
  | some (b', i) => b' == b && i < (s.bar t b).instNo
  | none => false

/-- CUE_WAIT: a CUE.WAIT abandoned by a switch completes at once, late, if its instance has been released meanwhile (R338); else it waits for an absolute Cue count, or arrives at a barrier (R315, R316). -/
def execCueWait (c : Nat) (w : CueWord) (s : State) : Host.Outcome State Fault Refusal :=
  coreIssue c w.nd (fun s =>
    let t := (s.core c).regs.troupe
    if w.mode then
      match barrierEnt s t w.bar with
      | none => .refuse rfOpInvalid
      | some _ =>
        let s1 := s.modRegs c (fun (r : CoreRegs) => { r with kept := none })
        if releasedAway s c t w.bar then
          let rel := (s.bar t w.bar).lastRel
          .ok (lateCue t w.bar rel (s1.modCore c (fun k => k.sPut w.sx (BitVec.ofNat 64 rel))))
        else .ok (checkBarriers t (s1.modRegs c (fun (r : CoreRegs) => { r with wait := .barrier w.bar w.sx })))
    else
      let target := ((s.core c).sGet w.sx).toNat
      if target ≤ s.cue then .ok s
      else .ok (s.modRegs c (fun (r : CoreRegs) => { r with wait := .cue target }))) s

/-- CUE_WAIT_RELEASE: the Cue count has reached the target of an absolute CUE.WAIT and the core issues again (R315). -/
def execCueWaitRelease (c : Nat) (s : State) : Host.Outcome State Fault Refusal :=
  engine (cueWaitDone c) s

end Sys2Proof.Machine
end

