-- ==== Sys2Proof/Machine/Understudy.lean ====
section
/-! DEFINITION. Understudies (R369 to R372): staging, substitution, and filling the troupes that were taken over. -/

namespace Sys2Proof.Machine

/-- Is this module cast as the understudy of a group (R369, R390)? -/
def isUnderstudy (s : State) : Bool :=
  s.boot == .ready && !s.thl.ens.standalone && (mapGet {} s.thl.ens.table s.thl.ens.mySlot).role == 2

/-- The understudy group of an LMID. -/
def groupOfLmid (s : State) (l : Nat) : Option Nat := (slotOfLmid s l).map (fun n => (slotRow s n).group)

/-- How an image for a substitution is judged: as a casting image (R369, R425), but for CAST_BUSY. -/
def judgeSub (l : Nat) (img : CastImage) (area : Nat) (agree : Bool) (s : State) : Nat :=
  let st := judgeObject img area s
  if st != stOk then st
  else if img.lmid != l then stCastInvalid
  else if !variantOk s.record img then stVariantLimit
  else judgeSections img agree s

/-- UND_STAGE: an image for an LMID is staged on the understudy (R369); a module that is none holds none (SUB_NONE). -/
def execUndStage (h : CmdHdr) (l len : Nat) (img : CastImage) (agree : Bool) (s : State) : Host.Outcome State Fault Refusal :=
  hostCmd h opUndStage (fun s =>
    if !isUnderstudy s then complete h opUndStage stSubNone s
    else
      let st := judgeSub l img len agree s
      if st != stOk then complete h opUndStage st s
      else complete h opUndStage stOk { s with ckpt.sub.staged := mapPut s.ckpt.sub.staged l img }) s

/-- The image that the understudy applies (R371 step 2): the failed module's, with the understudy's own cores, ports, routes and parent
port. -/
def mergedImage (own img : CastImage) : CastImage :=
  { img with cores := own.cores, ports := own.ports, routes := own.routes, master := own.master, parent := own.parent }

/-- Step 5: the understudy reports, and the lead raises SUB_DONE with the LMID and the Cue counts of steps 1 to 5 (R371). -/
def subEnds (s : State) : State :=
  let x := s.ckpt.sub
  let ts := x.t ++ [s.cue, s.cue]
  let s1 := { s with ckpt.sub := { x with state := 4, subDone := true, t := ts, waits := [] } }
  let s2 := releaseAllHeld (changeSlot s1.thl.ens.mySlot 2 false s1)
  if isLead s2 then raiseModule evSubDone (leBytes 2 x.lmid ++ ts.flatMap (leBytes 8)) s2
  else sendFab { kind := "sub_done", dest := (slotRow s2 0).lmid, vals := x.lmid :: ts } s2

/-- The understudy takes the LMID over: fence, apply, route (R371 steps 1 to 3), and its troupes wait to be filled. -/
def takeOver (l : Nat) (img : CastImage) (s : State) : State :=
  let own := match s.cast with
    | some c => c
    | none => img
  let n := match slotOfLmid s l with
    | some n => n
    | none => 0
  let s1 := changeSlot n 3 true (fencePorts l { s with ckpt.sub.lmid := l, ckpt.sub.state := 1 })
  let s2 := finishCast none (mergedImage own img) { s1 with ckpt.sub.state := 2, cast := some { own with lmid := img.lmid } }
  let s3 := { s2 with thl.ens := { s1.thl.ens with mySlot := n } }
  let s4 := (s3.fab.ports.map (·.1)).foldl (fun s p =>
    if (s.port p).cfg.role == 2 then s.modPort p (fun x => { x with subLmid := some l }) else s) s3
  let e := slotRow s4 n
  let s5 := changeSlot n 2 true (putSlot n { e with serial := s4.record.serial % 2 ^ 40, beatAt := s4.cue } s4)
  let ts := presentTroupes s5
  let s6 := pump { s5 with ckpt.sub.state := 3, ckpt.sub.t := [s5.cue, s5.cue, s5.cue], ckpt.sub.waits := ts }
  if ts.isEmpty then subEnds s6 else s6

/-- Does R370 refuse a substitution with SUB_NONE: the understudy holds an LMID already, is marked failed, or is not cast? -/
def subNone (s : State) (l : Nat) : Bool :=
  !isUnderstudy s || s.ckpt.sub.lmid != 0xFFF || (slotRow s s.thl.ens.mySlot).state == 3 || groupOfLmid s l != some (slotRow s s.thl.ens.mySlot).group

/-- The slot of the understudy that can take an LMID over, as another module's table shows it: of its group, on standby. -/
def understudyOf (s : State) (l : Nat) : Option Nat :=
  (s.thl.ens.table.find? (fun e => e.2.role == 2 && e.2.state == 4 && some e.2.group == groupOfLmid s l)).map (·.1)

/-- ENS_SUBSTITUTE at the group's understudy (R370, R371). -/
def substituteHere (h : CmdHdr) (l : Nat) (image : Option (Nat × CastImage)) (agree : Bool) (s : State) : State :=
  let given : Option (Nat × CastImage) := match image with
    | some x => some x
    | none => (mapFind s.ckpt.sub.staged l).map (fun x => (signedSize x.sig, x))
  if subNone s l then complete h opEnsSubstitute stSubNone s
  else if lmidState s l != 3 then complete h opEnsSubstitute stSubState s
  else
    match given with
    | none => complete h opEnsSubstitute stSubImage s
    | some (len, img) =>
      let st := judgeSub l img len agree s
      if st != stOk then complete h opEnsSubstitute st s else complete h opEnsSubstitute stOk (takeOver l img s)

/-- ENS_SUBSTITUTE: names a failed LMID and an image of host memory, if one (R370). At another module than the group's understudy the
membership is judged and the command goes on to the understudy, which completes it. -/
def execEnsSubstitute (h : CmdHdr) (l : Nat) (image : Option (Nat × CastImage)) (agree : Bool) (s : State) : Host.Outcome State Fault Refusal :=
  hostCmd h opEnsSubstitute (fun s =>
    if isUnderstudy s then substituteHere h l image agree s
    else
      match understudyOf s l with
      | none => complete h opEnsSubstitute stSubNone s
      | some n =>
        if lmidState s l != 3 then complete h opEnsSubstitute stSubState s
        else sendFab { kind := "substitute", dest := (slotRow s n).lmid, vals := [h.sq, h.slot, h.troupe, h.cmdId, l, b2n image.isSome] } s) s

/-- AUTO_SUBSTITUTION: a module of the group is marked failed and an image for its LMID is staged, whose jobs set SUB_AUTO (R346, R370). An
image that is not accepted any more starts nothing. -/
def execAutoSubstitution (l : Nat) (s : State) : Host.Outcome State Fault Refusal :=
  engine (fun s =>
    match mapFind s.ckpt.sub.staged l with
    | none => s
    | some img =>
      if !subNone s l && lmidState s l == 3 && img.jobs.any (fun j => j.subAuto) && judgeSub l img (signedSize img.sig) true s == stOk then
        takeOver l img s
      else s) s

/-- The job of this module that troupe `t` belongs to. -/
def jobOfTroupe (s : State) (t : Nat) : Job :=
  match s.ckpt.jobs.find? (fun e => e.2.plan.troupes.any (fun p => p.t == t)) with
  | some e => e.2
  | none => { plan := { job := 0 } }

/-- Does a troupe have a MIRROR that is present (R372)? -/
def mirrorThere (s : State) (t : Nat) : Bool :=
  (jobOfTroupe s t).plan.troupes.any (fun p => p.t == t && (match p.mirror with
    | some m => lmidState s m.1 == 2
    | none => false))

/-- SUBSTITUTION_FILL: one troupe of the understudy is filled (R372). `pieces`: what a present mirror gives of a learner troupe; another
learner troupe stays unfilled; generator and scorer troupes are empty and unopened as the casting made them. `bars`: barriers of the troupe
with the instance number that the barrier's root sends (R371 step 2). With the last troupe the substitution ends. -/
def execSubstitutionFill (t : Nat) (pieces : List Piece) (bars : List (Nat × Nat)) (s : State) : Host.Outcome State Fault Refusal :=
  engine (fun s =>
    let x := s.ckpt.sub
    if x.state != 3 || !x.waits.contains t then s
    else
      let s1 := bars.foldl (fun s b => s.setBar t b.1 { s.bar t b.1 with instNo := b.2 }) s
      let s2 := if !(s.lrn t).cfg.present then s1
        else if mirrorThere s t && !pieces.isEmpty then (writePieces (jobOfTroupe s t) pieces s1).1
        else { s1 with ckpt.sub.unfilled := t :: s1.ckpt.sub.unfilled }
      let rest := x.waits.filter (fun u => u != t)
      let s3 := { s2 with ckpt.sub.waits := rest }
      if rest.isEmpty then subEnds s3 else s3) s

end Sys2Proof.Machine
end

