-- ==== Sys2Proof/Machine/Dispatch.lean ====
section
/-! DEFINITION. One arm per command: the meaning that each row's definition gives it. -/

namespace Sys2Proof.Machine

/-- The effect of a command on everything but the queue of waiting commands. -/
def exec (i : Instr) (s : State) : Host.Outcome State Fault Refusal :=
  match i with
  | .nop c nd => Sys2Proof.Machine.execNop c nd s
  | .halt c nd => Sys2Proof.Machine.execHalt c nd s
  | .branch c nd target => Sys2Proof.Machine.execBranch c nd target s
  | .loop c nd r target => Sys2Proof.Machine.execLoop c nd r target s
  | .scalarArith c nd op rd ra rb => Sys2Proof.Machine.execScalarArith c nd op rd ra rb s
  | .tagLoad c nd tag addr => Sys2Proof.Machine.execTagLoad c nd tag addr s
  | .tagStore c nd tag addr => Sys2Proof.Machine.execTagStore c nd tag addr s
  | .mfill c w => Sys2Proof.Machine.execMfill c w s
  | .mmul c w => Sys2Proof.Machine.execMmul c w s
  | .mmulx c w => Sys2Proof.Machine.execMmulx c w s
  | .mzero c w => Sys2Proof.Machine.execMzero c w s
  | .vadd c w => Sys2Proof.Machine.execVadd c w s
  | .vsub c w => Sys2Proof.Machine.execVsub c w s
  | .vmul c w => Sys2Proof.Machine.execVmul c w s
  | .vfma c w => Sys2Proof.Machine.execVfma c w s
  | .vmin c w => Sys2Proof.Machine.execVmin c w s
  | .vmax c w => Sys2Proof.Machine.execVmax c w s
  | .vabs c w => Sys2Proof.Machine.execVabs c w s
  | .vneg c w => Sys2Proof.Machine.execVneg c w s
  | .vintAdd c w => Sys2Proof.Machine.execVintAdd c w s
  | .vintShift c w => Sys2Proof.Machine.execVintShift c w s
  | .vdiv c w => Sys2Proof.Machine.execVdiv c w s
  | .vsqrt c w => Sys2Proof.Machine.execVsqrt c w s
  | .vrsqrt c w => Sys2Proof.Machine.execVrsqrt c w s
  | .veq c w => Sys2Proof.Machine.execVeq c w s
  | .vlt c w => Sys2Proof.Machine.execVlt c w s
  | .vle c w => Sys2Proof.Machine.execVle c w s
  | .visNan c w => Sys2Proof.Machine.execVisNan c w s
  | .visInf c w => Sys2Proof.Machine.execVisInf c w s
  | .rsum c w => Sys2Proof.Machine.execRsum c w s
  | .rmax c w => Sys2Proof.Machine.execRmax c w s
  | .rmin c w => Sys2Proof.Machine.execRmin c w s
  | .ramax c w => Sys2Proof.Machine.execRamax c w s
  | .gather c w => Sys2Proof.Machine.execGather c w s
  | .scatter c w => Sys2Proof.Machine.execScatter c w s
  | .scataddO c w => Sys2Proof.Machine.execScataddO c w s
  | .scataddU c w => Sys2Proof.Machine.execScataddU c w s
  | .vmemLoad c w => Sys2Proof.Machine.execVmemLoad c w s
  | .vmemStore c w => Sys2Proof.Machine.execVmemStore c w s
  | .func c w fs => Sys2Proof.Machine.execFunc c w fs s
  | .funcd c w fs => Sys2Proof.Machine.execFuncd c w fs s
  | .fload c nd fs addr => Sys2Proof.Machine.execFload c nd fs addr s
  | .xpose c w => Sys2Proof.Machine.execXpose c w s
  | .move c nd addr => Sys2Proof.Machine.execMove c nd addr s
  | .fenceL c nd => Sys2Proof.Machine.execFenceL c nd s
  | .fenceM c nd => Sys2Proof.Machine.execFenceM c nd s
  | .semSig c nd sem count => Sys2Proof.Machine.execSemSig c nd sem count s
  | .semWait c nd sem count => Sys2Proof.Machine.execSemWait c nd sem count s
  | .semTake c nd sem count => Sys2Proof.Machine.execSemTake c nd sem count s
  | .qpop c nd q rd => Sys2Proof.Machine.execQpop c nd q rd s
  | .cueWait c w => Sys2Proof.Machine.execCueWait c w s
  | .semWaitSatisfied c => Sys2Proof.Machine.execSemWaitSatisfied c s
  | .queueEntryAvailable c => Sys2Proof.Machine.execQueueEntryAvailable c s
  | .cueWaitRelease c => Sys2Proof.Machine.execCueWaitRelease c s
  | .fstr c w => Sys2Proof.Machine.execFstr c w s
  | .fraw c w => Sys2Proof.Machine.execFraw c w s
  | .funi c w => Sys2Proof.Machine.execFuni c w s
  | .fber c w => Sys2Proof.Machine.execFber c w s
  | .fgum c w => Sys2Proof.Machine.execFgum c w s
  | .fnrm c w => Sys2Proof.Machine.execFnrm c w s
  | .fdisc c w => Sys2Proof.Machine.execFdisc c w s
  | .astep c w => Sys2Proof.Machine.execAstep c w s
  | .amerge c w => Sys2Proof.Machine.execAmerge c w s
  | .kvput c w => Sys2Proof.Machine.execKvput c w s
  | .osgdm c w => Sys2Proof.Machine.execOsgdm c w s
  | .oadam c w => Sys2Proof.Machine.execOadam c w s
  | .olion c w => Sys2Proof.Machine.execOlion c w s
  | .omom c w => Sys2Proof.Machine.execOmom c w s
  | .oorth c w => Sys2Proof.Machine.execOorth c w s
  | .sampMask c w slot n src dst => Sys2Proof.Machine.execSampMask c w slot n src dst s
  | .sampDraw c w slot n scores masked draft => Sys2Proof.Machine.execSampDraw c w slot n scores masked draft s
  | .sampAccept c w slot n drafts policies => Sys2Proof.Machine.execSampAccept c w slot n drafts policies s
  | .coreStart c => Sys2Proof.Machine.execCoreStart c s
  | .coreStop c => Sys2Proof.Machine.execCoreStop c s
  | .ndClr c => Sys2Proof.Machine.execNdClr c s
  | .corePcWrite c value => Sys2Proof.Machine.execCorePcWrite c value s
  | .faultClear c => Sys2Proof.Machine.execFaultClear c s
  | .arithCntClr c => Sys2Proof.Machine.execArithCntClr c s
  | .clusterStart tile cluster mask => Sys2Proof.Machine.execClusterStart tile cluster mask s
  | .moveCopy c id => Sys2Proof.Machine.execMoveCopy c id s
  | .moveCopyTag c id => Sys2Proof.Machine.execMoveCopyTag c id s
  | .moveConvert c id => Sys2Proof.Machine.execMoveConvert c id s
  | .remoteWrite c id => Sys2Proof.Machine.execRemoteWrite c id s
  | .remoteRead c id => Sys2Proof.Machine.execRemoteRead c id s
  | .collective c id => Sys2Proof.Machine.execCollective c id s
  | .descriptorComplete c id => Sys2Proof.Machine.execDescriptorComplete c id s
  | .noRoute c id => Sys2Proof.Machine.execNoRoute c id s
  | .genSubmit h body => Sys2Proof.Machine.execGenSubmit h body s
  | .genCancel h reqId => Sys2Proof.Machine.execGenCancel h reqId s
  | .genCurtain h epoch => Sys2Proof.Machine.execGenCurtain h epoch s
  | .stepBoundary t m => Sys2Proof.Machine.execStepBoundary t m s
  | .admissionPassIdle t m => Sys2Proof.Machine.execAdmissionPassIdle t m s
  | .commit t => Sys2Proof.Machine.execCommit t s
  | .shipArrival t slot d => Sys2Proof.Machine.execShipArrival t slot d s
  | .kvEvtClr t => Sys2Proof.Machine.execKvEvtClr t s
  | .flintLoad t => Sys2Proof.Machine.execFlintLoad t s
  | .flintCntClr t => Sys2Proof.Machine.execFlintCntClr t s
  | .lrnBind h r => Sys2Proof.Machine.execLrnBind h r s
  | .reductionContribution t m => Sys2Proof.Machine.execReductionContribution t m s
  | .collectiveTimeout t tree inst => Sys2Proof.Machine.execCollectiveTimeout t tree inst s
  | .verdictContribution t sumsq => Sys2Proof.Machine.execVerdictContribution t sumsq s
  | .rootDecision t => Sys2Proof.Machine.execRootDecision t s
  | .verdictApply t v => Sys2Proof.Machine.execVerdictApply t v s
  | .verdictLate t => Sys2Proof.Machine.execVerdictLate t s
  | .lrnSkip h job n => Sys2Proof.Machine.execLrnSkip h job n s
  | .lrnEvtClr t => Sys2Proof.Machine.execLrnEvtClr t s
  | .optGset h g n r => Sys2Proof.Machine.execOptGset h g n r s
  | .whetstoneComplete t j => Sys2Proof.Machine.execWhetstoneComplete t j s
  | .optEvtClr t => Sys2Proof.Machine.execOptEvtClr t s
  | .whetStatusClr n => Sys2Proof.Machine.execWhetStatusClr n s
  | .flyNow h => Sys2Proof.Machine.execFlyNow h s
  | .flyInStart t => Sys2Proof.Machine.execFlyInStart t s
  | .flySourceReadDone t away => Sys2Proof.Machine.execFlySourceReadDone t away s
  | .flyPieceArrival t epoch away => Sys2Proof.Machine.execFlyPieceArrival t epoch away s
  | .flyResume t => Sys2Proof.Machine.execFlyResume t s
  | .roleSwitch h => Sys2Proof.Machine.execRoleSwitch h s
  | .flyEvtClr t => Sys2Proof.Machine.execFlyEvtClr t s
  | .expEvtClr t => Sys2Proof.Machine.execExpEvtClr t s
  | .ringRecordWrite t => Sys2Proof.Machine.execRingRecordWrite t s
  | .scorerHand t => Sys2Proof.Machine.execScorerHand t s
  | .expSeal h seqNo reward reward2 drop => Sys2Proof.Machine.execExpSeal h seqNo reward reward2 drop s
  | .ringPoll t => Sys2Proof.Machine.execRingPoll t s
  | .consumerHand t => Sys2Proof.Machine.execConsumerHand t s
  | .memoryZeroing => Sys2Proof.Machine.execMemoryZeroing s
  | .patrolScrub a found passEnd => Sys2Proof.Machine.execPatrolScrub a found passEnd s
  | .stkEccClr n => Sys2Proof.Machine.execStkEccClr n s
  | .wtLoad h r => Sys2Proof.Machine.execWtLoad h r s
  | .loadTurn scales => Sys2Proof.Machine.execLoadTurn scales s
  | .loadEnd src => Sys2Proof.Machine.execLoadEnd src s
  | .wtReady h slot => Sys2Proof.Machine.execWtReady h slot s
  | .wtRelease h shard n => Sys2Proof.Machine.execWtRelease h shard n s
  | .wtTable h addr => Sys2Proof.Machine.execWtTable h addr s
  | .digestScrub rec passEnd => Sys2Proof.Machine.execDigestScrub rec passEnd s
  | .scrubEvtClr => Sys2Proof.Machine.execScrubEvtClr s
  | .portSignalDetect p => Sys2Proof.Machine.execPortSignalDetect p s
  | .portEqualizeDone p quarters => Sys2Proof.Machine.execPortEqualizeDone p quarters s
  | .portMap p reversed crossed polarity bad => Sys2Proof.Machine.execPortMap p reversed crossed polarity bad s
  | .portIdent p lmid port serial rtt => Sys2Proof.Machine.execPortIdent p lmid port serial rtt s
  | .portHeldRetry p => Sys2Proof.Machine.execPortHeldRetry p s
  | .portRetrainTrigger p => Sys2Proof.Machine.execPortRetrainTrigger p s
  | .portSignalLoss p => Sys2Proof.Machine.execPortSignalLoss p s
  | .portOutageTimeout p => Sys2Proof.Machine.execPortOutageTimeout p s
  | .retrain p => Sys2Proof.Machine.execRetrain p s
  | .release p => Sys2Proof.Machine.execRelease p s
  | .accept p => Sys2Proof.Machine.execAccept p s
  | .portClr p => Sys2Proof.Machine.execPortClr p s
  | .refMmWrite p v => Sys2Proof.Machine.execRefMmWrite p v s
  | .flitReceive p f => Sys2Proof.Machine.execFlitReceive p f s
  | .replayRequest p seqNo => Sys2Proof.Machine.execReplayRequest p seqNo s
  | .creditReturn p ack ltag n => Sys2Proof.Machine.execCreditReturn p ack ltag n s
  | .lrAckTimer p => Sys2Proof.Machine.execLrAckTimer p s
  | .frameAuthenticate p ltag ok => Sys2Proof.Machine.execFrameAuthenticate p ltag ok s
  | .lrKey h p ltag slot activate w => Sys2Proof.Machine.execLrKey h p ltag slot activate w s
  | .rangingExchange p t1 t2 t3 t4 => Sys2Proof.Machine.execRangingExchange p t1 t2 t3 t4 s
  | .rangingResult p => Sys2Proof.Machine.execRangingResult p s
  | .cueExchange t1 t2 t3 t4 => Sys2Proof.Machine.execCueExchange t1 t2 t3 t4 s
  | .cueExchangeTimeout => Sys2Proof.Machine.execCueExchangeTimeout s
  | .barrierArrival t b child steps => Sys2Proof.Machine.execBarrierArrival t b child steps s
  | .barrierTRelArrival t b rel steps => Sys2Proof.Machine.execBarrierTRelArrival t b rel steps s
  | .barrierRelease t b => Sys2Proof.Machine.execBarrierRelease t b s
  | .cueStall t b => Sys2Proof.Machine.execCueStall t b s
  | .cueEvtClr => Sys2Proof.Machine.execCueEvtClr s
  | .trpMap h page entry => Sys2Proof.Machine.execTrpMap h page entry s
  | .trpQpush h q value => Sys2Proof.Machine.execTrpQpush h q value s
  | .trpSwitch h out inn => Sys2Proof.Machine.execTrpSwitch h out inn s
  | .switchDrainDone t => Sys2Proof.Machine.execSwitchDrainDone t s
  | .switchComplete t => Sys2Proof.Machine.execSwitchComplete t s
  | .trpCtxPut h img => Sys2Proof.Machine.execTrpCtxPut h img s
  | .trpCtxGet h addr => Sys2Proof.Machine.execTrpCtxGet h addr s
  | .trpRestore h => Sys2Proof.Machine.execTrpRestore h s
  | .trpTeardown h => Sys2Proof.Machine.execTrpTeardown h s
  | .teardownDone t => Sys2Proof.Machine.execTeardownDone t s
  | .trpEvtClr t => Sys2Proof.Machine.execTrpEvtClr t s
  | .ckptTake h job => Sys2Proof.Machine.execCkptTake h job s
  | .ckptRequest c => Sys2Proof.Machine.execCkptRequest c s
  | .holdoffExpiry => Sys2Proof.Machine.execHoldoffExpiry s
  | .ckptArm j m => Sys2Proof.Machine.execCkptArm j m s
  | .ckptCutPoint t => Sys2Proof.Machine.execCkptCutPoint t s
  | .ckptCut j => Sys2Proof.Machine.execCkptCut j s
  | .ckptAbort j ordered => Sys2Proof.Machine.execCkptAbort j ordered s
  | .snapshotPageCopy n => Sys2Proof.Machine.execSnapshotPageCopy n s
  | .stalledWriteProceed => Sys2Proof.Machine.execStalledWriteProceed s
  | .ckptS0Done j => Sys2Proof.Machine.execCkptS0Done j s
  | .ckptBuf h job no addr len => Sys2Proof.Machine.execCkptBuf h job no addr len s
  | .ckptBufferFilled j => Sys2Proof.Machine.execCkptBufferFilled j s
  | .ckptStored h job no => Sys2Proof.Machine.execCkptStored h job no s
  | .ckptDiscard h job no => Sys2Proof.Machine.execCkptDiscard h job no s
  | .ckptCursor h job bytes => Sys2Proof.Machine.execCkptCursor h job bytes s
  | .ckptRestore h job cat busy => Sys2Proof.Machine.execCkptRestore h job cat busy s
  | .rplCompare h job others pairs => Sys2Proof.Machine.execRplCompare h job others pairs s
  | .undStage h l len img agree => Sys2Proof.Machine.execUndStage h l len img agree s
  | .ensSubstitute h l image agree => Sys2Proof.Machine.execEnsSubstitute h l image agree s
  | .autoSubstitution l => Sys2Proof.Machine.execAutoSubstitution l s
  | .substitutionFill t pieces bars => Sys2Proof.Machine.execSubstitutionFill t pieces bars s
  | .wchEvtClr => Sys2Proof.Machine.execWchEvtClr s
  | .wchCkptEvtClr j => Sys2Proof.Machine.execWchCkptEvtClr j s
  | .thlTraining lo hi => Sys2Proof.Machine.execThlTraining lo hi s
  | .thlLockLoss ms => Sys2Proof.Machine.execThlLockLoss ms s
  | .hostFault h opcode => Sys2Proof.Machine.execHostFault h opcode s
  | .enable v => Sys2Proof.Machine.execEnable v s
  | .adminQueueWrite which v => Sys2Proof.Machine.execAdminQueueWrite which v s
  | .queueCreate h r => Sys2Proof.Machine.execQueueCreate h r s
  | .queueDelete h qid kind => Sys2Proof.Machine.execQueueDelete h qid kind s
  | .evqBind h slot troupe eqid tenants => Sys2Proof.Machine.execEvqBind h slot troupe eqid tenants s
  | .doorbell kind q v => Sys2Proof.Machine.execDoorbell kind q v s
  | .commandFetch mem tenants => Sys2Proof.Machine.execCommandFetch mem tenants s
  | .commandRelay h opcode fence => Sys2Proof.Machine.execCommandRelay h opcode fence s
  | .completionWrite c => Sys2Proof.Machine.execCompletionWrite c s
  | .eventRaise e => Sys2Proof.Machine.execEventRaise e s
  | .noticeBufferDrain q => Sys2Proof.Machine.execNoticeBufferDrain q s
  | .pendClear code => Sys2Proof.Machine.execPendClear code s
  | .evtCntClr code => Sys2Proof.Machine.execEvtCntClr code s
  | .thlEvtClr => Sys2Proof.Machine.execThlEvtClr s
  | .memberJoined lmid serial => Sys2Proof.Machine.execMemberJoined lmid serial s
  | .joinTimeout slot => Sys2Proof.Machine.execJoinTimeout slot s
  | .heartbeatSend => Sys2Proof.Machine.execHeartbeatSend s
  | .heartbeatReceive slot stop => Sys2Proof.Machine.execHeartbeatReceive slot stop s
  | .memberFailed slot => Sys2Proof.Machine.execMemberFailed slot s
  | .membershipChange m => Sys2Proof.Machine.execMembershipChange m s
  | .ensReadmit h lmid => Sys2Proof.Machine.execEnsReadmit h lmid s
  | .registerAccessRelay n off wr answer => Sys2Proof.Machine.execRegisterAccessRelay n off wr answer s
  | .rejectedAccess off wr => Sys2Proof.Machine.execRejectedAccess off wr s
  | .accErrClr => Sys2Proof.Machine.execAccErrClr s
  | .registerWrite off v => Sys2Proof.Machine.execRegisterWrite off v s
  | .hubResetRelease => Sys2Proof.Machine.execHubResetRelease s
  | .hubFirmwareStart rpfOk => Sys2Proof.Machine.execHubFirmwareStart rpfOk s
  | .coreFwBroadcastRound missing silent badDigest => Sys2Proof.Machine.execCoreFwBroadcastRound missing silent badDigest s
  | .bootCastingApply => Sys2Proof.Machine.execBootCastingApply s
  | .hubWatchdog => Sys2Proof.Machine.execHubWatchdog s
  | .hubEcc => Sys2Proof.Machine.execHubEcc s
  | .castApply h len img agree => Sys2Proof.Machine.execCastApply h len img agree s
  | .castStore h len img flashOk => Sys2Proof.Machine.execCastStore h len img flashOk s
  | .fwStage h type len x flashOk => Sys2Proof.Machine.execFwStage h type len x flashOk s
  | .fwSelect h hub core link bundle => Sys2Proof.Machine.execFwSelect h hub core link bundle s
  | .recGet h addr => Sys2Proof.Machine.execRecGet h addr s
  | .attReport h nonce addr => Sys2Proof.Machine.execAttReport h nonce addr s
  | .keySession h n tenant shared => Sys2Proof.Machine.execKeySession h n tenant shared s
  | .ownInstall h len x flashOk => Sys2Proof.Machine.execOwnInstall h len x flashOk s
  | .reset h level target keep => Sys2Proof.Machine.execReset h level target keep s
  | .coreRetire h l => Sys2Proof.Machine.execCoreRetire h l s
  | .rpfCommit h ok => Sys2Proof.Machine.execRpfCommit h ok s
  | .resetPin => Sys2Proof.Machine.execResetPin s
  | .inputQualify => Sys2Proof.Machine.execInputQualify s
  | .inputUv => Sys2Proof.Machine.execInputUv s
  | .inputOv => Sys2Proof.Machine.execInputOv s
  | .inputOvervoltageTrip => Sys2Proof.Machine.execInputOvervoltageTrip s
  | .inputLost removed => Sys2Proof.Machine.execInputLost removed s
  | .inputReversed => Sys2Proof.Machine.execInputReversed s
  | .powerMeasure vin iin pin => Sys2Proof.Machine.execPowerMeasure vin iin pin s
  | .railPowerGood r => Sys2Proof.Machine.execRailPowerGood r s
  | .railShort r => Sys2Proof.Machine.execRailShort r s
  | .railRestartTimer => Sys2Proof.Machine.execRailRestartTimer s
  | .senseOpen r => Sys2Proof.Machine.execSenseOpen r s
  | .railOcWarn r => Sys2Proof.Machine.execRailOcWarn r s
  | .regHot r => Sys2Proof.Machine.execRegHot r s
  | .pwrEvtClr => Sys2Proof.Machine.execPwrEvtClr s
  | .clkRefLost => Sys2Proof.Machine.execClkRefLost s
  | .referenceReturn => Sys2Proof.Machine.execReferenceReturn s
  | .clkFail => Sys2Proof.Machine.execClkFail s
  | .thermalSample sample inlet outlet => Sys2Proof.Machine.execThermalSample sample inlet outlet s
  | .thermTrip die => Sys2Proof.Machine.execThermTrip die s
  | .coolantHot => Sys2Proof.Machine.execCoolantHot s
  | .coolantFlow => Sys2Proof.Machine.execCoolantFlow s
  | .thermClr => Sys2Proof.Machine.execThermClr s
  | .smbReadStatus => Sys2Proof.Machine.execSmbReadStatus s
  | .smbReadLog => Sys2Proof.Machine.execSmbReadLog s
  | .smbRestart => Sys2Proof.Machine.execSmbRestart s
  | .freezePin => Sys2Proof.Machine.execFreezePin s
  | .freeze => Sys2Proof.Machine.execFreeze s
  | .freezeCueTrigger => Sys2Proof.Machine.execFreezeCueTrigger s
  | .freezeMarkerReceive p => Sys2Proof.Machine.execFreezeMarkerReceive p s
  | .freezeStop => Sys2Proof.Machine.execFreezeStop s
  | .tabIgnClr => Sys2Proof.Machine.execTabIgnClr s
  | .read => Sys2Proof.Machine.execRead s
  | .tabRead => Sys2Proof.Machine.execTabRead s
  | .memread => Sys2Proof.Machine.execMemread s
  | .tabReadoutDone => Sys2Proof.Machine.execTabReadoutDone s
  | .resume => Sys2Proof.Machine.execResume s
  | .tabResume => Sys2Proof.Machine.execTabResume s
  | .wakeSignalReceive p => Sys2Proof.Machine.execWakeSignalReceive p s
  | .cableDetect low => Sys2Proof.Machine.execCableDetect low s
  | .refclkQualify => Sys2Proof.Machine.execRefclkQualify s
  | .thlPresent low => Sys2Proof.Machine.execThlPresent low s
  | .pluginInsert p watts => Sys2Proof.Machine.execPluginInsert p watts s
  | .clkFailRestartTimer => Sys2Proof.Machine.execClkFailRestartTimer s
  | .dividerRestart => Sys2Proof.Machine.execDividerRestart s
  | .learnerStepCommand t n => Sys2Proof.Machine.execLearnerStepCommand t n s

end Sys2Proof.Machine
end

