-- ==== Sys2Proof/Machine/Tick.lean ====
section
/-! DEFINITION. What one core cycle does when no command waits: the Cue count (R310, R319), the cancels of the count that ends (R94), the CORE accounting (R332), and the refusal of
instruction words that no command spells (R52). -/

namespace Sys2Proof.Machine

/-- Cores that hold a troupe and are running. -/
def busyCores (s : State) : List Nat :=
  (s.cores.filter (fun e => e.1 < physCores && e.2.regs.state == .running && e.2.regs.troupe < 64)).map (fun e => e.2.regs.troupe)

/-- The 16 bytes of the next instruction of core `c`, little-endian (R52, R83). -/
def nextWord (s : State) (c : Nat) : Nat := (s.core c).store.nat (s.core c).regs.pc 16

/-- The cores that issue and whose next instruction word has an undefined class or operation (R52). -/
def undefinedAt (s : State) : List Nat :=
  ((s.cores.map (fun e => e.1)).filter (fun c => c < physCores && issues s c && undefinedWord (nextWord s c)))

/-- Instruction words with an undefined class or operation are refused with OP_INVALID: their lists halt at them and nothing is written (R52,
R84). A defined instruction issues by its own command (assumption 1). -/
def refuseUndefined (s : State) : State := (undefinedAt s).foldl (fun s c => refuseCore c rfOpInvalid s) s

/-- The cancels of this Cue count that waited for a commit at it are registered at its end (R94). -/
def endCount (s : State) : State :=
  ((s.troupes.filter (fun e => !e.2.gen.cancels.isEmpty)).map (·.1)).foldl (fun s t => settleCancels t s) s

/-- The stored errors after a core cycle in which an error may come about in a unit of an enabled stack (R249; assumption 61). -/
def struck (s : State) (e : Option (Nat × Bool)) : Map Bool :=
  match e with
  | none => s.mem.weak
  | some (a, bad) =>
    let u := a / 64 * 64
    if 0x7800000000 ≤ a || !stackEnabled s (stackOf s a).1 || s.mem.poison.contains u then s.mem.weak
    else mapPut s.mem.weak u (bad || mapGet false s.mem.weak u)

/-- One core cycle: CUE_COUNT counts unless the module is held or has no clock yet (R310, R453, R473) or the follower withholds a
count (R312). -/
def tick (s0 : State) : State :=
  if !s0.alive then s0
  else
    let s := endCount s0
    refuseUndefined <| (busyCores s).foldl
      (fun s t => s.modTroupe t (fun (x : Troupe) => { x with regs.acct.core := (x.regs.acct.core + 1) % 2 ^ 64 }))
      (let s1 := { s with mem.weak := struck s (Config.strike s.fresh), fresh := s.fresh + 1 }
       if s1.cueRegs.withhold then { s1 with cueRegs.withhold := false } else { s1 with cue := (s1.cue + 1) % 2 ^ 64 })

end Sys2Proof.Machine
end

