-- ==== Sys2Proof/Safety.lean ====
section
/-! DEFINITION. What counts as a safe run, and the words in which the statements speak: what a command gives, and what it leaves alone. -/

namespace Sys2Proof.Machine

/-- A step that answers a next state. -/
def completes (s : State) : Bool :=
  match step s with
  | .next _ => true
  | _ => false

/-- Command `i` runs in `s` and gives a next state of which `P` holds. -/
def Gives (i : Instr) (s : State) (P : State → Prop) : Prop := ∃ t, exec i s = .next t ∧ P t

/-! ### What is left alone -/

/-- From `s` to `t` nothing changed but core `c` and the accounting counters of the troupes. -/
def CoreFrame (c : Nat) (s t : State) : Prop :=
  (∀ d, d ≠ c → t.core d = s.core d) ∧
  (∀ u, { t.troupe u with regs.acct := (s.troupe u).regs.acct } = s.troupe u) ∧
  { t with cores := s.cores, troupes := s.troupes } = s

/-- From `s` to `t` nothing changed but core `c`'s registers of its core block. -/
def RegsFrame (c : Nat) (s t : State) : Prop :=
  (∀ d, d ≠ c → t.core d = s.core d) ∧ { t.core c with regs := (s.core c).regs } = s.core c ∧
  { t with cores := s.cores } = s

/-- From `s` to `t` nothing changed but troupe `u`. -/
def TroupeFrame (u : Nat) (s t : State) : Prop :=
  (∀ v, v ≠ u → t.troupe v = s.troupe v) ∧ { t with troupes := s.troupes } = s

/-! ### Vector results -/

/-- Element `i` of a destination of `w` whose old value is `old`: `f i` where the predicate selects it, +0.0 where it does not and PZ is set, and
the old value elsewhere (R69). -/
def resultAt (k : Core) (w : VecWord) (f : Nat → F32) (i : Nat) (old : F32) : F32 :=
  if i < w.vl then (if k.pGet w.pred i then f i else if w.pz then 0 else old) else old

/-- From `s` to `t` core `c` wrote `f` to the destination of `w` under its predicate, and nothing else but the accounting changed. -/
def Elementwise (c : Nat) (w : VecWord) (f : Nat → F32) (s t : State) : Prop :=
  (∀ i, i < 256 → (t.core c).vGet w.vd i = resultAt (s.core c) w f i ((s.core c).vGet w.vd i)) ∧
  (∀ r i, i < 256 → r ≠ w.vd → (t.core c).vGet r i = (s.core c).vGet r i) ∧
  { t.core c with v := (s.core c).v } = s.core c ∧ CoreFrame c s t

/-- From `s` to `t` core `c` wrote `f` to the predicate register of `w` under its predicate, and nothing else but the accounting changed. -/
def Compares (c : Nat) (w : VecWord) (f : Nat → Bool) (s t : State) : Prop :=
  (∀ i, i < 256 → mapGet false (t.core c).p (256 * (w.vd % 8) + i) =
    if i < w.vl then (if (s.core c).pGet w.pred i then f i else if w.pz then false else mapGet false (s.core c).p (256 * (w.vd % 8) + i))
    else mapGet false (s.core c).p (256 * (w.vd % 8) + i)) ∧
  (∀ r i, i < 256 → r ≠ w.vd % 8 → mapGet false (t.core c).p (256 * r + i) = mapGet false (s.core c).p (256 * r + i)) ∧
  { t.core c with p := (s.core c).p } = s.core c ∧ CoreFrame c s t

/-- From `s` to `t` core `c` wrote `x` to element 0 of the destination of `w`, and nothing else but the accounting changed. -/
def Reduces (c : Nat) (w : VecWord) (x : F32) (s t : State) : Prop :=
  (t.core c).vGet w.vd 0 = x ∧
  (∀ r i, i < 256 → (r, i) ≠ (w.vd, 0) → (t.core c).vGet r i = (s.core c).vGet r i) ∧
  { t.core c with v := (s.core c).v } = s.core c ∧ CoreFrame c s t

/-- From `s` to `t` the core store of core `c` became `m`, and nothing else but the accounting changed. -/
def Stores (c : Nat) (m : Memory) (s t : State) : Prop :=
  t.core c = { s.core c with store := m } ∧ CoreFrame c s t

/-! ### Host commands -/

/-- A host command's header and opcode (R381, R433); none for the rows that are no host command. -/
def hostOf : Instr → Option (CmdHdr × Nat)
  | .genSubmit h _ => some (h, opGenSubmit)
  | .genCancel h _ => some (h, opGenCancel)
  | .genCurtain h _ => some (h, opGenCurtain)
  | .lrnBind h _ => some (h, opLrnBind)
  | .lrnSkip h _ _ => some (h, opLrnSkip)
  | .optGset h _ _ _ => some (h, opOptGset)
  | .flyNow h => some (h, opFlyNow)
  | .roleSwitch h => some (h, opRoleSwitch)
  | .expSeal h _ _ _ _ => some (h, opExpSeal)
  | .wtLoad h _ => some (h, opWtLoad)
  | .wtReady h _ => some (h, opWtReady)
  | .wtRelease h _ _ => some (h, opWtRelease)
  | .wtTable h _ => some (h, opWtTable)
  | .lrKey h _ _ _ _ _ => some (h, opLrKey)
  | .trpMap h _ _ => some (h, opTrpMap)
  | .trpQpush h _ _ => some (h, opTrpQpush)
  | .trpSwitch h _ _ => some (h, opTrpSwitch)
  | .trpCtxPut h _ => some (h, opTrpCtxPut)
  | .trpCtxGet h _ => some (h, opTrpCtxGet)
  | .trpRestore h => some (h, opTrpRestore)
  | .trpTeardown h => some (h, opTrpTeardown)
  | .ckptTake h _ => some (h, opCkptTake)
  | .ckptBuf h _ _ _ _ => some (h, opCkptBuf)
  | .ckptStored h _ _ => some (h, opCkptStored)
  | .ckptDiscard h _ _ => some (h, opCkptDiscard)
  | .ckptCursor h _ _ => some (h, opCkptCursor)
  | .ckptRestore h _ _ _ => some (h, opCkptRestore)
  | .rplCompare h _ _ _ => some (h, opRplCompare)
  | .undStage h _ _ _ _ => some (h, opUndStage)
  | .ensSubstitute h _ _ _ => some (h, opEnsSubstitute)
  | .queueCreate h _ => some (h, opQueueCreate)
  | .queueDelete h _ _ => some (h, opQueueDelete)
  | .evqBind h _ _ _ _ => some (h, opEvqBind)
  | .ensReadmit h _ => some (h, opEnsReadmit)
  | .castApply h _ _ _ => some (h, opCastApply)
  | .castStore h _ _ _ => some (h, opCastStore)
  | .fwStage h _ _ _ _ => some (h, opFwStage)
  | .fwSelect h _ _ _ _ => some (h, opFwSelect)
  | .recGet h _ => some (h, opRecGet)
  | .attReport h _ _ => some (h, opAttReport)
  | .keySession h _ _ _ => some (h, opKeySession)
  | .ownInstall h _ _ _ => some (h, opOwnInstall)
  | .reset h _ _ _ => some (h, opReset)
  | .coreRetire h _ => some (h, opCoreRetire)
  | .rpfCommit h _ => some (h, opRpfCommit)
  | _ => none

/-- Must a host command wait: for its FENCE, or for a casting image that is taking effect, which another CAST_APPLY does not (R383, R425, R426)? -/
def hostWaits (s : State) (h : CmdHdr) (opcode : Nat) : Bool := fenced s h || (s.bt.applying.isSome && opcode != opCastApply)

/-- A host command is registered and carried out now: the hub runs, nothing holds the command, and the boot state accepts it (R383, R410, R425,
R426, R454). -/
def accepted (s : State) (h : CmdHdr) (opcode : Nat) : Bool := s.alive && !hostWaits s h opcode && bootAccepts s.boot opcode

/-- The rows that act on the input controller, the rails, the clocks, the connectors, the reset pin or a frozen module, and the accesses that reach the
THL Tableau registers: they have an effect on a hub that is held in reset or frozen too (R431, R435 to R450, R454, R472 to R475). -/
def outside : Instr → Bool
  | .hubResetRelease | .resetPin | .inputQualify | .inputOvervoltageTrip | .inputLost _ | .inputReversed | .powerMeasure _ _ _
  | .railPowerGood _ | .railShort _ | .railRestartTimer | .senseOpen _ | .clkRefLost | .referenceReturn | .clkFail
  | .clkFailRestartTimer | .thermTrip _ | .smbReadStatus | .smbReadLog | .smbRestart | .cableDetect _ | .refclkQualify
  | .thlPresent _ | .pluginInsert _ _ | .freezePin | .freezeMarkerReceive _ | .freezeStop | .read | .tabRead | .memread
  | .tabReadoutDone | .resume | .tabResume | .wakeSignalReceive _ | .dividerRestart | .registerWrite _ _
  | .registerAccessRelay _ _ _ _ => true
  | _ => false

end Sys2Proof.Machine
end

