-- ==== Sys2Proof/Certificates/Slice0/Obligations.lean ====
section
/-! DEFINITION. The statements about the module, for the provers. -/

open Sys2Proof Sys2Proof.Machine

/-! ### The machine as a whole -/

/-- A step takes the command at the front of the queue and runs it on the state with the queue's rest (the block's form; log entry 1). -/
def Obligations.StepRunsTheFrontCommand : Prop :=
  ∀ (c : Instr) (rest : List Instr) (s : State), s.pending = c :: rest → step s = exec c { s with pending := rest }

/-- With no command waiting a running module lets one core cycle pass: the Cue count rises by 1, or the follower's withheld count is taken
(R310, R312), the cancels of the count that ends are registered (R94), the running cores of troupes are charged (R332), and a core whose next
instruction word has an undefined class or operation is refused (R52); where there is neither, nothing else changes but that
a stored error may come about (R249; log entry 61). One that is frozen, held in reset
or without a clock stands still (R453, R473). That an empty queue is a cycle is the model's choice (log entry 1). -/
def Obligations.IdleStepIsOneCoreCycle : Prop :=
  ∀ s : State, s.pending = [] →
    (s.alive = false → step s = .next s) ∧
    (s.alive = true → ∃ t, step s = .next t ∧
      (s.cueRegs.withhold = false → t.cue = (s.cue + 1) % 2 ^ 64) ∧ (s.cueRegs.withhold = true → t.cue = s.cue) ∧
      t.cueRegs.withhold = false ∧
      ((∀ e ∈ s.troupes, e.2.gen.cancels = []) → (∀ c, c < physCores → undefinedWord (nextWord s c) = false) →
        t.cueRegs = { s.cueRegs with withhold := false } ∧
        { t with cue := s.cue, cueRegs := s.cueRegs, troupes := s.troupes, mem := s.mem, fresh := s.fresh } = s ∧
        { t.mem with weak := s.mem.weak } = s.mem ∧
        (∀ u, { t.troupe u with regs.acct.core := (s.troupe u).regs.acct.core } = s.troupe u)))

/-- Every command completes: no row of the table faults or is refused, whatever the state (log entry 1). -/
def Obligations.EveryCommandCompletes : Prop := ∀ (c : Instr) (s : State), ∃ t, exec c s = .next t

/-- No command touches the queue of waiting commands. -/
def Obligations.CommandsLeaveTheQueue : Prop := ∀ (c : Instr) (s t : State), exec c s = .next t → t.pending = s.pending

/-- R408: the replay-protected counters rise only by RPF_COMMIT, which raises each to the SVN of the object of its type in force, and no step makes
one fall; an object whose SVN is below the counter of its type is refused with ROLLBACK. -/
def Obligations.CountersRiseOnlyByCommit : Prop :=
  (∀ s t : State, step s = .next t →
    ((∀ h ok, s.pending.head? ≠ some (.rpfCommit h ok)) → t.bt.counters = s.bt.counters) ∧
    s.bt.counters.hub ≤ t.bt.counters.hub ∧ s.bt.counters.core ≤ t.bt.counters.core ∧ s.bt.counters.link ≤ t.bt.counters.link ∧
    s.bt.counters.bundle ≤ t.bt.counters.bundle ∧ s.bt.counters.modRec ≤ t.bt.counters.modRec ∧
    s.bt.counters.owner ≤ t.bt.counters.owner ∧ s.bt.counters.cast ≤ t.bt.counters.cast) ∧
  (∀ (s : State) (h : CmdHdr), accepted s h opRpfCommit = true →
    Gives (.rpfCommit h true) s (fun t =>
      (∀ x, s.bt.force.hub = some x → t.bt.counters.hub = max s.bt.counters.hub x.sig.svn) ∧
      (∀ x, s.bt.force.core = some x → t.bt.counters.core = max s.bt.counters.core x.sig.svn) ∧
      (∀ x, s.bt.force.link = some x → t.bt.counters.link = max s.bt.counters.link x.sig.svn) ∧
      (∀ x, s.bt.force.bundle = some x → t.bt.counters.bundle = max s.bt.counters.bundle x.sig.svn) ∧
      (∀ x, s.bt.force.modRec = some x → t.bt.counters.modRec = max s.bt.counters.modRec x.sig.svn) ∧
      (∀ x, s.bt.force.owner = some x → t.bt.counters.owner = max s.bt.counters.owner x.sig.svn) ∧
      (∀ x, s.cast = some x → t.bt.counters.cast = max s.bt.counters.cast x.sig.svn))) ∧
  (∀ (s : State) (x : Signed) (type area : Nat), signedOk s x type area = true → x.svn < counterOf s.bt.counters type →
    judgeSigned s x type area = stRollback)

/-- R479: no step changes the module record, which holds the variant record. -/
def Obligations.ModuleRecordIsFixed : Prop := ∀ s t : State, step s = .next t → t.bt.flash.modRec = s.bt.flash.modRec

/-- A module that is held in reset, waits for its reference or is frozen carries out no command but those of its input, rails, clocks, connectors
and Tableau; a host command that waits for its FENCE or for a casting image that is taking effect is not carried out yet; and one that the boot state does not accept completes
with BOOT_STATE and has no other effect (R383, R410, R426, R454, R473). -/
def Obligations.HeldModuleDoesNothing : Prop :=
  ∀ (c : Instr) (s : State),
    (s.alive = false → outside c = false → exec c s = .next s) ∧
    (∀ h op, s.alive = true → hostOf c = some (h, op) →
      (hostWaits s h op = true → exec c s = .next s) ∧
      (hostWaits s h op = false → bootAccepts s.boot op = false → exec c s = .next (complete h op stBootState s)))

/-- What reset leaves: no command waits; hub reset is asserted; the Cue count, the troupes, the cores and memory are empty; HUB_LMID is 0xFFF
(R392); the flash holds the firmware of bank A and the module record, and no owner record and no casting image (R479); the counters of R408 are 0. -/
def Obligations.ResetLeavesTheModuleAsShipped : Prop :=
  State.reset.pending = [] ∧ State.reset.boot = .reset ∧ State.reset.alive = false ∧ State.reset.cue = 0 ∧ State.reset.troupes = [] ∧
  State.reset.cores = [] ∧ State.reset.mem.bytes = [] ∧ State.reset.lmid = 0xFFF ∧
  State.reset.bt.flash.owner = none ∧ State.reset.bt.flash.cast.a = none ∧ State.reset.bt.flash.cast.b = none ∧
  State.reset.bt.flash.hub.a.isSome = true ∧ State.reset.bt.flash.hub.b = none ∧ State.reset.bt.flash.modRec.isSome = true ∧
  State.reset.bt.counters = {}

/-! ### Core instructions: issue, refusal, control -/

/-- R54, R50: each instruction with ND = 1 that issues sets CORE_STATUS.ND_SEEN and adds 1 to CORE_STATUS.ND_COUNT (which stops at 0xFFFF), and a
refused instruction does neither. An instruction that issues moves CORE_PC past its 16 bytes, a mark sets the troupe's bit of CUE_ND_MAP, and the issue
itself changes nothing else; the instruction's own effect then runs in that state. -/
def Obligations.IssueMovesThePcAndRecordsTheMark : Prop :=
  ∀ (c : Nat) (s : State),
    (let t := issueState c false s
     t.core c = { s.core c with regs.pc := (s.core c).regs.pc + 16 } ∧ (∀ d, d ≠ c → t.core d = s.core d) ∧ { t with cores := s.cores } = s) ∧
    (let t := issueState c true s
     t.core c = { s.core c with
       regs.pc := (s.core c).regs.pc + 16, regs.ndSeen := true, regs.ndCount := inc16 (s.core c).regs.ndCount } ∧
     (∀ d, d ≠ c → t.core d = s.core d) ∧
     ((s.core c).regs.troupe < 64 → bitOf t.cueRegs.ndMap (s.core c).regs.troupe = true) ∧
     { t with cores := s.cores, cueRegs.ndMap := s.cueRegs.ndMap } = s) ∧
    (∀ (nd : Bool) (body : State → Issue), issues s c = true →
      (∀ t, body (issueState c nd s) = .ok t → coreIssue c nd body s = .next t) ∧
      (∀ code, body (issueState c nd s) = .refuse code → ∃ t, coreIssue c nd body s = .next t ∧
        (t.core c).regs.ndSeen = (s.core c).regs.ndSeen ∧ (t.core c).regs.ndCount = (s.core c).regs.ndCount ∧
        (t.core c).regs.pc = (s.core c).regs.pc ∧ t.cueRegs = s.cueRegs))

/-- R84: a refused instruction halts the list at it. The core becomes faulted, FAULT is set, CORE_PC stays, CORE_FAULT records the first
refusal since FAULT was cleared, and no other core changes. Shown for a vector instruction whose VL field is illegal (OP_INVALID, R71), a branch
beyond the core store (STORE_RANGE, R66) and a SEM_TAKE without the ND mark (ND_REQUIRED, R53). -/
def Obligations.RefusalHaltsTheListAtTheInstruction : Prop :=
  ∀ (c : Nat) (w : VecWord) (target sem count : Nat) (s : State), issues s c = true →
    let refused := fun (code : Nat) (t : State) =>
      (t.core c).regs = { (s.core c).regs with
        state := .faulted, fault := true
        faultCode := (if (s.core c).regs.fault then (s.core c).regs.faultCode else code)
        faultPc := (if (s.core c).regs.fault then (s.core c).regs.faultPc else (s.core c).regs.pc) } ∧
      (t.core c).v = (s.core c).v ∧ (t.core c).store = (s.core c).store ∧ (t.core c).s = (s.core c).s ∧
      (∀ d, d ≠ c → t.core d = s.core d) ∧ t.sems = s.sems ∧ t.mem = s.mem
    (vlOk w = false → Gives (.vadd c w) s (refused rfOpInvalid)) ∧
    (storeBytes ≤ target → Gives (.branch c false target) s (refused rfStoreRange)) ∧
    Gives (.semTake c false sem count) s (refused rfNdRequired)

/-- The CTRL class (R52, R81): NOP and FENCE_L only issue; HALT ends the list with HALT_EV set; BRANCH moves CORE_PC to the target; LOOP
counts its register down and branches while it has not reached zero (log entry 9); the integer operations write one scalar register, by the exact
result where it fits, and an operation that is not defined for the class is refused with OP_INVALID; TAG_LOAD and TAG_STORE move a tag-file entry. -/
def Obligations.ControlInstructionResults : Prop :=
  ∀ (c : Nat) (nd : Bool) (s : State), issues s c = true →
    let s1 := issueState c nd s
    let k := s1.core c
    (exec (.nop c nd) s = .next s1) ∧
    (exec (.fenceL c nd) s = .next s1) ∧
    Gives (.halt c nd) s (fun t => t.core c = { k with regs.haltEv := true, regs.state := .halted } ∧
      (∀ d, d ≠ c → t.core d = s.core d) ∧ t.mem = s.mem ∧ t.sems = s.sems ∧ t.troupes = s.troupes) ∧
    (∀ target, target % 16 = 0 → target < storeBytes →
      Gives (.branch c nd target) s (fun t => t.core c = { k with regs.pc := target } ∧ RegsFrame c s1 t)) ∧
    (∀ r target, 1 < (k.sGet r).toNat → target % 16 = 0 → target < storeBytes →
      Gives (.loop c nd r target) s (fun t => (t.core c).sGet r = BitVec.ofNat 64 ((k.sGet r).toNat - 1) ∧ (t.core c).regs.pc = target ∧
        (∀ q, q ≠ r → (t.core c).sGet q = k.sGet q) ∧ { t.core c with s := k.s, regs.pc := k.regs.pc } = k ∧
        (∀ d, d ≠ c → t.core d = s.core d) ∧ { t with cores := s1.cores } = s1)) ∧
    (∀ r target, (k.sGet r).toNat ≤ 1 →
      Gives (.loop c nd r target) s (fun t => (t.core c).sGet r = 0 ∧ (t.core c).regs = k.regs ∧ (∀ d, d ≠ c → t.core d = s.core d))) ∧
    (∀ code rd ra rb, Gives (.scalarArith c nd (.other code) rd ra rb) s (fun t => (t.core c).regs.state = .faulted ∧ (t.core c).s = (s.core c).s ∧
      (t.core c).regs.pc = (s.core c).regs.pc ∧ ((s.core c).regs.fault = false → (t.core c).regs.faultCode = rfOpInvalid))) ∧
    (∀ op rd ra rb v, scalarResult op (k.sGet ra).toNat (k.sGet rb).toNat = some v → Gives (.scalarArith c nd op rd ra rb) s (fun t =>
      (t.core c).sGet rd = BitVec.ofNat 64 v ∧
      (∀ q, q ≠ rd → (t.core c).sGet q = k.sGet q) ∧ { t.core c with s := k.s } = k ∧
      (∀ d, d ≠ c → t.core d = s.core d) ∧ { t with cores := s1.cores } = s1)) ∧
    (∀ rd ra rb, (k.sGet ra).toNat + (k.sGet rb).toNat < 2 ^ 64 →
      Gives (.scalarArith c nd .add rd ra rb) s (fun t => ((t.core c).sGet rd).toNat = (k.sGet ra).toNat + (k.sGet rb).toNat)) ∧
    (∀ tag addr, addr + 8 ≤ storeBytes → Gives (.tagLoad c nd tag addr) s (fun t =>
      (t.core c).tagGet tag = BitVec.ofNat 64 (k.store.nat addr 8) ∧ (∀ q, q ≠ tag → (t.core c).tagGet q = k.tagGet q) ∧
      { t.core c with tags := k.tags } = k ∧ (∀ d, d ≠ c → t.core d = s.core d) ∧ { t with cores := s1.cores } = s1)) ∧
    (∀ tag addr, addr + 8 ≤ storeBytes → Gives (.tagStore c nd tag addr) s (fun t =>
      (t.core c).store.nat addr 8 = (k.tagGet tag).toNat ∧
      (∀ a, a < addr ∨ addr + 8 ≤ a → (t.core c).store.read a = k.store.read a) ∧
      { t.core c with store := k.store } = k ∧ (∀ d, d ≠ c → t.core d = s.core d) ∧ { t with cores := s1.cores } = s1))

/-! ### Vector instructions -/

/-- R69, R71: the elementwise operations of the VEC class write the operation's value to every selected element of VD below VL, +0.0 or the old
value to the others, and change nothing else but the accounting. INT_ADD of two words whose sum fits 32 bits is that sum; where it does not fit, and
for INT_SHIFT, the value is free (log entries 8 and 10). -/
def Obligations.VectorElementResults : Prop :=
  (∀ a b : F32, a.toNat + b.toNat < 2 ^ 32 → (vecIntAdd a b).toNat = a.toNat + b.toNat) ∧
  (∀ (c : Nat) (w : VecWord) (s : State), issues s c = true → vlOk w = true →
    let s1 := issueState c w.nd s
    let k := s.core c
    let two := fun (f : F32 → F32 → F32) => Elementwise c w (fun i => f (k.vGet w.va i) (k.vGet w.vb i)) s1
    let one := fun (f : F32 → F32) => Elementwise c w (fun i => f (k.vGet w.va i)) s1
    Gives (.vadd c w) s (two f32Add) ∧ Gives (.vsub c w) s (two f32Sub) ∧ Gives (.vmul c w) s (two f32Mul) ∧
    Gives (.vmin c w) s (two f32Min) ∧ Gives (.vmax c w) s (two f32Max2) ∧ Gives (.vdiv c w) s (two f32Div) ∧
    Gives (.vfma c w) s (Elementwise c w (fun i => f32Fma (k.vGet w.va i) (k.vGet w.vb i) (k.vGet w.vc i)) s1) ∧
    Gives (.vabs c w) s (one f32Abs) ∧ Gives (.vneg c w) s (one f32Negate) ∧ Gives (.vsqrt c w) s (one f32Sqrt) ∧
    Gives (.vrsqrt c w) s (one (fun x => f32Div f32One (f32Sqrt x))) ∧ Gives (.vintAdd c w) s (two vecIntAdd) ∧
    Gives (.vintShift c w) s (two (fun a b => BitVec.ofNat 32 (Config.intShift w.imm a.toNat b.toNat))) ∧
    Gives (.gather c w) s (Elementwise c w (fun i => k.vGet w.va (permIndex (k.vGet w.vb i).toNat)) s1))

/-- R71: the compares write the predicate register that VD names, under the predicate, and nothing else but the accounting (log entry 10). -/
def Obligations.CompareResults : Prop :=
  ∀ (c : Nat) (w : VecWord) (s : State), issues s c = true → vlOk w = true →
    let s1 := issueState c w.nd s
    let k := s.core c
    let two := fun (f : F32 → F32 → Bool) => Compares c w (fun i => f (k.vGet w.va i) (k.vGet w.vb i)) s1
    let one := fun (f : F32 → Bool) => Compares c w (fun i => f (k.vGet w.va i)) s1
    Gives (.veq c w) s (two f32Eq) ∧ Gives (.vlt c w) s (two f32Lt) ∧ Gives (.vle c w) s (two f32Le) ∧
    Gives (.visNan c w) s (one f32IsNaN) ∧ Gives (.visInf c w) s (one f32IsInf)

/-- R70: the reductions run over the logical elements below VL: RSUM takes +0.0 for a masked one, RMAX, RMIN and RAMAX skip it; the value goes to
element 0 of VD (log entry 10). -/
def Obligations.ReductionResults : Prop :=
  ∀ (c : Nat) (w : VecWord) (s : State), issues s c = true → vlOk w = true →
    let s1 := issueState c w.nd s
    let k := s.core c
    let sel := (List.range w.vl).filter (fun i => k.pGet w.pred i)
    Gives (.rsum c w) s (Reduces c w (treeSum ((List.range w.vl).map (fun i => if k.pGet w.pred i then k.vGet w.va i else 0))) s1) ∧
    Gives (.rmax c w) s (Reduces c w (treeMax (sel.map (k.vGet w.va))) s1) ∧
    Gives (.rmin c w) s (Reduces c w (treeMin (sel.map (k.vGet w.va))) s1) ∧
    Gives (.ramax c w) s (Reduces c w (treeMax (sel.map (fun i => f32Abs (k.vGet w.va i)))) s1)

/-- R69, R71, R53: SCATTER writes its destination under VL, the predicate and PZ as any other operation: an element that some VB names takes the last
element of VA whose VB names it (log entry 10), and any other keeps its value; SCATADD_O adds in ascending order; SCATADD_U adds in an order that is some
permutation of it, and without the ND mark it is refused with ND_REQUIRED. -/
def Obligations.ScatterResults : Prop :=
  ∀ (c : Nat) (w : VecWord) (s : State), issues s c = true → vlOk w = true →
    let s1 := issueState c w.nd s
    let k := s.core c
    let at_ := fun i => permIndex (k.vGet w.vb i).toNat
    Gives (.scatter c w) s (Elementwise c w (scatterVal k w) s1) ∧
    (∀ i, i < w.vl → (∀ j, i < j → j < w.vl → at_ j ≠ at_ i) → scatterVal k w (at_ i) = k.vGet w.va i) ∧
    (∀ e, (∀ i, i < w.vl → at_ i ≠ e) → scatterVal k w e = k.vGet w.vd e) ∧
    ((∀ i ∈ selected k w, scatAddr k w i + 4 ≤ storeBytes) →
      Gives (.scataddO c w) s (Stores c (scatAddAll k w (selected k w)).store s1) ∧
      (w.nd = true → Gives (.scataddU c w) s (fun t => ∃ order, List.Perm order (selected k w) ∧
        Stores c (scatAddAll k w order).store { s1 with fresh := s.fresh + 1 } t))) ∧
    (w.nd = false → Gives (.scataddU c w) s (fun t => (t.core c).regs.state = .faulted ∧ (t.core c).store = k.store ∧
      ((s.core c).regs.fault = false → (t.core c).regs.faultCode = rfNdRequired)))

/-- R73 to R75: FUNC evaluates the slot's forward table; FUNCD multiplies the gradient in VB by the derivative table at VA; an empty half is
refused with FTAB_INVALID; FLOAD fills the half that the table's KIND names. -/
def Obligations.FunctionTableResults : Prop :=
  ∀ (c fs : Nat) (w : VecWord) (s : State), issues s c = true → fs < 8 →
    let k := s.core c
    let s1 := issueState c w.nd s
    (∀ tab, vlOk w = true → mapFind k.slots (2 * fs) = some tab →
      Gives (.func c w fs) s (Elementwise c w (fun i => tab.eval (k.vGet w.va i)) s1)) ∧
    (∀ tab, vlOk w = true → mapFind k.slots (2 * fs + 1) = some tab →
      Gives (.funcd c w fs) s (Elementwise c w (fun i => f32Mul (k.vGet w.vb i) (tab.eval (k.vGet w.va i))) s1)) ∧
    (vlOk w = true → mapFind k.slots (2 * fs) = none →
      Gives (.func c w fs) s (fun t => (t.core c).regs.state = .faulted ∧ (t.core c).v = k.v ∧
        ((s.core c).regs.fault = false → (t.core c).regs.faultCode = rfFtabInvalid))) ∧
    (∀ nd addr kind tab, addr + 4160 ≤ storeBytes → parseTable k.store addr = some (kind, tab) →
      Gives (.fload c nd fs addr) s (fun t => mapFind (t.core c).slots (2 * fs + kind) = some tab ∧
        (∀ j, j ≠ 2 * fs + kind → mapFind (t.core c).slots j = mapFind k.slots j) ∧
        { t.core c with slots := k.slots } = (issueState c nd s).core c ∧
        (∀ d, d ≠ c → t.core d = s.core d) ∧ { t with cores := s.cores } = { issueState c nd s with cores := s.cores }))

/-- R71, R39, R40: VMEM_LOAD widens every element of the stored vector, block and tensor scale applied, and sets CONV_SAT when a selected one
saturates; VMEM_STORE writes the converted
elements at its address, ORs NF into its tag (R45), and leaves every other byte and register as it was. -/
def Obligations.VectorMemoryResults : Prop :=
  ∀ (c : Nat) (w : VecWord) (s : State), issues s c = true → vlOk w = true →
    let k := s.core c
    let s1 := issueState c w.nd s
    let tg := k.tagGet w.tg
    tagInvalid tg = false → w.addr * 128 + vmemSpan tg w.vl ≤ storeBytes →
    Gives (.vmemLoad c w) s (fun t =>
      let x := fun i => widen tg (nth (0, 127) (vmemElems k tg w) i)
      (∀ i, i < 256 → (t.core c).vGet w.vd i = resultAt k w (fun i => (x i).1) i (k.vGet w.vd i)) ∧
      (∀ r i, i < 256 → r ≠ w.vd → (t.core c).vGet r i = k.vGet r i) ∧
      (t.core c).arith.convSat = (k.arith.convSat || (selected k w).any (fun i => (x i).2)) ∧
      { t.core c with v := k.v, arith := k.arith } = s1.core c ∧ CoreFrame c s1 t) ∧
    (w.rnd ≠ 3 →
      let o := vmemStored k w (coreKey s c)
      Gives (.vmemStore c w) s (fun t =>
        (t.core c).store = k.store.writeN (w.addr * 128) o.1 ∧
        (∀ a, a < w.addr * 128 ∨ w.addr * 128 + o.1.length ≤ a → (t.core c).store.read a = k.store.read a) ∧
        (t.core c).tagGet w.tg = tagOr tg o.2.nf false ∧ (∀ q, q ≠ w.tg → (t.core c).tagGet q = k.tagGet q) ∧
        { t.core c with store := k.store, tags := k.tags, arith := k.arith } = s1.core c ∧ (∀ d, d ≠ c → t.core d = s.core d) ∧ t.mem = s.mem ∧ t.sems = s.sems))

/-! ### Matrix instructions -/

/-- R61, R68: MFILL fills plane PL with the tile, or two chunks of an FP4 pair; MZERO clears drain-buffer rows DBASE to DBASE + MROWS; XPOSE writes the
transposed tiles. Each leaves all else alone. -/
def Obligations.PlaneDrainAndTransposeResults : Prop :=
  ∀ (c : Nat) (w : MatWord) (x : XposeWord) (s : State), issues s c = true →
    let k := s.core c
    let s1 := issueState c w.nd s
    let pair := pairForm (k.tagGet w.ta) (k.tagGet w.tb)
    let n := if pair then 2 * tileSpan (k.tagGet w.tb) else tileSpan (k.tagGet w.tb)
    (matTagBad (k.tagGet w.ta) (k.tagGet w.tb) = false → matBase k w w.bbase + n ≤ storeBytes →
      Gives (.mfill c w) s (fun t =>
        (if w.pl then (t.core c).planeB else (t.core c).planeA) =
          { filled := true, pair := pair, data := k.store.readN (matBase k w w.bbase) n } ∧
        (if w.pl then { t.core c with planeB := k.planeB } else { t.core c with planeA := k.planeA }) = s1.core c ∧
        (∀ d, d ≠ c → t.core d = s.core d) ∧ { t with cores := s1.cores } = s1)) ∧
    (w.dbase + w.mrows ≤ 511 →
      Gives (.mzero c w) s (fun t =>
        (∀ r j, j < 128 → mapGet 0 (t.core c).drain (128 * r + j) =
          if w.dbase ≤ r ∧ r ≤ w.dbase + w.mrows then 0 else mapGet 0 k.drain (128 * r + j)) ∧
        { t.core c with drain := k.drain } = s1.core c ∧ (∀ d, d ≠ c → t.core d = s.core d) ∧ { t with cores := s1.cores } = s1)) ∧
    (511 < w.dbase + w.mrows → k.regs.fault = false →
      Gives (.mzero c w) s (fun t => (t.core c).regs.faultCode = rfDrainSpace ∧ (t.core c).drain = k.drain)) ∧
    (xposeRefusal k x = none →
      Gives (.xpose c x) s (fun t => (t.core c).store = xposeStore k x ∧
        { t.core c with store := k.store } = (issueState c x.nd s).core c ∧ (∀ d, d ≠ c → t.core d = s.core d) ∧
        { t with cores := s.cores } = { issueState c x.nd s with cores := s.cores }))

/-- R61, R55, R45, R48: an MMUL or MMULX that nothing refuses writes its product at the destination, ORs NF and AW into the destination's tag, leaves the
planes as its fills leave them and its combined results in the drain buffer, and records the conditions in CORE_ARITH; no other byte of its store and no
other core changes. One that is refused halts its list with the code of the refusal, and writes nothing. -/
def Obligations.MatrixProductResults : Prop :=
  ∀ (c : Nat) (w : MatWord) (s : State), issues s c = true →
    let k := s.core c
    let s1 := issueState c w.nd s
    let after := fun (xp : Bool) (t : State) =>
      let o := matOut k w xp (coreKey s c) (k.fGet w.sri).toNat
      let td := k.tagGet w.td
      let filled := planesAfter k w (k.tagGet w.tb) (pairForm (k.tagGet w.ta) (k.tagGet w.tb)) (matBase k w w.bbase) (w.nch + 1)
      (t.core c).store = k.store.writeN (matBase k w w.dbase) o.bytes ∧
      (∀ a, a < matBase k w w.dbase ∨ matBase k w w.dbase + o.bytes.length ≤ a → (t.core c).store.read a = k.store.read a) ∧
      (t.core c).tagGet w.td = tagOr td o.rep.nf (o.acc.low || o.acc.high) ∧
      (∀ q, q ≠ w.td → (t.core c).tagGet q = k.tagGet q) ∧
      (t.core c).planeA = filled.planeA ∧ (t.core c).planeB = filled.planeB ∧ (t.core c).drain = drainPut k.drain o.drain ∧
      (t.core c).arith.nf = (k.arith.nf || o.rep.nf) ∧ (t.core c).arith.convSat = (k.arith.convSat || o.rep.sat) ∧
      (t.core c).arith.awLow = (k.arith.awLow || o.acc.low) ∧ (t.core c).arith.awHigh = (k.arith.awHigh || o.acc.high) ∧
      { t.core c with store := k.store, tags := k.tags, arith := k.arith, planeA := k.planeA, planeB := k.planeB, drain := k.drain } = s1.core c ∧
      (∀ d, d ≠ c → t.core d = s.core d) ∧ t.mem = s.mem ∧ t.sems = s.sems
    let refused := fun (code : Nat) (t : State) => (t.core c).regs.state = .faulted ∧ (t.core c).regs.pc = k.regs.pc ∧
      (k.regs.fault = false → (t.core c).regs.faultCode = code) ∧ (t.core c).store = k.store ∧ (t.core c).tags = k.tags ∧ (t.core c).drain = k.drain ∧
      (∀ d, d ≠ c → t.core d = s.core d) ∧ t.mem = s.mem
    (mmulRefusal k w false = none → Gives (.mmul c w) s (after false)) ∧
    (mmulRefusal k w true = none → Gives (.mmulx c w) s (after true)) ∧
    (∀ code, mmulRefusal k w false = some code → Gives (.mmul c w) s (refused code)) ∧
    (∀ code, mmulRefusal k w true = some code → Gives (.mmulx c w) s (refused code))

/-! ### Synchronization and descriptors -/

/-- R78, R327, R328, R315, R316, R338: FENCE_M issues when no descriptor is outstanding and waits otherwise; SEM_SIG adds; SEM_WAIT goes on at the count and
leaves it; SEM_TAKE subtracts it; each waits below the count; QPOP takes the oldest entry or waits; an absolute CUE_WAIT whose count has passed goes on,
and another waits; a CUE_WAIT at a barrier
makes its core wait there, and one whose instance was released while its troupe was away goes on, late. A semaphore that the troupe does not have is refused
with OP_INVALID, and semaphores of other numbers keep their counts. -/
def Obligations.SynchronizationResults : Prop :=
  ∀ (c : Nat) (nd : Bool) (s : State), issues s c = true →
    let s1 := issueState c nd s
    let u := (s.core c).regs.troupe
    let earlier := fun (sem : Nat) => earlierTaker s1 c ((s.troupe u).cfg.semBase + sem)
    let refused := fun (t : State) => (t.core c).regs.state = .faulted ∧ (t.core c).regs.pc = (s.core c).regs.pc ∧
      ((s.core c).regs.fault = false → (t.core c).regs.faultCode = rfOpInvalid) ∧ (∀ d, d ≠ c → t.core d = s.core d) ∧ t.sems = s.sems
    let waits := fun (x : Wait) (t : State) => t.core c = { s1.core c with regs.wait := x } ∧ (∀ d, d ≠ c → t.core d = s.core d) ∧ t.sems = s.sems
    ((s.core c).descs = [] → exec (.fenceM c nd) s = .next s1) ∧
    ((s.core c).descs ≠ [] → Gives (.fenceM c nd) s (waits .fenceM)) ∧
    (∀ sem n, semNamed s u sem = true → semGet s u sem + n ≤ semMax →
      Gives (.semSig c nd sem n) s (fun t => semGet t u sem = semGet s u sem + n ∧
        (∀ j, j ≠ sem → semGet t u j = semGet s u j) ∧ t.cores = s1.cores ∧ { t with sems := s.sems } = s1)) ∧
    (∀ sem n, semNamed s u sem = true → semMax < semGet s u sem + n →
      Gives (.semSig c nd sem n) s (fun t => semGet t u sem = semMax ∧ (t.troupe u).regs.semSat = true)) ∧
    (∀ sem n, semNamed s u sem = true → n ≤ semGet s u sem → exec (.semWait c nd sem n) s = .next s1) ∧
    (∀ sem n, semNamed s u sem = true → semGet s u sem < n → Gives (.semWait c nd sem n) s (waits (.sem sem n false))) ∧
    (∀ sem n, nd = true → semNamed s u sem = true → n ≤ semGet s u sem → earlier sem = false →
      Gives (.semTake c nd sem n) s (fun t => semGet t u sem = semGet s u sem - n ∧
        (∀ j, j ≠ sem → semGet t u j = semGet s u j) ∧ { t with sems := s.sems } = s1)) ∧
    (∀ sem n, nd = true → semNamed s u sem = true → semGet s u sem < n ∨ earlier sem = true →
      Gives (.semTake c nd sem n) s (fun t => waits (.sem sem n true) t ∧ c ∈ t.takers)) ∧
    (∀ sem n, semNamed s u sem = false → Gives (.semSig c nd sem n) s refused ∧ Gives (.semWait c nd sem n) s refused ∧
      (nd = true → Gives (.semTake c nd sem n) s refused)) ∧
    (∀ q rd, nd = true → q < (s.troupe u).cfg.queues.length → (s.queue u q).count ≠ 0 →
      Gives (.qpop c nd q rd) s (fun t =>
        (t.core c).sGet rd = BitVec.ofNat 64 (troupeNat s1 u ((nth (0, 1) (s.troupe u).cfg.queues q).1 + 8 * (s.queue u q).head) 8) ∧
        (t.queue u q).count = (s.queue u q).count - 1 ∧ (∀ j, j ≠ q → t.queue u j = s.queue u j) ∧ t.mem.bytes = s.mem.bytes ∧
        (s.mem.weak = [] → t.mem = s.mem))) ∧
    (∀ q rd, nd = true → q < (s.troupe u).cfg.queues.length → (s.queue u q).count = 0 → Gives (.qpop c nd q rd) s (waits (.qpop q rd))) ∧
    (∀ w : CueWord, w.nd = nd → w.mode = false → ((s.core c).sGet w.sx).toNat ≤ s.cue → exec (.cueWait c w) s = .next s1) ∧
    (∀ w : CueWord, w.nd = nd → w.mode = false → s.cue < ((s.core c).sGet w.sx).toNat →
      Gives (.cueWait c w) s (waits (.cue ((s.core c).sGet w.sx).toNat))) ∧
    (∀ (w : CueWord) e, w.nd = nd → w.mode = true → barrierEnt s u w.bar = some e → releasedAway s1 c u w.bar = false →
      exec (.cueWait c w) s = .next (checkBarriers u
        ((s1.modRegs c (fun r => { r with kept := none })).modRegs c (fun r => { r with wait := .barrier w.bar w.sx })))) ∧
    (∀ (w : CueWord) e, w.nd = nd → w.mode = true → barrierEnt s u w.bar = some e → releasedAway s1 c u w.bar = true →
      exec (.cueWait c w) s = .next (lateCue u w.bar (s.bar u w.bar).lastRel ((s1.modRegs c (fun r => { r with kept := none })).modCore c
        (fun k => k.sPut w.sx (BitVec.ofNat 64 (s.bar u w.bar).lastRel)))))


/-! ### Ends of waits, and the registers of a core -/

/-- R78, R328, R315, R82: a wait whose condition holds ends: a SEM_WAIT leaves the count, a SEM_TAKE takes it in the order of acceptance, a QPOP takes the
oldest entry, and an absolute CUE_WAIT ends when the Cue count reaches its target; the core then issues again, or, where a STOP waited for it, is halted.
While the condition does not hold, nothing changes. -/
def Obligations.WaitsEndWhenSatisfied : Prop :=
  ∀ (c : Nat) (s : State), s.alive = true →
    let r := (s.core c).regs
    let u := r.troupe
    (∀ n count, r.wait = .sem n count false →
      (count ≤ semGet s u n → exec (.semWaitSatisfied c) s = .next (endWait c s)) ∧
      (semGet s u n < count → exec (.semWaitSatisfied c) s = .next s)) ∧
    (∀ n count, r.wait = .sem n count true →
      (count ≤ semGet s u n → earlierTaker s c ((s.troupe u).cfg.semBase + n) = false →
        let s1 := semSet u n (semGet s u n - count) { s with takers := s.takers.filter (fun x => x != c) }
        semGet s1 u n = semGet s u n - count ∧ c ∉ s1.takers ∧ exec (.semWaitSatisfied c) s = .next (endWait c s1)) ∧
      (semGet s u n < count ∨ earlierTaker s c ((s.troupe u).cfg.semBase + n) = true → exec (.semWaitSatisfied c) s = .next s)) ∧
    (∀ q rd, r.wait = .qpop q rd →
      ((s.queue u q).count ≠ 0 →
        let s1 := popQueue c q rd s
        (s1.queue u q).count = (s.queue u q).count - 1 ∧ (s1.core c).regs = r ∧
        (s1.core c).sGet rd = BitVec.ofNat 64 (troupeNat s u ((nth (0, 1) (s.troupe u).cfg.queues q).1 + 8 * (s.queue u q).head) 8) ∧
        exec (.queueEntryAvailable c) s = .next (endWait c s1)) ∧
      ((s.queue u q).count = 0 → exec (.queueEntryAvailable c) s = .next s)) ∧
    (∀ target, r.wait = .cue target →
      (target ≤ s.cue → exec (.cueWaitRelease c) s = .next (endWait c s)) ∧
      (s.cue < target → exec (.cueWaitRelease c) s = .next s)) ∧
    (r.stopping = false → s.bt.resets = [] → (endWait c s).core c = { s.core c with regs.wait := .none } ∧
      (∀ d, d ≠ c → (endWait c s).core d = s.core d) ∧ { endWait c s with cores := s.cores } = s) ∧
    (r.stopping = true → (s.core c).descs = [] →
      (endWait c s).core c = { s.core c with regs.wait := .none, regs.stopping := false, regs.state := .halted } ∧
      (∀ d, d ≠ c → (endWait c s).core d = s.core d) ∧ { endWait c s with cores := s.cores } = s)

/-- R83: CORE_PC, the register at offset 0x10 of a core block, reads the offset of the next instruction in bits [20:0] and 0 elsewhere; it takes a write of an
aligned offset inside the core store unless the core is running; every other write is discarded, and CORE_PC keeps its value. The word's bits above
[20:0] are reserved. -/
def Obligations.CorePcTakesAlignedWritesWhileStopped : Prop :=
  ∀ (c : Nat) (v : Word) (s : State), s.alive = true →
    let x := v.toNat % 2 ^ 21
    readCore (s.core c) 0x10 = (s.core c).regs.pc % 2 ^ 21 ∧
    ((s.core c).regs.state = .running → exec (.corePcWrite c v) s = .next s) ∧
    (x % 16 ≠ 0 ∨ 0x180000 ≤ x → exec (.corePcWrite c v) s = .next s) ∧
    ((s.core c).regs.state ≠ .running → x % 16 = 0 → x < 0x180000 →
      Gives (.corePcWrite c v) s (fun t => t.core c = { s.core c with regs.pc := x } ∧ RegsFrame c s t))

/-- R48, R80 to R82, R84: START runs an idle or halted core of a resident troupe; STOP halts a running core once it has no work in flight; ND_CLR and CNT_CLR
clear their counters; a write of 1 to FAULT clears it with its record and moves a faulted core to halted; CLUSTER_START starts the cores of a set of one
troupe, each addressed as its logical number is held now, but for those that it reports as not started. -/
def Obligations.CoreControlResults : Prop :=
  ∀ (c : Nat) (s : State), s.alive = true →
    let k := s.core c
    (startable k = true → troupeStarts s k.regs.troupe = true →
      Gives (.coreStart c) s (fun t => (t.core c).regs = { k.regs with state := .running, wait := .none, stopping := false, kept := none } ∧
        { t.core c with regs := k.regs } = k ∧ (∀ d, d ≠ c → t.core d = s.core d))) ∧
    (startable k = false ∨ troupeStarts s k.regs.troupe = false → exec (.coreStart c) s = .next s) ∧
    (k.regs.state = .running → waitOver k.regs.wait = true → k.descs = [] →
      Gives (.coreStop c) s (fun t => (t.core c).regs = { k.regs with state := .halted, stopping := false, wait := .none } ∧ { t.core c with regs := k.regs } = k ∧
        (∀ d, d ≠ c → t.core d = s.core d))) ∧
    (k.regs.state = .running → waitOver k.regs.wait = false ∨ k.descs ≠ [] → s.bt.resets = [] →
      Gives (.coreStop c) s (fun t => t.core c = { k with regs.stopping := true } ∧ (∀ d, d ≠ c → t.core d = s.core d))) ∧
    (k.regs.state ≠ .running → exec (.coreStop c) s = .next s) ∧
    Gives (.ndClr c) s (fun t => t.core c = { k with regs.ndCount := 0 } ∧ RegsFrame c s t) ∧
    Gives (.arithCntClr c) s (fun t =>
      t.core c = { k with arith.nfCount := 0, arith.awCount := 0, arith.satCount := 0, arith.refuseCount := 0 } ∧
      (∀ d, d ≠ c → t.core d = s.core d) ∧ { t with cores := s.cores } = s) ∧
    Gives (.faultClear c) s (fun t => (t.core c).regs = { k.regs with
        fault := false, faultCode := 0, faultPc := 0, state := (if k.regs.state = .faulted then .halted else k.regs.state) } ∧
      { t.core c with regs := k.regs } = k ∧ (∀ d, d ≠ c → t.core d = s.core d)) ∧
    (∀ tile cluster mask, 
      let cs := (clusterMaskCores tile cluster mask).map (startTarget s (4 * tile + cluster))
      let good := cs.filter (fun x => !startBarred s x)
      c ∈ good → startable k = true → troupeStarts s k.regs.troupe = true → (∀ x ∈ good, (s.core x).regs.troupe = k.regs.troupe) →
      Gives (.clusterStart tile cluster mask) s (fun t => (t.core c).regs.state = .running ∧
        (∀ x ∈ good, startable (s.core x) = true → (t.core x).regs.state = .running) ∧ (∀ x, x ∉ good → t.core x = s.core x) ∧
        t.notStarted = (cs.filter (startBarred s)).reverse ++ s.notStarted))

/-! ### Descriptors -/

/-- R76, R77, R285: MOVE posts the 64 bytes at its address as a descriptor, or waits while 32 are outstanding. A posted descriptor whose turn it is is carried
out by the row of its OP, and keeps the status with which it completes; with its writes readable and no earlier one in its way it completes, leaves
the engine and raises its semaphore, but not after MEM_UE or NO_ROUTE (R250, R280). A move whose source cannot be read writes nothing: it completes with the status of the refused access (R265, R324), and memory and the cores
stay as they were. -/
def Obligations.DescriptorResults : Prop :=
  (∀ (c : Nat) (s : State), s.alive = true →
    (∀ nd addr, issues s c = true → addr + 64 ≤ storeBytes → (s.core c).descs.length < 32 →
      Gives (.move c nd addr) s (fun t => t.core c = postDesc ((s.core c).store.readN addr 64) ((issueState c nd s).core c) ∧
        (∀ d, d ≠ c → t.core d = s.core d) ∧ t.mem = s.mem)) ∧
    (∀ nd addr, issues s c = true → addr + 64 ≤ storeBytes → 32 ≤ (s.core c).descs.length →
      Gives (.move c nd addr) s (fun t => (t.core c).regs.wait = .move ((s.core c).store.readN addr 64) ∧ (t.core c).descs = (s.core c).descs)) ∧
    (∀ id p, descOf s c id = some p → p.stage = .posted → descStarts s c id (Desc.ofBytes p.raw) = true →
      let d := Desc.ofBytes p.raw
      let u := (s.core c).regs.troupe
      let by_ := fun (kind : MoveKind) => setStage c id (.done (moveBody c id kind u d s).2) (moveBody c id kind u d s).1
      (d.op = 0 → exec (.moveCopy c id) s = .next (by_ .copy)) ∧
      (d.op = 1 → exec (.moveCopyTag c id) s = .next (by_ .copyTag)) ∧
      (d.op = 2 → exec (.moveConvert c id) s = .next (by_ .convert))) ∧
    (∀ id p st, descOf s c id = some p → p.stage = .done st → earlierMeets s c id (Desc.ofBytes p.raw) = false →
      (s.mem.stalled.any (fun w => w.owner == .desc c id) = false → exec (.descriptorComplete c id) s = .next (finishDesc c id st s)) ∧
      (s.mem.stalled.any (fun w => w.owner == .desc c id) = true → exec (.descriptorComplete c id) s = .next s) ∧
      ((s.core c).regs.wait = .none → (s.core c).regs.stopping = false → s.bt.resets = [] →
        let t := finishDesc c id st s
        let d := Desc.ofBytes p.raw
        let u := (s.core c).regs.troupe
        (t.core c).descs = (s.core c).descs.filter (fun q => q.id != id) ∧ (c, id, st) ∈ t.out.descs ∧ t.mem = s.mem ∧
        (d.sem = 0xFFFF ∨ semRises st = false → t.sems = s.sems) ∧
        (d.sem ≠ 0xFFFF → semNamed s u d.sem = true → semRises st = true → semGet s u d.sem < semMax → semGet t u d.sem = semGet s u d.sem + 1)))) ∧
  (∀ (c id u : Nat) (kind : MoveKind) (d : Desc) (f : AccFault) (s : State),
    moveFieldsOk s u d = true → (kind ≠ .copy → d.stag < 64 ∧ d.dtag < 64) → (kind ≠ .copy → tagInvalid ((s.core c).tagGet d.stag) = false) →
    (kind = .convert → tagInvalid ((s.core c).tagGet d.dtag) = false) →
    rangesLocs s u false (moveSource kind ((s.core c).tagGet d.stag) d) = .error f →
    (moveBody c id kind u d s).2 = f.status ∧ (moveBody c id kind u d s).1.mem = s.mem ∧ (moveBody c id kind u d s).1.cores = s.cores)

/-- R285, R296, R280: a posted remote descriptor or collective whose fields are in range is sent. A REMOTE_WRITE reads its source, converts it, and sends its
packets; a REMOTE_READ sends one request with its source ranges; a COLLECTIVE of a group of which the troupe is a member begins there. Packets that have waited
ROUTE_TIMEOUT are given up, and the descriptor's status is NO_ROUTE. -/
def Obligations.RemoteDescriptorResults : Prop :=
  ∀ (c id : Nat) (s : State), s.alive = true →
    (∀ p src, descOf s c id = some p →
      let d := Desc.ofBytes p.raw
      let u := (s.core c).regs.troupe
      let ta := (s.core c).tagGet d.stag
      let td := (s.core c).tagGet d.dtag
      let peer := nth (0, 0) (mapGet [] s.fab.peers u) (rawField d.ext 0 2)
      let notify := rawField d.ext 2 1 == 1
      remoteFieldsOk s u d = true → tagInvalid ta = false → tagInvalid td = false →
      (remoteReady s c id 0x100 p = true → rangesLocs s u false (moveSource (remoteKind ta td) ta d) = .ok src →
        let o := moveOut (remoteKind ta td) ta td d (readLocs s src) (flagsOf s src)
        exec (.remoteWrite c id) s = .next (chargeStacks u (stackBytesOf src) 0 (sendPkts peer.1 peer.2 u
          (writePackets { kind := .write, src := s.lmid, core := c, desc := id, notify := notify } o.bytes.length 0 o.ranges o.bytes
            (if (flagsOf s src).any (fun b => b) then o.flags else []))
          (setStage c id .sent (noteArith c { nf := o.rep.nf, sat := o.rep.sat } (findErrors src s)))))) ∧
      (remoteReady s c id 0x101 p = true →
        exec (.remoteRead c id) s = .next (sendPkts peer.1 peer.2 u
          [{ kind := .readReq, src := s.lmid, core := c, desc := id, notify := notify
             vals := (moveSource (remoteKind ta td) ta d).flatMap (fun r => [r.1, r.2]) }] (setStage c id .sent s)))) ∧
    (∀ p g r, descOf s c id = some p → collReady s c id p = true →
      let d := CollDesc.ofBytes p.raw
      let u := (s.core c).regs.troupe
      d.group ≤ 1023 →
      mapFind s.fab.groups d.group = some g → rankOf g s.lmid u = some r →
      collFieldsOk s u ((s.core c).tagGet d.stag) ((s.core c).tagGet d.dtag) d g.members.length = true →
      exec (.collective c id) s = .next (settleLocal (beginColl c id u d g r s))) ∧
    ((∃ x ∈ s.fab.tx, ownItem s c id x = true ∧ ∃ a, x.since = some a ∧ a + s.fab.routeTimeout * cyclesMs ≤ s.cue) → isSent s c id = true →
      Gives (.noRoute c id) s (fun t => (∀ y ∈ t.fab.tx, ownItem s c id y = false) ∧ (∀ p, descOf t c id = some p → p.stage = .done stNoRoute) ∧
        t.mem = s.mem ∧ t.sems = s.sems)) ∧
    ((∀ x ∈ s.fab.tx, ownItem s c id x = true → ∀ a, x.since = some a → s.cue < a + s.fab.routeTimeout * cyclesMs) → exec (.noRoute c id) s = .next s)

/-! ### Flint, optimizer, attention, sampling -/

/-- R152 to R159: the FLINT class draws its fields at logical elements s(SIX) + e of the stream in f(SRI) under the troupe's key; FSTR loads a stream
register; FDISC leaves the winner's sum and index in elements 0, 1 and 2 of VD. -/
def Obligations.FlintInstructionResults : Prop :=
  ∀ (c : Nat) (w : VecWord) (s : State), issues s c = true → vlOk w = true →
    let s1 := issueState c w.nd s
    let k := s.core c
    let field := fun (n e : Nat) => flintField (coreKey s c) (k.fGet w.sri).toNat ((k.sGet w.six).toNat + e) n
    Gives (.fstr c w) s (fun t => (t.core c).fGet w.sri = k.sGet w.six ∧ (∀ q, q ≠ w.sri → (t.core c).fGet q = k.fGet q) ∧
      { t.core c with f := k.f } = s1.core c ∧ CoreFrame c s1 t) ∧
    (w.imm % 4 ≠ 3 → Gives (.fraw c w) s (Elementwise c w (fun e => BitVec.ofNat 32 (field (8 * 2 ^ (w.imm % 4)) e)) s1)) ∧
    Gives (.funi c w) s (Elementwise c w (fun e => uniformOf (field 32 e)) s1) ∧
    (w.imm ≤ 65536 → Gives (.fber c w) s (Elementwise c w (fun e => if field 16 e < w.imm then f32One else 0) s1)) ∧
    Gives (.fgum c w) s (Elementwise c w (fun e => gumbelOf (field 32 e)) s1) ∧
    Gives (.fnrm c w) s (Elementwise c w (fun e => normalOf (field 32 e)) s1) ∧
    (let six := (k.sGet w.six).toNat
     let d := discDraw ((selected k w).map (fun e => (k.vGet w.va e, (six + e) % 2 ^ 64)))
       (fun i => gumbelOf (flintField (coreKey s c) (k.fGet w.sri).toNat i 32))
     Gives (.fdisc c w) s (fun t => (t.core c).vGet w.vd 0 = d.1 ∧ (t.core c).vGet w.vd 1 = BitVec.ofNat 32 d.2 ∧
       (t.core c).vGet w.vd 2 = BitVec.ofNat 32 (d.2 / 2 ^ 32) ∧
       (∀ r i, i < 256 → r ≠ w.vd ∨ 2 < i → (t.core c).vGet r i = k.vGet r i) ∧ { t.core c with v := k.v } = s1.core c ∧ CoreFrame c s1 t))

/-- R160: FLINT_LOAD derives the key from the staged seed while no core of the troupe runs; while one runs the load is discarded, the key stays, and BUSY
is set and counted. FLINT_CNT_CLR clears the counter. -/
def Obligations.FlintLoadResults : Prop :=
  ∀ (u : Nat) (s : State), s.alive = true → s.hasTroupe u = true →
    let x := s.troupe u
    (anyRunning s u = false → Gives (.flintLoad u) s (fun t =>
      t.troupe u = { x with
        flint.seed := x.flint.staged, flint.key := flintKey x.flint.staged, flint.keychk := flintKeyChk x.flint.staged
        flint.loaded := true, flint.staged := 0 } ∧ TroupeFrame u s t)) ∧
    (anyRunning s u = true → Gives (.flintLoad u) s (fun t => (t.troupe u).flint.key = x.flint.key ∧ (t.troupe u).flint.staged = x.flint.staged ∧ (t.troupe u).flint.busy = true ∧
      (t.troupe u).flint.busyCnt = inc16 x.flint.busyCnt ∧ t.cores = s.cores)) ∧
    Gives (.flintCntClr u) s (fun t => t.troupe u = { x with flint.busyCnt := 0 } ∧ TroupeFrame u s t)

/-- R182, R192 to R202, R234: an OPTM instruction that R202 refuses halts its list with the code of the refusal; one that may not issue yet, because its
verdict or a fly-in's reads hold it, holds its sequencer, with CORE_PC at it. One with its verdict that nothing holds updates its registers by its group's rule and
leaves 0 in ORES; with a skip verdict it leaves 2 and nothing else; in a frozen group it leaves 1 and counts. -/
def Obligations.OptimizerInstructionResults : Prop :=
  ∀ (c : Nat) (w : VecWord) (s : State), issues s c = true →
    let k := s.core c
    let l := s.lrn k.regs.troupe
    let outcome := fun (o : OptOp) (i : Instr) =>
      (∀ code, optRefusal s c o w = code → code ≠ 0 → Gives i s (fun t => (t.core c).regs.state = .faulted ∧ (t.core c).regs.pc = k.regs.pc ∧
        (k.regs.fault = false → (t.core c).regs.faultCode = code) ∧ (t.core c).v = k.v ∧ (t.core c).s = k.s ∧ (∀ d, d ≠ c → t.core d = s.core d))) ∧
      (optBlocked s c o w = true → Gives i s (fun t => t.core c = { k with regs.wait := .optm o.code w } ∧ (∀ d, d ≠ c → t.core d = s.core d) ∧ t.mem = s.mem)) ∧
      (optRefusal s c o w = 0 → optBlocked s c o w = false →
        (l.regs.vSkip = true → Gives i s (fun t => (t.core c).sGet (optOres w) = 2 ∧ (∀ q, q ≠ optOres w → (t.core c).sGet q = k.sGet q) ∧ (t.core c).v = k.v ∧
          (∀ d, d ≠ c → t.core d = s.core d) ∧ t.troupes = s.troupes)) ∧
        (l.regs.vSkip = false → GroupParam.frozen (nth {} l.groups (optGroup w)) = true →
          Gives i s (fun t => (t.core c).sGet (optOres w) = 1 ∧ (∀ q, q ≠ optOres w → (t.core c).sGet q = k.sGet q) ∧ (t.core c).v = k.v ∧
            (∀ d, d ≠ c → t.core d = s.core d) ∧ (t.lrn k.regs.troupe).regs.frozen = true ∧
            (t.lrn k.regs.troupe).regs.frozenOps = satInc 0xFFFFFFFF l.regs.frozenOps ∧ (t.lrn k.regs.troupe).regs.frozenCnt = inc16 l.regs.frozenCnt)) ∧
        (l.regs.vSkip = false → GroupParam.frozen (nth {} l.groups (optGroup w)) = false →
          Gives i s (fun t => (t.core c).v = (optWrite o k l w).v ∧ (t.core c).sGet (optOres w) = 0 ∧
            (∀ q, q ≠ optOres w → (t.core c).sGet q = k.sGet q) ∧ (t.core c).store = k.store ∧ (∀ d, d ≠ c → t.core d = s.core d) ∧
            (t.lrn k.regs.troupe).regs.updatedOps = satInc 0xFFFFFFFF l.regs.updatedOps)))
    outcome .sgdm (.osgdm c w) ∧ outcome .adam (.oadam c w) ∧ outcome .lion (.olion c w) ∧ outcome .omom (.omom c w) ∧
    outcome .oorth (.oorth c w)

/-- R126, R127, R130, R131: an AMERGE merges the states at OBASE and QBASE row by row, and with FIN writes their outputs; an ASTEP leaves the states of its query
rows over its blocks, or their outputs; one with a page whose format stops the sequence marks the slot, counts the stop, and writes rows of zeros; a KVPUT writes each
position in turn into the slot's pages. Each that is refused halts its list with the code of the refusal. -/
def Obligations.AttentionInstructionResults : Prop :=
  ∀ (c : Nat) (w : AttnWord) (s : State), issues s c = true →
    let s1 := issueState c w.nd s
    let k := s1.core c
    let u := k.regs.troupe
    let e := attnSel k w.srb
    let n := w.mrows + 1
    let ob := attnBase k w w.obase
    let qb := attnBase k w w.qbase
    let sb := attnBase k w w.sbase
    let td := k.tagGet w.td
    let refused := fun (code : Nat) (t : State) => (t.core c).regs.state = .faulted ∧ (t.core c).regs.pc = (s.core c).regs.pc ∧
      ((s.core c).regs.fault = false → (t.core c).regs.faultCode = code) ∧ (t.core c).store = k.store ∧ (∀ d, d ≠ c → t.core d = s.core d) ∧ t.mem = s.mem
    -- the rows stand in the store, as states or as outputs
    let holds := fun (hw : Nat) (rows : List RowState) (t : State) =>
      (w.fin = false → (t.core c).store = (k.store.writeN ob (rows.flatMap (fun r => f32Bytes r.a))).writeN sb (rows.flatMap (fun r => f32Bytes [r.m, r.l])) ∧
        (t.core c).tags = k.tags) ∧
      (w.fin = true →
        let o := convertTensor td .rne hw ((rows.map finishRow).map (fun r => r.map (fun x => (x, 0))))
        (t.core c).store = k.store.writeN ob (packRows td o.1 ++ o.2.1.map (fun x => BitVec.ofNat 8 x)) ∧ (∀ q, q ≠ w.td → (t.core c).tagGet q = k.tagGet q)) ∧
      (t.core c).v = k.v ∧ (t.core c).s = k.s ∧ (∀ d, d ≠ c → t.core d = s.core d) ∧ t.mem.bytes = s.mem.bytes ∧ (s.mem.weak = [] → t.mem = s.mem)
    (let hw := (s.gen u).cfg.policy.hw
     (w.fin = true → tagInvalid td = false) → qb + n * hw * 4 + 8 * n ≤ storeBytes → ob + n * hw * 4 ≤ storeBytes → ob + outBytes w td hw ≤ storeBytes →
     sb + 8 * n ≤ storeBytes →
     Gives (.amerge c w) s (holds hw (List.zipWith mergeState (readStates k hw n ob sb) (readStates k hw n qb (qb + n * hw * 4))))) ∧
    (w.fin = true → tagInvalid td = true → Gives (.amerge c w) s (refused rfTagInvalid)) ∧
    (∀ x, astepRefusal c w s1 = none → attnSlot s1 u e.slot = some x →
      let m := (s.gen u).cfg.model e.model
      let pages := astepPages s1 u e x w
      (pages.any (fun g => pageRefused m w.mode g.2.2) = false → Gives (.astep c w) s (holds m.hw ((astepRows k s1 w pages).map (·.1)))) ∧
      (pages.any (fun g => pageRefused m w.mode g.2.2) = true → Gives (.astep c w) s (fun t =>
        holds m.hw (List.replicate n { m := 0, l := 0, a := List.replicate m.hw 0 }) t ∧
        (x.kvStop = false → (t.gen u).kv.format = true ∧ (t.gen u).kv.fmtStops = inc32 (s.gen u).kv.fmtStops 1) ∧
        (∃ y, mapFind (t.gen u).slots e.slot = some y ∧ y.kvStop = true)))) ∧
    (∀ code, astepRefusal c w s1 = some code → Gives (.astep c w) s (refused code)) ∧
    (∀ x, kvputRefusal c w s1 = none → attnSlot s1 u e.slot = some x →
      exec (.kvput c w) s = .next (kvputDo c w x s1) ∧ ((kvputDo c w x s1).core c).regs = k.regs) ∧
    (∀ code, kvputRefusal c w s1 = some code → Gives (.kvput c w) s (refused code))

/-- R103 to R109, R71, R468: on a slot of the troupe's range that holds a sequence, SAMP_MASK writes the masked row of its scores (of a row that R104 would stop, some
row: log entry 79); SAMP_DRAW appends the token that the masked row draws, a policy's with its LOGP, up to the draws that a step makes; SAMP_ACCEPT leaves the
step's tokens. A row that R104 stops marks the sequence as it is drawn from. A slot without a sequence is left alone, and one outside the troupe's range is refused with
OP_INVALID. -/
def Obligations.SamplingResults : Prop :=
  ∀ (c : Nat) (w : VecWord) (slot n a b : Nat) (s : State), issues s c = true → vlOk w = true →
    let k := s.core c
    let u := k.regs.troupe
    let s1 := issueState c w.nd s
    let named := isGen s u = true ∧ (s.gen u).cfg.slotBase ≤ slot ∧ slot < (s.gen u).cfg.slotBase + (s.gen u).cfg.slotCount
    let refused := fun (t : State) => (t.core c).regs.state = .faulted ∧ (t.core c).regs.pc = k.regs.pc ∧ (k.regs.fault = false → (t.core c).regs.faultCode = rfOpInvalid)
    let slotIn := fun (t : State) => mapFind (t.gen u).slots slot
    (¬ named → Gives (.sampMask c w slot n a b) s refused ∧ (∀ draft, Gives (.sampDraw c w slot n a b draft) s refused) ∧
      Gives (.sampAccept c w slot n a b) s refused) ∧
    (named → mapFind (s.gen u).slots slot = none → a + 4 * n ≤ storeBytes → b + 4 * n ≤ storeBytes →
      exec (.sampMask c w slot n a b) s = .next s1 ∧ (∀ draft, exec (.sampDraw c w slot n a b draft) s = .next s1)) ∧
    (named → mapFind (s.gen u).slots slot = none → exec (.sampAccept c w slot n a b) s = .next s1) ∧
    (∀ x, named → mapFind (s.gen u).slots slot = some x → a + 4 * n ≤ storeBytes → b + 4 * n ≤ storeBytes →
      let bad := rowBad (tempered x.record (rowAt k a n))
      (bad = false → Gives (.sampMask c w slot n a b) s
        (Stores c (k.store.writeN b ((maskedRow x.record (rowAt k a n)).flatMap (fun v => leBytes 4 v.toNat))) s1)) ∧
      (bad = true → Gives (.sampMask c w slot n a b) s (fun t => slotIn t = some x ∧
        ∃ row : List F32, row.length = n ∧ (t.core c).store = k.store.writeN b (row.flatMap (fun v => leBytes 4 v.toNat)))) ∧
      (x.nf = false → bad = false →
        (x.props.length < draftCount x → Gives (.sampDraw c w slot n a b true) s (fun t => slotIn t = some { x with
          props := x.props ++ [drawToken (coreKey s c) x.record 1 (x.record.p + x.toks.length + x.props.length) (rowAt k b n)] } ∧ t.cores = s1.cores)) ∧
        (x.drawn = [] → Gives (.sampDraw c w slot n a b false) s (fun t =>
          let tok := drawToken (coreKey s c) x.record 0 (x.record.p + x.toks.length) (rowAt k b n)
          slotIn t = some { x with drawn := [(tok, (logpOf x.record (rowAt k a n) (rowAt k b n) tok).toNat)] } ∧ t.cores = s1.cores))) ∧
      (x.nf = false → bad = true →
        (x.props.length < draftCount x → Gives (.sampDraw c w slot n a b true) s (fun t => slotIn t = some { x with nf := true } ∧ t.cores = s1.cores)) ∧
        (x.drawn = [] → Gives (.sampDraw c w slot n a b false) s (fun t => slotIn t = some { x with nf := true } ∧ t.cores = s1.cores))) ∧
      (x.nf = true ∨ draftCount x ≤ x.props.length → exec (.sampDraw c w slot n a b true) s = .next s1) ∧
      (x.nf = true ∨ x.drawn ≠ [] → exec (.sampDraw c w slot n a b false) s = .next s1)) ∧
    (∀ x, named → mapFind (s.gen u).slots slot = some x →
      (x.nf = false →
        let o := specRun (coreKey s c) x.record (x.record.p + x.toks.length) (fun i => rowAt k (a + 4 * n * i) n) (fun i => rowAt k (b + 4 * n * i) n) x.props 0
        Gives (.sampAccept c w slot n a b) s (fun t => t.cores = s1.cores ∧
          slotIn t = some (if o.bad then { x with nf := true } else { x with drawn := o.toks, acc := o.acc }))) ∧
      (x.nf = true → exec (.sampAccept c w slot n a b) s = .next s1))

/-! ### Generation and learning -/

/-- R86, R89, R90, R91, R94, R96, R99, R237, R146: a submission whose record is not in range, or that is refused, ends with its code; an accepted one joins
the queue, and an idle troupe takes a pass at once; a cancel of a queued request removes it and ends it with CANCELLED, that of a running sequence of the uncommitted step is
registered at the end of its Cue count, and another is TAKEN, LATE or UNKNOWN; a curtain to a READY epoch is registered, and an idle troupe takes it at once; KV_EVT_CLR clears
the KV counters but not the event bits. -/
def Obligations.GenerationCommandResults : Prop :=
  ∀ (h : CmdHdr) (body : List Byte) (s : State),
    let u := h.troupe
    let r := reqOfBytes body
    (accepted s h opGenSubmit = true → isGen s u = false →
      exec (.genSubmit h body) s = .next (completeRec h opGenSubmit (0x100 + genReqInvalid) (genRecord s r none genReqInvalid) s)) ∧
    (accepted s h opGenSubmit = true → isGen s u = true → reqOk s u r = false →
      exec (.genSubmit h body) s = .next (finishReq u h r none genReqInvalid s)) ∧
    (∀ d looks hits, accepted s h opGenSubmit = true → isGen s u = true → reqOk s u r = true → decideReq s u r none = (d, looks, hits) →
      let s1 := countLooks u looks hits s
      let s2 := askRuns u r (s1.modGen u (fun (g : Gen) => { g with queue := g.queue ++ [{ hdr := h, record := r }] }))
      let atOnce := genIdle s2 u && atBoundary s2 u && (s2.gen u).cfg.headGroup.length < 2
      (∀ code, d = .refuse code → exec (.genSubmit h body) s = .next (finishReq u h r none code s1)) ∧
      ((∀ code, d ≠ .refuse code) → (s.gen u).cfg.queueDepth ≤ (s.gen u).queue.length →
        exec (.genSubmit h body) s = .next (finishReq u h r none genAdmitQueue s1)) ∧
      ((∀ code, d ≠ .refuse code) → (s.gen u).queue.length < (s.gen u).cfg.queueDepth →
        (s2.gen u).queue = (s.gen u).queue ++ [{ hdr := h, record := r }] ∧
        exec (.genSubmit h body) s = .next (if atOnce then boundary u {} s2 else s2))) ∧
    (∀ id, accepted s h opGenCancel = true →
      (isGen s u = false → exec (.genCancel h id) s = .next (complete h opGenCancel stCancelUnknown s)) ∧
      (isGen s u = true → cancelWaits (s.gen u) id = true →
        Gives (.genCancel h id) s (fun t => (t.gen u).cancels = (s.gen u).cancels ++ [(h, id)] ∧ TroupeFrame u s t)) ∧
      (isGen s u = true → cancelWaits (s.gen u) id = false →
        let own := fun (e : Nat × GSlot) => e.2.client.isNone && e.2.record.reqId == id
        let live := fun (e : Nat × GSlot) => own e && e.2.running && !e.2.cancelled
        let queued := fun (x : QReq) => x.record.reqId == id
        (∀ q, (s.gen u).queue.find? queued = some q →
          exec (.genCancel h id) s = .next (complete h opGenCancel stCancelTaken (finishReq u q.hdr q.record none genCancelled
            (s.modGen u (fun (g : Gen) => { g with queue := g.queue.filter (fun x => x.record.reqId != id) }))))) ∧
        ((s.gen u).queue.find? queued = none → ∀ e, (s.gen u).slots.find? live = some e →
          exec (.genCancel h id) s = .next (complete h opGenCancel stCancelTaken (cancelSlot u e.1 s))) ∧
        ((s.gen u).queue.find? queued = none → (s.gen u).slots.find? live = none →
          exec (.genCancel h id) s = .next (complete h opGenCancel
            (if (s.gen u).slots.any (fun e => own e && e.2.running) then stCancelTaken
              else if (s.gen u).ended.contains id || (s.gen u).slots.any own then stCancelLate else stCancelUnknown) s)))) ∧
    (∀ epoch, accepted s h opGenCurtain = true →
      let ready := (readySlots (s.gen u)).any (fun x => x.2 == epoch)
      let s1 := s.modGen u (fun (g : Gen) => { g with curtainReqs := g.curtainReqs ++ [(h, epoch)] })
      (isGen s u = false ∨ ready = false → exec (.genCurtain h epoch) s = .next (complete h opGenCurtain stCurtainNotReady s)) ∧
      (isGen s u = true → ready = true →
        exec (.genCurtain h epoch) s = .next (if genIdle s1 u && atBoundary s1 u then decideCurtain u s1 else s1))) ∧
    (∀ v, s.alive = true →
      (s.hasTroupe v = true → Gives (.kvEvtClr v) s (fun t => (t.gen v).kv = { format := (s.gen v).kv.format, diverge := (s.gen v).kv.diverge } ∧ TroupeFrame v s t)) ∧
      (s.hasTroupe v = false → exec (.kvEvtClr v) s = .next s))

/-- R94, R95, R141, R112, R93: a step boundary with the step before it committed runs the boundary's steps in their order, and an idle pass does so while no
sequence runs and no step is in progress; else neither does anything. A COMMIT with every sampling complete commits its slots in ascending order, marks the step, and then
registers the cancels of the same Cue count. A shipment's part reaches the slot that waits for it, from a prefill troupe of this module or of another; its last part moves
the slot to DECODE; and a slot that ships to another module is FREE once the last frame is written there. -/
def Obligations.GenerationStepResults : Prop :=
  ∀ (u : Nat) (s : State), s.alive = true →
    (∀ m, isGen s u = true → atBoundary s u = true →
      let s1 := boundaryRegister u (ringPoll u s)
      let s2 := ((s1.gen u).slots.map (·.1)).foldl (boundaryRelease u) s1
      let s4 := endPhase u (decideCurtain u (s2.modGen u (fun (g : Gen) => { freeHeld g with step := none })))
      let s5 := if (s4.troupe u).regs.role == 1 then admissionPass u m s4 else s4
      exec (.stepBoundary u m) s = .next (startStep u s5) ∧
      (genIdle s u = true → exec (.admissionPassIdle u m) s = .next (startStep u s5)) ∧
      (genIdle s u = false → exec (.admissionPassIdle u m) s = .next s)) ∧
    (∀ m, isGen s u = false ∨ atBoundary s u = false → exec (.stepBoundary u m) s = .next s ∧ exec (.admissionPassIdle u m) s = .next s) ∧
    (∀ st, (s.gen u).step = some st → st.committed = false →
      (st.slots.all (sampledSlot (s.gen u)) = true →
        exec (.commit u) s = .next (settleCancels u ((st.slots.foldl (commitSlot u st.epoch) s).modGen u (fun (g : Gen) =>
          { g with step := some { st with committed := true } })))) ∧
      (st.slots.all (sampledSlot (s.gen u)) = false → exec (.commit u) s = .next s)) ∧
    (∀ st, (s.gen u).step = some st → st.committed = true → exec (.commit u) s = .next s) ∧
    ((s.gen u).step = none → exec (.commit u) s = .next s) ∧
    (∀ slot x d, mapFind (s.gen u).slots slot = some x →
      (x.st = .await → prefillHere s u = none → exec (.shipArrival u slot d) s = .next (arriveShip u slot d s)) ∧
      (∀ pt k y, x.st = .await → prefillHere s u = some pt → clientSlot s pt (s.thl.ens.mySlot, u, slot) = some (k, y) → y.st = .ship →
        exec (.shipArrival u slot d) s = .next (clearSlot pt k (releaseSeq pt k (chargeShip pt (shipFrames s pt y)
          (arriveShip u slot { first := y.toks.head?, tFirst := y.tFirst, blocks := shipBlocks s pt y } s))))) ∧
      (x.st = .ship → shipsAway s x = true → exec (.shipArrival u slot d) s = .next (clearSlot u slot (releaseSeq u slot s))) ∧
      (x.st ≠ .ship → x.st ≠ .await → exec (.shipArrival u slot d) s = .next s) ∧
      (x.st = .await → d.blocks = [] → d.ended = none → isExp (s.gen u).cfg x.record = false → x.toks = [] →
        ∃ y, mapFind ((arriveShip u slot d s).gen u).slots slot = some y ∧ y.toks = d.first.toList ∧ y.record = x.record ∧
          (d.first.isSome = true → y.tFirst = d.tFirst) ∧ (d.last = true → y.st = .decode) ∧ (d.last = false → y.st = .await)))

/-- R167, R180, R189, R177: an accepted binding is appended to the table, with its governor state and the shard record that stands at its place, and completes;
another completes with the status that refuses it. A skip at the verdict root is held for its step, or is late; at another learner it goes to the root. An accepted group
change is held, and another completes with its status. A step command names the step of a troupe in its learn role, and starts none in another. -/
def Obligations.LearnerCommandResults : Prop :=
  ∀ (h : CmdHdr) (s : State),
    let u := h.troupe
    let l := s.lrn u
    (∀ r, accepted s h opLrnBind = true →
      let sh := shardAt s u l.binds.length
      (isLearner s u = false → exec (.lrnBind h r) s = .next (complete h opLrnBind stBindInvalid s)) ∧
      (isLearner s u = true → judgeBind l r ≠ stOk → exec (.lrnBind h r) s = .next (complete h opLrnBind (judgeBind l r) s)) ∧
      (isLearner s u = true → judgeBind l r = stOk → sh.rsv ≠ 0 → exec (.lrnBind h r) s = .next (complete h opLrnBind stOptParam s)) ∧
      (isLearner s u = true → judgeBind l r = stOk → sh.rsv = 0 →
        exec (.lrnBind h r) s = .next (complete h opLrnBind stOk (syncGov u (windowWrite u (l.cfg.bindAddr + 64 * l.binds.length) (bindBytes r)
          (s.modLrn u (fun (l : Lrn) => { l with binds := l.binds ++ [r], gov := l.gov ++ [govInit r], shards := l.shards ++ [sh] }))))))) ∧
    (∀ job n, accepted s h opLrnSkip = true →
      let v := jobLearner s h job
      (isLearner s v = false ∨ verdictTree s v = none → exec (.lrnSkip h job n) s = .next (complete h opLrnSkip stCmdInvalid s)) ∧
      (∀ tr g r, isLearner s v = true → verdictTree s v = some (tr, g, r) →
        (r = tr.root → rootCommitted (s.lrn v) n = false →
          Gives (.lrnSkip h job n) s (fun t => (t.lrn v).skips = (s.lrn v).skips ++ [(h, n)] ∧ TroupeFrame v s t)) ∧
        (r = tr.root → rootCommitted (s.lrn v) n = true → exec (.lrnSkip h job n) s = .next (complete h opLrnSkip stSkipLate s)) ∧
        (r ≠ tr.root → exec (.lrnSkip h job n) s = .next (sendFab
          { kind := "lrn_skip", dest := (nth (0, 0) g.members tr.root).1
            vals := [(nth (0, 0) g.members tr.root).2, job, n, h.sq, h.slot, h.troupe, h.cmdId] } s)))) ∧
    (∀ g n r, accepted s h opOptGset = true →
      (judgeGset s u g n r = stOk →
        Gives (.optGset h g n r) s (fun t => (t.lrn u).gsets = l.gsets ++ [{ hdr := h, group := g, n := n, r := r }] ∧ TroupeFrame u s t)) ∧
      (judgeGset s u g n r = stGsetLate →
        exec (.optGset h g n r) s = .next (complete h opOptGset stGsetLate (s.modLregs u (fun (x : LrnRegs) => { x with gsetLate := true })))) ∧
      (judgeGset s u g n r ≠ stOk → judgeGset s u g n r ≠ stGsetLate →
        exec (.optGset h g n r) s = .next (complete h opOptGset (judgeGset s u g n r) s))) ∧
    (∀ v n, s.alive = true →
      (mayLearn s v = true → Gives (.learnerStepCommand v n) s (fun t =>
        t.lrn v = { s.lrn v with cmdStep := n % 2 ^ 64, midStep := true } ∧ TroupeFrame v s t)) ∧
      (mayLearn s v = false → exec (.learnerStepCommand v n) s = .next s))

/-- R177 to R183, R298, R300: a learner's contribution whose predecessor has its verdict is posted, and one whose predecessor has none waits behind those that
wait; the root decides; a due verdict is applied and forwarded, once, and releases what waited for it; VERDICT_LATE is raised once, when VERDICT_TIMEOUT has passed since
the posting; contributions of children reach their node, and those that have not come in TIMEOUT are absent where ABSENT_OK allows it. -/
def Obligations.VerdictResults : Prop :=
  ∀ (u : Nat) (s : State), s.alive = true →
    let l := s.lrn u
    (∀ sumsq,
      (isLearner s u = false → exec (.verdictContribution u sumsq) s = .next s) ∧
      (isLearner s u = true → l.posted = none → exec (.verdictContribution u sumsq) s = .next (postContrib u (shardContrib l sumsq) s)) ∧
      (isLearner s u = true → l.posted ≠ none →
        Gives (.verdictContribution u sumsq) s (fun t => (t.lrn u).heldPost = l.heldPost ++ [shardContrib l sumsq] ∧ TroupeFrame u s t))) ∧
    (exec (.rootDecision u) s = .next (decideRoot u s)) ∧
    (∀ v,
      (∀ d, dueVerdict s u v = some d → exec (.verdictApply u v) s = .next (releaseOptm u (applyVerdict u d (forwardVerdict u d s)))) ∧
      (dueVerdict s u v = none → exec (.verdictApply u v) s = .next s)) ∧
    (∀ n at_, l.posted = some (n, at_) →
      (l.lateSent = false → at_ + l.cfg.verdictTimeout * cyclesMs ≤ s.cue →
        Gives (.verdictLate u) s (fun t => (t.lrn u).regs.verdictLate = true ∧ (t.lrn u).lateSent = true ∧ (t.lrn u).posted = some (n, at_) ∧
          (t.occ evVerdictLate).pend = true ∧ t.cores = s.cores ∧ t.mem = s.mem)) ∧
      (l.lateSent = true ∨ s.cue < at_ + l.cfg.verdictTimeout * cyclesMs → exec (.verdictLate u) s = .next s)) ∧
    (l.posted = none → exec (.verdictLate u) s = .next s) ∧
    (∀ child tchk v, exec (.reductionContribution u (.verdict child tchk v)) s = .next (verdictChild u child tchk v s)) ∧
    (∀ tree inst child tchk present count data, exec (.reductionContribution u (.coll tree inst child tchk present count data)) s =
      .next (settleLocal (contribute u tree inst child tchk present { count := count, data := data } s))) ∧
    (∀ tree inst,
      let x := collNode s (u, tree, inst)
      (x.posted = true → x.done = false → flAbsent x.flags = true → timeOver s tree x = true →
        exec (.collectiveTimeout u tree inst) s = .next (settleLocal (tryNode (u, tree, inst) s))) ∧
      (x.posted = false ∨ x.done = true ∨ flAbsent x.flags = false ∨ timeOver s tree x = false → exec (.collectiveTimeout u tree inst) s = .next s))

/-- R186, R217, R218, R241, R249, R267, R319, R301, R344: a write of 1 to a CLR field returns the counters it names to 0 and leaves everything else; on a troupe,
stack or port that is absent it is discarded (R462). -/
def Obligations.CounterClears : Prop :=
  ∀ (n : Nat) (s : State), s.alive = true →
    (s.hasTroupe n = true →
      Gives (.lrnEvtClr n) s (fun t => (t.lrn n).regs = { (s.lrn n).regs with skipCnt := 0, lateCnt := 0, halveCnt := 0 } ∧ TroupeFrame n s t) ∧
      Gives (.optEvtClr n) s (fun t => (t.lrn n).regs = { (s.lrn n).regs with frozenCnt := 0, gsetCnt := 0 } ∧ TroupeFrame n s t) ∧
      Gives (.flyEvtClr n) s (fun t => (t.gen n).vr = { (s.gen n).vr with waitCnt := 0, skippedCnt := 0, nfCnt := 0 } ∧
        (t.lrn n).regs = { (s.lrn n).regs with stallCnt := 0 } ∧ TroupeFrame n s t) ∧
      Gives (.expEvtClr n) s (fun t => (t.gen n).ring = { (s.gen n).ring with fullCnt := 0, sealBadCnt := 0, dropCnt := 0 } ∧ TroupeFrame n s t)) ∧
    (s.hasTroupe n = false → exec (.lrnEvtClr n) s = .next s ∧ exec (.optEvtClr n) s = .next s ∧ exec (.flyEvtClr n) s = .next s ∧
      exec (.expEvtClr n) s = .next s) ∧
    (stackEnabled s n = true →
      Gives (.whetStatusClr n) s (fun t => t.stack n = { s.stack n with memErrCnt := 0 } ∧ { t with mem.stks := s.mem.stks } = s) ∧
      Gives (.stkEccClr n) s (fun t => t.stack n = { s.stack n with ceCnt := 0, ueCnt := 0 } ∧ { t with mem.stks := s.mem.stks } = s)) ∧
    (stackEnabled s n = false → exec (.whetStatusClr n) s = .next s ∧ exec (.stkEccClr n) s = .next s) ∧
    (exec .scrubEvtClr s = .next { s with wt.failCnt := 0 }) ∧
    (exec .cueEvtClr s = .next { s with cueRegs.lateCnt := 0, cueRegs.stallCnt := 0, cueRegs.unlockCnt := 0 }) ∧
    (portEnabled s n = true → Gives (.portClr n) s (fun t =>
      t.port n = { s.port n with retrainCnt := 0, tagCnt := 0, authCnt := 0, replayFlits := 0, fecCorr := 0 } ∧ { t with fab.ports := s.fab.ports } = s)) ∧
    (portEnabled s n = false → exec (.portClr n) s = .next s)

/-- R208 to R212, R234: a Whetstone carries out its oldest command once no earlier one of its stack is left, unless a fly-in still reads what it would write: then it
waits and the stall is counted; for a frozen group it completes with no element updated, a fly-in or not. -/
def Obligations.WhetstoneResults : Prop :=
  ∀ (u j : Nat) (s : State), s.alive = true →
    (∀ r k rest, (s.lrn u).near[j]? = some r → r.cmds = k :: rest →
      let reads := (s.lrn u).flying.isSome && (s.lrn u).cfg.plan.any (fun e => e.record == r.record)
      (whetEarlier (s.lrn u) j r.stack k = true → exec (.whetstoneComplete u j) s = .next s) ∧
      (whetEarlier (s.lrn u) j r.stack k = false → k.frozen = true → exec (.whetstoneComplete u j) s = .next (endWhet u j 1 0 s)) ∧
      (whetEarlier (s.lrn u) j r.stack k = false → k.frozen = false → reads = true →
        exec (.whetstoneComplete u j) s = .next (countStall u (1000 + j) s)) ∧
      (whetEarlier (s.lrn u) j r.stack k = false → k.frozen = false → reads = false → exec (.whetstoneComplete u j) s = .next (runWhet u j r k s))) ∧
    ((s.lrn u).near[j]? = none → exec (.whetstoneComplete u j) s = .next s) ∧
    (∀ r, (s.lrn u).near[j]? = some r → r.cmds = [] → exec (.whetstoneComplete u j) s = .next s)

/-- R233 to R236, R240, R265: FLY_NOW arms a fly-in at a learner's next commit; an armed one that is ready takes FSEM, names the next epoch, counts it on and sends its pieces;
once its sources are read and no destination here waits, BUSY clears, held updates go on and FLY_NOW completes with the fly-in's status. A piece of an epoch whose slot fills
goes into it; the first piece claims the FREE slot of the lowest letter; without one the epoch waits; and one no greater than an epoch held is refused with the rest of its epoch.
A waiting epoch is judged again when a slot is FREE. ROLE_SWITCH ends the current role of an alternating troupe, but not in step 4. -/
def Obligations.FlyInResults : Prop :=
  ∀ (u : Nat) (s : State),
    let l := s.lrn u
    let g := s.gen u
    (∀ h : CmdHdr, accepted s h opFlyNow = true →
      (isLearner s h.troupe = true →
        Gives (.flyNow h) s (fun t => (t.lrn h.troupe).flyCmds = (s.lrn h.troupe).flyCmds ++ [h] ∧ TroupeFrame h.troupe s t)) ∧
      (isLearner s h.troupe = false → exec (.flyNow h) s = .next (complete h opFlyNow stCmdInvalid s))) ∧
    (s.alive = true → flyReady s u = true →
      let s1 := if l.flyForce then s else semSet u l.cfg.fsem (semGet s u l.cfg.fsem - l.cfg.fsemTarget) s
      exec (.flyInStart u) s = .next (l.cfg.plan.foldl (sendPiece u l.regs.nextEpoch) (s1.modLrn u (fun (l : Lrn) =>
        { l with
          armed := false, flyForce := false, flying := some (s.lrn u).regs.nextEpoch, flyStatus := stOk
          regs := { l.regs with nextEpoch := (l.regs.nextEpoch + 1) % 2 ^ 32, busy := true } })))) ∧
    (s.alive = true → flyReady s u = false → exec (.flyInStart u) s = .next s) ∧
    (∀ away, s.alive = true →
      (∀ e, l.flying = some e → flyWaiting s u e = false →
        exec (.flySourceReadDone u away) s = .next (endFly u (if l.flyStatus == stOk then away else l.flyStatus) s)) ∧
      (∀ e, l.flying = some e → flyWaiting s u e = true → exec (.flySourceReadDone u away) s = .next s) ∧
      (l.flying = none → exec (.flySourceReadDone u away) s = .next s)) ∧
    (∀ epoch nf m data, s.alive = true → g.cfg.present = true → g.flyWaits.contains epoch = false →
      let away := exec (.flyPieceArrival u epoch (some (m, nf, data))) s
      (∀ k, fillingSlot g epoch = some k → away = .next (fillSlot u k (.lmid m) nf data s)) ∧
      (fillingSlot g epoch = none → epochOld g epoch = true → away = .next (refuseTo (.lmid m) u epoch stFlyEpoch (refuseInbound u epoch s))) ∧
      (∀ k, fillingSlot g epoch = none → epochOld g epoch = false → freeVslot g = some k →
        away = .next (fillSlot u k (.lmid m) nf data (claimSlot u k epoch s))) ∧
      (fillingSlot g epoch = none → epochOld g epoch = false → freeVslot g = none →
        ∃ t, away = .next t ∧ (t.gen u).flyWaits = g.flyWaits ++ [epoch] ∧ (t.gen u).vr.flyWait = true ∧ (t.gen u).vr.waitCnt = inc16 g.vr.waitCnt ∧
          (t.occ evFlyWait).pend = true ∧ t.mem = s.mem ∧ t.cores = s.cores)) ∧
    (∀ epoch, s.alive = true → g.cfg.present = true → g.flyWaits.contains epoch = false →
      (∀ x, g.inbound.find? (fun x => x.epoch == epoch) = some x →
        ((takePiece u epoch (.troupe x.src) x.nf x.fields s).2 = true →
          exec (.flyPieceArrival u epoch none) s = .next ((takePiece u epoch (.troupe x.src) x.nf x.fields s).1.modGen u (fun (g : Gen) =>
            { g with inbound := g.inbound.erase x }))) ∧
        ((takePiece u epoch (.troupe x.src) x.nf x.fields s).2 = false →
          exec (.flyPieceArrival u epoch none) s = .next (takePiece u epoch (.troupe x.src) x.nf x.fields s).1)) ∧
      (g.inbound.find? (fun x => x.epoch == epoch) = none → exec (.flyPieceArrival u epoch none) s = .next s)) ∧
    (∀ epoch away, s.alive = true → g.cfg.present = false ∨ g.flyWaits.contains epoch = true → exec (.flyPieceArrival u epoch away) s = .next s) ∧
    (s.alive = true →
      (∀ e rest k, g.flyWaits = e :: rest → freeVslot g = some k →
        let s1 := s.modGen u (fun (g : Gen) => { g with flyWaits := g.flyWaits.filter (fun x => x != e) })
        (epochOld g e = false → exec (.flyResume u) s = .next (claimSlot u k e s1)) ∧
        (epochOld g e = true → exec (.flyResume u) s = .next (refuseInbound u e (tellSenders u e s1)))) ∧
      (g.flyWaits = [] ∨ freeVslot g = none → exec (.flyResume u) s = .next s)) ∧
    (∀ h : CmdHdr, accepted s h opRoleSwitch = true →
      let x := s.troupe h.troupe
      (x.gen.vr.alt = false ∨ x.gen.alt.flying = true → exec (.roleSwitch h) s = .next (complete h opRoleSwitch stRoleBusy s)) ∧
      (x.gen.vr.alt = true → x.gen.alt.flying = false → x.regs.role = 1 →
        exec (.roleSwitch h) s = .next (complete h opRoleSwitch stOk (stopPhase h.troupe s))) ∧
      (x.gen.vr.alt = true → x.gen.alt.flying = false → x.regs.role ≠ 1 →
        exec (.roleSwitch h) s = .next (complete h opRoleSwitch stOk
          (s.modGen h.troupe (fun (g : Gen) => { g with alt := { g.alt with stopping := true } })))))

/-- R223 to R228: the ring engine writes a record, hands one to the scorer, reads its counts, and hands a sealed one to the consumer, each in its own event;
EXP_SEAL seals or drops a record and completes with the outcome. A troupe without a ring completes EXP_SEAL with SEAL_UNKNOWN, and its ring events do
nothing. -/
def Obligations.ExperienceRingResults : Prop :=
  ∀ (u : Nat) (s : State),
    (s.alive = true → hasRing s u = true →
      (noticeHolds s u = false → exec (.ringRecordWrite u) s = .next (ringWrite u s)) ∧
      (noticeHolds s u = true → exec (.ringRecordWrite u) s = .next s) ∧
      exec (.scorerHand u) s = .next (scorerHand u s) ∧
      exec (.ringPoll u) s = .next (ringPoll u s) ∧
      exec (.consumerHand u) s = .next (consumerHand u s)) ∧
    (s.alive = true → hasRing s u = false → exec (.ringRecordWrite u) s = .next s ∧ exec (.scorerHand u) s = .next s ∧ exec (.ringPoll u) s = .next s ∧
      exec (.consumerHand u) s = .next s) ∧
    (∀ (h : CmdHdr) seqNo reward reward2 drop, accepted s h opExpSeal = true →
      (hasRing s h.troupe = true →
        exec (.expSeal h seqNo reward reward2 drop) s = .next (complete h opExpSeal (sealRecord h.troupe false seqNo reward reward2 drop s).2
          (sealRecord h.troupe false seqNo reward reward2 drop s).1)) ∧
      (hasRing s h.troupe = false → exec (.expSeal h seqNo reward reward2 drop) s = .next (complete h opExpSeal stSealUnknown s)))

/-! ### Memory and weights -/

/-- R248, R432: MEMORY_ZEROING leaves every byte of memory 0 and no unit poisoned or with a stored error, once after each release of hub reset; what lies in a spare region that a reset keeps
stays as it was; and so do the cores, troupes and registers. -/
def Obligations.ZeroingLeavesMemoryZero : Prop :=
  ∀ s : State, s.alive = true →
    let kept := fun (a : Nat) => match s.bt.flash.resetBlk with
      | some sp => inSpare s sp a
      | none => false
    (s.mem.zeroed = false → Gives .memoryZeroing s (fun t =>
      (∀ a, t.mem.bytes.read a = if kept a then s.mem.bytes.read a else 0) ∧
      (∀ a, a ∈ t.mem.poison ↔ a ∈ s.mem.poison ∧ kept a = true) ∧
      (∀ e, e ∈ t.mem.weak ↔ e ∈ s.mem.weak ∧ kept e.1 = true) ∧ t.mem.zeroed = true ∧ { t with mem := s.mem } = s)) ∧
    (s.mem.zeroed = true → exec .memoryZeroing s = .next s)

/-- R249, R251, R266: what the patrol finds at a unit is what the command says, or the stored error that waits there. It leaves a good unit alone, counts and corrects a correctable
one, and poisons, counts, records and reports an uncorrectable one; a read of memory by a troupe's unit finds the stored errors of its units in the same way, a correctable one
staying in memory, and delivers the data of all but the uncorrectable ones; a write of a whole unit ends its stored error, and one of a part that of a correctable unit; the end of a pass sets
PATROL_DONE, or ROUND of the digest scrub; a damaged shard is marked, counted and reported, and its troupe held under DAMAGE_HOLD; a good one stays good. -/
def Obligations.PatrolResults : Prop :=
  ∀ (a i : Nat) (pe : Bool) (s : State), s.alive = true →
    let n := (stackOf s a).1
    let k := s.stack n
    let u := a / 64 * 64
    (∀ f, a < 0x7800000000 → stackEnabled s n = true →
      (patrolFinds s a f = 0 → Gives (.patrolScrub a f pe) s (fun t => t.stack n = { k with patrolDone := pe || k.patrolDone } ∧ t.mem.bytes = s.mem.bytes ∧
        t.mem.poison = s.mem.poison ∧ { t with mem := s.mem } = s)) ∧
      (patrolFinds s a f = 1 → Gives (.patrolScrub a f pe) s (fun t =>
        t.stack n = { k with ce := true, ceCnt := satInc 0xFFFFFFFF k.ceCnt, patrolDone := pe || k.patrolDone } ∧ mapFind t.mem.weak u = none ∧
        t.mem.bytes = s.mem.bytes ∧ t.mem.poison = s.mem.poison ∧ { t with mem := s.mem, ckpt := s.ckpt } = s)) ∧
      (2 ≤ patrolFinds s a f → Gives (.patrolScrub a f pe) s (fun t =>
        t.stack n = { k with ue := true, ueCnt := inc16 k.ueCnt, eccValid := true, eccAddr := u, patrolDone := pe || k.patrolDone } ∧
        mapFind t.mem.weak u = none ∧ u ∈ t.mem.poison ∧ (t.occ evMemUe).pend = true ∧ t.mem.bytes = s.mem.bytes ∧ t.cores = s.cores))) ∧
    (∀ (ls : List (Loc × Nat)) (bad : Bool), s.mem.weak = [(u, bad)] →
      let t := findErrors ls s
      let v := (stackOf s u).1
      readLocs t ls = readLocs s ls ∧
      (readsUnit ls u = false → t = s) ∧
      (readsUnit ls u = true → bad = false → t.stack v = { s.stack v with ce := true, ceCnt := satInc 0xFFFFFFFF (s.stack v).ceCnt } ∧
        t.mem.weak = s.mem.weak ∧ t.mem.poison = s.mem.poison ∧ flagsOf t ls = flagsOf s ls) ∧
      (readsUnit ls u = true → bad = true →
        t.stack v = { s.stack v with ue := true, ueCnt := inc16 (s.stack v).ueCnt, eccValid := true, eccAddr := u } ∧
        t.mem.weak = [] ∧ u ∈ t.mem.poison ∧ (t.occ evMemUe).pend = true ∧ flagsOf t ls = flagsOf s ls)) ∧
    (∀ (m : Mem) (bs : List Byte) (x : Nat) (bad : Bool), mapFind m.weak x = some bad → (∀ e ∈ m.weak, e.1 = x → e.2 = bad) →
      (a ≤ x → x + 64 ≤ a + bs.length → mapFind (storeUnits m a bs).1.weak x = none) ∧
      (a < x + 64 → x < a + bs.length → bad = false → mapFind (storeUnits m a bs).1.weak x = none) ∧
      (x + 64 ≤ a ∨ a + bs.length ≤ x → mapFind (storeUnits m a bs).1.weak x = some bad)) ∧
    (∀ f, 0x7800000000 ≤ a ∨ stackEnabled s n = false → exec (.patrolScrub a f pe) s = .next s) ∧
    (mapFind s.wt.shards i = none → exec (.digestScrub i pe) s = .next (if pe then { s with wt.round := true } else s)) ∧
    (∀ x, mapFind s.wt.shards i = some x →
      (∀ bs, shardData s x = some bs → shardDigest bs = x.digest → Gives (.digestScrub i pe) s (fun t =>
        mapFind t.wt.shards i = some { x with tCheck := s.cue } ∧ t.wt.round = (pe || s.wt.round) ∧ { t with wt := s.wt } = findErrors (shardReads s x) s)) ∧
      ((∀ bs, shardData s x = some bs → shardDigest bs ≠ x.digest) → Gives (.digestScrub i pe) s (fun t =>
        mapFind t.wt.shards i = some { x with damaged := true } ∧ t.wt.failCnt = inc16 s.wt.failCnt ∧ t.wt.fail = true ∧
        (t.occ evShardDigest).pend = true ∧ (t.troupe x.troupe).regs.held = s.wt.damageHold ∧ t.wt.round = (pe || s.wt.round) ∧ t.mem = (findErrors (shardReads s x) s).mem)))

/-- R254 to R258, R264, R265, R482: a load whose fields are right is held, or refused while 64 are held; at its turn one that is judged good runs, claiming a FREE version slot
that it names, and a refused one completes; the source of the running load is converted and stored, and its end completes it, with the status of the first thing that fails;
WT_READY opens a troupe or makes a filled slot READY; WT_RELEASE frees the slot or ends a shard's registration; each completes with the status that refuses it; WT_TABLE
writes 4,096 entries of 64 bytes to the host. -/
def Obligations.WeightCommandResults : Prop :=
  ∀ (h : CmdHdr) (s : State),
    (∀ r, accepted s h opWtLoad = true →
      (loadFieldsOk r = false → exec (.wtLoad h r) s = .next (completeLoad h r stLoadInvalid s)) ∧
      (loadFieldsOk r = true → 64 ≤ s.wt.loads.length → exec (.wtLoad h r) s = .next (completeLoad h r stLoadFull s)) ∧
      (loadFieldsOk r = true → s.wt.loads.length < 64 → exec (.wtLoad h r) s = .next { s with wt.loads := s.wt.loads ++ [{ hdr := h, record := r }] })) ∧
    (∀ l rest sc, s.alive = true → s.wt.loads = l :: rest → l.running = false →
      let r := l.record
      let j := judgeTurn s { l with scales := sc }
      let s1 := { s with wt.loads := { l with running := true, scales := sc } :: rest }
      (j ≠ 0 → exec (.loadTurn sc) s = .next (completeLoad l.hdr r j { s with wt.loads := rest })) ∧
      (j = 0 → (judgeVslot s r).2 = false → exec (.loadTurn sc) s = .next s1) ∧
      (j = 0 → (judgeVslot s r).2 = true → exec (.loadTurn sc) s = .next (s1.modGen r.troupe (fun (g : Gen) =>
        g.modVslot (r.vslot - 1) (fun _ => { st := .filling, epoch := r.epoch, byLoads := true }))))) ∧
    (∀ l rest src, s.alive = true → s.wt.loads = l :: rest → l.running = true → srcAgrees l src = true →
      let r := l.record
      let s0 := s.modTroupe r.troupe (fun (x : Troupe) => { x with regs.acct.thl := (x.regs.acct.thl + src.length) % 2 ^ 64 })
      (∀ e, loadPieces r src = .error e → exec (.loadEnd src) s = .next (endLoad l e s0)) ∧
      (∀ ps, loadPieces r src = .ok ps →
        let s1 := (storePieces r ps s0).1
        ((storePieces r ps s0).2 = true → exec (.loadEnd src) s = .next (endLoad l stMemUe s1)) ∧
        ((storePieces r ps s0).2 = false → exec (.loadEnd src) s = .next (endLoad l (finishLoad l src ps s1).2 (finishLoad l src ps s1).1)))) ∧
    (∀ sc src, s.alive = true →
      (s.wt.loads = [] → exec (.loadTurn sc) s = .next s ∧ exec (.loadEnd src) s = .next s) ∧
      (∀ l rest, s.wt.loads = l :: rest →
        (l.running = true → exec (.loadTurn sc) s = .next s) ∧
        (l.running = false ∨ srcAgrees l src = false → exec (.loadEnd src) s = .next s))) ∧
    (∀ k, accepted s h opWtReady = true →
      (judgeReady s h.troupe k ≠ 0 → exec (.wtReady h k) s = .next (complete h opWtReady (judgeReady s h.troupe k) s)) ∧
      (judgeReady s h.troupe k = 0 → k = 0 →
        Gives (.wtReady h k) s (fun t => (t.troupe h.troupe).regs.opened = true ∧ t.mem = s.mem ∧ t.cores = s.cores)) ∧
      (judgeReady s h.troupe k = 0 → k ≠ 0 →
        Gives (.wtReady h k) s (fun t => (t.gen h.troupe).vslot (k - 1) = { (s.gen h.troupe).vslot (k - 1) with st := .ready } ∧ t.mem = s.mem))) ∧
    (∀ k, accepted s h opWtRelease = true →
      (judgeRelease s h.troupe k ≠ 0 → exec (.wtRelease h false k) s = .next (complete h opWtRelease (judgeRelease s h.troupe k) s)) ∧
      (judgeRelease s h.troupe k = 0 →
        Gives (.wtRelease h false k) s (fun t => ((t.gen h.troupe).vslot (k - 1)).st = .free ∧ (t.gen h.troupe).failed = [] ∧ t.mem = s.mem)) ∧
      (mapFind s.wt.shards k = none → exec (.wtRelease h true k) s = .next (complete h opWtRelease stLoadInvalid s)) ∧
      (∀ x, mapFind s.wt.shards k = some x →
        exec (.wtRelease h true k) s = .next (complete h opWtRelease stOk (settleHold x.troupe { s with wt.shards := mapDel s.wt.shards k })))) ∧
    (∀ addr, accepted s h opWtTable = true → Gives (.wtTable h addr) s (fun t =>
      ∃ bytes, t.out.hostWrites = (addr, bytes) :: s.out.hostWrites ∧
        bytes = (List.range 4096).flatMap (fun i => match mapFind s.wt.shards i with
          | some x => shardBytes x
          | none => leBytes 64 0) ∧ t.mem = s.mem ∧ t.wt = s.wt))

/-! ### Ports and the fabric -/

/-- R272 to R278, R288, R475: a port in use trains from DETECT through EQUALIZE, MAP and IDENT to UP; with no quarter, with an unpowered plug-in, or below its minimum width
it is HELD; a wrong identity makes it REFUSED; a HELD port tries again after 2 s; a port leaves UP on a retrain trigger, a RETRAIN or a loss of signal; RELEASE or a loss of signal
takes a REFUSED port to DETECT; more than 250 ms out of UP its unacknowledged flits wait for another port. In any other state of the port, and for one that is not in use,
the event changes nothing. After each change of state what depends on ports is settled (`portChanged`). -/
def Obligations.PortTrainingResults : Prop :=
  ∀ (p : Nat) (s : State), s.alive = true →
    let x := s.port p
    let used := portUsed s p = true
    let goes := fun (i : Instr) (t : State) => exec i s = .next (portChanged t)
    let to_ := fun (st : PortSt) (s : State) => s.modPort p (fun x => { x with st := st })
    (used → x.st = .detect → plugDark s p = false → goes (.portSignalDetect p) (to_ .equalize s)) ∧
    (used → x.st = .detect → plugDark s p = true → goes (.portSignalDetect p) (holdPort p s)) ∧
    (∀ q, used → x.st = .equalize →
      let q1 := if plugDark s p then 0 else q % 16
      let s1 := s.modPort p (fun x => { x with quarters := q1 })
      (q1 ≠ 0 → goes (.portEqualizeDone p q) (to_ .map s1)) ∧ (q1 = 0 → goes (.portEqualizeDone p q) (holdPort p s1))) ∧
    (∀ rev cr pol bad, used → x.st = .map →
      let q := (List.range 4).foldl (fun n i => if bitOf bad i then setBitTo n i false else n) x.quarters
      let s1 := s.modPort p (fun x => { x with quarters := q, reversed := rev, dirswap := cr, polarity := pol % 65536 })
      (q ≠ 0 → goes (.portMap p rev cr pol bad) (sendFab { kind := "ident", dest := p, vals := [s.lmid, p, s.record.serial] } (to_ .ident s1))) ∧
      (q = 0 → goes (.portMap p rev cr pol bad) (holdPort p s1))) ∧
    (∀ lmid port serial rtt, used → x.st = .ident → s.boot = .ready →
      let s1 := measureRtt p rtt (s.modPort p (fun x => { x with peerLmid := lmid % 4096, peerPort := port % 32, peerSerial := serial % 2 ^ 40 }))
      let y := s1.port p
      (miswired s y lmid port serial = true →
        goes (.portIdent p lmid port serial rtt) (raiseModule evPortMiswire (leBytes 2 s.lmid ++ leBytes 1 p ++ leBytes 2 lmid ++ leBytes 1 port)
          (s1.modPort p (fun x => { x with st := .refused, miswire := true, width := 0 })))) ∧
      (miswired s y lmid port serial = false → widthOf y.quarters < minLanes y.cfg.minW →
        goes (.portIdent p lmid port serial rtt) (holdPort p (s1.modPort p (fun x => { x with belowMin := true })))) ∧
      (miswired s y lmid port serial = false → minLanes y.cfg.minW ≤ widthOf y.quarters → goes (.portIdent p lmid port serial rtt) (raisePort p s1))) ∧
    (used → x.st = .held → x.fenced = false → x.tryAt + 2000 * cyclesMs ≤ s.cue → goes (.portHeldRetry p) (to_ .equalize s)) ∧
    (used → x.st = .up → goes (.portRetrainTrigger p) (retrainPort p s) ∧ goes (.retrain p) (retrainPort p s) ∧
      ((retrainPort p s).port p).st = .equalize ∧ ((retrainPort p s).port p).retrainCnt = inc16 x.retrainCnt ∧
      goes (.portSignalLoss p) ((leaveUp p .held s).modPort p (fun x => { x with tryAt := s.cue }))) ∧
    (used → x.st = .refused → goes (.portSignalLoss p) (to_ .detect s) ∧ goes (.release p) (to_ .detect s)) ∧
    (used → x.st = .equalize ∨ x.st = .map ∨ x.st = .ident → goes (.portSignalLoss p) (holdPort p s)) ∧
    (used → x.st ≠ .up → x.sent ≠ [] → x.downAt + 250 * cyclesMs < s.cue → exec (.portOutageTimeout p) s = .next (pump (requeue p s))) ∧
    (∀ q rev cr pol bad lmid port serial rtt,
      (portUsed s p = false ∨ x.st ≠ .detect → exec (.portSignalDetect p) s = .next s) ∧
      (portUsed s p = false ∨ x.st ≠ .equalize → exec (.portEqualizeDone p q) s = .next s) ∧
      (portUsed s p = false ∨ x.st ≠ .map → exec (.portMap p rev cr pol bad) s = .next s) ∧
      (portUsed s p = false ∨ x.st ≠ .ident ∨ s.boot ≠ .ready → exec (.portIdent p lmid port serial rtt) s = .next s) ∧
      (portUsed s p = false ∨ x.st ≠ .held ∨ x.fenced = true ∨ s.cue < x.tryAt + 2000 * cyclesMs → exec (.portHeldRetry p) s = .next s) ∧
      (portUsed s p = false ∨ x.st ≠ .up → exec (.portRetrainTrigger p) s = .next s ∧ exec (.retrain p) s = .next s) ∧
      (portUsed s p = false ∨ x.st = .detect ∨ x.st = .held → exec (.portSignalLoss p) s = .next s) ∧
      (portUsed s p = false ∨ x.st ≠ .refused → exec (.release p) s = .next s) ∧
      (portUsed s p = false ∨ x.st = .up ∨ x.sent = [] ∨ s.cue ≤ x.downAt + 250 * cyclesMs → exec (.portOutageTimeout p) s = .next s))

/-- R271, R277, R283, R289 to R295: in UP a flit whose check fails is asked for again, and any other gives its ACK and credits and what its kind says; a data flit that is
not the next one shows which are missing, and each is asked for; a replay request sends the named flit again, and it alone; a returned credit never raises a tag above its
allocation; a long-reach receiver acknowledges in order; the frame at the head of the landing is delivered when it authenticates, asked for again when it fails, and a third failure
stops its tag; an exchange of markers is measured, and for a follower's parent port is one of the Cue; a result is the mean of the exchanges, and the host sets or accepts the
reference length. -/
def Obligations.FabricLinkResults : Prop :=
  ∀ (p : Nat) (s : State), s.alive = true →
    let x := s.port p
    (∀ f, x.st = .up → f.crcOk = false → exec (.flitReceive p f) s = .next (askAgain p f.seqNo s)) ∧
    (∀ f, x.st = .up → f.crcOk = true →
      let s1 := if f.corrected then s.modPort p (fun x => { x with fecCorr := inc32 x.fecCorr 1 }) else s
      let s2 := creditBack p f.crTag f.crCount (ackUpTo p f.ack s1)
      exec (.flitReceive p f) s = .next (pump (takeFlit p f s2)) ∧
      (f.kind = 0 → seqBefore f.seqNo x.rxSeq = true ∨ x.landing.any (fun g => g.seqNo == f.seqNo) = true → takeFlit p f s2 = s2) ∧
      (f.kind = 0 → seqBefore f.seqNo x.rxSeq = false → x.landing.any (fun g => g.seqNo == f.seqNo) = false →
        let head := flitHead f.seqNo f.ack f.ltag f.kind f.dest (b2n f.last + 2 * f.keysel) f.crTag f.crCount
        let s3 := keepSlot p true f.seqNo (head ++ f.raw) (s2.modPort p (fun x => { x with landing := x.landing ++ [f] }))
        takeFlit p f s2 = if f.seqNo == x.rxSeq then takeInOrder p (x.landing.length + 1) s3
          else (newGaps x f.seqNo).foldl (fun s q => askAgain p q s) s3) ∧
      (∀ ltag ok, f.kind = 2 → f.control = some (ltag, ok) → takeFlit p f s2 = tagControl p ltag ok s2) ∧
      (f.kind = 3 → lrUp s p = true → takeFlit p f s2 = sendLink p 3 "marker_answer" 0 0 [f.stamps.1, f.stamps.2] s2) ∧
      (f.kind = 5 → takeFlit p f s2 = replayFlit p f.ask s2)) ∧
    (∀ n, x.st = .up → exec (.replayRequest p n) s = .next (replayFlit p n s)) ∧
    (∀ n f, x.sent.find? (fun f => f.seqNo == n) = some f → (x.replays.filter (fun a => s.cue < a + cyclesMs)).length < 1000 →
      replayFlit p n s = resendFlit p ((countWatch .retry p s).modPort p (fun x =>
        { x with replayFlits := inc32 x.replayFlits 1, replays := s.cue :: x.replays.filter (fun a => s.cue < a + cyclesMs) })) f) ∧
    (∀ n, x.sent.find? (fun f => f.seqNo == n) = none → replayFlit p n s = s) ∧
    (∀ a ltag n, x.st = .up →
      exec (.creditReturn p (some a) ltag n) s = .next (pump (creditBack p ltag n (ackUpTo p a s))) ∧
      exec (.creditReturn p none ltag n) s = .next (pump (creditBack p ltag n s))) ∧
    (∀ f n ltag a, x.st ≠ .up → exec (.flitReceive p f) s = .next s ∧ exec (.replayRequest p n) s = .next s ∧
      exec (.creditReturn p a ltag n) s = .next s) ∧
    (lrUp s p = true → exec (.lrAckTimer p) s = .next (sendLink p 1 "ack" 0 0 [ackSeq x] (s.modPort p (fun x => { x with acked := ackSeq x })))) ∧
    (∀ ltag h fr ok, x.inord.head? = some h → h.ltag = ltag → frameOf ltag x.inord = some fr →
      let rest := x.inord.filter (fun f => !fr.contains f)
      let good := ok && (mapFind x.keys (2 * ltag + h.keysel)).isSome
      let n := mapGet 0 x.authFails ltag + 1
      let s1 := s.modPort p (fun x => { x with authCnt := inc16 x.authCnt, lrAuth := true })
      (good = true → exec (.frameAuthenticate p ltag ok) s = .next (freeInord p (rest.length + 1) (fr.foldl (deliverFlit p) (s.modPort p (fun x =>
        { x with inord := rest, authFails := mapDel x.authFails ltag, rxFrames := mapMod 0 x.rxFrames ltag (fun k => k + 1) }))))) ∧
      (good = false → n < 3 → exec (.frameAuthenticate p ltag ok) s = .next (askFrame p fr rest (s1.modPort p (fun x =>
        { x with authFails := mapPut x.authFails ltag n })))) ∧
      (good = false → 3 ≤ n → exec (.frameAuthenticate p ltag ok) s = .next (freeInord p (rest.length + 1)
        (raiseModule evLrAuth (leBytes 1 p ++ leBytes 2 ltag) (sendLink p 2 "tag_stopped" 0 0 [ltag] (fr.foldl (fun s f => returnCredit p f.ltag s)
          (s1.modPort p (fun x =>
            { x with inord := rest, authFails := mapDel x.authFails ltag, barred := (0x1000 + ltag) :: x.barred
                     rxFrames := mapMod 0 x.rxFrames ltag (fun k => k + 1) })))))))) ∧
    (∀ ltag ok, x.inord = [] ∨ frameOf ltag x.inord = none ∨ (∃ h, x.inord.head? = some h ∧ h.ltag ≠ ltag) →
      exec (.frameAuthenticate p ltag ok) s = .next s) ∧
    (∀ t1 t2 t3 t4 : Nat, lrUp s p = true →
      let d : Int := ((t4 : Int) - t1) - ((t3 : Int) - t2)
      let s1 := sendLink p 3 "marker" 0 0 [] (s.modPort p (fun x => { x with delays := (d :: x.delays).take 4096 }))
      (s.cueRegs.master = true ∨ s.cueRegs.parent ≠ p → exec (.rangingExchange p t1 t2 t3 t4) s = .next s1) ∧
      (s.cueRegs.master = false → s.cueRegs.parent = p →
        exec (.rangingExchange p t1 t2 t3 t4) s = .next (takeEstimate (cueOffset p (uiPs t1) (uiPs t2) (uiPs t3) (uiPs t4)) s1))) ∧
    (∀ t1 t2 t3 t4, lrUp s p = false → exec (.lrAckTimer p) s = .next s ∧ exec (.rangingExchange p t1 t2 t3 t4) s = .next s) ∧
    (let ps := (meanPs x.delays - (Config.portDelay p : Int) - x.extPs).toNat % 2 ^ 32
      let len := lenMm ps x.gidx % 2 ^ 32
      let diff := if len < x.refMm then x.refMm - len else len - x.refMm
      let due := lrUp s p && !x.delays.isEmpty && decide (x.resultAt + x.rangeS * 1000 * cyclesMs ≤ s.cue)
      let y := { x with delayPs := ps, lenMm := len, resultAt := s.cue }
      (due = true → x.refSet = false → Gives (.rangingResult p) s (fun t =>
        t.port p = { y with refMm := len, refSet := true, shifted := false } ∧ { t with fab.ports := s.fab.ports } = s)) ∧
      (due = true → x.refSet = true → diff ≤ 100 ∨ x.shifted = true →
        Gives (.rangingResult p) s (fun t => t.port p = y ∧ { t with fab.ports := s.fab.ports } = s)) ∧
      (due = true → x.refSet = true → 100 < diff → x.shifted = false → Gives (.rangingResult p) s (fun t =>
        t.port p = { y with rangeShift := true, shifted := true } ∧ (t.occ evRangeShift).pend = true ∧ t.cores = s.cores ∧ t.mem = s.mem)) ∧
      (due = false → exec (.rangingResult p) s = .next s)) ∧
    (x.cfg.role = 3 → Gives (.accept p) s (fun t => t.port p = { x with refMm := x.lenMm, refSet := true, shifted := false } ∧
      { t with fab.ports := s.fab.ports } = s)) ∧
    (x.cfg.role ≠ 3 → exec (.accept p) s = .next s) ∧
    (∀ v, p = 16 ∨ p = 17 → Gives (.refMmWrite p v) s (fun t => t.port p = { x with refMm := v % 2 ^ 32, refSet := true, shifted := false } ∧
      { t with fab.ports := s.fab.ports } = s)) ∧
    (∀ v, p ≠ 16 → p ≠ 17 → exec (.refMmWrite p v) s = .next s)

/-! ### The Cue -/

/-- R311, R312: a follower's exchange with its parent over a short-reach port in UP estimates the offset from its four timestamps; the first estimate before any troupe has
started sets the count in one step, a later one adds or withholds one count at most once in 1,024 cycles; an offset beyond 2 cycles unlocks and the 64th in a row within 1 cycle
locks; 1 ms without an exchange unlocks a locked follower with an event; the master takes no exchange. -/
def Obligations.CueFollowerResults : Prop :=
  ∀ (t1 t2 t3 t4 : Nat) (s : State), s.alive = true →
    let c := s.cueRegs
    let y := s.port c.parent
    let ps : Int := ((t4 : Int) - t3) - ((((t4 : Int) - t1) - ((t3 : Int) - t2)) / 2 - Config.portDelay c.parent)
    (c.master = false → y.st = .up → y.cfg.role ≠ 3 → Gives (.cueExchange t1 t2 t3 t4) s (fun t =>
      t.cueRegs.offsetPs = ps ∧ t.cueRegs.estimated = true ∧ t.cueRegs.lastX = t.cue ∧
      (withinCycles ps 2 = false → t.cueRegs.lock = false) ∧
      (withinCycles ps 1 = true → 63 ≤ c.good → t.cueRegs.lock = true) ∧
      (c.estimated = false → c.started = false → t.cue = (((s.cue : Int) - offsetCycles ps) % (2 ^ 64 : Int)).toNat) ∧
      (c.estimated = true ∨ c.started = true →
        (offsetCycles ps = 0 ∨ s.cue < c.slewed + 1024 → t.cue = s.cue ∧ t.cueRegs.withhold = c.withhold) ∧
        (offsetCycles ps < 0 → c.slewed + 1024 ≤ s.cue → t.cue = (s.cue + 1) % 2 ^ 64 ∧ t.cueRegs.withhold = c.withhold) ∧
        (0 < offsetCycles ps → c.slewed + 1024 ≤ s.cue → t.cue = s.cue ∧ t.cueRegs.withhold = true)) ∧
      t.cores = s.cores ∧ t.mem = s.mem)) ∧
    (c.master = true ∨ y.st ≠ .up ∨ y.cfg.role = 3 → exec (.cueExchange t1 t2 t3 t4) s = .next s) ∧
    (c.lastX + cyclesMs ≤ s.cue → c.master = false → c.lock = true →
      Gives .cueExchangeTimeout s (fun t => t.cueRegs.lock = false ∧ t.cueRegs.unlock = true ∧ t.cueRegs.unlockCnt = inc16 c.unlockCnt ∧
        (t.occ evCueUnlock).pend = true ∧ t.cue = s.cue ∧ t.cores = s.cores)) ∧
    (c.lastX + cyclesMs ≤ s.cue → c.master = true ∨ c.lock = false → exec .cueExchangeTimeout s = .next { s with cueRegs.good := 0 }) ∧
    (s.cue < c.lastX + cyclesMs → exec .cueExchangeTimeout s = .next s)

/-- R315 to R318: a child's arrival is recorded at the node, one for the next instance apart, and forwarded when all have arrived; a release passes down and is late when its
count has passed; at T_REL the member's cores go on with T_REL in their registers, but those of a checkpoint's cut; a member that has waited BTIMEOUT since its arrival raises
CUE_STALL once. -/
def Obligations.CueBarrierResults : Prop :=
  ∀ (u b : Nat) (s : State), s.alive = true →
    let x := s.bar u b
    (∀ child steps, x.kids.contains child = false →
      exec (.barrierArrival u b child steps) s = .next (barrierForward u b (s.setBar u b { x with kids := x.kids ++ [child], steps := joinSteps x.steps steps }))) ∧
    (∀ child steps, x.kids.contains child = true → Gives (.barrierArrival u b child steps) s (fun t =>
      t.bar u b = { x with nextKids := x.nextKids ++ [child], nextSteps := joinSteps x.nextSteps steps } ∧ { t with fab.nodes := s.fab.nodes } = s)) ∧
    (∀ rel steps e tr g r, barrierEnt s u b = some e → treeAt s e.tree u = some (tr, g, r) →
      (x.sent = true → exec (.barrierTRelArrival u b rel steps) s =
        .next (if rel < s.cue then lateCue u b rel (sendRelease u b rel steps tr g r s) else sendRelease u b rel steps tr g r s)) ∧
      (x.sent = false → exec (.barrierTRelArrival u b rel steps) s = .next s)) ∧
    (∀ rel steps, barrierEnt s u b = none ∨ (∃ e, barrierEnt s u b = some e ∧ treeAt s e.tree u = none) →
      exec (.barrierTRelArrival u b rel steps) s = .next s) ∧
    (∀ r, x.tRel = some r →
      (r ≤ s.cue → cutBarrier s u b = false → exec (.barrierRelease u b) s = .next (releaseCores u b r (s.setBar u b (nextInstance x)))) ∧
      (s.cue < r ∨ cutBarrier s u b = true → exec (.barrierRelease u b) s = .next s)) ∧
    (x.tRel = none → exec (.barrierRelease u b) s = .next s) ∧
    (∀ e, barrierEnt s u b = some e →
      let due := x.arrived && x.tRel.isNone && !x.stalled && decide (x.arrivedAt + e.btimeout * cyclesMs ≤ s.cue)
      (due = true → Gives (.cueStall u b) s (fun t =>
        (t.bar u b).stalled = true ∧ t.cueRegs.stall = true ∧ t.cueRegs.stallCnt = inc16 s.cueRegs.stallCnt ∧ (t.occ evCueStall).pend = true ∧
        t.cores = s.cores)) ∧
      (due = false → exec (.cueStall u b) s = .next s)) ∧
    (barrierEnt s u b = none → exec (.cueStall u b) s = .next s)

/-! ### Troupes -/

/-- R326, R328, R339, R341, R344, R357: TRP_MAP writes one translation entry and completes once no access through the old one remains, its page zeroed when no troupe maps it any
more; a push enters the queue's next place, or completes with QUEUE_FULL and adds nothing; context images are placed in the area, written to the host, and judged before they are
restored, at once or at the next switch in; what names no troupe, entry or queue completes with its status; TRP_EVT's counters clear. -/
def Obligations.TroupeCommandResults : Prop :=
  ∀ (h : CmdHdr) (s : State),
    let u := h.troupe
    let c := (s.troupe u).cfg
    let has := s.hasTroupe u
    (∀ page e, accepted s h opTrpMap = true →
      let bad := !has || decide (c.xlatPages ≤ page) || bitsOf e 59 48 != 0 || bitsOf e 20 0 != 0
      let old := xlatEntry s u page
      let s1 := hubWrite s (c.xlatBase + 8 * page) (leBytes 8 e)
      (bad = true → exec (.trpMap h page e) s = .next (complete h opTrpMap stCmdInvalid s)) ∧
      (bad = false → mapBreaks s u page e = true → exec (.trpMap h page e) s = .next (complete h opTrpMap stXlatPlan s)) ∧
      (bad = false → mapBreaks s u page e = false → entryValid old = false → exec (.trpMap h page e) s = .next (complete h opTrpMap stMapDone s1)) ∧
      (bad = false → mapBreaks s u page e = false → entryValid old = true →
        let p := entryPage old
        (pageBusy s1 p = true → Gives (.trpMap h page e) s (fun t => (t.troupe u).maps = (s1.troupe u).maps ++ [{ hdr := h, page := some p }] ∧
          TroupeFrame u s1 t)) ∧
        (pageBusy s1 p = false → exec (.trpMap h page e) s = .next (complete h opTrpMap stMapDone
          (if mappedByAny s1 p then s1 else zeroMem (p * pageBytes) pageBytes s1))))) ∧
    (∀ q v, accepted s h opTrpQpush = true →
      let ring := (nth (0, 1) c.queues q).1
      let len := (nth (0, 1) c.queues q).2
      let x := s.queue u q
      let at_ := if x.head + x.count < len then x.head + x.count else x.head + x.count - len
      (has = false ∨ c.queues.length ≤ q → exec (.trpQpush h q v) s = .next (complete h opTrpQpush stCmdInvalid s)) ∧
      (has = true → q < c.queues.length → len ≤ x.count → exec (.trpQpush h q v) s = .next (complete h opTrpQpush stQueueFull s)) ∧
      (has = true → q < c.queues.length → x.count < len →
        exec (.trpQpush h q v) s = .next (complete h opTrpQpush stOk ((troupePut s u (ring + 8 * at_) (leBytes 8 v)).modTroupe u (fun (y : Troupe) =>
          { y with queues := mapPut y.queues q { x with count := x.count + 1 }, scrubbed := false }))) ∧
        Gives (.trpQpush h q v) s (fun t => (t.queue u q).count = x.count + 1 ∧ (t.queue u q).head = x.head ∧
          (∀ j, j ≠ q → t.queue u j = s.queue u j)))) ∧
    (∀ img, accepted s h opTrpCtxPut = true →
      (has = true → exec (.trpCtxPut h img) s = .next (complete h opTrpCtxPut stOk (s.modTroupe u (fun (x : Troupe) => { x with area := some img })))) ∧
      (has = false → exec (.trpCtxPut h img) s = .next (complete h opTrpCtxPut stCmdInvalid s))) ∧
    (∀ addr, accepted s h opTrpCtxGet = true →
      (∀ img, has = true → (s.troupe u).area = some img →
        exec (.trpCtxGet h addr) s = .next (complete h opTrpCtxGet stOk (hostWrite addr img.bytes { s with out.images := (addr, img) :: s.out.images }))) ∧
      (has = true → (s.troupe u).area = none → exec (.trpCtxGet h addr) s = .next (complete h opTrpCtxGet stOk s)) ∧
      (has = false → exec (.trpCtxGet h addr) s = .next (complete h opTrpCtxGet stCmdInvalid s))) ∧
    (accepted s h opTrpRestore = true →
      let idle := stateOf s u == .resident && !anyRunning s u
      let s1 := s.modTroupe u (fun (x : Troupe) => { x with regs.stopped := false })
      (stateOf s u ≠ .off → idle = false → exec (.trpRestore h) s = .next (complete h opTrpRestore stSwitchState s)) ∧
      (stateOf s u = .off ∨ idle = true → (s.troupe u).area = none → exec (.trpRestore h) s = .next (complete h opTrpRestore stRestoreDigest s)) ∧
      (∀ img, stateOf s u = .off ∨ idle = true → (s.troupe u).area = some img →
        (judgeImage s u img ≠ stOk → exec (.trpRestore h) s = .next (complete h opTrpRestore (judgeImage s u img) s)) ∧
        (judgeImage s u img = stOk → stateOf s u ≠ .off →
          exec (.trpRestore h) s = .next (complete h opTrpRestore stRestoreDone (restoreImage u img s1))) ∧
        (judgeImage s u img = stOk → stateOf s u = .off → Gives (.trpRestore h) s (fun t => (t.troupe u).toRestore = some img ∧
          (t.troupe u).regs.stopped = false ∧ t.cores = s.cores ∧ t.mem = s.mem)))) ∧
    (∀ v, s.alive = true →
      (s.hasTroupe v = true → Gives (.trpEvtClr v) s (fun t =>
        t.troupe v = { s.troupe v with regs.xlatCnt := 0, regs.switchCnt := 0, regs.xfValid := false } ∧ TroupeFrame v s t)) ∧
      (s.hasTroupe v = false → exec (.trpEvtClr v) s = .next s))

/-- R335, R336, R342, R343: a switch that no earlier one holds is judged at once, and one that names a troupe of an earlier switch waits; a drained switch
moves its contexts, and then completes, with OUT OFF, IN resident, and what waited for it going on; a teardown is registered and starts unless the troupe is SAVING or RESTORING; a
drained teardown ends. -/
def Obligations.SwitchAndTeardownResults : Prop :=
  ∀ (h : CmdHdr) (u : Nat) (s : State),
    (∀ out inn, accepted s h opTrpSwitch = true →
      let w : Switch := { hdr := h, out := out, inn := inn, t0 := s.cue }
      let waits := switchBusy s w || s.waitSw.any (fun v => switchBusy { s with switches := [v] } w)
      (waits = true → Gives (.trpSwitch h out inn) s (fun t => t.waitSw = s.waitSw ++ [w] ∧ { t with waitSw := s.waitSw } = s)) ∧
      (waits = false → judgeSwitch s w = stOk → exec (.trpSwitch h out inn) s = .next (startSwitch w s)) ∧
      (waits = false → judgeSwitch s w ≠ stOk → exec (.trpSwitch h out inn) s = .next (complete h opTrpSwitch (judgeSwitch s w) s))) ∧
    (s.alive = true →
      (∀ w, switchOf s u false = some w →
        (switchDrained s w = true → exec (.switchDrainDone u) s = .next (moveContexts w s)) ∧
        (switchDrained s w = false → exec (.switchDrainDone u) s = .next s)) ∧
      (switchOf s u false = none → exec (.switchDrainDone u) s = .next s) ∧
      (∀ w, switchOf s u true = some w →
        let s0 := { s with switches := s.switches.erase w }
        (∀ o, w.out = some o → w.inn = none →
          exec (.switchComplete u) s = .next (settleSwitches (settleTears o (complete w.hdr opTrpSwitch stOk (leaveOut o s0))))) ∧
        (∀ i, w.out = none → w.inn = some i →
          exec (.switchComplete u) s = .next (settleSwitches (settleTears i (complete w.hdr opTrpSwitch stOk (arriveIn i w.t0 s0))))) ∧
        (∀ o i, w.out = some o → w.inn = some i →
          exec (.switchComplete u) s = .next (settleSwitches (settleTears i (settleTears o (complete w.hdr opTrpSwitch stOk
            (arriveIn i w.t0 (leaveOut o s0))))))) ∧
        (w.out = none → w.inn = none → exec (.switchComplete u) s = .next (settleSwitches (complete w.hdr opTrpSwitch stOk s0)))) ∧
      (switchOf s u true = none → exec (.switchComplete u) s = .next s)) ∧
    (accepted s h opTrpTeardown = true →
      (s.hasTroupe h.troupe = true →
        exec (.trpTeardown h) s = .next (settleTears h.troupe (s.modTroupe h.troupe (fun (x : Troupe) => { x with tears := x.tears ++ [(h, opTrpTeardown, stOk)] })))) ∧
      (s.hasTroupe h.troupe = false → exec (.trpTeardown h) s = .next (complete h opTrpTeardown stCmdInvalid s))) ∧
    (s.alive = true →
      (stateOf s u = .teardown → tearDrained s u = true → exec (.teardownDone u) s = .next (settleSwitches (settleTear u s))) ∧
      (stateOf s u ≠ .teardown ∨ tearDrained s u = false → exec (.teardownDone u) s = .next s))

/-! ### Checkpoints and substitution -/

/-- R349 to R358, R360: CKPT_TAKE arms the job and completes; a crossed watch threshold acts once its hold-off has ended; a job's arm, order and drain's end reach it by message; an armed
troupe at its cut point joins the job's barrier; the cut saves every page of the job's save set; an abort drops the cut, with its event, and the coordinator and the others learn of it; a
copied page is no longer pending; a stalled write whose page is copied proceeds; with every page copied the stratum 0 image is complete and its manifest written, unless a source unit
was poisoned. The watch's and the job's counters clear. -/
def Obligations.CheckpointEngineResults : Prop :=
  ∀ (j : Nat) (s : State),
    (∀ (h : CmdHdr) job, accepted s h opCkptTake = true →
      (∀ k, jobIndex s job = some k → exec (.ckptTake h job) s = .next (complete h opCkptTake stOk (armJob k s))) ∧
      (jobIndex s job = none → exec (.ckptTake h job) s = .next (complete h opCkptTake stCmdInvalid s))) ∧
    (∀ c, s.alive = true →
      (watchCrossed s.ckpt.watch c (watchQuantity s c) = true → exec (.ckptRequest c) s = .next (crossWatch c s)) ∧
      (watchCrossed s.ckpt.watch c (watchQuantity s c) = false → exec (.ckptRequest c) s = .next s)) ∧
    (s.alive = true →
      (∀ a, s.ckpt.watch.holdUntil = some a →
        (a ≤ s.cue → exec .holdoffExpiry s = .next { s with ckpt.watch.holdUntil := none }) ∧ (s.cue < a → exec .holdoffExpiry s = .next s)) ∧
      (s.ckpt.watch.holdUntil = none → exec .holdoffExpiry s = .next s)) ∧
    (∀ x n l, s.alive = true → s.job? j = some x →
      (coordinates s x = true → exec (.ckptArm j .arm) s = .next (coordArm j s) ∧ exec (.ckptArm j (.drained l)) s = .next (drainEnded j l s) ∧
        exec (.ckptArm j (.armed n)) s = .next s) ∧
      (coordinates s x = false → exec (.ckptArm j .arm) s = .next s ∧ exec (.ckptArm j (.drained l)) s = .next s) ∧
      (coordinates s x = false → x.st = .idle →
        Gives (.ckptArm j (.armed n)) s (fun t => t.job? j = some { x with st := .armed, no := n % 2 ^ 32 } ∧ t.mem = s.mem ∧ t.cores = s.cores)) ∧
      (coordinates s x = false → x.st ≠ .idle → exec (.ckptArm j (.armed n)) s = .next s)) ∧
    (∀ u, s.alive = true →
      (∀ k x, armedJob s u = some (k, x) →
        let cut := x.atCut ++ [u]
        let s1 := (endStep u s).modJob k (fun y => { y with atCut := cut, st := (if x.plan.troupes.all (fun p => cut.contains p.t) then .paused else .armed) })
        (reachesCut s u = true → exec (.ckptCutPoint u) s = .next (memberArrive u x.plan.bar
          (if (s1.lrn u).cfg.present then some ((s1.lrn u).regs.step, (s1.lrn u).regs.step) else none) s1)) ∧
        (reachesCut s u = false → exec (.ckptCutPoint u) s = .next s)) ∧
      (armedJob s u = none → exec (.ckptCutPoint u) s = .next (settleCompare u s))) ∧
    (∀ x, s.alive = true → s.job? j = some x →
      (x.st ≠ .paused ∨ cutRelease s x = none → exec (.ckptCut j) s = .next s) ∧
      (∀ rel steps, x.st = .paused → cutRelease s x = some (rel, steps) → Gives (.ckptCut j) s (fun t =>
        ∃ y, t.job? j = some y ∧ y.st = .copying ∧ y.tCut = rel ∧ y.pages = savePages s x ∧ y.atCut = [] ∧ y.image = some (cutImage s x rel steps) ∧
          (∀ p ∈ savePages s x, p ∈ t.mem.pages)))) ∧
    (∀ x ordered, s.alive = true → s.job? j = some x →
      let cancel := (x.st == .armed || x.st == .paused) && (ordered || cutBroken s x)
      let s2 := raiseModule evCkptAbort (leBytes 2 x.plan.job) ((dropCut j x s).modJob j (fun y => { y with abort := true, abortCnt := inc16 y.abortCnt }))
      (cancel = false → exec (.ckptAbort j ordered) s = .next s) ∧
      (cancel = true → coordinates s x = true → exec (.ckptAbort j ordered) s = .next (sendJob x "ckpt_abort" [] s2)) ∧
      (cancel = true → coordinates s x = false → ordered = true → exec (.ckptAbort j ordered) s = .next s2) ∧
      (cancel = true → coordinates s x = false → ordered = false →
        exec (.ckptAbort j ordered) s = .next (sendFab { kind := "ckpt_abort", dest := (jobRoot s x).1, vals := [x.plan.job] } s2))) ∧
    (s.alive = true →
      (∀ key, nextPage s j = some key →
        let s1 := s.ckpt.jobs.foldl (copyFor key) (findErrors (copyReads s key) { s with mem.pages := s.mem.pages.filter (fun p => p != key) })
        exec (.snapshotPageCopy j) s = .next (if s1.mem.pages.any (fun p => p / 12288 == j) then s1
          else s1.modStack j (fun (k : Stack) => { k with snapBusy := false })) ∧
        Gives (.snapshotPageCopy j) s (fun t => key ∉ t.mem.pages)) ∧
      (nextPage s j = none → exec (.snapshotPageCopy j) s = .next s)) ∧
    (s.alive = true →
      (∀ w, s.mem.stalled.find? (fun w => !s.mem.pages.contains w.key) = some w →
        let o := storeUnits { s.mem with stalled := s.mem.stalled.erase w } w.addr w.bytes
        exec .stalledWriteProceed s = .next (settleMaps (afterStalled w o.2 { s with mem := o.1 }))) ∧
      (s.mem.stalled.find? (fun w => !s.mem.pages.contains w.key) = none → exec .stalledWriteProceed s = .next s)) ∧
    (∀ x, s.alive = true → s.job? j = some x →
      (x.st ≠ .copying ∨ x.pages ≠ [] → exec (.ckptS0Done j) s = .next s) ∧
      (x.st = .copying → x.pages = [] → x.bad = true →
        let s0 := match x.image with
          | some i => putMeta j 0 (manifestBytes (sealImage s i)) s
          | none => s
        exec (.ckptS0Done j) s = .next (endDrain j (raiseModule evCkptUe (leBytes 2 x.plan.job ++ leBytes 4 x.no)
          (s0.modJob j (fun y => { y with ue := true, st := .draining }))))) ∧
      (x.st = .copying → x.pages = [] → x.bad = false →
        let img := x.image.map (fun (i : CkptImage) => sealImage s { i with complete := true })
        let s1 := raiseModule evCkptS0Done (leBytes 2 x.plan.job ++ leBytes 4 x.no)
          (s.modJob j (fun y => { y with st := .draining, s0Done := true, image := img }))
        (img = none → exec (.ckptS0Done j) s = .next s1) ∧
        (∀ i, img = some i → exec (.ckptS0Done j) s = .next (i.pieces.foldl (fun s p => if p.isReg then s else chargeStacks p.troupe 0 p.stored.length s)
          (putMeta j 0 (manifestBytes i) s1))))) ∧
    (s.alive = true → exec .wchEvtClr s = .next { s with ckpt.watch.reqCnt := 0, ckpt.watch.suppCnt := 0 }) ∧
    (s.alive = true → exec (.wchCkptEvtClr j) s = .next (s.modJob j (fun y => { y with abortCnt := 0, heldCnt := 0, stallCnt := 0 })))

/-- R361 to R368: a drain buffer of the job's checkpoint waits for its drain, is filled with the next bytes of it and completes with its record; CKPT_STORED before the
drain has ended is CKPT_PARTIAL, and after it ends the drain with its event; CKPT_DISCARD ends it; the cursor's 64 bytes are kept for the next cut; a restore is refused while a core
of the job runs and for a catalogue that is not right, and else takes the newest step whose images apply; RPL_COMPARE compares the replicas at once, or once every learner troupe
stands at its cut point. A job or number that is not right is CMD_INVALID. -/
def Obligations.CheckpointDrainResults : Prop :=
  ∀ (h : CmdHdr) (job j no : Nat) (s : State),
    (∀ x, jobIndex s job = some j → s.job? j = some x →
      let open_ := x.st == .copying || x.st == .draining
      (∀ addr len, accepted s h opCkptBuf = true →
        let bad := len % 4096 != 0 || len == 0 || x.no != no || !open_
        (bad = false → exec (.ckptBuf h job no addr len) s = .next (s.modJob j (fun y => { y with bufs := y.bufs ++ [{ hdr := h, addr := addr, len := len }] }))) ∧
        (bad = true → exec (.ckptBuf h job no addr len) s = .next (complete h opCkptBuf stCmdInvalid s))) ∧
      (accepted s h opCkptStored = true →
        let all := x.st == .draining && decide ((drainBytes s x).length ≤ x.drained)
        (x.no ≠ no ∨ open_ = false → exec (.ckptStored h job no) s = .next (complete h opCkptStored stCmdInvalid s)) ∧
        (x.no = no → open_ = true → all = false → exec (.ckptStored h job no) s = .next (complete h opCkptStored stCkptPartial s)) ∧
        (x.no = no → open_ = true → all = true → exec (.ckptStored h job no) s = .next (complete h opCkptStored stOk
          (endDrain j (raiseModule evCkptStored (leBytes 2 job ++ leBytes 4 no) (s.modJob j (fun y => { y with s1Done := true }))))))) ∧
      (accepted s h opCkptDiscard = true →
        (x.no = no → x.st = .draining → exec (.ckptDiscard h job no) s = .next (complete h opCkptDiscard stOk (endDrain j s))) ∧
        (x.no ≠ no ∨ x.st ≠ .draining → exec (.ckptDiscard h job no) s = .next (complete h opCkptDiscard stCmdInvalid s))) ∧
      (∀ bytes, accepted s h opCkptCursor = true →
        let late := x.st == .paused && (cutRelease s x).isSome
        (late = false → exec (.ckptCursor h job bytes) s = .next (complete h opCkptCursor stOk (s.modJob j (fun y => { y with cursor := bytes.take 64 })))) ∧
        (late = true → exec (.ckptCursor h job bytes) s = .next (complete h opCkptCursor stOk (s.modJob j (fun y => { y with later := some (bytes.take 64) }))))) ∧
      (∀ cat busy, accepted s h opCkptRestore = true →
        let runs := busy || x.plan.troupes.any (fun p => (troupeCores s p.t).any (fun c => (s.core c).regs.state == .running))
        let right := cat.all (fun e => e.layoutOk && decide (e.source ≤ 1))
        (runs = true → exec (.ckptRestore h job cat busy) s = .next (refuseRestore h job stSwitchState s)) ∧
        (runs = false → right = false → exec (.ckptRestore h job cat busy) s = .next (refuseRestore h job stCatalogueInvalid s)) ∧
        (runs = false → right = true → exec (.ckptRestore h job cat busy) s = .next (restoreJob h j x cat s))) ∧
      (∀ others pairs, accepted s h opRplCompare = true →
        let c : Compare := { hdr := h, others := others, pairs := pairs }
        (learnersQuiet s x = true → exec (.rplCompare h job others pairs) s = .next (compareJob x c s)) ∧
        (learnersQuiet s x = false → Gives (.rplCompare h job others pairs) s (fun t => t.mem = s.mem ∧ t.cores = s.cores ∧
          t.job? j = some { x with cmp := x.cmp ++ [c], cmpAt := (x.plan.troupes.map (·.t)).filter (cmpStands s) }))) ∧
      (∀ others, majority (ownRepl s x ++ others) = none → ownMirrors s x = [] →
        compareJob x { hdr := h, others := others, pairs := [] } s = complete h opRplCompare stReplicaMatch s)) ∧
    (∀ addr len bytes cat busy others pairs, jobIndex s job = none →
      (accepted s h opCkptBuf = true → exec (.ckptBuf h job no addr len) s = .next (complete h opCkptBuf stCmdInvalid s)) ∧
      (accepted s h opCkptStored = true → exec (.ckptStored h job no) s = .next (complete h opCkptStored stCmdInvalid s)) ∧
      (accepted s h opCkptDiscard = true → exec (.ckptDiscard h job no) s = .next (complete h opCkptDiscard stCmdInvalid s)) ∧
      (accepted s h opCkptCursor = true → exec (.ckptCursor h job bytes) s = .next (complete h opCkptCursor stCmdInvalid s)) ∧
      (accepted s h opCkptRestore = true → exec (.ckptRestore h job cat busy) s = .next (complete h opCkptRestore stCmdInvalid s)) ∧
      (accepted s h opRplCompare = true → exec (.rplCompare h job others pairs) s = .next (complete h opRplCompare stCmdInvalid s))) ∧
    (∀ x, s.alive = true → s.job? j = some x →
      (∀ b bs, x.bufs = b :: bs → x.st = .draining →
        let data := ((drainBytes s x).drop x.drained).take b.len
        exec (.ckptBufferFilled j) s = .next (completeRec b.hdr opCkptBuf stOk
          (leBytes 8 x.no ++ leBytes 2 s.lmid ++ leBytes 6 0 ++ leBytes 8 x.drained ++ leBytes 8 data.length)
          (hostWrite b.addr data (s.modJob j (fun y => { y with bufs := bs, drained := y.drained + data.length }))))) ∧
      (x.bufs = [] ∨ x.st ≠ .draining → exec (.ckptBufferFilled j) s = .next s))

/-- R369 to R372: an understudy stages an accepted image by the LMID it stands for, and only an understudy does; it takes over a FAILED module of its group with the image given or staged,
and answers what stands in the way; a module that is none relays a substitution to the understudy of a FAILED module; a staged image of a job with SUB_AUTO takes over without a
command; a troupe that waits is filled from its mirror, or stays unfilled where it is a learner without one, and with the last one the substitution ends. -/
def Obligations.UnderstudyResults : Prop :=
  ∀ (h : CmdHdr) (l : Nat) (s : State),
    (∀ len img agree, accepted s h opUndStage = true →
      (isUnderstudy s = false → exec (.undStage h l len img agree) s = .next (complete h opUndStage stSubNone s)) ∧
      (isUnderstudy s = true → judgeSub l img len agree s ≠ stOk →
        exec (.undStage h l len img agree) s = .next (complete h opUndStage (judgeSub l img len agree s) s)) ∧
      (isUnderstudy s = true → judgeSub l img len agree s = stOk →
        exec (.undStage h l len img agree) s = .next (complete h opUndStage stOk { s with ckpt.sub.staged := mapPut s.ckpt.sub.staged l img }))) ∧
    (∀ image agree, accepted s h opEnsSubstitute = true →
      let given := match image with
        | some x => some x
        | none => (mapFind s.ckpt.sub.staged l).map (fun x => (signedSize x.sig, x))
      (isUnderstudy s = true → subNone s l = true → exec (.ensSubstitute h l image agree) s = .next (complete h opEnsSubstitute stSubNone s)) ∧
      (isUnderstudy s = true → subNone s l = false → lmidState s l ≠ 3 →
        exec (.ensSubstitute h l image agree) s = .next (complete h opEnsSubstitute stSubState s)) ∧
      (isUnderstudy s = true → subNone s l = false → lmidState s l = 3 → given = none →
        exec (.ensSubstitute h l image agree) s = .next (complete h opEnsSubstitute stSubImage s)) ∧
      (∀ len img, isUnderstudy s = true → subNone s l = false → lmidState s l = 3 → given = some (len, img) →
        (judgeSub l img len agree s ≠ stOk →
          exec (.ensSubstitute h l image agree) s = .next (complete h opEnsSubstitute (judgeSub l img len agree s) s)) ∧
        (judgeSub l img len agree s = stOk → exec (.ensSubstitute h l image agree) s = .next (complete h opEnsSubstitute stOk (takeOver l img s)))) ∧
      (isUnderstudy s = false → understudyOf s l = none → exec (.ensSubstitute h l image agree) s = .next (complete h opEnsSubstitute stSubNone s)) ∧
      (∀ n, isUnderstudy s = false → understudyOf s l = some n →
        (lmidState s l ≠ 3 → exec (.ensSubstitute h l image agree) s = .next (complete h opEnsSubstitute stSubState s)) ∧
        (lmidState s l = 3 → exec (.ensSubstitute h l image agree) s = .next
          (sendFab { kind := "substitute", dest := (slotRow s n).lmid, vals := [h.sq, h.slot, h.troupe, h.cmdId, l, b2n image.isSome] } s)))) ∧
    (s.alive = true →
      (∀ img, mapFind s.ckpt.sub.staged l = some img →
        let takes := !subNone s l && lmidState s l == 3 && img.jobs.any (fun j => j.subAuto) && judgeSub l img (signedSize img.sig) true s == stOk
        (takes = true → exec (.autoSubstitution l) s = .next (takeOver l img s)) ∧ (takes = false → exec (.autoSubstitution l) s = .next s)) ∧
      (mapFind s.ckpt.sub.staged l = none → exec (.autoSubstitution l) s = .next s)) ∧
    (∀ pieces bars, s.alive = true →
      let x := s.ckpt.sub
      let waits := x.waits.filter (fun u => u != l)
      let s1 := bars.foldl (fun s b => s.setBar l b.1 { s.bar l b.1 with instNo := b.2 }) s
      let fills := fun (s2 : State) => exec (.substitutionFill l pieces bars) s =
        .next (if waits.isEmpty then subEnds { s2 with ckpt.sub.waits := waits } else { s2 with ckpt.sub.waits := waits })
      (x.state ≠ 3 ∨ x.waits.contains l = false → exec (.substitutionFill l pieces bars) s = .next s) ∧
      (x.state = 3 → x.waits.contains l = true → (s.lrn l).cfg.present = false → fills s1) ∧
      (x.state = 3 → x.waits.contains l = true → (s.lrn l).cfg.present = true → mirrorThere s l = true → pieces ≠ [] →
        fills (writePieces (jobOfTroupe s l) pieces s1).1) ∧
      (x.state = 3 → x.waits.contains l = true → (s.lrn l).cfg.present = true → mirrorThere s l = false ∨ pieces = [] →
        fills { s1 with ckpt.sub.unfilled := l :: s1.ckpt.sub.unfilled }))

/-! ### The host link -/

/-- R377 to R385, R387, R389, R395: ADMIN_QUEUE_WRITE sets a queue register while ENABLE is 0; a write of THL_CTRL sets ENABLE and its vectors; queues are created and deleted by the
lead, and a queue in use is not deleted; a binding names its queue; a doorbell moves a command queue's tail or a head within the queue, and a bad one changes no queue; commands are
fetched by the lead in the weighted order; a relayed command is registered at a follower; a waiting completion is written into its queue, sent to the lead, or kept while it cannot be. -/
def Obligations.HostQueueResults : Prop :=
  ∀ (h : CmdHdr) (s : State),
    let lead := isLead s = true
    (∀ which v, s.alive = true →
      let w := BitVec.ofNat 64 (bitsOf v 63 12 * 4096 + bitsOf v 4 0)
      let takes := s.thl.regs.enable = false ∧ 4 ≤ bitsOf v 4 0 ∧ bitsOf v 4 0 ≤ 16
      (takes → exec (.adminQueueWrite 0 v) s = .next { s with thl.regs.aqCmd := w } ∧ exec (.adminQueueWrite 1 v) s = .next { s with thl.regs.aqCpl := w } ∧
        exec (.adminQueueWrite 2 v) s = .next { s with thl.regs.aqEvq := w }) ∧
      (¬ takes ∨ 2 < which → exec (.adminQueueWrite which v) s = .next s)) ∧
    (∀ v, s.alive = true →
      let s1 := { s with thl.regs.enable := bitOf v 0, thl.regs.cq0Vec := bitsOf v 26 16, thl.regs.eq0Vec := bitsOf v 42 32 }
      (bitOf v 0 = true → s.thl.regs.enable = false → exec (.enable v) s = .next (openAdmin s1)) ∧
      (bitOf v 0 = false ∨ s.thl.regs.enable = true → Gives (.enable v) s (fun t => t.thl.regs = s1.thl.regs ∧ t.thl.cmdQs = s.thl.cmdQs ∧
        (∀ p, mapFind s.thl.cplQs 0 = some p → mapFind t.thl.cplQs 0 = some { p with vector := bitsOf v 26 16 }) ∧
        (∀ e, mapFind s.thl.evtQs 0 = some e → mapFind t.thl.evtQs 0 = some { e with vector := bitsOf v 42 32 }) ∧
        (∀ q, q ≠ 0 → mapFind t.thl.cplQs q = mapFind s.thl.cplQs q ∧ mapFind t.thl.evtQs q = mapFind s.thl.evtQs q) ∧
        { t with thl := s.thl } = s))) ∧
    (∀ r, accepted s h opQueueCreate = true →
      let right := h.sq = 0 ∧ r.rsv = 0
      let made := fun (t : State) => exec (.queueCreate h r) s = .next (complete h opQueueCreate stOk t)
      (¬ right → exec (.queueCreate h r) s = .next (complete h opQueueCreate stCmdInvalid s)) ∧
      (right → queueRecOk s r = false ∨ ¬ lead → exec (.queueCreate h r) s = .next (complete h opQueueCreate stQueueInvalid s)) ∧
      (right → queueRecOk s r = true → lead →
        (r.kind = 0 → made { s with
          thl.cmdQs := mapPut s.thl.cmdQs r.qid { tenant := r.tenant, log2n := r.log2n, weight := r.weight, cqid := r.cqid, base := r.addr } }) ∧
        (r.kind = 1 → made { s with thl.cplQs := mapPut s.thl.cplQs r.qid { tenant := r.tenant, log2n := r.log2n, base := r.addr, vector := r.vector } }) ∧
        (r.kind = 2 → made { s with thl.evtQs := mapPut s.thl.evtQs r.qid { tenant := r.tenant, log2n := r.log2n, base := r.addr, vector := r.vector } }) ∧
        r.kind ≤ 2)) ∧
    (∀ qid kind, accepted s h opQueueDelete = true →
      let there := qid ≠ 0 ∧ kind ≤ 2 ∧ queueThere s kind qid = true
      let gone := fun (t : State) => exec (.queueDelete h qid kind) s = .next (complete h opQueueDelete stOk t)
      (h.sq ≠ 0 → exec (.queueDelete h qid kind) s = .next (complete h opQueueDelete stCmdInvalid s)) ∧
      (h.sq = 0 → ¬ there → exec (.queueDelete h qid kind) s = .next (complete h opQueueDelete stQueueInvalid s)) ∧
      (h.sq = 0 → there → queueBusy s kind qid = true → exec (.queueDelete h qid kind) s = .next (complete h opQueueDelete stQueueBusy s)) ∧
      (h.sq = 0 → there → queueBusy s kind qid = false →
        (kind = 0 → gone { s with thl.cmdQs := mapDel s.thl.cmdQs qid }) ∧ (kind = 1 → gone { s with thl.cplQs := mapDel s.thl.cplQs qid }) ∧
        (kind = 2 → gone { s with thl.evtQs := mapDel s.thl.evtQs qid }))) ∧
    (∀ slot troupe q tenants, accepted s h opEvqBind = true →
      let inRange := (slot = 255 ∨ slot < slotCount s) ∧ (troupe = 255 ∨ troupe < 64)
      let slots := if slot == 255 then List.range (slotCount s) else [slot]
      (¬ inRange → exec (.evqBind h slot troupe q tenants) s = .next (complete h opEvqBind stCmdInvalid s)) ∧
      (inRange → mapFind s.thl.evtQs q = none → exec (.evqBind h slot troupe q tenants) s = .next (complete h opEvqBind stQueueInvalid s)) ∧
      (∀ e, inRange → mapFind s.thl.evtQs q = some e →
        (¬ lead ∨ bindBreaks s tenants e slots troupe = true → exec (.evqBind h slot troupe q tenants) s = .next (complete h opEvqBind stQueueInvalid s)) ∧
        (lead → bindBreaks s tenants e slots troupe = false → exec (.evqBind h slot troupe q tenants) s = .next (complete h opEvqBind stOk
          { s with thl.bindings := slots.foldl (fun m n => mapPut m (256 * n + troupe) q) s.thl.bindings })))) ∧
    (∀ kind q v, s.alive = true →
      let i := bitsOf v 15 0
      (queueThere s kind q = false → exec (.doorbell kind q v) s = .next (badDoorbell s)) ∧
      (∀ c, mapFind s.thl.cmdQs q = some c → queueThere s 0 q = true →
        (i < 2 ^ c.log2n → exec (.doorbell 0 q v) s = .next { s with thl.cmdQs := mapPut s.thl.cmdQs q { c with tail := i } }) ∧
        (2 ^ c.log2n ≤ i → exec (.doorbell 0 q v) s = .next (badDoorbell s))) ∧
      (∀ p, mapFind s.thl.cplQs q = some p → queueThere s 1 q = true →
        let n := passed (2 ^ p.log2n) p.head i
        (i < 2 ^ p.log2n → n ≤ p.unread → exec (.doorbell 1 q v) s = .next { s with
          thl.cplQs := mapPut s.thl.cplQs q { p with head := i, unread := p.unread - n, armed := p.armed || bitOf v 63 } }) ∧
        (2 ^ p.log2n ≤ i ∨ p.unread < n → exec (.doorbell 1 q v) s = .next (badDoorbell s))) ∧
      (∀ e, mapFind s.thl.evtQs q = some e → queueThere s 2 q = true →
        let n := passed (2 ^ e.log2n) e.head i
        (i < 2 ^ e.log2n → n ≤ e.unread → exec (.doorbell 2 q v) s = .next { s with
          thl.evtQs := mapPut s.thl.evtQs q { e with head := i, unread := e.unread - n, armed := e.armed || bitOf v 63 } }) ∧
        (2 ^ e.log2n ≤ i ∨ e.unread < n → exec (.doorbell 2 q v) s = .next (badDoorbell s)))) ∧
    (∀ mem tenants, s.alive = true →
      let fetches := isLead s && s.thl.regs.enable && s.thl.regs.link == 2
      (fetches = true → exec (.commandFetch mem tenants) s = .next (fetchVisit mem tenants s (wrrOrder s))) ∧
      (fetches = false → exec (.commandFetch mem tenants) s = .next s)) ∧
    (∀ opcode fence, s.alive = true →
      (¬ lead → exec (.commandRelay h opcode fence) s = .next { s with thl.fetched := s.thl.fetched ++ [{ hdr := h, opcode := opcode, fence := fence }] }) ∧
      (lead → exec (.commandRelay h opcode fence) s = .next s)) ∧
    (∀ c, s.alive = true →
      (lead → exec (.completionWrite (some c)) s = .next { s with thl.cplWait := s.thl.cplWait ++ [c] }) ∧
      (¬ lead → exec (.completionWrite (some c)) s = .next s)) ∧
    (s.alive = true → s.thl.cplWait = [] → exec (.completionWrite none) s = .next s) ∧
    (∀ x xs, s.alive = true → s.thl.cplWait = x :: xs →
      let s1 := dropFetched x.hdr { s with thl.cplWait := xs }
      (∀ s2, lead → s.thl.regs.link = 2 → writeCpl x s1 = some s2 → exec (.completionWrite none) s = .next s2) ∧
      (lead → s.thl.regs.link ≠ 2 ∨ writeCpl x s1 = none → exec (.completionWrite none) s = .next s) ∧
      (¬ lead → leadLost s = true → exec (.completionWrite none) s = .next s) ∧
      (¬ lead → leadLost s = false → Gives (.completionWrite none) s (fun t => t.thl.cplWait = xs ∧
        ∃ m, t.out.fabric = m :: s.out.fabric ∧ m.kind = "completion" ∧ m.dest = (mapGet {} s.thl.ens.table 0).lmid ∧
          m.vals = [x.hdr.sq, x.hdr.slot, x.hdr.troupe, x.hdr.cmdId, x.opcode, x.status, b2n x.isRec, x.tDone] ∧ m.data = x.body)))

/-- R374, R375, R386 to R388, R395, R397, R399, R466: the link trains to 8 or 4 lanes, and goes down after 250 ms without lock; raising an event sets its PEND and counts it, whether or not
a message is posted, and one of a code that is not assigned is never raised; a follower's message or notice is posted at the lead; a PEND clear and a CNT_CLR clear one field each,
and an event raised after a CNT_CLR leaves COUNT at 1; a buffered notice enters its queue when there is room; a host fault ends the command it strikes. -/
def Obligations.EventAndLinkResults : Prop :=
  ∀ (s : State), s.alive = true →
    (∀ lo hi,
      (s.thl.regs.prsnt = true → linksRun s = true → s.thl.regs.link ≠ 2 →
        (lo = true → hi = true → exec (.thlTraining lo hi) s = .next (flushMsgs { s with thl.regs.link := 2, thl.regs.width := 8 })) ∧
        (lo ≠ hi → exec (.thlTraining lo hi) s =
          .next (raiseModule evThlNarrow [] (flushMsgs { s with thl.regs.link := 2, thl.regs.width := 4, thl.regs.narrow := true }))) ∧
        (lo = false → hi = false → exec (.thlTraining lo hi) s = .next { s with thl.regs.link := 0, thl.regs.width := 0 })) ∧
      (s.thl.regs.prsnt = false ∨ linksRun s = false ∨ s.thl.regs.link = 2 → exec (.thlTraining lo hi) s = .next s)) ∧
    (∀ ms,
      let s1 := { s with thl.regs.link := 0, thl.regs.width := 0 }
      (250 ≤ ms → s.thl.regs.link = 2 → exec (.thlLockLoss ms) s = .next (if isBulk s1 then raiseModule evThlBulkDown [] s1 else s1)) ∧
      (ms < 250 ∨ s.thl.regs.link ≠ 2 → exec (.thlLockLoss ms) s = .next s)) ∧
    (∀ code troupe data, evAssigned code = true → Gives (.eventRaise (.raised code troupe data)) s (fun t =>
      (t.occ code).pend = true ∧ (t.occ code).count = inc16 (s.occ code).count ∧ (t.occ code).mask = (s.occ code).mask ∧
      (∀ d, d ≠ code → t.occ d = s.occ d) ∧ t.cores = s.cores ∧ t.mem = s.mem ∧ t.troupes = s.troupes)) ∧
    (∀ code troupe data, evAssigned code = false → exec (.eventRaise (.raised code troupe data)) s = .next s) ∧
    (∀ m key,
      (isLead s = false → exec (.eventRaise (.relayed m key)) s = .next s) ∧
      (isLead s = true → m.notice = true → exec (.eventRaise (.relayed m key)) s = .next (noticeAtLead m key s)) ∧
      (isLead s = true → m.notice = false → s.thl.regs.link = 2 → exec (.eventRaise (.relayed m key)) s = .next (postAtLead s m)) ∧
      (isLead s = true → m.notice = false → s.thl.regs.link ≠ 2 →
        exec (.eventRaise (.relayed m key)) s = .next { s with thl.msgWait := s.thl.msgWait ++ [m] })) ∧
    (∀ code o, mapFind s.thl.events code = some o →
      Gives (.pendClear code) s (fun t => t.occ code = { o with pend := false } ∧ (∀ d, d ≠ code → t.occ d = s.occ d) ∧ { t with thl.events := s.thl.events } = s) ∧
      Gives (.evtCntClr code) s (fun t => t.occ code = { o with count := 0 } ∧ (∀ d, d ≠ code → t.occ d = s.occ d) ∧ { t with thl.events := s.thl.events } = s ∧
        ((raiseEvent code 0xFF [] t).occ code).count = 1)) ∧
    (∀ code, mapFind s.thl.events code = none → exec (.pendClear code) s = .next s ∧ exec (.evtCntClr code) s = .next s) ∧
    (exec .thlEvtClr s = .next { s with thl.regs.evqDropCnt := 0, thl.regs.dbBadCnt := 0, thl.regs.regFailCnt := 0 }) ∧
    (∀ q, isLead s = true →
      (∀ n e, s.thl.buffers.find? (fun n => n.eq == q) = some n → evtQueue? s q = some e →
        (s.thl.regs.link = 2 → e.unread < 2 ^ e.log2n →
          exec (.noticeBufferDrain q) s = .next (enterBuffer q (writeEvent { s with thl.buffers := s.thl.buffers.erase n } q e n.msg))) ∧
        (s.thl.regs.link ≠ 2 ∨ 2 ^ e.log2n ≤ e.unread → exec (.noticeBufferDrain q) s = .next s)) ∧
      (s.thl.buffers.find? (fun n => n.eq == q) = none ∨ evtQueue? s q = none → exec (.noticeBufferDrain q) s = .next s)) ∧
    (∀ q, isLead s = false →
      (∀ n ns, leadLost s = false → s.thl.atModule = n :: ns →
        exec (.noticeBufferDrain q) s = .next (relayNotice n.msg n.key { s with thl.atModule := ns })) ∧
      (leadLost s = true ∨ s.thl.atModule = [] → exec (.noticeBufferDrain q) s = .next s)) ∧
    (∀ h opcode,
      let s1 := { s with thl.regs.hostFault := true }
      let load := s.wt.loads.find? (fun l => l.running && l.hdr == h)
      let job := s.ckpt.jobs.find? (fun e => e.2.bufs.any (fun b => b.hdr == h))
      (∀ l, load = some l → exec (.hostFault h opcode) s = .next (endLoad l stHostFault s1)) ∧
      (∀ e, load = none → job = some e → exec (.hostFault h opcode) s = .next (complete h opCkptBuf stHostFault
        (s1.modJob e.1 (fun y => { y with bufs := y.bufs.filter (fun b => b.hdr != h) })))) ∧
      (load = none → job = none → s.thl.fetched.any (fun f => f.hdr == h) = true → exec (.hostFault h opcode) s = .next (complete h opcode stHostFault s1)) ∧
      (load = none → job = none → s.thl.fetched.any (fun f => f.hdr == h) = false → exec (.hostFault h opcode) s = .next s1))

/-- R391 to R394, R397, R458: the lead admits a member whose join arrives, fails one that has not joined in 10 s, sends and receives heartbeats, fails a member whose
heartbeat is lost, with its event, orders a failed one that is back to stop, and readmits it on command; a follower sends the lead its heartbeat and marks a lost lead FAILED; a
change of a higher version is taken, and one that is not is discarded; a standalone module has none of this. -/
def Obligations.MembershipResults : Prop :=
  ∀ (n lmid serial : Nat) (s : State),
    let e := slotRow s n
    let mine := s.thl.ens.mySlot
    let lead := s.thl.ens.standalone = false ∧ mine = 0
    (s.alive = true →
      (slotOfLmid s lmid = some n → lead → e.state ≠ 3 →
        exec (.memberJoined lmid serial) s = .next (raiseModule evMemberJoined (memberData n lmid)
          (changeSlot n (if e.role == 2 then 4 else 2) false (putSlot n { e with serial := serial % 2 ^ 40, beatAt := s.cue } s)))) ∧
      (slotOfLmid s lmid = some n → ¬ lead ∨ e.state = 3 → exec (.memberJoined lmid serial) s = .next s) ∧
      (slotOfLmid s lmid = none → exec (.memberJoined lmid serial) s = .next s)) ∧
    (s.alive = true →
      (lead → e.state = 1 → s.thl.ens.castAt + 10000 * cyclesMs ≤ s.cue → exec (.joinTimeout n) s = .next (changeSlot n 3 false s)) ∧
      (¬ lead ∨ e.state ≠ 1 ∨ s.cue < s.thl.ens.castAt + 10000 * cyclesMs → exec (.joinTimeout n) s = .next s)) ∧
    (s.alive = true →
      (lead → exec .heartbeatSend s = .next (((s.thl.ens.table.filter (fun e => e.1 != 0 && e.2.state != 0)).map (·.2.lmid)).foldl
        (fun s d => sendFab { kind := "heartbeat", dest := d, vals := [mine] } s) s)) ∧
      (s.thl.ens.standalone = false → mine ≠ 0 → exec .heartbeatSend s = .next (sendFab { kind := "heartbeat", dest := (slotRow s 0).lmid, vals := [mine] } s)) ∧
      (s.thl.ens.standalone = true → exec .heartbeatSend s = .next s)) ∧
    (∀ stop, s.alive = true →
      let s1 := putSlot n { e with beatAt := s.cue } s
      (s.thl.ens.standalone = true ∨ e.state = 0 → exec (.heartbeatReceive n stop) s = .next s) ∧
      (lead → e.state = 3 → beatLost s n = true → exec (.heartbeatReceive n stop) s =
        .next (raiseModule evMemberBack (memberData n e.lmid) (sendFab { kind := "stop", dest := e.lmid } s1))) ∧
      (lead → e.state ≠ 0 → e.state ≠ 3 ∨ beatLost s n = false → exec (.heartbeatReceive n stop) s = .next s1) ∧
      (s.thl.ens.standalone = false → mine ≠ 0 → e.state ≠ 0 →
        exec (.heartbeatReceive n stop) s = .next (if stop && n == 0 then stopTroupes s1 else s1))) ∧
    (s.alive = true →
      let lost := s.thl.ens.standalone = false ∧ n ≠ mine ∧ (e.state = 2 ∨ e.state = 4) ∧ beatLost s n = true ∧ s.tab.graceTo ≤ s.cue
      (lost → mine = 0 → exec (.memberFailed n) s = .next (raiseModule evMemberFailed (memberData n e.lmid) (changeSlot n 3 false s))) ∧
      (lost → mine ≠ 0 → n = 0 → exec (.memberFailed n) s = .next (changeSlot n 3 false s)) ∧
      (¬ lost ∨ (mine ≠ 0 ∧ n ≠ 0) → exec (.memberFailed n) s = .next s)) ∧
    (∀ m, s.alive = true →
      (slotOfLmid s m.lmid = some n → e.version < m.version → exec (.membershipChange m) s = .next (afterChange (subChange m
        (putSlot n { e with state := m.state, version := m.version, serial := m.serial, beatAt := s.cue } s)))) ∧
      (slotOfLmid s m.lmid = some n → m.version ≤ e.version → exec (.membershipChange m) s = .next s) ∧
      (slotOfLmid s m.lmid = none →
        let s1 := afterChange (subChange m { s with thl.ens.others := mapPut s.thl.ens.others m.lmid (m.state, m.version) })
        (m.version ≤ (mapGet (0, 0) s.thl.ens.others m.lmid).2 → exec (.membershipChange m) s = .next s) ∧
        ((mapGet (0, 0) s.thl.ens.others m.lmid).2 < m.version → s1.thl.ens.standalone = true ∨ s1.thl.ens.mySlot ≠ 0 →
          exec (.membershipChange m) s = .next s1) ∧
        ((mapGet (0, 0) s.thl.ens.others m.lmid).2 < m.version → s1.thl.ens.standalone = false → s1.thl.ens.mySlot = 0 →
          exec (.membershipChange m) s = .next (((s1.thl.ens.table.filter (fun e => e.1 != 0 && e.2.state != 0)).map (·.2.lmid)).foldl
            (fun s d => sendFab (memberMsg m d) s) s1)))) ∧
    (∀ h : CmdHdr, accepted s h opEnsReadmit = true →
      (slotOfLmid s lmid = some n → lead → e.state = 3 → beatLost s n = false →
        exec (.ensReadmit h lmid) s = .next (complete h opEnsReadmit stOk (changeSlot n 2 false s))) ∧
      (slotOfLmid s lmid = some n → ¬ lead ∨ e.state ≠ 3 ∨ beatLost s n = true →
        exec (.ensReadmit h lmid) s = .next (complete h opEnsReadmit stReadmitState s)) ∧
      (slotOfLmid s lmid = none → exec (.ensReadmit h lmid) s = .next (complete h opEnsReadmit stReadmitState s)))

/-- R8, R9, R398, R454, R462: an access that is not aligned to 8 is recorded with its offset and kind, a rejected read returns all ones, and nothing else changes; the
counter of such accesses clears on its own; an aligned write reaches the register at its offset; an access through BAR2 to the module's own slot is served
directly, one to a PRESENT follower goes on and answers what that returns, and one to a slot that is not PRESENT, or a read that gets no answer, is counted, and read as all ones. -/
def Obligations.RegisterAccessResults : Prop :=
  ∀ (off v n : Nat) (s : State), s.alive = true →
    let mine := s.thl.ens.mySlot
    let fails := { s with thl.regs.regFail := true, thl.regs.regFailCnt := inc16 s.thl.regs.regFailCnt }
    let reads := fun (answer : Option Nat) (a : Nat) (t : State) =>
      exec (.registerAccessRelay n off none answer) s = .next { t with out.reads := a :: t.out.reads }
    (exec (.rejectedAccess off true) s =
      .next { s with accErr := { cnt := inc16 s.accErr.cnt, offset := off % 2 ^ 40 / 8 * 8, kind := true, err := true } }) ∧
    Gives (.rejectedAccess off false) s (fun t => t.accErr = { cnt := inc16 s.accErr.cnt, offset := off % 2 ^ 40 / 8 * 8, kind := false, err := true } ∧
      t.out.reads = 0xFFFFFFFFFFFFFFFF :: s.out.reads ∧ t.cores = s.cores ∧ t.thl = s.thl) ∧
    (exec .accErrClr s = .next { s with accErr.cnt := 0 }) ∧
    (off % 8 = 0 → isTabReg off = false → exec (.registerWrite off v) s = .next (regPut off v s)) ∧
    (off % 8 = 0 → isTabReg off = true → exec (.registerWrite off v) s = .next (writeTab (off % 0x10000) v s)) ∧
    (off % 8 ≠ 0 → exec (.registerWrite off v) s = exec (.rejectedAccess off true) s) ∧
    (n = mine →
      (off % 8 = 0 → (∀ a, reads a (regRead s off) s ∧ exec (.registerAccessRelay n off (some v) a) s = exec (.registerWrite off v) s)) ∧
      (off % 8 ≠ 0 → (∀ a, exec (.registerAccessRelay n off (some v) a) s = exec (.rejectedAccess off true) s) ∧
        (∀ a, exec (.registerAccessRelay n off none a) s = exec (.rejectedAccess off false) s))) ∧
    (n ≠ mine → isLead s = true → (slotRow s n).state ≠ 2 →
      ∀ a, reads a 0xFFFFFFFFFFFFFFFF fails ∧ exec (.registerAccessRelay n off (some v) a) s = .next fails) ∧
    (n ≠ mine → isLead s = true → (slotRow s n).state = 2 →
      (∀ a, exec (.registerAccessRelay n off (some v) a) s =
        .next (sendFab { kind := "reg_write", dest := (slotRow s n).lmid, vals := [off, v] } s)) ∧
      (∀ a, reads (some a) a s) ∧ reads none 0xFFFFFFFFFFFFFFFF fails) ∧
    (∀ w a, n ≠ mine → isLead s = false → exec (.registerAccessRelay n off w a) s = .next s)

/-! ### Boot, casting, firmware, resets -/

/-- R411, R413, R417, R431, R454, R472, R473: with the rails up and a reference, the release of hub reset runs the ROM's steps, and without one the boot waits for it; the hub firmware that
the ROM accepted runs steps 3 and 4; a round of the broadcast that leaves cores lacking a chunk is followed by another, three at most, and the last one starts the cores; with memory
zeroed the boot casting takes effect, and without an acceptable one the module is UNCAST; a watchdog, an ECC error and the reset pin reset the module. -/
def Obligations.BootResults : Prop :=
  ∀ s : State,
    (s.boot = .reset → s.hw.phase = .good ∨ s.hw.phase = .up →
      (s.hw.refOk = true → exec .hubResetRelease s = .next (romStep (startClocks { s with boot := .rom, hw.phase := .up, hw.retryOf := none }))) ∧
      (s.hw.refOk = false → exec .hubResetRelease s = .next { s with boot := .rom, hw.phase := .up, hw.retryOf := none, pwr.waitRef := true })) ∧
    (s.boot ≠ .reset ∨ (s.hw.phase ≠ .good ∧ s.hw.phase ≠ .up) → exec .hubResetRelease s = .next s) ∧
    (s.hw.cable = true →
      (s.boot = .rom → s.pwr.waitRef = true → exec .refclkQualify s = .next (romStep (startClocks { s with hw.refOk := true }))) ∧
      (s.boot ≠ .rom ∨ s.pwr.waitRef = false → exec .refclkQualify s = .next { s with hw.refOk := true })) ∧
    (s.hw.cable = false → exec .refclkQualify s = .next s) ∧
    (∀ ok, s.alive = true →
      (s.boot = .rom → s.bt.force.hub.isSome = true →
        exec (.hubFirmwareStart ok) s = .next (hubFirmware ok { s with boot := .hubfw, bt.regs.romUs := (s.cue - s.bt.released) / cyclesUs % 2 ^ 32 })) ∧
      (s.boot ≠ .rom ∨ s.bt.force.hub.isSome = false → exec (.hubFirmwareStart ok) s = .next s)) ∧
    (∀ missing silent bad, s.alive = true →
      let x := s.bt.bcast
      let lack := (if x.round == 0 then x.cores else x.missing).filter (fun c => missing.contains c || silent.contains c)
      let s1 := { startCores lack (silent.filter (lack.contains ·)) bad s with bt.bcast := {}, bt.bcastDone := true }
      (x.on = false → exec (.coreFwBroadcastRound missing silent bad) s = .next s) ∧
      (x.on = true → lack ≠ [] → x.round < 3 →
        exec (.coreFwBroadcastRound missing silent bad) s = .next { s with bt.bcast.round := x.round + 1, bt.bcast.missing := lack }) ∧
      (∀ h cl, x.on = true → lack = [] ∨ 3 ≤ x.round → x.hdr = some h → x.cluster = some cl →
        exec (.coreFwBroadcastRound missing silent bad) s = .next (settleResets (clusterBack h cl s1))) ∧
      (x.on = true → lack = [] ∨ 3 ≤ x.round → x.hdr = none ∨ x.cluster = none →
        exec (.coreFwBroadcastRound missing silent bad) s = .next (settleResets s1))) ∧
    (s.alive = true →
      let now := s.boot = .hubfw ∧ s.bt.bcastDone = true ∧ s.mem.zeroed = true
      (now → bootImage s = none → exec .bootCastingApply s = .next (bootEnded { s with boot := .uncast })) ∧
      (∀ img b fb, now → bootImage s = some (img, b, fb) → exec .bootCastingApply s =
        .next (bootEnded (startCast none img { s with bt.regs.castFallback := fb, bt.regs.banks := setBitTo s.bt.regs.banks 4 b }))) ∧
      (¬ now → exec .bootCastingApply s = .next s)) ∧
    (s.alive = true → exec .hubWatchdog s = .next (moduleReset 3 true s) ∧ exec .hubEcc s = .next (moduleReset 4 true s)) ∧
    (s.hw.cable = true → s.boot ≠ .reset → exec .resetPin s = .next (moduleReset 1 false s)) ∧
    (s.hw.cable = false ∨ s.boot = .reset → exec .resetPin s = .next s)

/-- R432, R421, R431: after a module reset the hub is held in reset with everything volatile gone; flash but its reset block, the replay-protected counters, the input
controller and the commands that still wait to reach the module stay; with KEEP_SPARE = 0 no checkpoint is kept. A RESET of level 0 to 3 resets a core, a cluster, a troupe or the module,
unless a troupe is in a state that refuses it; a core that no present troupe holds is retired, and its cluster matched again. What names nothing that there is completes with CMD_INVALID. -/
def Obligations.ModuleResetLeavesTheNonvolatile : Prop :=
  ∀ (h : CmdHdr) (s : State),
    (∀ cause keep,
      let t := moduleReset cause keep s
      t.boot = .reset ∧ t.alive = false ∧ t.cores = [] ∧ t.troupes = [] ∧ t.sems = [] ∧ t.cast = none ∧ t.cue = 0 ∧ t.bt.sessions = [] ∧
      { t.bt.flash with resetBlk := s.bt.flash.resetBlk } = s.bt.flash ∧ t.bt.counters = s.bt.counters ∧ t.hw = s.hw ∧ t.pending = s.pending ∧
      t.bt.regs.lastReset = cause ∧ t.bt.regs.spareKept = keep ∧ (keep = false → t.ckpt.jobs = [])) ∧
    (accepted s h opReset = true → ∀ level target keep,
      (level = 0 → coreNamed s target = none → exec (.reset h level target keep) s = .next (complete h opReset stCmdInvalid s)) ∧
      (∀ c, level = 0 → coreNamed s target = some c → inStates s (s.core c).regs.troupe [.saving, .restoring, .teardown] = true →
        exec (.reset h level target keep) s = .next (complete h opReset stResetState s)) ∧
      (∀ c, level = 0 → coreNamed s target = some c → inStates s (s.core c).regs.troupe [.saving, .restoring, .teardown] = false →
        let s1 := s.modRegs c (fun (r : CoreRegs) => { r with state := .reset, wait := .none, stopping := false, kept := none })
        exec (.reset h level target keep) s = .next (settleResets
          { s1 with takers := s1.takers.filter (fun d => d != c), bt.resets := s1.bt.resets ++ [{ hdr := h, cores := [c] }] })) ∧
      (level = 1 → 16 ≤ target ∨ bitOf s.record.clusterMask target = false →
        exec (.reset h level target keep) s = .next (complete h opReset stCmdInvalid s)) ∧
      (level = 1 → target < 16 → bitOf s.record.clusterMask target = true → clusterBusy s target = true →
        exec (.reset h level target keep) s = .next (complete h opReset stResetState s)) ∧
      (level = 1 → target < 16 → bitOf s.record.clusterMask target = true → clusterBusy s target = false →
        exec (.reset h level target keep) s = .next (resetCluster h target s)) ∧
      (level = 2 → 64 ≤ target ∨ s.hasTroupe target = false → exec (.reset h level target keep) s = .next (complete h opReset stCmdInvalid s)) ∧
      (level = 2 → target < 64 → s.hasTroupe target = true → exec (.reset h level target keep) s =
        .next (settleTears target (s.modTroupe target (fun (x : Troupe) => { x with tears := x.tears ++ [(h, opReset, stResetDone)] })))) ∧
      (level = 3 → Gives (.reset h level target keep) s (fun t => t.boot = .reset ∧ t.cores = [] ∧ t.troupes = [] ∧ t.bt.counters = s.bt.counters ∧
        t.bt.regs.lastReset = 2 ∧ t.bt.regs.spareKept = keep)) ∧
      (3 < level → exec (.reset h level target keep) s = .next (complete h opReset stCmdInvalid s))) ∧
    (∀ l, accepted s h opCoreRetire = true →
      (coreNamed s l = none → exec (.coreRetire h l) s = .next (complete h opCoreRetire stCmdInvalid s)) ∧
      (∀ c, coreNamed s l = some c →
        let held := inStates s (s.core c).regs.troupe [.resident, .waitPort, .saving, .restoring, .teardown]
        let s1 := failCore 5 s c
        (held = true → exec (.coreRetire h l) s = .next (complete h opCoreRetire stSwitchState s)) ∧
        (held = false → s.cast = none → exec (.coreRetire h l) s = .next (complete h opCoreRetire stRetired s1)) ∧
        (∀ img p, held = false → s.cast = some img → img.cores.find? (fun (p : ClusterPlan) => (clusterCores p.cluster).contains c) = some p →
          exec (.coreRetire h l) s = .next (complete h opCoreRetire stRetired (withholdTroupes img (matchCluster s1 p)))) ∧
        (∀ img, held = false → s.cast = some img → img.cores.find? (fun (p : ClusterPlan) => (clusterCores p.cluster).contains c) = none →
          exec (.coreRetire h l) s = .next (complete h opCoreRetire stRetired s1))))

/-- R292, R293, R404, R406 to R408, R425 to R430, R433: an acceptable casting image starts to take effect, another completes with its code; an image that is accepted is stored in the slot that is not
selected, which is then selected; firmware and bundles are staged in the bank not selected and banks are selected; an owner record is installed, and another owner's erases the
casting slots; the records in force are given; RPF_COMMIT raises the counters; a report and a session are given under an identity, and refused without one; a long-reach key comes
wrapped under a session that its tenant may use, counts once, and is taken where its tag authenticates. What is refused, and a flash or device that fails, completes with its code. -/
def Obligations.CastingAndFirmwareResults : Prop :=
  ∀ (h : CmdHdr) (len : Nat) (s : State),
    (∀ img agree, accepted s h opCastApply = true →
      (judgeCast img len agree s = stOk → exec (.castApply h len img agree) s = .next (startCast (some h) img s)) ∧
      (judgeCast img len agree s ≠ stOk → exec (.castApply h len img agree) s = .next (complete h opCastApply (judgeCast img len agree s) s))) ∧
    (∀ img ok, accepted s h opCastStore = true →
      let st := judgeObject img (min len 0x1000000) s
      let b := s.bt.flash.cast
      (st ≠ stOk → exec (.castStore h len img ok) s = .next (complete h opCastStore st s)) ∧
      (st = stOk → ok = true → Gives (.castStore h len img ok) s (fun t => t.bt.flash.cast.sel = !b.sel ∧
        t.bt.flash.cast.at (!b.sel) = some img ∧ t.bt.flash.cast.at b.sel = b.at b.sel ∧ t.cast = s.cast ∧ t.troupes = s.troupes)) ∧
      (st = stOk → ok = false → Gives (.castStore h len img ok) s (fun t => t.bt.flash.cast.sel = b.sel ∧ t.bt.flash.cast.at b.sel = b.at b.sel ∧
        t.cast = s.cast ∧ t.troupes = s.troupes))) ∧
    (∀ type x ok, accepted s h opFwStage = true →
      let st := judgeStaged s type len x
      (s.boot = .recovery → type ≠ 1 → exec (.fwStage h type len x ok) s = .next (complete h opFwStage stBootState s)) ∧
      (s.boot ≠ .recovery → type = 0 ∨ 4 < type → exec (.fwStage h type len x ok) s = .next (complete h opFwStage stCmdInvalid s)) ∧
      (s.boot ≠ .recovery ∨ type = 1 → 1 ≤ type → type ≤ 4 →
        (st ≠ stOk → exec (.fwStage h type len x ok) s = .next (complete h opFwStage st s)) ∧
        (st = stOk → ok = true → exec (.fwStage h type len x ok) s = .next (complete h opFwStage stFwStaged (stageObject type true x s))) ∧
        (st = stOk → ok = false → exec (.fwStage h type len x ok) s = .next (complete h opFwStage stFlashFail (stageObject type false x s))))) ∧
    (∀ a b c d, accepted s h opFwSelect = true → exec (.fwSelect h a b c d) s = .next (complete h opFwSelect stFwSelected
      { s with bt.flash.hub.sel := a, bt.flash.core.sel := b, bt.flash.link.sel := c, bt.flash.bundle.sel := d })) ∧
    (∀ addr, accepted s h opRecGet = true → exec (.recGet h addr) s = .next (complete h opRecGet stRecDone
      { s with out.records := (addr, s.bt.force.modRec, s.bt.force.owner, s.bt.force.bundle) :: s.out.records })) ∧
    (∀ x ok, accepted s h opOwnInstall = true →
      let st := judgeOwner s (min len 0x10000) x
      (st ≠ stOk → exec (.ownInstall h len x ok) s = .next (complete h opOwnInstall st s)) ∧
      (st = stOk → ok = true → Gives (.ownInstall h len x ok) s (fun t => t.bt.flash.owner = some x ∧
        (s.bt.force.owner.map (·.owner) ≠ some x.owner → t.bt.flash.cast.a = none ∧ t.bt.flash.cast.b = none) ∧
        (s.bt.force.owner.map (·.owner) = some x.owner → t.bt.flash.cast = s.bt.flash.cast) ∧ t.bt.flash.modRec = s.bt.flash.modRec)) ∧
      (st = stOk → ok = false → Gives (.ownInstall h len x ok) s (fun t => t.bt.flash.cast = s.bt.flash.cast ∧ t.bt.flash.modRec = s.bt.flash.modRec ∧
        (t.bt.flash.owner = s.bt.flash.owner ∨ t.bt.flash.owner = some x ∨ t.bt.flash.owner = none)))) ∧
    (accepted s h opRpfCommit = true →
      exec (.rpfCommit h true) s = .next (complete h opRpfCommit stRpfDone { s with bt.counters := committed s, bt.regs.rpf := committed s }) ∧
      exec (.rpfCommit h false) s = .next (complete h opRpfCommit stRpfFail s)) ∧
    (∀ nonce addr, accepted s h opAttReport = true →
      (s.bt.regs.pufOk = true → Gives (.attReport h nonce addr) s (fun t =>
        ∃ sig, sig.length = 3309 ∧ t.out.hostWrites = (addr, attReport nonce s ++ sig) :: s.out.hostWrites ∧ t.bt = s.bt)) ∧
      (s.bt.regs.pufOk = false → exec (.attReport h nonce addr) s = .next (complete h opAttReport stPufFail s))) ∧
    (∀ n tenant shared, accepted s h opKeySession = true →
      let inRange := n ≤ 63 ∧ (tenant ≤ 63 ∨ tenant = 0xFF)
      (s.bt.regs.pufOk = false → exec (.keySession h n tenant shared) s = .next (complete h opKeySession stPufFail s)) ∧
      (s.bt.regs.pufOk = true → ¬ inRange → exec (.keySession h n tenant shared) s = .next (complete h opKeySession stCmdInvalid s)) ∧
      (s.bt.regs.pufOk = true → inRange → exec (.keySession h n tenant shared) s = .next (complete h opKeySession stKeyDone
        { s with bt.sessions := mapPut s.bt.sessions n { tenant := tenant, key := sessionKey s n shared, counter := 0 } }))) ∧
    (∀ p ltag slot activate w, accepted s h opLrKey = true →
      let right := p < 18 ∧ (s.port p).cfg.role = 3 ∧ slot ≤ 1 ∧ w.purpose = 1 ∧ ltag ≠ 0xFFF
      let run := exec (.lrKey h p ltag slot activate w) s
      let k := mapGet { tenant := 0xFF } s.bt.sessions w.session
      (¬ right ∨ (s.port p).tagEnt ltag = none → run = .next (complete h opLrKey stCmdInvalid s)) ∧
      (∀ e, right → (s.port p).tagEnt ltag = some e →
        (sessionBars s w.session (tagTenant s e) = true → run = .next (complete h opLrKey stKeySession s)) ∧
        (sessionBars s w.session (tagTenant s e) = false → w.counter ≤ k.counter → run = .next (complete h opLrKey stKeyReplay s)) ∧
        (sessionBars s w.session (tagTenant s e) = false → k.counter < w.counter →
          unwrapSecret k.key (wrapAad s.record.serial p ltag slot w) w = none → run = .next (complete h opLrKey stKeyUnwrap s)) ∧
        (∀ key, sessionBars s w.session (tagTenant s e) = false → k.counter < w.counter →
          unwrapSecret k.key (wrapAad s.record.serial p ltag slot w) w = some key →
          let s1 := ({ s with bt.sessions := mapPut s.bt.sessions w.session { k with counter := w.counter } } : State).modPort p (fun x =>
            { x with
              keys := mapPut x.keys (2 * ltag + slot) key, barred := x.barred.filter (fun b => b != 0x1000 + ltag)
              authFails := mapDel x.authFails ltag, active := (if activate then mapPut x.active ltag slot else x.active) })
          run = .next (complete h opLrKey stOk (pump
            (if tagBarred (s.port p) ltag then sendLink p 2 "tag_accepted" 0 0 [ltag] s1 else s1))))))

/-! ### Power, clocks, temperature, the Tableau -/

/-- R436 to R442, R448, R475: a qualified input starts the rails in their sequence; each rail's power-good counts once, and the last one of a step starts the next;
a lost or reversed input, an overvoltage, a trip and a short shut the module down with a log entry, and what is volatile is gone; after a short the rails start again once, and a short of
the same rail then stops the module; the warnings of the input and the regulators raise their events, each crossing once; a measurement is shown, and power above CAP_W over 10 ms caps;
a plug-in's power is read. -/
def Obligations.PowerResults : Prop :=
  ∀ (r : Nat) (s : State),
    (s.hw.phase = .off → Gives .inputQualify s (fun t => t.hw.phase = .rising ∧ t.hw.seqStep = 1 ∧ t.hw.present = true ∧ t.hw.ups = s.hw.ups + 1 ∧ t.hw.log = s.hw.log ∧
      t.bt = s.bt ∧ t.cores = s.cores)) ∧
    (s.hw.phase ≠ .off → exec .inputQualify s = .next s) ∧
    (let counts := s.hw.phase = .rising ∧ railStep r = s.hw.seqStep ∧ railStep r ≠ 0 ∧ r ∉ s.hw.railsOn
      let last := stepGood (s.hw.railsOn ++ [r]) s.hw.seqStep;
      (counts → last = false → exec (.railPowerGood r) s = .next { s with hw.railsOn := s.hw.railsOn ++ [r] }) ∧
      (counts → last = true → s.hw.seqStep = 7 →
        exec (.railPowerGood r) s = .next { s with hw.railsOn := s.hw.railsOn ++ [r], hw.phase := .good, hw.seqStep := 0 }) ∧
      (counts → last = true → s.hw.seqStep ≠ 7 →
        exec (.railPowerGood r) s = .next { s with hw.railsOn := s.hw.railsOn ++ [r], hw.seqStep := s.hw.seqStep + 1 }) ∧
      (¬ counts → exec (.railPowerGood r) s = .next s)) ∧
    (let gone := fun (code num : Nat) (next : PwrPhase) (t : State) => t.hw.phase = next ∧
        (s.hw.log.length < 16 → t.hw.log = s.hw.log ++ [{ code := code, num := num, ups := s.hw.ups }]) ∧
        (16 ≤ s.hw.log.length → t.hw.log = s.hw.log.drop 1 ++ [{ code := code, num := num, ups := s.hw.ups }] ∧ t.hw.logOvf = true) ∧
        t.boot = .reset ∧ t.cores = [] ∧ t.troupes = [] ∧ t.mem.bytes = [] ∧ t.bt.counters = s.bt.counters ∧ t.bt.flash.owner = s.bt.flash.owner;
      (railsUp s = true →
        (∀ removed, Gives (.inputLost removed) s (fun t => gone evInputLost 0 .off t ∧ t.hw.present = (!removed && s.hw.present))) ∧
        Gives .inputReversed s (fun t => gone evInputReversed 0 .off t ∧ t.hw.present = false) ∧
        (∀ die, Gives (.thermTrip die) s (fun t => gone evThermTrip die .faultStop t ∧ t.hw.stopAt = some (evThermTrip, die)))) ∧
      (s.hw.phase ≠ .off → s.hw.phase ≠ .faultStop → Gives .inputOvervoltageTrip s (gone evInputOv 0 .off)) ∧
      (railLive s r = true → s.hw.phase = .up ∨ s.hw.retryOf ≠ some r →
        Gives (.railShort r) s (fun t => gone evRailShort r .shortWait t ∧ t.hw.retryOf = some r)) ∧
      (railLive s r = true → s.hw.phase ≠ .up → s.hw.retryOf = some r →
        Gives (.railShort r) s (fun t => gone evRailShort r .faultStop t ∧ t.hw.stopAt = some (evRailShort, r)))) ∧
    (railsUp s = false →
      (∀ die, exec (.thermTrip die) s = .next s) ∧
      (s.hw.phase = .faultStop → exec (.inputLost false) s = .next s) ∧
      (∀ removed, s.hw.phase ≠ .faultStop ∨ removed = true → Gives (.inputLost removed) s (fun t =>
        t.hw.phase = .off ∧ t.hw.stopAt = none ∧ t.hw.present = (!removed && s.hw.present) ∧ t.hw.log = s.hw.log ∧ t.boot = s.boot)) ∧
      Gives .inputReversed s (fun t => t.hw.phase = .off ∧ t.hw.present = false ∧ t.hw.log = (logFault evInputReversed 0 s).hw.log ∧ t.boot = s.boot)) ∧
    (s.hw.phase = .off → exec .inputOvervoltageTrip s = .next s) ∧
    (s.hw.phase = .faultStop → exec .inputOvervoltageTrip s = .next (logFault evInputOv 0 s)) ∧
    (s.hw.phase = .shortWait → exec .railRestartTimer s = .next (powerUp s.hw.retryOf s)) ∧
    (s.hw.phase ≠ .shortWait → exec .railRestartTimer s = .next s) ∧
    (railLive s r = true →
      (s.alive = true → exec (.railOcWarn r) s = .next (warnEvent evRailOcWarn (leBytes 1 r) { s with pwr.ocWarn := true }) ∧
        exec (.regHot r) s = .next (warnEvent evRegHot (leBytes 1 r) { s with pwr.regHot := true })) ∧
      (s.hw.onLocal.contains r = false → s.alive = true → exec (.senseOpen r) s =
        .next (warnEvent evSenseOpen (leBytes 1 r) { s with hw.onLocal := r :: s.hw.onLocal, pwr.senseOpen := true })) ∧
      (s.hw.onLocal.contains r = false → s.alive = false → exec (.senseOpen r) s =
        .next (logFault evSenseOpen r { s with hw.onLocal := r :: s.hw.onLocal })) ∧
      (s.hw.onLocal.contains r = true → exec (.senseOpen r) s = .next s)) ∧
    (railLive s r = false → exec (.railShort r) s = .next s ∧ exec (.railOcWarn r) s = .next s ∧ exec (.regHot r) s = .next s ∧
      exec (.senseOpen r) s = .next s) ∧
    (s.alive = true →
      (s.hw.uvArmed = true → exec .inputUv s = .next (warnEvent evInputUv [] { s with hw.uvArmed := false, pwr.inputUv := true })) ∧
      (s.hw.ovArmed = true → exec .inputOv s = .next (warnEvent evInputOv [] { s with hw.ovArmed := false, pwr.inputOv := true })) ∧
      (s.hw.uvArmed = false → exec .inputUv s = .next s) ∧ (s.hw.ovArmed = false → exec .inputOv s = .next s)) ∧
    (∀ vin iin pin, s.hw.present = true → vin < 65536 → iin < 65536 → pin < 65536 →
      let pins := (pin :: s.hw.pins).take 10
      let caps := decide (s.pwr.capW * pins.length < pins.sum)
      Gives (.powerMeasure vin iin pin) s (fun t =>
        t.hw.vin = vin ∧ t.hw.iin = iin ∧ t.hw.pin = pin ∧ t.hw.pins = pins ∧ t.hw.uvArmed = (s.hw.uvArmed || decide (5100 ≤ vin)) ∧
        t.hw.ovArmed = (s.hw.ovArmed || decide (vin ≤ 6500)) ∧ t.cores = s.cores ∧
        (s.alive = false → t.pwr = s.pwr) ∧
        (s.alive = true → t.pwr.vin = vin ∧ t.pwr.iin = iin ∧ t.pwr.pin = pin ∧ t.pwr.capping = caps ∧
          (caps = true → s.pwr.capping = false → t.pwr.powerCap = true ∧ t.pwr.capCnt = inc16 s.pwr.capCnt ∧ (t.occ evPowerCap).pend = true) ∧
          (caps = false ∨ s.pwr.capping = true → t.pwr.capCnt = s.pwr.capCnt ∧ t.thl = s.thl)))) ∧
    (∀ vin iin pin, s.hw.present = false → exec (.powerMeasure vin iin pin) s = .next s) ∧
    (s.alive = true → exec .pwrEvtClr s = .next { s with pwr.warnCnt := 0, pwr.capCnt := 0 }) ∧
    (∀ p w, (p < 18 → exec (.pluginInsert p w) s = .next { s with hw.plugs := mapPut s.hw.plugs p w }) ∧
      (18 ≤ p → exec (.pluginInsert p w) s = .next s))

/-- R435, R443 to R450, R472 to R474: a running module that loses its reference enters holdover with its event, and leaves it when the reference returns; a lost lock shuts
it down, with a restart after 100 ms; the cable gates the reference and the SMBus, whose readings give what the input controller holds, and whose RESTART ends a fault
stop; a thermal sample moves each tile's term by its dies' margins and the power term by capping, and the first throttling raises its event; a crossing of the coolant raises its event
once; the link is absent while THL_PRSNT# is high. -/
def Obligations.ClockAndThermalResults : Prop :=
  ∀ s : State,
    (let running := s.hw.refOk && s.alive && s.pwr.locked;
      (running = true → exec .clkRefLost s = .next (raiseModule evClkRefLost [] { s with hw.refOk := false, pwr.holdover := true, pwr.refLost := true })) ∧
      (running = false → exec .clkRefLost s = .next { s with hw.refOk := false }) ∧
      (running = true → exec (.cableDetect false) s =
        .next (raiseModule evClkRefLost [] { s with hw.cable := false, hw.refOk := false, pwr.holdover := true, pwr.refLost := true })) ∧
      (running = false → exec (.cableDetect false) s = .next { s with hw.cable := false, hw.refOk := false })) ∧
    (exec (.cableDetect true) s = .next { s with hw.cable := true }) ∧
    (s.hw.cable = true → s.pwr.locked = true → exec .referenceReturn s = .next { s with hw.refOk := true, pwr.holdover := false }) ∧
    (s.hw.cable = false ∨ s.pwr.locked = false → exec .referenceReturn s = .next s) ∧
    (s.pwr.locked = true → s.hw.refOk = true → exec .clkFail s = .next (powerFail .clkWait (logFault evClkFail 0 s))) ∧
    (s.pwr.locked = false ∨ s.hw.refOk = false → exec .clkFail s = .next s) ∧
    (s.hw.phase = .clkWait → exec .clkFailRestartTimer s = .next (powerUp none s)) ∧
    (s.hw.phase ≠ .clkWait → exec .clkFailRestartTimer s = .next s) ∧
    (∀ sample inlet outlet, s.alive = true → inlet < 256 → outlet < 256 → Gives (.thermalSample sample inlet outlet) s (fun t =>
      t.pwr.inlet = inlet ∧ t.pwr.outlet = outlet ∧
      (∀ die m, leastMargin sample = some (die, m) → t.pwr.hottest = die ∧ t.pwr.margin = m) ∧
      (leastMargin sample = none → t.pwr.hottest = s.pwr.hottest ∧ t.pwr.margin = s.pwr.margin) ∧
      (∀ n, n < 4 → mapGet 0 t.pwr.terms n = nextTerm sample n (mapGet 0 s.pwr.terms n)) ∧
      t.pwr.power = (if s.pwr.capping then min 12 (s.pwr.power + 1) else s.pwr.power - 1) ∧
      ((∀ n, n < 4 → mapGet 0 s.pwr.terms n = 0) → (∃ n, n < 4 ∧ mapGet 0 t.pwr.terms n ≠ 0) →
        t.pwr.throttle = true ∧ t.pwr.throtCnt = inc16 s.pwr.throtCnt ∧ (t.occ evThermThrottle).pend = true) ∧
      ((∃ n, n < 4 ∧ mapGet 0 s.pwr.terms n ≠ 0) ∨ (∀ n, n < 4 → mapGet 0 t.pwr.terms n = 0) → t.thl = s.thl ∧ t.pwr.throtCnt = s.pwr.throtCnt) ∧
      t.cores = s.cores ∧ t.mem = s.mem)) ∧
    (s.alive = true →
      (s.hw.hotArmed = true → exec .coolantHot s = .next (raiseModule evCoolantHot [] { s with hw.hotArmed := false, pwr.hotEv := true })) ∧
      (s.hw.hotArmed = false → exec .coolantHot s = .next s) ∧
      (s.hw.flowArmed = true → exec .coolantFlow s = .next (raiseModule evCoolantFlow [] { s with hw.flowArmed := false, pwr.flowEv := true })) ∧
      (s.hw.flowArmed = false → exec .coolantFlow s = .next s) ∧
      exec .thermClr s = .next { s with pwr.throtCnt := 0 }) ∧
    (s.hw.present = true → s.hw.cable = true →
      (let stop := match s.hw.stopAt with
        | some (c, n) => [1, c, n]
        | none => [0, 0, 0]
      exec .smbReadStatus s = .next { s with out.reads := [s.hw.vin, s.hw.iin, s.hw.pin, s.hw.phase.code] ++ stop ++ s.out.reads }) ∧
      exec .smbReadLog s = .next { s with out.reads := s.hw.log.flatMap (fun e => [e.code, e.num, e.ups]) ++ [b2n s.hw.logOvf] ++ s.out.reads } ∧
      (s.hw.phase = .faultStop → exec .smbRestart s = .next (powerUp none s)) ∧
      (s.hw.phase ≠ .faultStop → exec .smbRestart s = .next s)) ∧
    (s.hw.cable = false ∨ s.hw.present = false → exec .smbReadStatus s = .next s ∧ exec .smbReadLog s = .next s ∧ exec .smbRestart s = .next s) ∧
    (exec (.thlPresent false) s = .next { s with thl.regs.prsnt := false, thl.regs.link := 0, thl.regs.width := 0 }) ∧
    (let trains := s.thl.regs.link == 0 && s.alive && linksRun s;
      (trains = true → exec (.thlPresent true) s = .next { s with thl.regs.prsnt := true, thl.regs.link := 1 }) ∧
      (trains = false → exec (.thlPresent true) s = .next { s with thl.regs.prsnt := true }))

/-- R451 to R459, R472: a freeze source is taken in HUBFW, STOPPED, UNCAST and READY and begins a freeze 64 counts on, with ARM cleared; in any other boot state or while
the module freezes or is frozen it only counts; at T_F the clocks stop, with a marker on every port in UP; a frozen module is read out without a change of its cores, memory or troupes, and
resumes by command, by an IEEE 1149.1 instruction or by a wake signal, which during a read-out waits for its end; a write that finds it not frozen or in a read-out sets BAD; the dividers
restart, and the ports that were in UP retrain. -/
def Obligations.TableauResults : Prop :=
  ∀ s : State,
    (let accepts := s.tab.state = .running ∧ (s.boot = .hubfw ∨ s.boot = .stopped ∨ s.boot = .uncast ∨ s.boot = .ready)
      ∀ src, (accepts → freezeTrigger src s = { s with tab.state := .freezing, tab.src := src, tab.tF := s.cue + 64, tab.arm := false }) ∧
        (¬ accepts → freezeTrigger src s = { s with tab.ignCnt := inc16 s.tab.ignCnt })) ∧
    (s.hw.cable = true → s.boot ≠ .reset → exec .freezePin s = .next (freezeTrigger 1 s)) ∧
    (s.hw.cable = false ∨ s.boot = .reset → exec .freezePin s = .next s) ∧
    (s.alive = true →
      exec .freeze s = .next (freezeTrigger 2 s) ∧
      (let due := s.tab.arm && s.tab.enCue && s.cue == s.tab.cueAt;
        (due = true → exec .freezeCueTrigger s = .next (freezeTrigger 4 s)) ∧ (due = false → exec .freezeCueTrigger s = .next s)) ∧
      exec .tabIgnClr s = .next { s with tab.ignCnt := 0 }) ∧
    (∀ p, ((s.port p).st = .up → s.boot ≠ .reset → exec (.freezeMarkerReceive p) s = .next (freezeTrigger 6 s)) ∧
      ((s.port p).st ≠ .up ∨ s.boot = .reset → exec (.freezeMarkerReceive p) s = .next s)) ∧
    (s.tab.state = .freezing → s.tab.tF ≤ s.cue → Gives .freezeStop s (fun t => t.tab.state = .frozen ∧ t.tab.upPorts = upPorts s ∧ t.alive = false ∧
      t.out.fabric = ((upPorts s).map (fun p => ({ kind := "freeze", dest := p } : FabMsg))).reverse ++ s.out.fabric ∧
      t.cores = s.cores ∧ t.mem = s.mem ∧ t.cue = s.cue)) ∧
    (s.tab.state ≠ .freezing ∨ s.cue < s.tab.tF → exec .freezeStop s = .next s) ∧
    (s.boot ≠ .reset → tabIdle s = true →
      exec .read s = .next { s with tab.job := .scan } ∧ exec .memread s = .next { s with tab.job := .pages } ∧ exec .resume s = .next (resume s)) ∧
    (s.boot ≠ .reset → tabIdle s = false →
      exec .read s = .next { s with tab.bad := true } ∧ exec .memread s = .next { s with tab.bad := true } ∧ exec .resume s = .next { s with tab.bad := true }) ∧
    (s.boot = .reset → exec .read s = .next s ∧ exec .memread s = .next s ∧ exec .resume s = .next s) ∧
    (s.hw.cable = true → tabIdle s = true → exec .tabRead s = .next { s with tab.job := .jtag } ∧ exec .tabResume s = .next (resume s)) ∧
    (s.hw.cable = false ∨ tabIdle s = false → exec .tabRead s = .next s ∧ exec .tabResume s = .next s) ∧
    (let end_ := fun (t : State) => exec .tabReadoutDone s = .next (if s.tab.wake then resume t else t);
      (s.tab.job = .none → exec .tabReadoutDone s = .next s) ∧
      (s.tab.job = .scan → end_ { s with tab.job := .none, tab.done := true, out.scans := scanImage (some s.tab.dma) s :: s.out.scans }) ∧
      (s.tab.job = .jtag → end_ { s with tab.job := .none, tab.done := true, out.scans := scanImage none s :: s.out.scans }) ∧
      (s.tab.job = .pages → end_ { writePages s with tab.job := .none, tab.done := true } ∧
        { writePages s with out.hostWrites := s.out.hostWrites } = s)) ∧
    (∀ p,
      let wakes := s.tab.state = .frozen ∧ s.tab.upPorts.contains p = true
      (wakes → s.tab.job = .none → exec (.wakeSignalReceive p) s = .next (resume s)) ∧
      (wakes → s.tab.job ≠ .none → exec (.wakeSignalReceive p) s = .next { s with tab.wake := true }) ∧
      (¬ wakes → exec (.wakeSignalReceive p) s = .next s)) ∧
    (s.tab.state = .resuming → exec .dividerRestart s = .next (portChanged (s.tab.upPorts.foldl (fun s p => retrainPort p s)
      { s with tab.state := .running, tab.upPorts := [], tab.graceTo := s.cue + 200 * cyclesMs }))) ∧
    (s.tab.state ≠ .resuming → exec .dividerRestart s = .next s)
end

