-- ==== Sys2Proof/Laws/Keep.lean ====
section
/-! SUPPORT. What no command touches but its own row: the queue of waiting commands, the module record in flash and the replay-protected counters. -/

namespace Sys2Proof.Machine

/-- From `s` to `t` the queue, the module record and the counters stayed. -/
abbrev Keeps (s t : State) : Prop :=
  t.pending = s.pending ∧ t.bt.flash.modRec = s.bt.flash.modRec ∧ t.bt.counters = s.bt.counters

/-- The same, closed to unfolding while a goal is taken apart. -/
def Kept (s t : State) : Prop := Keeps s t

theorem Keeps.refl (s : State) : Keeps s s := ⟨rfl, rfl, rfl⟩

theorem Keeps.trans {s t u : State} (h : Keeps s t) (k : Keeps t u) : Keeps s u :=
  ⟨k.1.trans h.1, k.2.1.trans h.2.1, k.2.2.trans h.2.2⟩

@[simp] theorem ite_pending (c : Prop) [Decidable c] (a b : State) : (if c then a else b).pending = if c then a.pending else b.pending := by
  split <;> rfl
@[simp] theorem ite_bt (c : Prop) [Decidable c] (a b : State) : (if c then a else b).bt = if c then a.bt else b.bt := by split <;> rfl
@[simp] theorem ite_flash (c : Prop) [Decidable c] (a b : Boot) : (if c then a else b).flash = if c then a.flash else b.flash := by split <;> rfl
@[simp] theorem ite_modRec (c : Prop) [Decidable c] (a b : Flash) : (if c then a else b).modRec = if c then a.modRec else b.modRec := by
  split <;> rfl
@[simp] theorem ite_counters (c : Prop) [Decidable c] (a b : Boot) : (if c then a else b).counters = if c then a.counters else b.counters := by
  split <;> rfl

/-- A fold of steps that keep them keeps them. -/
theorem foldl_keeps {α : Type} (f : State → α → State) (h : ∀ s x, Keeps s (f s x)) (l : List α) (s : State) : Keeps s (l.foldl f s) := by
  induction l generalizing s with
  | nil => exact Keeps.refl s
  | cons a l ih => exact (h s a).trans (ih _)

/-- The same where the fold carries more beside the state. -/
theorem foldl_fst_keeps {α β : Type} (f : State × β → α → State × β) (h : ∀ x a, Keeps x.1 (f x a).1) (l : List α) (x : State × β) :
    Keeps x.1 (l.foldl f x).1 := by
  induction l generalizing x with
  | nil => exact Keeps.refl x.1
  | cons a l ih => exact (h x a).trans (ih _)

@[simp] theorem foldl_pending {α : Type} (f : State → α → State) (h : ∀ s x, (f s x).pending = s.pending) (l : List α) (s : State) :
    (l.foldl f s).pending = s.pending := by
  induction l generalizing s with
  | nil => rfl
  | cons a l ih => simp [ih, h]
@[simp] theorem foldl_modRec {α : Type} (f : State → α → State) (h : ∀ s x, (f s x).bt.flash.modRec = s.bt.flash.modRec) (l : List α)
    (s : State) : (l.foldl f s).bt.flash.modRec = s.bt.flash.modRec := by
  induction l generalizing s with
  | nil => rfl
  | cons a l ih => simp [ih, h]
@[simp] theorem foldl_counters {α : Type} (f : State → α → State) (h : ∀ s x, (f s x).bt.counters = s.bt.counters) (l : List α)
    (s : State) : (l.foldl f s).bt.counters = s.bt.counters := by
  induction l generalizing s with
  | nil => rfl
  | cons a l ih => simp [ih, h]

/-! ### What the wrappers of the meanings do -/

@[simp] theorem stateAfter_next (s t : State) : stateAfter s (.next t) = t := rfl

@[simp] theorem stateAfter_nextS (s t : State) : stateAfter s (nextS t) = t := rfl

@[simp] theorem stateAfter_engine (f : State → State) (s : State) : stateAfter s (engine f s) = if s.alive then f s else s := by
  unfold engine; split <;> rfl

@[simp] theorem stateAfter_regWrite (f : State → State) (s : State) : stateAfter s (regWrite f s) = if s.alive then f s else s := by
  unfold regWrite; split <;> rfl

/-- A host command leaves the state, is refused for the boot state, or has its effect. -/
theorem stateAfter_hostCmd (h : CmdHdr) (opcode : Nat) (f : State → State) (s : State) :
    stateAfter s (hostCmd h opcode f s) = s ∨ stateAfter s (hostCmd h opcode f s) = complete h opcode stBootState s ∨
      stateAfter s (hostCmd h opcode f s) = f s := by
  unfold hostCmd
  split
  · exact .inl rfl
  · split
    · exact .inl rfl
    · split
      · exact .inr (.inl rfl)
      · exact .inr (.inr rfl)

/-- A core instruction leaves the state, is refused, or has its body's effect after issue. -/
theorem stateAfter_coreIssue (c : Nat) (nd : Bool) (body : State → Issue) (s : State) :
    stateAfter s (coreIssue c nd body s) = s ∨ (∃ code, stateAfter s (coreIssue c nd body s) = refuseCore c code s) ∨
      body (issueState c nd s) = .ok (stateAfter s (coreIssue c nd body s)) := by
  unfold coreIssue
  split
  · split
    · next h => exact .inr (.inr h)
    · exact .inr (.inl ⟨_, rfl⟩)
  · exact .inl rfl

theorem engine_keep (f : State → State) (s : State) (h : ∀ s, Kept s (f s)) : Keeps s (stateAfter s (engine f s)) := by
  rw [stateAfter_engine]; split
  · exact h s
  · exact Keeps.refl s

theorem regWrite_keep (f : State → State) (s : State) (h : ∀ s, Kept s (f s)) : Keeps s (stateAfter s (regWrite f s)) := by
  rw [stateAfter_regWrite]; split
  · exact h s
  · exact Keeps.refl s

theorem hostCmd_keep (h : CmdHdr) (opcode : Nat) (f : State → State) (s : State) (hf : ∀ s, Kept s (f s)) :
    Keeps s (stateAfter s (hostCmd h opcode f s)) := by
  rcases stateAfter_hostCmd h opcode f s with e | e | e <;> rw [e]
  · exact Keeps.refl s
  · exact ⟨rfl, rfl, rfl⟩
  · exact hf s

end Sys2Proof.Machine
end

