-- ==== Sys2Proof/Laws/KeepGen.lean ====
section
/-! SUPPORT. The operations that keep the queue, the module record and the counters: shared ones, cores and generation. -/

namespace Sys2Proof.Machine

@[simp] theorem State.setCore_keep (s : State) (c : Nat) (k : Core) : Keeps s (State.setCore s c k) := by
  show Kept _ _; unfold State.setCore; (try dsimp only); (repeat' split) <;> simp [Kept, Keeps]

@[simp] theorem State.modCore_keep (s : State) (c : Nat) (f : Core → Core) : Keeps s (State.modCore s c f) := by
  show Kept _ _; unfold State.modCore; (try dsimp only); (repeat' split) <;> simp [Kept, Keeps]

@[simp] theorem State.setTroupe_keep (s : State) (t : Nat) (x : Troupe) : Keeps s (State.setTroupe s t x) := by
  show Kept _ _; unfold State.setTroupe; (try dsimp only); (repeat' split) <;> simp [Kept, Keeps]

@[simp] theorem State.modTroupe_keep (s : State) (t : Nat) (f : Troupe → Troupe) : Keeps s (State.modTroupe s t f) := by
  show Kept _ _; unfold State.modTroupe; (try dsimp only); (repeat' split) <;> simp [Kept, Keeps]

@[simp] theorem State.modStack_keep (s : State) (n : Nat) (f : Stack → Stack) : Keeps s (State.modStack s n f) := by
  show Kept _ _; unfold State.modStack; (try dsimp only); (repeat' split) <;> simp [Kept, Keeps]

@[simp] theorem State.modRegs_keep (s : State) (c : Nat) (f : CoreRegs → CoreRegs) : Keeps s (State.modRegs s c f) := by
  show Kept _ _; unfold State.modRegs; (try dsimp only); (repeat' split) <;> simp [Kept, Keeps]

@[simp] theorem State.draw_keep (s : State) : Keeps s (State.draw s).2 := by
  show Kept _ _; unfold State.draw; (try dsimp only); (repeat' split) <;> simp [Kept, Keeps]

@[simp] theorem countWatch_keep (c : WatchCause) (unit : Nat) (s : State) : Keeps s (countWatch c unit s) := by
  show Kept _ _; unfold countWatch; (try dsimp only); (repeat' split) <;> simp [Kept, Keeps]

@[simp] theorem freezeTrigger_keep (src : Nat) (s : State) : Keeps s (freezeTrigger src s) := by
  show Kept _ _; unfold freezeTrigger; (try dsimp only); (repeat' split) <;> simp [Kept, Keeps]

@[simp] theorem writeEvent_keep (s : State) (q : Nat) (e : EvtQueue) (m : EvMsg) : Keeps s (writeEvent s q e m) := by
  show Kept _ _; unfold writeEvent; (try dsimp only); (repeat' split) <;> simp [Kept, Keeps]

@[simp] theorem dropEvent_keep (s : State) (q : Nat) : Keeps s (dropEvent s q) := by
  show Kept _ _; unfold dropEvent; (try dsimp only); (repeat' split) <;> simp [Kept, Keeps]

@[simp] theorem postAtLead_keep (s : State) (m : EvMsg) : Keeps s (postAtLead s m) := by
  show Kept _ _; unfold postAtLead; (try dsimp only); (repeat' split) <;> simp [Kept, Keeps]

@[simp] theorem postEvent_keep (s : State) (m : EvMsg) : Keeps s (postEvent s m) := by
  show Kept _ _; unfold postEvent; (try dsimp only); (repeat' split) <;> simp [Kept, Keeps]

@[simp] theorem raiseEvent_keep (code : Nat) (troupe : Nat) (data : List Byte) (s : State) : Keeps s (raiseEvent code troupe data s) := by
  show Kept _ _; unfold raiseEvent; (try dsimp only); (repeat' split) <;> simp [Kept, Keeps]

@[simp] theorem raiseModule_keep (code : Nat) (data : List Byte) (s : State) : Keeps s (raiseModule code data s) := by
  show Kept _ _; unfold raiseModule; (try dsimp only); (repeat' split) <;> simp [Kept, Keeps]

@[simp] theorem noticeAtLead_keep (m : EvMsg) (key : Option Nat) (s : State) : Keeps s (noticeAtLead m key s) := by
  show Kept _ _; unfold noticeAtLead; (try dsimp only); (repeat' split) <;> simp [Kept, Keeps]

@[simp] theorem relayNotice_keep (m : EvMsg) (key : Option Nat) (s : State) : Keeps s (relayNotice m key s) := by
  show Kept _ _; unfold relayNotice; (try dsimp only); (repeat' split) <;> simp [Kept, Keeps]

@[simp] theorem postNotice_keep (code : Nat) (t : Nat) (key : Option Nat) (data : List Byte) (s : State) : Keeps s (postNotice code t key data s) := by
  show Kept _ _; unfold postNotice; (try dsimp only); (repeat' split) <;> simp [Kept, Keeps]

@[simp] theorem complete_keep (h : CmdHdr) (opcode : Nat) (status : Nat) (s : State) : Keeps s (complete h opcode status s) := by
  show Kept _ _; unfold complete; (try dsimp only); (repeat' split) <;> simp [Kept, Keeps]

@[simp] theorem completeRec_keep (h : CmdHdr) (opcode : Nat) (status : Nat) (body : List Byte) (s : State) : Keeps s (completeRec h opcode status body s) := by
  show Kept _ _; unfold completeRec; (try dsimp only); (repeat' split) <;> simp [Kept, Keeps]

@[simp] theorem hostWrite_keep (addr : Nat) (bytes : List Byte) (s : State) : Keeps s (hostWrite addr bytes s) := by
  show Kept _ _; unfold hostWrite; (try dsimp only); (repeat' split) <;> simp [Kept, Keeps]

@[simp] theorem sendFab_keep (m : FabMsg) (s : State) : Keeps s (sendFab m s) := by
  show Kept _ _; unfold sendFab; (try dsimp only); (repeat' split) <;> simp [Kept, Keeps]

@[simp] theorem nextS_keep (s : State) : Keeps s (stateAfter s (nextS s)) := by
  show Kept _ _; unfold nextS; (try dsimp only); (repeat' split) <;> simp [Kept, Keeps]

@[simp] theorem refuseCore_keep (c : Nat) (code : Nat) (s : State) : Keeps s (refuseCore c code s) := by
  show Kept _ _; unfold refuseCore; (try dsimp only); (repeat' split) <;> simp [Kept, Keeps]

@[simp] theorem markNd_keep (c : Nat) (s : State) : Keeps s (markNd c s) := by
  show Kept _ _; unfold markNd; (try dsimp only); (repeat' split) <;> simp [Kept, Keeps]

@[simp] theorem issueState_keep (c : Nat) (nd : Bool) (s : State) : Keeps s (issueState c nd s) := by
  show Kept _ _; unfold issueState; (try dsimp only); (repeat' split) <;> simp [Kept, Keeps]

theorem coreIssue_keep (c : Nat) (nd : Bool) (body : State → Issue) (s : State) (h : ∀ s u, body s = .ok u → Keeps s u) :
    Keeps s (stateAfter s (coreIssue c nd body s)) := by
  rcases stateAfter_coreIssue c nd body s with e | ⟨code, e⟩ | e
  · rw [e]; exact Keeps.refl s
  · rw [e]; exact refuseCore_keep _ _ _
  · exact (issueState_keep c nd s).trans (h _ _ e)

@[simp] theorem noteArith_keep (c : Nat) (a : ArithRep) (s : State) : Keeps s (noteArith c a s) := by
  show Kept _ _; unfold noteArith; (try dsimp only); (repeat' split) <;> simp [Kept, Keeps]

@[simp] theorem noteXlat_keep (t : Nat) (f : AccFault) (s : State) : Keeps s (noteXlat t f s) := by
  show Kept _ _; unfold noteXlat; (try dsimp only); (repeat' split) <;> simp [Kept, Keeps]

@[simp] theorem writeMemPiece_keep (owner : Owner) (s : State) (a : Nat) (bytes : List Byte) : Keeps s (writeMemPiece owner s a bytes).1 := by
  show Kept _ _; unfold writeMemPiece; (try dsimp only); (repeat' split) <;> simp [Kept, Keeps]

@[simp] theorem writeMem_keep (owner : Owner) (s : State) (a : Nat) (bytes : List Byte) : Keeps s (writeMem owner s a bytes).1 := by
  unfold writeMem
  refine foldl_fst_keeps _ ?_ _ (s, false)
  intro x p; exact writeMemPiece_keep owner x.1 p.1 p.2

@[simp] theorem hubWrite_keep (s : State) (a : Nat) (bytes : List Byte) : Keeps s (hubWrite s a bytes) := by
  show Kept _ _; unfold hubWrite; (try dsimp only); (repeat' split) <;> simp [Kept, Keeps]

@[simp] theorem writeLoc_keep (owner : Owner) (s : State) (l : Loc) (bytes : List Byte) : Keeps s (writeLoc owner s l bytes).1 := by
  show Kept _ _; unfold writeLoc; (try dsimp only); (repeat' split) <;> simp [Kept, Keeps]

@[simp] theorem writeLocs_keep (owner : Owner) (s : State) (ls : List (Loc × Nat)) (bs : List Byte) :
    Keeps s (writeLocs owner s ls bs).1 := by
  induction ls generalizing s bs with
  | nil => exact Keeps.refl s
  | cons l ls ih => exact (writeLoc_keep owner s l.1 (bs.take l.2)).trans (ih _ _)

@[simp] theorem hubView_keep (s : State) : Keeps s (hubView s) := by
  show Kept _ _; unfold hubView; (try dsimp only); (repeat' split) <;> simp [Kept, Keeps]

@[simp] theorem chargeStacks_keep (t : Nat) (rd : Nat) (wr : Nat) (s : State) : Keeps s (chargeStacks t rd wr s) := by
  show Kept _ _; unfold chargeStacks; (try dsimp only); (repeat' split) <;> simp [Kept, Keeps]

@[simp] theorem unitBad_keep (a : Nat) (s : State) : Keeps s (unitBad a s) := by
  show Kept _ _; unfold unitBad; (try dsimp only); (repeat' split) <;> simp [Kept, Keeps]

@[simp] theorem unitWeak_keep (a : Nat) (s : State) : Keeps s (unitWeak a s) := by
  show Kept _ _; unfold unitWeak; (try dsimp only); (repeat' split) <;> simp [Kept, Keeps]

@[simp] theorem findUnit_keep (s : State) (e : Nat × Bool) : Keeps s (findUnit s e) := by
  show Kept _ _; unfold findUnit; (try dsimp only); (repeat' split) <;> simp [Kept, Keeps]

@[simp] theorem findErrors_keep (ls : List (Loc × Nat)) (s : State) : Keeps s (findErrors ls s) :=
  foldl_keeps _ findUnit_keep _ _

@[simp] theorem chargeReads_keep (t : Nat) (rs : List (Nat × Nat)) (s : State) : Keeps s (chargeReads t rs s) := by
  show Kept _ _; unfold chargeReads; (try dsimp only); (repeat' split) <;> simp [Kept, Keeps]

@[simp] theorem chargeRead_keep (t : Nat) (a : Nat) (n : Nat) (s : State) : Keeps s (chargeRead t a n s) := chargeReads_keep _ _ _

@[simp] theorem troupePut_keep (s : State) (t : Nat) (a : Nat) (bytes : List Byte) : Keeps s (troupePut s t a bytes) := by
  show Kept _ _; unfold troupePut; (try dsimp only); (repeat' split) <;> simp [Kept, Keeps]

@[simp] theorem troupeWrite_keep (s : State) (t : Nat) (a : Nat) (bytes : List Byte) : Keeps s (troupeWrite s t a bytes) := by
  show Kept _ _; unfold troupeWrite; (try dsimp only); (repeat' split) <;> simp [Kept, Keeps]

@[simp] theorem semSet_keep (t : Nat) (n : Nat) (v : Nat) (s : State) : Keeps s (semSet t n v s) := by
  show Kept _ _; unfold semSet; (try dsimp only); (repeat' split) <;> simp [Kept, Keeps]

@[simp] theorem semAdd_keep (t : Nat) (n : Nat) (d : Nat) (s : State) : Keeps s (semAdd t n d s) := by
  show Kept _ _; unfold semAdd; (try dsimp only); (repeat' split) <;> simp [Kept, Keeps]

@[simp] theorem unlockCue_keep (s : State) : Keeps s (unlockCue s) := by
  show Kept _ _; unfold unlockCue; (try dsimp only); (repeat' split) <;> simp [Kept, Keeps]

@[simp] theorem correctCue_keep (ps : Int) (s : State) : Keeps s (correctCue ps s) := by
  show Kept _ _; unfold correctCue; (try dsimp only); (repeat' split) <;> simp [Kept, Keeps]

@[simp] theorem judgeLock_keep (ps : Int) (s : State) : Keeps s (judgeLock ps s) := by
  show Kept _ _; unfold judgeLock; (try dsimp only); (repeat' split) <;> simp [Kept, Keeps]

@[simp] theorem takeEstimate_keep (ps : Int) (s : State) : Keeps s (takeEstimate ps s) := by
  show Kept _ _; unfold takeEstimate; (try dsimp only); (repeat' split) <;> simp [Kept, Keeps]

@[simp] theorem State.setBar_keep (s : State) (t : Nat) (b : Nat) (x : BarState) : Keeps s (State.setBar s t b x) := by
  show Kept _ _; unfold State.setBar; (try dsimp only); (repeat' split) <;> simp [Kept, Keeps]

@[simp] theorem sendRelease_keep (t : Nat) (b : Nat) (rel : Nat) (steps : Option (Nat × Nat)) (tr : TreeRec) (g : GroupRec) (r : Nat) (s : State) : Keeps s (sendRelease t b rel steps tr g r s) := by
  show Kept _ _; unfold sendRelease; (try dsimp only); (repeat' split) <;> simp [Kept, Keeps]

@[simp] theorem barrierForward_keep (t : Nat) (b : Nat) (s : State) : Keeps s (barrierForward t b s) := by
  show Kept _ _; unfold barrierForward; (try dsimp only); (repeat' split) <;> simp [Kept, Keeps]

@[simp] theorem memberArrive_keep (t : Nat) (b : Nat) (step : Option (Nat × Nat)) (s : State) : Keeps s (memberArrive t b step s) := by
  show Kept _ _; unfold memberArrive; (try dsimp only); (repeat' split) <;> simp [Kept, Keeps]

@[simp] theorem checkBarriers_keep (t : Nat) (s : State) : Keeps s (checkBarriers t s) := by
  show Kept _ _; unfold checkBarriers; (try dsimp only); (repeat' split) <;> simp [Kept, Keeps]

@[simp] theorem finishReset_keep (s : State) (r : CoreReset) : Keeps s (finishReset s r) := by
  show Kept _ _; unfold finishReset; (try dsimp only); (repeat' split) <;> simp [Kept, Keeps]

@[simp] theorem settleResets_keep (s : State) : Keeps s (settleResets s) := by
  show Kept _ _; unfold settleResets; (try dsimp only); (repeat' split) <;> simp [Kept, Keeps]

@[simp] theorem settleStop_keep (c : Nat) (s : State) : Keeps s (settleStop c s) := by
  show Kept _ _; unfold settleStop; (try dsimp only); (repeat' split) <;> simp [Kept, Keeps]

@[simp] theorem endWait_keep (c : Nat) (s : State) : Keeps s (endWait c s) := by
  show Kept _ _; unfold endWait; (try dsimp only); (repeat' split) <;> simp [Kept, Keeps]

@[simp] theorem semWaitDone_keep (c : Nat) (s : State) : Keeps s (semWaitDone c s) := by
  show Kept _ _; unfold semWaitDone; (try dsimp only); (repeat' split) <;> simp [Kept, Keeps]

@[simp] theorem popQueue_keep (c : Nat) (q : Nat) (rd : Nat) (s : State) : Keeps s (popQueue c q rd s) := by
  show Kept _ _; unfold popQueue; (try dsimp only); (repeat' split) <;> simp [Kept, Keeps]

@[simp] theorem qpopDone_keep (c : Nat) (s : State) : Keeps s (qpopDone c s) := by
  show Kept _ _; unfold qpopDone; (try dsimp only); (repeat' split) <;> simp [Kept, Keeps]

@[simp] theorem cueWaitDone_keep (c : Nat) (s : State) : Keeps s (cueWaitDone c s) := by
  show Kept _ _; unfold cueWaitDone; (try dsimp only); (repeat' split) <;> simp [Kept, Keeps]

@[simp] theorem barWaitDone_keep (c : Nat) (s : State) : Keeps s (barWaitDone c s) := by
  show Kept _ _; unfold barWaitDone; (try dsimp only); (repeat' split) <;> simp [Kept, Keeps]

@[simp] theorem waitDone_keep (c : Nat) (s : State) : Keeps s (waitDone c s) := by
  show Kept _ _; unfold waitDone; (try dsimp only); (repeat' split) <;> simp [Kept, Keeps]

@[simp] theorem lateCue_keep (t : Nat) (b : Nat) (rel : Nat) (s : State) : Keeps s (lateCue t b rel s) := by
  show Kept _ _; unfold lateCue; (try dsimp only); (repeat' split) <;> simp [Kept, Keeps]

@[simp] theorem releaseCores_keep (t b rel : Nat) (s : State) : Keeps s (releaseCores t b rel s) := by
  unfold releaseCores
  refine foldl_keeps _ ?_ _ _
  intro s c; (repeat' split) <;> simp [Keeps]

@[simp] theorem State.modGen_keep (s : State) (t : Nat) (f : Gen → Gen) : Keeps s (State.modGen s t f) := by
  show Kept _ _; unfold State.modGen; (try dsimp only); (repeat' split) <;> simp [Kept, Keeps]

@[simp] theorem State.modKv_keep (s : State) (t : Nat) (f : KvRegs → KvRegs) : Keeps s (State.modKv s t f) := by
  show Kept _ _; unfold State.modKv; (try dsimp only); (repeat' split) <;> simp [Kept, Keeps]

@[simp] theorem State.modSlot_keep (s : State) (t : Nat) (i : Nat) (f : GSlot → GSlot) : Keeps s (State.modSlot s t i f) := by
  show Kept _ _; unfold State.modSlot; (try dsimp only); (repeat' split) <;> simp [Kept, Keeps]

@[simp] theorem setRef_keep (t : Nat) (f : Nat) (v : Nat) (s : State) : Keeps s (setRef t f v s) := by
  show Kept _ _; unfold setRef; (try dsimp only); (repeat' split) <;> simp [Kept, Keeps]

@[simp] theorem setReg_keep (t : Nat) (f : Nat) (b : Bool) (s : State) : Keeps s (setReg t f b s) := by
  show Kept _ _; unfold setReg; (try dsimp only); (repeat' split) <;> simp [Kept, Keeps]

@[simp] theorem setHash_keep (t : Nat) (f : Nat) (h : Nat) (s : State) : Keeps s (setHash t f h s) := by
  show Kept _ _; unfold setHash; (try dsimp only); (repeat' split) <;> simp [Kept, Keeps]

@[simp] theorem freeFrame_keep (t : Nat) (f : Nat) (s : State) : Keeps s (freeFrame t f s) := by
  show Kept _ _; unfold freeFrame; (try dsimp only); (repeat' split) <;> simp [Kept, Keeps]

@[simp] theorem dropRef_keep (t : Nat) (s : State) (f : Nat) : Keeps s (dropRef t s f) := by
  show Kept _ _; unfold dropRef; (try dsimp only); (repeat' split) <;> simp [Kept, Keeps]

@[simp] theorem takeRef_keep (t : Nat) (s : State) (f : Nat) : Keeps s (takeRef t s f) := by
  show Kept _ _; unfold takeRef; (try dsimp only); (repeat' split) <;> simp [Kept, Keeps]

@[simp] theorem pickOf_keep (xs : List Nat) (s : State) : Keeps s (pickOf xs s).2 := by
  show Kept _ _; unfold pickOf; (try dsimp only); (repeat' split) <;> simp [Kept, Keeps]

@[simp] theorem newRow_keep (t : Nat) (m : Nat) (fs : List Nat) (s : State) : Keeps s (newRow t m fs s).2 := by
  show Kept _ _; unfold newRow; (try dsimp only); (repeat' split) <;> simp [Kept, Keeps]

@[simp] theorem dirPut_keep (i : Nat) (e : DirEnt) (s : State) : Keeps s (dirPut i e s) := by
  unfold dirPut; exact hubWrite_keep _ _ _

@[simp] theorem evict_keep (t : Nat) (x : Nat × DirEnt) (s : State) : Keeps s (evict t x s) := by
  show Kept _ _; unfold evict; (try dsimp only); (repeat' split) <;> simp [Kept, Keeps]

@[simp] theorem drawFrame_keep (t : Nat) (resv : Nat) (s : State) : Keeps s (drawFrame t resv s).2 := by
  show Kept _ _; unfold drawFrame; (try dsimp only); (repeat' split) <;> simp [Kept, Keeps]

@[simp] theorem drawFrames_keep (t resv n : Nat) (s : State) : Keeps s (drawFrames t resv n s).2 := by
  induction n generalizing s with
  | zero => exact Keeps.refl s
  | succ n ih => exact (drawFrame_keep t resv s).trans (ih _)

@[simp] theorem takeBlocks_keep (t : Nat) (is : List Nat) (b : Nat) (s : State) : Keeps s (takeBlocks t is b s).2 := by
  induction is generalizing s b with
  | nil => exact Keeps.refl s
  | cons i is ih =>
    show Kept _ _; unfold takeBlocks; dsimp only
    generalize hx : takeBlocks _ _ _ _ = x
    have hk := ih (b + 1) (dirPut i { dirGet s i with lastUse := s.cue } ((dirFrames s t (dirGet s i)).2.foldl (takeRef t) s))
    rw [hx] at hk
    obtain ⟨p, q⟩ := x
    exact ((foldl_keeps _ (fun s x => takeRef_keep t s x) _ s).trans (dirPut_keep _ _ _)).trans hk

@[simp] theorem dropRow_keep (t : Nat) (m : Nat) (r : Nat) (s : State) : Keeps s (dropRow t m r s) := by
  show Kept _ _; unfold dropRow; (try dsimp only); (repeat' split) <;> simp [Kept, Keeps]

@[simp] theorem releaseTable_keep (t : Nat) (m : Nat) (tab : Map Nat) (s : State) : Keeps s (releaseTable t m tab s) := by
  show Kept _ _; unfold releaseTable; (try dsimp only); (repeat' split) <;> simp [Kept, Keeps]

@[simp] theorem dropResv_keep (t : Nat) (r : Nat) (s : State) : Keeps s (dropResv t r s) := by
  show Kept _ _; unfold dropResv; (try dsimp only); (repeat' split) <;> simp [Kept, Keeps]

@[simp] theorem trimBlock_keep (t m n : Nat) (x : GSlot) (b : Nat) (s : State) : Keeps s (trimBlock t m n x b s) := by
  unfold trimBlock
  refine foldl_keeps _ ?_ _ _
  intro s l; (repeat' split) <;> simp [Keeps]

@[simp] theorem trimPages_keep (t : Nat) (m : Nat) (n : Nat) (x : GSlot) (s : State) : Keeps s (trimPages t m n x s) := by
  show Kept _ _; unfold trimPages; (try dsimp only); (repeat' split) <;> simp [Kept, Keeps]

@[simp] theorem registerBlock_keep (t m b h : Nat) (x : GSlot) (s : State) : Keeps s (registerBlock t m b h x s) := by
  show Kept _ _; unfold registerBlock
  split
  · exact Keeps.refl s
  · dsimp only
    split
    · exact Keeps.refl s
    · split
      · exact State.modKv_keep _ _ _
      · split
        · refine Keeps.trans ((dirPut_keep _ _ _).trans (foldl_keeps _ ?_ _ _)) (State.modKv_keep _ _ _)
          intro s f; simp [Keeps]
        · split
          · exact State.modKv_keep _ _ _
          · refine Keeps.trans (((evict_keep _ _ _).trans (dirPut_keep _ _ _)).trans (foldl_keeps _ ?_ _ _)) (State.modKv_keep _ _ _)
            intro s f; simp [Keeps]

@[simp] theorem registerSeq_keep (t : Nat) (m : Nat) (epoch : Nat) (x : GSlot) (s : State) : Keeps s (registerSeq t m epoch x s) := by
  show Kept _ _; unfold registerSeq; (try dsimp only); (repeat' split) <;> simp [Kept, Keeps]

@[simp] theorem drawBlock_keep (t m epoch i b : Nat) (s : State) : Keeps s (drawBlock t m epoch i b s) := by
  show Kept _ _; unfold drawBlock
  split
  · exact Keeps.refl s
  · next x _ =>
    dsimp only
    have h1 := drawFrames_keep t x.resv ((s.gen t).cfg.model m).g s
    generalize drawFrames t x.resv ((s.gen t).cfg.model m).g s = o at h1 ⊢
    obtain ⟨fs, s1⟩ := o
    dsimp only
    generalize hs : List.foldl _ s1 _ = s2
    have h2 : Keeps s1 s2 := by
      rw [← hs]
      refine foldl_keeps _ ?_ _ _
      intro s l; exact troupeWrite_keep _ _ _ _
    have h3 := newRow_keep t m fs s2
    generalize newRow t m fs s2 = o at h3 ⊢
    obtain ⟨r, s3⟩ := o
    exact ((h1.trans h2).trans h3).trans (State.modSlot_keep _ _ _ _)

@[simp] theorem copyBlock_keep (t m i b r : Nat) (s : State) : Keeps s (copyBlock t m i b r s) := by
  show Kept _ _; unfold copyBlock
  split
  · exact Keeps.refl s
  · next x _ =>
    dsimp only
    have h1 := drawFrames_keep t x.resv (rowFrames s t m r).length s
    generalize drawFrames t x.resv (rowFrames s t m r).length s = o at h1 ⊢
    obtain ⟨fs, s1⟩ := o
    dsimp only
    generalize hs : List.foldl _ s1 _ = s2
    have h2 : Keeps s1 s2 := by
      rw [← hs]
      refine foldl_keeps _ ?_ _ _
      intro s e; split <;> simp [Keeps]
    have h3 : Keeps s2 ((rowFrames s t m r).foldl (dropRef t) s2) := foldl_keeps _ (fun s x => dropRef_keep t s x) _ _
    generalize (rowFrames s t m r).foldl (dropRef t) s2 = s3 at h3 ⊢
    have h4 := newRow_keep t m fs s3
    generalize newRow t m fs s3 = o at h4 ⊢
    obtain ⟨r', s4⟩ := o
    exact ((((h1.trans h2).trans h3).trans h4).trans (State.modSlot_keep _ _ _ _)).trans (State.modKv_keep _ _ _)

@[simp] theorem shareRow_keep (t m i b r : Nat) (s : State) : Keeps s (shareRow t m i b r s) := by
  show Kept _ _; unfold shareRow; (try dsimp only); (repeat' split) <;> simp [Kept, Keeps]

@[simp] theorem prepBlock_keep (t : Nat) (m : Nat) (epoch : Nat) (i : Nat) (s : State) (b : Nat) : Keeps s (prepBlock t m epoch i s b) := by
  show Kept _ _; unfold prepBlock; (try dsimp only); (repeat' split) <;> simp [Kept, Keeps]

@[simp] theorem finishReq_keep (t : Nat) (h : CmdHdr) (r : ReqRecord) (x : Option (Nat × GSlot)) (status : Nat) (s : State) : Keeps s (finishReq t h r x status s) := by
  show Kept _ _; unfold finishReq; (try dsimp only); (repeat' split) <;> simp [Kept, Keeps]

@[simp] theorem releaseSeq_keep (t : Nat) (i : Nat) (s : State) : Keeps s (releaseSeq t i s) := by
  show Kept _ _; unfold releaseSeq; (try dsimp only); (repeat' split) <;> simp [Kept, Keeps]

@[simp] theorem clearSlot_keep (t : Nat) (i : Nat) (s : State) : Keeps s (clearSlot t i s) := by
  show Kept _ _; unfold clearSlot; (try dsimp only); (repeat' split) <;> simp [Kept, Keeps]

@[simp] theorem dropClient_keep (tr : Nat) (cl : Nat × Nat × Nat) (s : State) : Keeps s (dropClient tr cl s).1 := by
  show Kept _ _; unfold dropClient; (try dsimp only); (repeat' split) <;> simp [Kept, Keeps]

@[simp] theorem stopPrefill_keep (t : Nat) (i : Nat) (s : State) : Keeps s (stopPrefill t i s).1 := by
  show Kept _ _; unfold stopPrefill; (try dsimp only); (repeat' split) <;> simp [Kept, Keeps]

@[simp] theorem cancelSlot_keep (t : Nat) (i : Nat) (s : State) : Keeps s (cancelSlot t i s) := by
  show Kept _ _; unfold cancelSlot; (try dsimp only); (repeat' split) <;> simp [Kept, Keeps]

@[simp] theorem countLooks_keep (t : Nat) (looks : Nat) (hits : Nat) (s : State) : Keeps s (countLooks t looks hits s) := by
  show Kept _ _; unfold countLooks; (try dsimp only); (repeat' split) <;> simp [Kept, Keeps]

@[simp] theorem logToks_keep (t : Nat) (i : Nat) (p : Nat) (k : Nat) (ts : List Tok) (s : State) : Keeps s (logToks t i p k ts s) := by
  show Kept _ _; unfold logToks; (try dsimp only); (repeat' split) <;> simp [Kept, Keeps]

@[simp] theorem drainAll_keep (t : Nat) (s : State) : Keeps s (drainAll t s) := by
  show Kept _ _; unfold drainAll; (try dsimp only); (repeat' split) <;> simp [Kept, Keeps]

@[simp] theorem stopPhase_keep (t : Nat) (s : State) : Keeps s (stopPhase t s) := by
  show Kept _ _; unfold stopPhase; (try dsimp only); (repeat' split) <;> simp [Kept, Keeps]

@[simp] theorem passToPrefill_keep (t i ht hd : Nat) (h : CmdHdr) (r : ReqRecord) (pr : List Nat) (s : State) : Keeps s (passToPrefill t i ht hd h r pr s) := by
  show Kept _ _; unfold passToPrefill; (try dsimp only); (repeat' split) <;> simp [Kept, Keeps]

@[simp] theorem admitReq_keep (t i frames : Nat) (f d : List Nat) (h : CmdHdr) (r : ReqRecord) (pr : List Nat) (s : State) : Keeps s (admitReq t i frames f d h r pr s) := by
  show Kept _ _; unfold admitReq; (try dsimp only); (repeat' split) <;> simp [Kept, Keeps]

@[simp] theorem askRuns_keep (t : Nat) (r : ReqRecord) (s : State) : Keeps s (askRuns t r s) := by
  show Kept _ _; unfold askRuns; (try dsimp only); (repeat' split) <;> simp [Kept, Keeps]

@[simp] theorem reportRun_keep (t : Nat) (s : State) (r : ReqRecord) : Keeps s (reportRun t s r) := by
  show Kept _ _; unfold reportRun; (try dsimp only); (repeat' split) <;> simp [Kept, Keeps]

theorem passReq_keep (t : Nat) (runs : List PeerRun) (a : PassAcc) (q : QReq) : Keeps a.s (passReq t runs a q).s := by
  show Kept _ _; unfold passReq; extract_lets s c prio mine lim drop keep
  generalize decideReq s t q.record lim = o
  obtain ⟨dec, looks, hits⟩ := o
  dsimp -zeta only
  extract_lets s1 held
  have h1 : Keeps a.s s1 := countLooks_keep _ _ _ _
  have hd : ∀ s, Keeps s (drop s) := fun s => State.modGen_keep _ _ _
  have hh : Keeps a.s held.s := h1.trans (State.modGen_keep _ _ _)
  clear_value s1 drop held
  split
  · exact (h1.trans (hd s1)).trans (finishReq_keep _ _ _ _ _ _)
  · exact hh
  · split
    · exact hh
    · split
      · exact hh
      · refine Keeps.trans (h1.trans (hd s1)) ?_
        dsimp only
        (repeat' split) <;> simp [Keeps]

theorem passOrder_keep (t : Nat) (a : PassAcc) (o : GroupAdmit) : Keeps a.s (passOrder t a o).s := by
  show Kept _ _; unfold passOrder; extract_lets s g
  split
  · exact Keeps.refl _
  · exact (countLooks_keep _ _ _ _).trans (admitReq_keep _ _ _ _ _ _ _ _ _)

theorem passJobs_keep (t : Nat) (js : List PfJob) (a : PassAcc) : Keeps a.s (passJobs t js a).s := by
  induction js generalizing a with
  | nil => exact Keeps.refl _
  | cons j js ih =>
    show Kept _ _; unfold passJobs; extract_lets s g c
    generalize foundBlocks s t 0 j.record.p g.liveEpoch j.prompt = o
    obtain ⟨f, n⟩ := o
    dsimp only
    generalize (if reqSpec j.record then foundBlocks s t 1 j.record.p g.liveEpoch j.prompt else ([], 0)) = o
    obtain ⟨d, m⟩ := o
    dsimp only
    split
    · exact Keeps.refl _
    · split
      · exact Keeps.refl _
      · refine Keeps.trans ?_ (ih _)
        simp [Keeps, s]

@[simp] theorem judgeLag_keep (t : Nat) (s : State) : Keeps s (judgeLag t s) := by
  show Kept _ _; unfold judgeLag; (try dsimp only); (repeat' split) <;> simp [Kept, Keeps]

@[simp] theorem coalesce_keep (t : Nat) (slots : List Nat) (s : State) : Keeps s (coalesce t slots s) := by
  unfold coalesce
  refine foldl_keeps _ ?_ _ _
  intro s i; dsimp only; (repeat' split) <;> simp [Keeps]

@[simp] theorem takePeers_keep (t : Nat) (m : PassIn) (s : State) : Keeps s (takePeers t m s) := by
  show Kept _ _; unfold takePeers; (try dsimp only); (repeat' split) <;> simp [Kept, Keeps]

/-- A fold over what a pass carries keeps them if each of its steps does. -/
theorem passFold_keep {α : Type} (f : PassAcc → α → PassAcc) (h : ∀ a x, Keeps a.s (f a x).s) (l : List α) (a : PassAcc) :
    Keeps a.s (l.foldl f a).s := by
  induction l generalizing a with
  | nil => exact Keeps.refl _
  | cons x l ih => exact (h a x).trans (ih _)

theorem passAll_keep (t : Nat) (m : PassIn) (s : State) : Keeps s (passAll t m s).s := by
  refine Keeps.trans ?_ (passJobs_keep t _ _)
  split
  · exact passFold_keep _ (fun a x => passOrder_keep t a x) _ { s := s }
  · exact passFold_keep _ (fun a x => passReq_keep t _ a x) _ { s := s }

theorem passEnd_keep (t : Nat) (a : PassAcc) : Keeps a.s (passEnd t a) :=
  (coalesce_keep t a.slots a.s).trans (foldl_keeps _ (fun _ _ => askRuns_keep _ _ _) _ _)

@[simp] theorem admissionPass_keep (t : Nat) (m : PassIn) (s : State) : Keeps s (admissionPass t m s) := by
  rw [admissionPass]
  have h1 : Keeps s (judgeLag t (takePeers t m s)) := (takePeers_keep t m s).trans (judgeLag_keep t (takePeers t m s))
  have h2 := passAll_keep t m (judgeLag t (takePeers t m s))
  have h3 := passEnd_keep t (passAll t m (judgeLag t (takePeers t m s)))
  exact (h1.trans h2).trans h3

@[simp] theorem takeCurtain_keep (t : Nat) (k : Nat) (s : State) : Keeps s (takeCurtain t k s) := by
  show Kept _ _; unfold takeCurtain; (try dsimp only); (repeat' split) <;> simp [Kept, Keeps]

@[simp] theorem endCurtains_keep (t : Nat) (served : Nat → Bool) (s : State) : Keeps s (endCurtains t served s) := by
  show Kept _ _; unfold endCurtains; (try dsimp only); (repeat' split) <;> simp [Kept, Keeps]

@[simp] theorem decideCurtain_keep (t : Nat) (s : State) : Keeps s (decideCurtain t s) := by
  show Kept _ _; unfold decideCurtain; (try dsimp only); (repeat' split) <;> simp [Kept, Keeps]

@[simp] theorem pinNew_keep (t : Nat) (s : State) : Keeps s (pinNew t s) := by
  show Kept _ _; unfold pinNew; (try dsimp only); (repeat' split) <;> simp [Kept, Keeps]

@[simp] theorem prepSlot_keep (t : Nat) (epoch : Nat) (s : State) (i : Nat) : Keeps s (prepSlot t epoch s i) := by
  show Kept _ _; unfold prepSlot; (try dsimp only); (repeat' split) <;> simp [Kept, Keeps]

@[simp] theorem startStep_keep (t : Nat) (s : State) : Keeps s (startStep t s) := by
  show Kept _ _; unfold startStep; (try dsimp only); (repeat' split) <;> simp [Kept, Keeps]

@[simp] theorem State.modRing_keep (s : State) (t : Nat) (f : Ring → Ring) : Keeps s (State.modRing s t f) := by
  show Kept _ _; unfold State.modRing; (try dsimp only); (repeat' split) <;> simp [Kept, Keeps]

@[simp] theorem syncCtrl_keep (t : Nat) (s : State) : Keeps s (syncCtrl t s) := by
  show Kept _ _; unfold syncCtrl; (try dsimp only); (repeat' split) <;> simp [Kept, Keeps]

@[simp] theorem reclaim_keep (t : Nat) (s : State) : Keeps s (reclaim t s) := by
  show Kept _ _; unfold reclaim; (try dsimp only); (repeat' split) <;> simp [Kept, Keeps]

@[simp] theorem addRecord_keep (t : Nat) (n : Nat) (st : Nat) (epoch : Nat) (bytes : List Byte) (s : State) : Keeps s (addRecord t n st epoch bytes s) := by
  show Kept _ _; unfold addRecord; (try dsimp only); (repeat' split) <;> simp [Kept, Keeps]

@[simp] theorem ringWaits_keep (t : Nat) (s : State) : Keeps s (ringWaits t s) := by
  show Kept _ _; unfold ringWaits; (try dsimp only); (repeat' split) <;> simp [Kept, Keeps]

@[simp] theorem recordDone_keep (t : Nat) (i : Nat) (s : State) : Keeps s (recordDone t i s) := by
  show Kept _ _; unfold recordDone; (try dsimp only); (repeat' split) <;> simp [Kept, Keeps]

@[simp] theorem putRecord_keep (t : Nat) (i : Nat) (x : GSlot) (s : State) : Keeps s (putRecord t i x s) := by
  show Kept _ _; unfold putRecord; (try dsimp only); (repeat' split) <;> simp [Kept, Keeps]

@[simp] theorem ringWrite_keep (t : Nat) (s : State) : Keeps s (ringWrite t s) := by
  show Kept _ _; unfold ringWrite; (try dsimp only); (repeat' split) <;> simp [Kept, Keeps]

@[simp] theorem modRec_keep (t : Nat) (q : Nat) (f : RingRec → RingRec) (s : State) : Keeps s (modRec t q f s) := by
  show Kept _ _; unfold modRec; (try dsimp only); (repeat' split) <;> simp [Kept, Keeps]

@[simp] theorem putHeader_keep (t : Nat) (e : RingRec) (off : Nat) (bs : List Byte) (s : State) : Keeps s (putHeader t e off bs s) := by
  show Kept _ _; unfold putHeader; (try dsimp only); (repeat' split) <;> simp [Kept, Keeps]

@[simp] theorem sealRecord_keep (t : Nat) (scorer : Bool) (q : Nat) (reward : Nat) (reward2 : Nat) (drop : Bool) (s : State) : Keeps s (sealRecord t scorer q reward reward2 drop s).1 := by
  show Kept _ _; unfold sealRecord; (try dsimp only); (repeat' split) <;> simp [Kept, Keeps]

@[simp] theorem takeSeals_keep (t n j : Nat) (s : State) : Keeps s (takeSeals t n j s) := by
  induction n generalizing s j with
  | zero => exact Keeps.refl s
  | succ n ih =>
    unfold takeSeals; dsimp only
    generalize hx : sealRecord t true _ _ _ _ s = o
    have h1 : Keeps s o.1 := by rw [← hx]; exact sealRecord_keep _ _ _ _ _ _ _
    obtain ⟨s1, st⟩ := o
    dsimp only
    refine Keeps.trans (Keeps.trans ?_ (chargeRead_keep _ _ _ _)) (ih _ _)
    split
    · exact h1
    · exact h1.trans (State.modRing_keep _ _ _)

@[simp] theorem ringPoll_keep (t : Nat) (s : State) : Keeps s (ringPoll t s) := by
  show Kept _ _; unfold ringPoll; (try dsimp only); (repeat' split) <;> simp [Kept, Keeps]

@[simp] theorem scorerHand_keep (t : Nat) (s : State) : Keeps s (scorerHand t s) := by
  show Kept _ _; unfold scorerHand; (try dsimp only); (repeat' split) <;> simp [Kept, Keeps]

@[simp] theorem consumerHand_keep (t : Nat) (s : State) : Keeps s (consumerHand t s) := by
  show Kept _ _; unfold consumerHand; (try dsimp only); (repeat' split) <;> simp [Kept, Keeps]

@[simp] theorem boundaryRegister_keep (t : Nat) (s : State) : Keeps s (boundaryRegister t s) := by
  unfold boundaryRegister
  split
  · exact Keeps.refl s
  · refine foldl_keeps _ ?_ _ _
    intro s i; dsimp only; (repeat' split) <;> simp [Keeps]

@[simp] theorem boundaryRelease_keep (t : Nat) (s : State) (i : Nat) : Keeps s (boundaryRelease t s i) := by
  show Kept _ _; unfold boundaryRelease; (try dsimp only); (repeat' split) <;> simp [Kept, Keeps]

@[simp] theorem endPhase_keep (t : Nat) (s : State) : Keeps s (endPhase t s) := by
  show Kept _ _; unfold endPhase; (try dsimp only); (repeat' split) <;> simp [Kept, Keeps]

@[simp] theorem boundary_keep (t : Nat) (m : PassIn) (s : State) : Keeps s (boundary t m s) := by
  show Kept _ _; unfold boundary; (try dsimp only); (repeat' split) <;> simp [Kept, Keeps]

@[simp] theorem execStepBoundary_keep (t : Nat) (m : PassIn) (s : State) : Keeps s (stateAfter s (execStepBoundary t m s)) := by
  show Kept _ _; unfold execStepBoundary
  refine engine_keep _ _ ?_; intro s; (try dsimp only); (repeat' split) <;> simp [Kept, Keeps]

@[simp] theorem execAdmissionPassIdle_keep (t : Nat) (m : PassIn) (s : State) : Keeps s (stateAfter s (execAdmissionPassIdle t m s)) := by
  show Kept _ _; unfold execAdmissionPassIdle
  refine engine_keep _ _ ?_; intro s; (try dsimp only); (repeat' split) <;> simp [Kept, Keeps]

@[simp] theorem execGenSubmit_keep (h : CmdHdr) (body : List Byte) (s : State) : Keeps s (stateAfter s (execGenSubmit h body s)) := by
  show Kept _ _; unfold execGenSubmit
  refine hostCmd_keep _ _ _ _ ?_; intro s; (try dsimp only); (repeat' split) <;> simp [Kept, Keeps]

@[simp] theorem registerCancel_keep (t : Nat) (s : State) (q : CmdHdr × Nat) : Keeps s (registerCancel t s q) := by
  show Kept _ _; unfold registerCancel; (try dsimp only); (repeat' split) <;> simp [Kept, Keeps]

@[simp] theorem settleCancels_keep (t : Nat) (s : State) : Keeps s (settleCancels t s) := by
  show Kept _ _; unfold settleCancels; (try dsimp only); (repeat' split) <;> simp [Kept, Keeps]

@[simp] theorem execGenCancel_keep (h : CmdHdr) (reqId : Nat) (s : State) : Keeps s (stateAfter s (execGenCancel h reqId s)) := by
  show Kept _ _; unfold execGenCancel
  refine hostCmd_keep _ _ _ _ ?_; intro s; (try dsimp only); (repeat' split) <;> simp [Kept, Keeps]

@[simp] theorem execGenCurtain_keep (h : CmdHdr) (epoch : Nat) (s : State) : Keeps s (stateAfter s (execGenCurtain h epoch s)) := by
  show Kept _ _; unfold execGenCurtain
  refine hostCmd_keep _ _ _ _ ?_; intro s; (try dsimp only); (repeat' split) <;> simp [Kept, Keeps]

@[simp] theorem deliver_keep (t : Nat) (i : Nat) (x : GSlot) (new : List Tok) (s : State) : Keeps s (deliver t i x new s) := by
  show Kept _ _; unfold deliver; (try dsimp only); (repeat' split) <;> simp [Kept, Keeps]

@[simp] theorem chargeShip_keep (t : Nat) (fs : List (Nat × Nat × List Nat)) (s : State) : Keeps s (chargeShip t fs s) := chargeReads_keep _ _ _

@[simp] theorem sendShip_keep (cl : Nat × Nat × Nat) (x : GSlot) (s : State) : Keeps s (sendShip cl x s) := by
  show Kept _ _; unfold sendShip; (try dsimp only); (repeat' split) <;> simp [Kept, Keeps]

@[simp] theorem commitClient_keep (t : Nat) (i : Nat) (cl : Nat × Nat × Nat) (x : GSlot) (s : State) : Keeps s (commitClient t i cl x s) := by
  show Kept _ _; unfold commitClient; (try dsimp only); (repeat' split) <;> simp [Kept, Keeps]

@[simp] theorem commitSlot_keep (t epoch : Nat) (s : State) (i : Nat) : Keeps s (commitSlot t epoch s i) := by
  show Kept _ _; unfold commitSlot; (try dsimp only); (repeat' split) <;> simp [Kept, Keeps]

@[simp] theorem execCommit_keep (t : Nat) (s : State) : Keeps s (stateAfter s (execCommit t s)) := by
  show Kept _ _; unfold execCommit
  refine engine_keep _ _ ?_; intro s; (try dsimp only); (repeat' split) <;> simp [Kept, Keeps]

@[simp] theorem placeBlock_keep (t i : Nat) (s : State) (b : ShipBlock) : Keeps s (placeBlock t i s b) := by
  show Kept _ _; unfold placeBlock; (try dsimp only); (repeat' split) <;> simp [Kept, Keeps]

@[simp] theorem arriveShip_keep (t : Nat) (i : Nat) (d : ShipData) (s : State) : Keeps s (arriveShip t i d s) := by
  show Kept _ _; unfold arriveShip; (try dsimp only); (repeat' split) <;> simp [Kept, Keeps]

@[simp] theorem execShipArrival_keep (t : Nat) (slot : Nat) (d : ShipData) (s : State) : Keeps s (stateAfter s (execShipArrival t slot d s)) := by
  show Kept _ _; unfold execShipArrival
  refine engine_keep _ _ ?_; intro s; (try dsimp only); (repeat' split) <;> simp [Kept, Keeps]

@[simp] theorem execKvEvtClr_keep (t : Nat) (s : State) : Keeps s (stateAfter s (execKvEvtClr t s)) := by
  show Kept _ _; unfold execKvEvtClr
  refine regWrite_keep _ _ ?_; intro s; (try dsimp only); (repeat' split) <;> simp [Kept, Keeps]

@[simp] theorem chargeTroupe_keep (c : Nat) (f : Acct → Acct) (s : State) : Keeps s (chargeTroupe c f s) := by
  show Kept _ _; unfold chargeTroupe; (try dsimp only); (repeat' split) <;> simp [Kept, Keeps]

@[simp] theorem chargeVec_keep (c : Nat) (cycles : Nat) (s : State) : Keeps s (chargeVec c cycles s) := by
  show Kept _ _; unfold chargeVec; (try dsimp only); (repeat' split) <;> simp [Kept, Keeps]

@[simp] theorem chargeArray_keep (c : Nat) (rows : Nat) (s : State) : Keeps s (chargeArray c rows s) := by
  show Kept _ _; unfold chargeArray; (try dsimp only); (repeat' split) <;> simp [Kept, Keeps]

@[simp] theorem execNop_keep (c : Nat) (nd : Bool) (s : State) : Keeps s (stateAfter s (execNop c nd s)) := by
  show Kept _ _; unfold execNop
  refine coreIssue_keep _ _ _ _ ?_; intro s u h; (repeat' (first | split at h | (dsimp only at h; split at h))) <;> first
    | exact vecBody_keep _ _ _ _ _ _ h
    | exact scatAddBody_keep _ _ _ _ _ _ h
    | (cases h <;> simp [Keeps])

@[simp] theorem execHalt_keep (c : Nat) (nd : Bool) (s : State) : Keeps s (stateAfter s (execHalt c nd s)) := by
  show Kept _ _; unfold execHalt
  refine coreIssue_keep _ _ _ _ ?_; intro s u h; (repeat' (first | split at h | (dsimp only at h; split at h))) <;> first
    | exact vecBody_keep _ _ _ _ _ _ h
    | exact scatAddBody_keep _ _ _ _ _ _ h
    | (cases h <;> simp [Keeps])

theorem branchTo_keep (c : Nat) (target : Nat) (s : State) (u : State) (h : branchTo c target s = .ok u) : Keeps s u := by
  unfold branchTo at h; (repeat' (first | split at h | (dsimp only at h; split at h))) <;> first
    | exact vecBody_keep _ _ _ _ _ _ h
    | exact scatAddBody_keep _ _ _ _ _ _ h
    | (cases h <;> simp [Keeps])

@[simp] theorem execBranch_keep (c : Nat) (nd : Bool) (target : Nat) (s : State) : Keeps s (stateAfter s (execBranch c nd target s)) := by
  show Kept _ _; unfold execBranch
  exact coreIssue_keep _ _ _ _ (fun s u h => branchTo_keep _ _ _ _ h)

@[simp] theorem execLoop_keep (c : Nat) (nd : Bool) (r target : Nat) (s : State) : Keeps s (stateAfter s (execLoop c nd r target s)) := by
  refine coreIssue_keep _ _ _ _ ?_
  intro s u h; dsimp only at h; split at h
  · exact (State.modCore_keep _ _ _).trans (branchTo_keep _ _ _ _ h)
  · cases h; exact State.modCore_keep _ _ _

@[simp] theorem execScalarArith_keep (c : Nat) (nd : Bool) (op : ScalarOp) (rd : Nat) (ra : Nat) (rb : Nat) (s : State) : Keeps s (stateAfter s (execScalarArith c nd op rd ra rb s)) := by
  show Kept _ _; unfold execScalarArith
  refine coreIssue_keep _ _ _ _ ?_; intro s u h; (repeat' (first | split at h | (dsimp only at h; split at h))) <;> first
    | exact vecBody_keep _ _ _ _ _ _ h
    | exact scatAddBody_keep _ _ _ _ _ _ h
    | (cases h <;> simp [Keeps])

@[simp] theorem execTagLoad_keep (c : Nat) (nd : Bool) (tag : Nat) (addr : Nat) (s : State) : Keeps s (stateAfter s (execTagLoad c nd tag addr s)) := by
  show Kept _ _; unfold execTagLoad
  refine coreIssue_keep _ _ _ _ ?_; intro s u h; (repeat' (first | split at h | (dsimp only at h; split at h))) <;> first
    | exact vecBody_keep _ _ _ _ _ _ h
    | exact scatAddBody_keep _ _ _ _ _ _ h
    | (cases h <;> simp [Keeps])

@[simp] theorem execTagStore_keep (c : Nat) (nd : Bool) (tag : Nat) (addr : Nat) (s : State) : Keeps s (stateAfter s (execTagStore c nd tag addr s)) := by
  show Kept _ _; unfold execTagStore
  refine coreIssue_keep _ _ _ _ ?_; intro s u h; (repeat' (first | split at h | (dsimp only at h; split at h))) <;> first
    | exact vecBody_keep _ _ _ _ _ _ h
    | exact scatAddBody_keep _ _ _ _ _ _ h
    | (cases h <;> simp [Keeps])

@[simp] theorem startCore_keep (c : Nat) (s : State) : Keeps s (startCore c s) := by
  show Kept _ _; unfold startCore; (try dsimp only); (repeat' split) <;> simp [Kept, Keeps]

@[simp] theorem execCoreStart_keep (c : Nat) (s : State) : Keeps s (stateAfter s (execCoreStart c s)) := by
  show Kept _ _; unfold execCoreStart
  refine regWrite_keep _ _ ?_; intro s; (try dsimp only); (repeat' split) <;> simp [Kept, Keeps]

@[simp] theorem execCoreStop_keep (c : Nat) (s : State) : Keeps s (stateAfter s (execCoreStop c s)) := by
  show Kept _ _; unfold execCoreStop
  refine regWrite_keep _ _ ?_; intro s; (try dsimp only); (repeat' split) <;> simp [Kept, Keeps]

@[simp] theorem execNdClr_keep (c : Nat) (s : State) : Keeps s (stateAfter s (execNdClr c s)) := by
  show Kept _ _; unfold execNdClr
  refine regWrite_keep _ _ ?_; intro s; (try dsimp only); (repeat' split) <;> simp [Kept, Keeps]

@[simp] theorem execCorePcWrite_keep (c : Nat) (value : Word) (s : State) : Keeps s (stateAfter s (execCorePcWrite c value s)) := by
  show Kept _ _; unfold execCorePcWrite
  refine regWrite_keep _ _ ?_; intro s; (try dsimp only); (repeat' split) <;> simp [Kept, Keeps]

@[simp] theorem execFaultClear_keep (c : Nat) (s : State) : Keeps s (stateAfter s (execFaultClear c s)) := by
  show Kept _ _; unfold execFaultClear
  refine regWrite_keep _ _ ?_; intro s; (try dsimp only); (repeat' split) <;> simp [Kept, Keeps]

@[simp] theorem execArithCntClr_keep (c : Nat) (s : State) : Keeps s (stateAfter s (execArithCntClr c s)) := by
  show Kept _ _; unfold execArithCntClr
  refine regWrite_keep _ _ ?_; intro s; (try dsimp only); (repeat' split) <;> simp [Kept, Keeps]

@[simp] theorem execClusterStart_keep (tile : Nat) (cluster : Nat) (mask : Nat) (s : State) : Keeps s (stateAfter s (execClusterStart tile cluster mask s)) := by
  show Kept _ _; unfold execClusterStart
  refine engine_keep _ _ ?_; intro s; (try dsimp only); (repeat' split) <;> simp [Kept, Keeps]

theorem mfillBody_keep (c : Nat) (w : MatWord) (s : State) (u : State) (h : mfillBody c w s = .ok u) : Keeps s u := by
  unfold mfillBody at h; (repeat' (first | split at h | (dsimp only at h; split at h))) <;> first
    | exact vecBody_keep _ _ _ _ _ _ h
    | exact scatAddBody_keep _ _ _ _ _ _ h
    | (cases h <;> simp [Keeps])

@[simp] theorem execMfill_keep (c : Nat) (w : MatWord) (s : State) : Keeps s (stateAfter s (execMfill c w s)) := by
  show Kept _ _; unfold execMfill
  exact coreIssue_keep _ _ _ _ (fun s u h => mfillBody_keep _ _ _ _ h)

theorem mzeroBody_keep (c : Nat) (w : MatWord) (s : State) (u : State) (h : mzeroBody c w s = .ok u) : Keeps s u := by
  unfold mzeroBody at h; (repeat' (first | split at h | (dsimp only at h; split at h))) <;> first
    | exact vecBody_keep _ _ _ _ _ _ h
    | exact scatAddBody_keep _ _ _ _ _ _ h
    | (cases h <;> simp [Keeps])

@[simp] theorem execMzero_keep (c : Nat) (w : MatWord) (s : State) : Keeps s (stateAfter s (execMzero c w s)) := by
  show Kept _ _; unfold execMzero
  exact coreIssue_keep _ _ _ _ (fun s u h => mzeroBody_keep _ _ _ _ h)

theorem mmulBody_keep (c : Nat) (w : MatWord) (xp : Bool) (s : State) (u : State) (h : mmulBody c w xp s = .ok u) : Keeps s u := by
  unfold mmulBody at h; (repeat' (first | split at h | (dsimp only at h; split at h))) <;> first
    | exact vecBody_keep _ _ _ _ _ _ h
    | exact scatAddBody_keep _ _ _ _ _ _ h
    | (cases h <;> simp [Keeps])

@[simp] theorem execMmul_keep (c : Nat) (w : MatWord) (s : State) : Keeps s (stateAfter s (execMmul c w s)) := by
  show Kept _ _; unfold execMmul
  exact coreIssue_keep _ _ _ _ (fun s u h => mmulBody_keep _ _ _ _ _ h)

@[simp] theorem execMmulx_keep (c : Nat) (w : MatWord) (s : State) : Keeps s (stateAfter s (execMmulx c w s)) := by
  show Kept _ _; unfold execMmulx
  exact coreIssue_keep _ _ _ _ (fun s u h => mmulBody_keep _ _ _ _ _ h)

theorem vmemLoadBody_keep (c : Nat) (w : VecWord) (s : State) (u : State) (h : vmemLoadBody c w s = .ok u) : Keeps s u := by
  unfold vmemLoadBody at h; (repeat' (first | split at h | (dsimp only at h; split at h))) <;> first
    | exact vecBody_keep _ _ _ _ _ _ h
    | exact scatAddBody_keep _ _ _ _ _ _ h
    | (cases h <;> simp [Keeps])

@[simp] theorem execVmemLoad_keep (c : Nat) (w : VecWord) (s : State) : Keeps s (stateAfter s (execVmemLoad c w s)) := by
  show Kept _ _; unfold execVmemLoad
  exact coreIssue_keep _ _ _ _ (fun s u h => vmemLoadBody_keep _ _ _ _ h)

theorem vmemStoreBody_keep (c : Nat) (w : VecWord) (s : State) (u : State) (h : vmemStoreBody c w s = .ok u) : Keeps s u := by
  unfold vmemStoreBody at h; (repeat' (first | split at h | (dsimp only at h; split at h))) <;> first
    | exact vecBody_keep _ _ _ _ _ _ h
    | exact scatAddBody_keep _ _ _ _ _ _ h
    | (cases h <;> simp [Keeps])

@[simp] theorem execVmemStore_keep (c : Nat) (w : VecWord) (s : State) : Keeps s (stateAfter s (execVmemStore c w s)) := by
  show Kept _ _; unfold execVmemStore
  exact coreIssue_keep _ _ _ _ (fun s u h => vmemStoreBody_keep _ _ _ _ h)

@[simp] theorem writeFlagged_keep (owner : Owner) (s : State) (l : Loc) (bs : List Byte) (fs : List Bool) :
    Keeps s (writeFlagged owner s l bs fs).1 := by
  unfold writeFlagged
  split
  · exact writeLoc_keep _ _ _ _
  · split <;>
    · refine foldl_fst_keeps _ ?_ _ (s, false)
      intro x p
      show Keeps x.1 (if _ then _ else _ : State × Bool).1
      split
      · try
          show Keeps x.1 (if _ then _ else _ : State × Bool).1
          split
        all_goals exact ⟨rfl, rfl, rfl⟩
      · first
        | exact writeMem_keep _ _ _ _
        | exact writeLoc_keep _ _ _ _

@[simp] theorem writeAllFlagged_keep (owner : Owner) (s : State) (ls : List (Loc × Nat)) (bs : List Byte) (fs : List Bool) :
    Keeps s (writeAllFlagged owner s ls bs fs).1 := by
  induction ls generalizing s bs fs with
  | nil => exact Keeps.refl s
  | cons l ls ih => exact (writeFlagged_keep owner s l.1 (bs.take l.2) (fs.take l.2)).trans (ih _ _ _)

@[simp] theorem setStage_keep (c : Nat) (id : Nat) (st : Stage) (s : State) : Keeps s (setStage c id st s) := by
  show Kept _ _; unfold setStage; (try dsimp only); (repeat' split) <;> simp [Kept, Keeps]

theorem runDesc_keep (c id op : Nat) (body : Nat → Desc → State → State × Nat) (s : State)
    (h : ∀ u d s, Keeps s (body u d s).1) : Keeps s (runDesc c id op body s) := by
  unfold runDesc
  split
  · exact Keeps.refl s
  · dsimp only
    split
    · exact (h _ _ s).trans (setStage_keep _ _ _ _)
    · exact Keeps.refl s

@[simp] theorem refuseAccess_keep (t : Nat) (f : AccFault) (s : State) : Keeps s (refuseAccess t f s).1 := by
  show Kept _ _; unfold refuseAccess; (try dsimp only); (repeat' split) <;> simp [Kept, Keeps]

@[simp] theorem finishDesc_keep (c : Nat) (id : Nat) (status : Nat) (s : State) : Keeps s (finishDesc c id status s) := by
  show Kept _ _; unfold finishDesc; (try dsimp only); (repeat' split) <;> simp [Kept, Keeps]

@[simp] theorem putOutput_keep (c : Nat) (w : AttnWord) (hw : Nat) (sat : Bool) (fl : AccFlags) (rows : List RowState) (s : State) : Keeps s (putOutput c w hw sat fl rows s) := by
  show Kept _ _; unfold putOutput; (try dsimp only); (repeat' split) <;> simp [Kept, Keeps]

@[simp] theorem putStates_keep (c : Nat) (w : AttnWord) (sat : Bool) (fl : AccFlags) (rows : List RowState) (s : State) : Keeps s (putStates c w sat fl rows s) := by
  show Kept _ _; unfold putStates; (try dsimp only); (repeat' split) <;> simp [Kept, Keeps]

end Sys2Proof.Machine
end

