-- ==== Sys2Proof/Laws/KeepCore.lean ====
section
/-! SUPPORT. The operations that keep them: the compute core, moves, the fabric and learning. -/

namespace Sys2Proof.Machine

@[simp] theorem putRows_keep (c : Nat) (w : AttnWord) (hw : Nat) (sat : Bool) (fl : AccFlags) (rows : List RowState) (s : State) :
    Keeps s (putRows c w hw sat fl rows s) := by
  rw [putRows]; split
  · exact putOutput_keep _ _ _ _ _ _ _
  · exact putStates_keep _ _ _ _ _ _

@[simp] theorem astepDo_keep (c : Nat) (w : AttnWord) (x : GSlot) (s : State) : Keeps s (astepDo c w x s) := by
  show Kept _ _; unfold astepDo; (try dsimp only); (repeat' split) <;> simp [Kept, Keeps]

theorem astepBody_keep (c : Nat) (w : AttnWord) (s : State) (u : State) (h : astepBody c w s = .ok u) : Keeps s u := by
  unfold astepBody at h; (repeat' (first | split at h | (dsimp only at h; split at h))) <;> first
    | exact vecBody_keep _ _ _ _ _ _ h
    | exact scatAddBody_keep _ _ _ _ _ _ h
    | (cases h <;> simp [Keeps])

@[simp] theorem execAstep_keep (c : Nat) (w : AttnWord) (s : State) : Keeps s (stateAfter s (execAstep c w s)) := by
  show Kept _ _; unfold execAstep
  exact coreIssue_keep _ _ _ _ (fun s u h => astepBody_keep _ _ _ _ h)

theorem amergeBody_keep (c : Nat) (w : AttnWord) (s : State) (u : State) (h : amergeBody c w s = .ok u) : Keeps s u := by
  unfold amergeBody at h; (repeat' (first | split at h | (dsimp only at h; split at h))) <;> first
    | exact vecBody_keep _ _ _ _ _ _ h
    | exact scatAddBody_keep _ _ _ _ _ _ h
    | (cases h <;> simp [Keeps])

@[simp] theorem execAmerge_keep (c : Nat) (w : AttnWord) (s : State) : Keeps s (stateAfter s (execAmerge c w s)) := by
  show Kept _ _; unfold execAmerge
  exact coreIssue_keep _ _ _ _ (fun s u h => amergeBody_keep _ _ _ _ h)

@[simp] theorem putHead_keep (t : Nat) (m : KvModel) (tag : Word) (addr : Nat) (part : Nat) (p : Nat) (h : Nat) (xs : List F32) (s : State) : Keeps s (putHead t m tag addr part p h xs s).1 := by
  show Kept _ _; unfold putHead; (try dsimp only); (repeat' split) <;> simp [Kept, Keeps]

theorem putPosition_keep (t : Nat) (m : KvModel) (epoch addr p : Nat) (xs : List F32) (x : State × ConvFlags) :
    Keeps x.1 (putPosition t m epoch addr p xs x).1 := by
  show Kept _ _; unfold putPosition; extract_lets s hdr tk tv step y s2
  split
  · exact Keeps.refl _
  · have hy : Keeps x.1 y.1 := by
      refine foldl_fst_keeps _ ?_ _ x
      intro y i; simp only [step]
      split <;> simp [Keeps]
    have h2 : Keeps x.1 s2 := hy.trans (troupeWrite_keep _ _ _ _)
    show Keeps x.1 (if rawField hdr 0x12 1 < p + 1 then troupeWrite s2 t (addr + 0x12) (leBytes 1 (p + 1)) else s2)
    split
    · exact h2.trans (troupeWrite_keep _ _ _ _)
    · exact h2

@[simp] theorem kvputDo_keep (c : Nat) (w : AttnWord) (x : GSlot) (s : State) : Keeps s (kvputDo c w x s) := by
  show Kept _ _; unfold kvputDo; extract_lets k t e g m rb qb epoch step y
  have hy : Keeps s y.1 := by
    refine foldl_fst_keeps _ ?_ _ (s, ({} : ConvFlags))
    intro y r; simp only [step]
    split
    · exact Keeps.refl _
    · exact putPosition_keep _ _ _ _ _ _ _
  exact hy.trans (noteArith_keep _ _ _)

theorem kvputBody_keep (c : Nat) (w : AttnWord) (s : State) (u : State) (h : kvputBody c w s = .ok u) : Keeps s u := by
  unfold kvputBody at h; (repeat' (first | split at h | (dsimp only at h; split at h))) <;> first
    | exact vecBody_keep _ _ _ _ _ _ h
    | exact scatAddBody_keep _ _ _ _ _ _ h
    | (cases h <;> simp [Keeps])

@[simp] theorem execKvput_keep (c : Nat) (w : AttnWord) (s : State) : Keeps s (stateAfter s (execKvput c w s)) := by
  show Kept _ _; unfold execKvput
  exact coreIssue_keep _ _ _ _ (fun s u h => kvputBody_keep _ _ _ _ h)

@[simp] theorem moveBody_keep (c : Nat) (id : Nat) (kind : MoveKind) (t : Nat) (d : Desc) (s : State) : Keeps s (moveBody c id kind t d s).1 := by
  show Kept _ _; unfold moveBody; (try dsimp only); (repeat' split) <;> simp [Kept, Keeps]

@[simp] theorem execMove_keep (c : Nat) (nd : Bool) (addr : Nat) (s : State) : Keeps s (stateAfter s (execMove c nd addr s)) := by
  show Kept _ _; unfold execMove
  refine coreIssue_keep _ _ _ _ ?_; intro s u h; (repeat' (first | split at h | (dsimp only at h; split at h))) <;> first
    | exact vecBody_keep _ _ _ _ _ _ h
    | exact scatAddBody_keep _ _ _ _ _ _ h
    | (cases h <;> simp [Keeps])

@[simp] theorem execMoveCopy_keep (c id : Nat) (s : State) : Keeps s (stateAfter s (execMoveCopy c id s)) := by
  refine engine_keep _ _ ?_
  intro s; exact runDesc_keep _ _ _ _ _ (fun u d s => moveBody_keep _ _ _ _ _ s)

@[simp] theorem execMoveCopyTag_keep (c id : Nat) (s : State) : Keeps s (stateAfter s (execMoveCopyTag c id s)) := by
  refine engine_keep _ _ ?_
  intro s; exact runDesc_keep _ _ _ _ _ (fun u d s => moveBody_keep _ _ _ _ _ s)

@[simp] theorem execMoveConvert_keep (c id : Nat) (s : State) : Keeps s (stateAfter s (execMoveConvert c id s)) := by
  refine engine_keep _ _ ?_
  intro s; exact runDesc_keep _ _ _ _ _ (fun u d s => moveBody_keep _ _ _ _ _ s)

@[simp] theorem execDescriptorComplete_keep (c : Nat) (id : Nat) (s : State) : Keeps s (stateAfter s (execDescriptorComplete c id s)) := by
  show Kept _ _; unfold execDescriptorComplete
  refine engine_keep _ _ ?_; intro s; (try dsimp only); (repeat' split) <;> simp [Kept, Keeps]

@[simp] theorem State.modPort_keep (s : State) (p : Nat) (f : Port → Port) : Keeps s (State.modPort s p f) := by
  show Kept _ _; unfold State.modPort; (try dsimp only); (repeat' split) <;> simp [Kept, Keeps]

@[simp] theorem sendLink_keep (p kind : Nat) (name : String) (crTag crCount : Nat) (vals : List Nat) (s : State) : Keeps s (sendLink p kind name crTag crCount vals s) := by
  show Kept _ _; unfold sendLink; (try dsimp only); (repeat' split) <;> simp [Kept, Keeps]

@[simp] theorem returnCredit_keep (p : Nat) (ltag : Nat) (s : State) : Keeps s (returnCredit p ltag s) := by
  show Kept _ _; unfold returnCredit; (try dsimp only); (repeat' split) <;> simp [Kept, Keeps]

@[simp] theorem askAgain_keep (p seq : Nat) (s : State) : Keeps s (askAgain p seq s) := by
  show Kept _ _; unfold askAgain; (try dsimp only); (repeat' split) <;> simp [Kept, Keeps]

@[simp] theorem chargeTx_keep (t : Nat) (n : Nat) (s : State) : Keeps s (chargeTx t n s) := by
  show Kept _ _; unfold chargeTx; (try dsimp only); (repeat' split) <;> simp [Kept, Keeps]

@[simp] theorem chargeRx_keep (t : Nat) (n : Nat) (s : State) : Keeps s (chargeRx t n s) := by
  show Kept _ _; unfold chargeRx; (try dsimp only); (repeat' split) <;> simp [Kept, Keeps]

@[simp] theorem keepSlot_keep (p : Nat) (landing : Bool) (i : Nat) (bytes : List Byte) (s : State) : Keeps s (keepSlot p landing i bytes s) := by
  show Kept _ _; unfold keepSlot; (try dsimp only); (repeat' split) <;> simp [Kept, Keeps]

@[simp] theorem placeItem_keep (x : TxFlit) (s : State) : Keeps s (placeItem x s).2 := by
  show Kept _ _; unfold placeItem; (try dsimp only); (repeat' split) <;> simp [Kept, Keeps]

@[simp] theorem placeAll_keep (xs : List TxFlit) (s : State) : Keeps s (placeAll xs s).2 := by
  induction xs generalizing s with
  | nil => exact Keeps.refl s
  | cons x xs ih => exact (placeItem_keep x s).trans (ih _)

@[simp] theorem sendFlit_keep (p : Nat) (s : State) (f : SentFlit) : Keeps s (sendFlit p s f) := by
  show Kept _ _; unfold sendFlit; (try dsimp only); (repeat' split) <;> simp [Kept, Keeps]

@[simp] theorem sendFrame_keep (p ltag : Nat) (s : State) : Keeps s (sendFrame p ltag s) := by
  show Kept _ _; unfold sendFrame; (try dsimp only); (repeat' split) <;> simp [Kept, Keeps]

@[simp] theorem pumpPort_keep (p n : Nat) (s : State) : Keeps s (pumpPort p n s) := by
  induction n generalizing s with
  | zero => exact Keeps.refl s
  | succ n ih =>
    unfold pumpPort; split
    · exact Keeps.refl s
    · exact (sendFrame_keep _ _ _).trans (ih _)

@[simp] theorem settleRun_keep (s : State) (r : CollRun) : Keeps s (settleRun s r) := by
  show Kept _ _; unfold settleRun; (try dsimp only); (repeat' split) <;> simp [Kept, Keeps]

@[simp] theorem settleRuns_keep (s : State) : Keeps s (settleRuns s) := by
  show Kept _ _; unfold settleRuns; (try dsimp only); (repeat' split) <;> simp [Kept, Keeps]

@[simp] theorem pump_keep (s : State) : Keeps s (pump s) := by
  unfold pump
  have h := placeAll_keep s.fab.tx s
  generalize placeAll s.fab.tx s = o at h ⊢
  obtain ⟨xs, s1⟩ := o
  dsimp only
  refine h.trans ?_
  simp [Keeps]

@[simp] theorem sendPkts_keep (dest : Nat) (ltag : Nat) (t : Nat) (ps : List Packet) (s : State) : Keeps s (sendPkts dest ltag t ps s) := by
  show Kept _ _; unfold sendPkts; (try dsimp only); (repeat' split) <;> simp [Kept, Keeps]

@[simp] theorem requeue_keep (p : Nat) (s : State) : Keeps s (requeue p s) := by
  show Kept _ _; unfold requeue; (try dsimp only); (repeat' split) <;> simp [Kept, Keeps]

@[simp] theorem settlePort_keep (s : State) (t : Nat) : Keeps s (settlePort s t) := by
  show Kept _ _; unfold settlePort; (try dsimp only); (repeat' split) <;> simp [Kept, Keeps]

@[simp] theorem resetLoads_keep (s : State) : Keeps s (resetLoads s) := by
  show Kept _ _; unfold resetLoads; (try dsimp only); (repeat' split) <;> simp [Kept, Keeps]

@[simp] theorem portChanged_keep (s : State) : Keeps s (portChanged s) := by
  show Kept _ _; unfold portChanged; (try dsimp only); (repeat' split) <;> simp [Kept, Keeps]

@[simp] theorem answerAck_keep (s : State) (a : AckDue) : Keeps s (answerAck s a) := by
  show Kept _ _; unfold answerAck; (try dsimp only); (repeat' split) <;> simp [Kept, Keeps]

@[simp] theorem settleOwed_keep (s : State) : Keeps s (settleOwed s) := by
  show Kept _ _; unfold settleOwed; (try dsimp only); (repeat' split) <;> simp [Kept, Keeps]

@[simp] theorem settleAcks_keep (s : State) : Keeps s (settleAcks s) := by
  show Kept _ _; unfold settleAcks; (try dsimp only); (repeat' split) <;> simp [Kept, Keeps]

@[simp] theorem addPart_keep (k : Packet) (keep : Bool) (status : Nat) (s : State) : Keeps s (addPart k keep status s).2 := by
  show Kept _ _; unfold addPart; (try dsimp only); (repeat' split) <;> simp [Kept, Keeps]

@[simp] theorem countDiscard_keep (p : Nat) (s : State) : Keeps s (countDiscard p s) := by
  show Kept _ _; unfold countDiscard; (try dsimp only); (repeat' split) <;> simp [Kept, Keeps]

@[simp] theorem discardFlit_keep (p : Nat) (ltag : Nat) (s : State) : Keeps s (discardFlit p ltag s) := by
  show Kept _ _; unfold discardFlit; (try dsimp only); (repeat' split) <;> simp [Kept, Keeps]

@[simp] theorem landWrite_keep (e : TagEnt) (k : Packet) (o n : Nat) (s : State) : Keeps s (landWrite e k o n s).1 := by
  show Kept _ _; unfold landWrite; (try dsimp only); (repeat' split) <;> simp [Kept, Keeps]

@[simp] theorem landRead_keep (e : TagEnt) (k : Packet) (s : State) : Keeps s (landRead e k s) := by
  show Kept _ _; unfold landRead; (try dsimp only); (repeat' split) <;> simp [Kept, Keeps]

@[simp] theorem landAck_keep (k : Packet) (s : State) : Keeps s (landAck k s) := by
  show Kept _ _; unfold landAck; (try dsimp only); (repeat' split) <;> simp [Kept, Keeps]

@[simp] theorem finishRead_keep (c : Nat) (id : Nat) (bytes : List Byte) (fs : List Bool) (s : State) : Keeps s (finishRead c id bytes fs s) := by
  show Kept _ _; unfold finishRead; (try dsimp only); (repeat' split) <;> simp [Kept, Keeps]

@[simp] theorem State.modLrn_keep (s : State) (t : Nat) (f : Lrn → Lrn) : Keeps s (State.modLrn s t f) := by
  show Kept _ _; unfold State.modLrn; (try dsimp only); (repeat' split) <;> simp [Kept, Keeps]

@[simp] theorem State.modLregs_keep (s : State) (t : Nat) (f : LrnRegs → LrnRegs) : Keeps s (State.modLregs s t f) := by
  show Kept _ _; unfold State.modLregs; (try dsimp only); (repeat' split) <;> simp [Kept, Keeps]

@[simp] theorem settleWhet_keep (n : Nat) (s : State) : Keeps s (settleWhet n s) := by
  show Kept _ _; unfold settleWhet; (try dsimp only); (repeat' split) <;> simp [Kept, Keeps]

@[simp] theorem settleWhets_keep (s : State) : Keeps s (settleWhets s) := by
  show Kept _ _; unfold settleWhets; (try dsimp only); (repeat' split) <;> simp [Kept, Keeps]

@[simp] theorem windowWrite_keep (t : Nat) (a : Nat) (bytes : List Byte) (s : State) : Keeps s (windowWrite t a bytes s) := by
  show Kept _ _; unfold windowWrite; (try dsimp only); (repeat' split) <;> simp [Kept, Keeps]

@[simp] theorem syncGov_keep (t : Nat) (s : State) : Keeps s (syncGov t s) := by
  show Kept _ _; unfold syncGov; (try dsimp only); (repeat' split) <;> simp [Kept, Keeps]

@[simp] theorem gatherStats_keep (t : Nat) (i : Nat) (s : State) : Keeps s (gatherStats t i s) := by
  show Kept _ _; unfold gatherStats; (try dsimp only); (repeat' split) <;> simp [Kept, Keeps]

@[simp] theorem setNode_keep (k : Nat × Nat × Nat) (x : CollNode) (s : State) : Keeps s (setNode k x s) := by
  show Kept _ _; unfold setNode; (try dsimp only); (repeat' split) <;> simp [Kept, Keeps]

@[simp] theorem sendRank_keep (t : Nat) (g : GroupRec) (r : Nat) (base : Packet) (bs : List Byte) (fs : List Bool) (s : State) : Keeps s (sendRank t g r base bs fs s) := by
  show Kept _ _; unfold sendRank; (try dsimp only); (repeat' split) <;> simp [Kept, Keeps]

@[simp] theorem partDone_keep (c : Nat) (id : Nat) (tok : Nat) (status : Nat) (s : State) : Keeps s (partDone c id tok status s) := by
  show Kept _ _; unfold partDone; (try dsimp only); (repeat' split) <;> simp [Kept, Keeps]

@[simp] theorem putOut_keep (c id : Nat) (outs : List (Nat × List Byte × List Bool)) (s : State) : Keeps s (putOut c id outs s).1 := by
  show Kept _ _; unfold putOut; (try dsimp only); (repeat' split) <;> simp [Kept, Keeps]

@[simp] theorem noteShard_keep (t : Nat) (d : CollDesc) (count : Nat) (nf : Bool) (s : State) : Keeps s (noteShard t d count nf s) := by
  show Kept _ _; unfold noteShard; (try dsimp only); (repeat' split) <;> simp [Kept, Keeps]

@[simp] theorem putResult_keep (c id : Nat) (d : CollDesc) (td : Word) (bs : List Byte) (fs : List Bool) (count : Nat) (s : State) : Keeps s (putResult c id d td bs fs count s).1 := by
  show Kept _ _; unfold putResult; (try dsimp only); (repeat' split) <;> simp [Kept, Keeps]

@[simp] theorem flood_keep (t tree inst : Nat) (g : GroupRec) (c id r : Nat) (dests : List Nat) (count : Nat) (bs : List Byte) (fs : List Bool) (s : State) : Keeps s (flood t tree inst g c id r dests count bs fs s) := by
  show Kept _ _; unfold flood; (try dsimp only); (repeat' split) <;> simp [Kept, Keeps]

@[simp] theorem tryNode_keep (k : Nat × Nat × Nat) (s : State) : Keeps s (tryNode k s) := by
  show Kept _ _; unfold tryNode; (try dsimp only); (repeat' split) <;> simp [Kept, Keeps]

@[simp] theorem lateChild_keep (t : Nat) (s : State) : Keeps s (lateChild t s) := by
  show Kept _ _; unfold lateChild; (try dsimp only); (repeat' split) <;> simp [Kept, Keeps]

@[simp] theorem contribute_keep (t tree inst child tchk : Nat) (present : Bool) (v : RedIn) (s : State) : Keeps s (contribute t tree inst child tchk present v s) := by
  show Kept _ _; unfold contribute; (try dsimp only); (repeat' split) <;> simp [Kept, Keeps]

@[simp] theorem arriveDown_keep (t tree inst from_ count : Nat) (bs : List Byte) (fs : List Bool) (s : State) : Keeps s (arriveDown t tree inst from_ count bs fs s) := by
  show Kept _ _; unfold arriveDown; (try dsimp only); (repeat' split) <;> simp [Kept, Keeps]

@[simp] theorem arriveBlock_keep (t inst src : Nat) (bs : List Byte) (fs : List Bool) (s : State) : Keeps s (arriveBlock t inst src bs fs s) := by
  show Kept _ _; unfold arriveBlock; (try dsimp only); (repeat' split) <;> simp [Kept, Keeps]

@[simp] theorem freePosted_keep (t inst : Nat) (trees : List Nat) (s : State) : Keeps s (freePosted t inst trees s) := by
  show Kept _ _; unfold freePosted; (try dsimp only); (repeat' split) <;> simp [Kept, Keeps]

@[simp] theorem landColl_keep (k : Packet) (bs : List Byte) (fs : List Bool) (s : State) : Keeps s (landColl k bs fs s) := by
  show Kept _ _; unfold landColl; (try dsimp only); (repeat' split) <;> simp [Kept, Keeps]

@[simp] theorem drainLocal_keep (n : Nat) (s : State) : Keeps s (drainLocal n s) := by
  induction n generalizing s with
  | zero => exact Keeps.refl s
  | succ n ih =>
    show Kept _ _; unfold drainLocal
    split
    · exact Keeps.refl s
    · next x _ =>
      extract_lets f s1
      have h1 := addPart_keep x true 0 s1
      generalize addPart x true 0 s1 = o at h1 ⊢
      obtain ⟨g, s2⟩ := o
      refine Keeps.trans (Keeps.trans (t := s1) ⟨rfl, rfl, rfl⟩ h1) (Keeps.trans (t := if g.got < x.total then s2 else landColl x g.bytes.1 g.bytes.2 s2) ?_ (ih _))
      split
      · exact Keeps.refl s2
      · exact landColl_keep _ _ _ _

@[simp] theorem settleLocal_keep (s : State) : Keeps s (settleLocal s) := by
  show Kept _ _; unfold settleLocal; (try dsimp only); (repeat' split) <;> simp [Kept, Keeps]

@[simp] theorem postNode_keep (t : Nat) (c : Nat) (id : Nat) (tree : Nat) (inst : Nat) (d : CollDesc) (ta : Word) (td : Word) (own : Option RedIn) (s : State) : Keeps s (postNode t c id tree inst d ta td own s) := by
  show Kept _ _; unfold postNode; (try dsimp only); (repeat' split) <;> simp [Kept, Keeps]

@[simp] theorem postPass_keep (t c id tree inst : Nat) (d : CollDesc) (ta td : Word) (s : State) : Keeps s (postPass t c id tree inst d ta td s) := by
  show Kept _ _; unfold postPass; (try dsimp only); (repeat' split) <;> simp [Kept, Keeps]

@[simp] theorem beginExchange_keep (c id t : Nat) (d : CollDesc) (g : GroupRec) (r sp : Nat) (data : List Byte) (fs : List Bool) (s : State) :
    Keeps s (beginExchange c id t d g r sp data fs s) := by
  unfold beginExchange; extract_lets n cut bad s1 s2
  have h1 : Keeps s s1 := by
    refine foldl_keeps _ ?_ _ s
    intro s q; (try dsimp only); split
    · exact Keeps.refl s
    · exact sendRank_keep _ _ _ _ _ _ _
  refine (h1.trans (arriveBlock_keep _ _ _ _ _ _)).trans (foldl_keeps _ ?_ _ _)
  intro s q; (try dsimp only); split
  · exact Keeps.trans ⟨rfl, rfl, rfl⟩ (arriveBlock_keep _ _ _ _ _ _)
  · exact Keeps.refl s

@[simp] theorem gradStats_keep (t : Nat) (d : CollDesc) (grad : Option Nat) (s : State) : Keeps s (gradStats t d grad s) := by
  show Kept _ _; unfold gradStats; (try dsimp only); (repeat' split) <;> simp [Kept, Keeps]

@[simp] theorem beginColl_keep (c id t : Nat) (d : CollDesc) (g : GroupRec) (r : Nat) (s : State) : Keeps s (beginColl c id t d g r s) := by
  unfold beginColl; extract_lets k n ta grad td
  split
  · exact Keeps.trans (noteXlat_keep _ _ _) (setStage_keep _ _ _ _)
  · next ls _ =>
    extract_lets data fs run s0 s2 s3
    have h0 : Keeps s s0 := by simp [s0, Keeps]
    have h2 : Keeps s s2 := (h0.trans (gradStats_keep _ _ _ _)).trans (chargeStacks_keep _ _ _ _)
    have h3 : Keeps s2 s3 := foldl_keeps _ (fun _ _ => postPass_keep _ _ _ _ _ _ _ _ _) _ _
    clear_value s3
    clear_value s2
    split
    · generalize ownInputs d ta td (gradRec s t d) data fs (if d.coll == 4 then n else 1) = o
      obtain ⟨owns, rep⟩ := o
      dsimp only
      refine Keeps.trans ?_ (freePosted_keep _ _ _ _)
      refine Keeps.trans (h2.trans (noteArith_keep _ _ _)) (foldl_keeps _ ?_ _ _)
      intro s e; exact postNode_keep _ _ _ _ _ _ _ _ _ _
    · split
      · exact (h2.trans (beginExchange_keep _ _ _ _ _ _ _ _ _ _)).trans (freePosted_keep _ _ _ _)
      · refine Keeps.trans ?_ (freePosted_keep _ _ _ _)
        split
        · exact (h2.trans h3).trans (arriveDown_keep _ _ _ _ _ _ _ _)
        · exact h2.trans h3

@[simp] theorem runColl_keep (c id : Nat) (s : State) : Keeps s (runColl c id s) := by
  show Kept _ _; unfold runColl; (try dsimp only); (repeat' split) <;> simp [Kept, Keeps]

@[simp] theorem execCollective_keep (c : Nat) (id : Nat) (s : State) : Keeps s (stateAfter s (execCollective c id s)) := by
  show Kept _ _; unfold execCollective
  refine engine_keep _ _ ?_; intro s; (try dsimp only); (repeat' split) <;> simp [Kept, Keeps]

@[simp] theorem execCollectiveTimeout_keep (t : Nat) (tree : Nat) (inst : Nat) (s : State) : Keeps s (stateAfter s (execCollectiveTimeout t tree inst s)) := by
  show Kept _ _; unfold execCollectiveTimeout
  refine engine_keep _ _ ?_; intro s; (try dsimp only); (repeat' split) <;> simp [Kept, Keeps]

@[simp] theorem runRemoteWrite_keep (c : Nat) (id : Nat) (s : State) : Keeps s (runRemoteWrite c id s) := by
  show Kept _ _; unfold runRemoteWrite; (try dsimp only); (repeat' split) <;> simp [Kept, Keeps]

@[simp] theorem execRemoteWrite_keep (c : Nat) (id : Nat) (s : State) : Keeps s (stateAfter s (execRemoteWrite c id s)) := by
  show Kept _ _; unfold execRemoteWrite
  refine engine_keep _ _ ?_; intro s; (try dsimp only); (repeat' split) <;> simp [Kept, Keeps]

@[simp] theorem runRemoteRead_keep (c : Nat) (id : Nat) (s : State) : Keeps s (runRemoteRead c id s) := by
  show Kept _ _; unfold runRemoteRead; (try dsimp only); (repeat' split) <;> simp [Kept, Keeps]

@[simp] theorem execRemoteRead_keep (c : Nat) (id : Nat) (s : State) : Keeps s (stateAfter s (execRemoteRead c id s)) := by
  show Kept _ _; unfold execRemoteRead
  refine engine_keep _ _ ?_; intro s; (try dsimp only); (repeat' split) <;> simp [Kept, Keeps]

@[simp] theorem execNoRoute_keep (c : Nat) (id : Nat) (s : State) : Keeps s (stateAfter s (execNoRoute c id s)) := by
  show Kept _ _; unfold execNoRoute
  refine engine_keep _ _ ?_; intro s; (try dsimp only); (repeat' split) <;> simp [Kept, Keeps]

theorem portStep_keep (p : Nat) (f : State → State) (s : State) (h : ∀ s, Kept s (f s)) : Keeps s (stateAfter s (portStep p f s)) := by
  refine engine_keep _ _ ?_
  intro s; dsimp only; split
  · exact Keeps.refl s
  · split
    · exact h s
    · exact (h s).trans (portChanged_keep _)

@[simp] theorem holdPort_keep (p : Nat) (s : State) : Keeps s (holdPort p s) := by
  show Kept _ _; unfold holdPort; (try dsimp only); (repeat' split) <;> simp [Kept, Keeps]

@[simp] theorem execPortSignalDetect_keep (p : Nat) (s : State) : Keeps s (stateAfter s (execPortSignalDetect p s)) := by
  show Kept _ _; unfold execPortSignalDetect
  refine portStep_keep _ _ _ ?_; intro s; (try dsimp only); (repeat' split) <;> simp [Kept, Keeps]

@[simp] theorem execPortEqualizeDone_keep (p : Nat) (quarters : Nat) (s : State) : Keeps s (stateAfter s (execPortEqualizeDone p quarters s)) := by
  show Kept _ _; unfold execPortEqualizeDone
  refine portStep_keep _ _ _ ?_; intro s; (try dsimp only); (repeat' split) <;> simp [Kept, Keeps]

@[simp] theorem execPortMap_keep (p : Nat) (reversed : Bool) (crossed : Bool) (polarity : Nat) (bad : Nat) (s : State) : Keeps s (stateAfter s (execPortMap p reversed crossed polarity bad s)) := by
  show Kept _ _; unfold execPortMap
  refine portStep_keep _ _ _ ?_; intro s; (try dsimp only); (repeat' split) <;> simp [Kept, Keeps]

@[simp] theorem resendFlit_keep (p : Nat) (s : State) (f : SentFlit) : Keeps s (resendFlit p s f) := by
  show Kept _ _; unfold resendFlit; (try dsimp only); (repeat' split) <;> simp [Kept, Keeps]

@[simp] theorem measureRtt_keep (p rtt : Nat) (s : State) : Keeps s (measureRtt p rtt s) := by
  show Kept _ _; unfold measureRtt; (try dsimp only); (repeat' split) <;> simp [Kept, Keeps]

@[simp] theorem raisePort_keep (p : Nat) (s : State) : Keeps s (raisePort p s) := by
  show Kept _ _; unfold raisePort; (try dsimp only); (repeat' split) <;> simp [Kept, Keeps]

@[simp] theorem execPortIdent_keep (p : Nat) (lmid : Nat) (port : Nat) (serial : Nat) (rtt : Nat) (s : State) : Keeps s (stateAfter s (execPortIdent p lmid port serial rtt s)) := by
  show Kept _ _; unfold execPortIdent
  refine portStep_keep _ _ _ ?_; intro s; (try dsimp only); (repeat' split) <;> simp [Kept, Keeps]

@[simp] theorem execPortHeldRetry_keep (p : Nat) (s : State) : Keeps s (stateAfter s (execPortHeldRetry p s)) := by
  show Kept _ _; unfold execPortHeldRetry
  refine portStep_keep _ _ _ ?_; intro s; (try dsimp only); (repeat' split) <;> simp [Kept, Keeps]

@[simp] theorem leaveUp_keep (p : Nat) (st : PortSt) (s : State) : Keeps s (leaveUp p st s) := by
  show Kept _ _; unfold leaveUp; (try dsimp only); (repeat' split) <;> simp [Kept, Keeps]

@[simp] theorem retrainPort_keep (p : Nat) (s : State) : Keeps s (retrainPort p s) := by
  show Kept _ _; unfold retrainPort; (try dsimp only); (repeat' split) <;> simp [Kept, Keeps]

@[simp] theorem execPortRetrainTrigger_keep (p : Nat) (s : State) : Keeps s (stateAfter s (execPortRetrainTrigger p s)) := by
  show Kept _ _; unfold execPortRetrainTrigger
  refine portStep_keep _ _ _ ?_; intro s; (try dsimp only); (repeat' split) <;> simp [Kept, Keeps]

@[simp] theorem execRetrain_keep (p : Nat) (s : State) : Keeps s (stateAfter s (execRetrain p s)) := by
  show Kept _ _; unfold execRetrain
  refine portStep_keep _ _ _ ?_; intro s; (try dsimp only); (repeat' split) <;> simp [Kept, Keeps]

@[simp] theorem execPortSignalLoss_keep (p : Nat) (s : State) : Keeps s (stateAfter s (execPortSignalLoss p s)) := by
  show Kept _ _; unfold execPortSignalLoss
  refine portStep_keep _ _ _ ?_; intro s; (try dsimp only); (repeat' split) <;> simp [Kept, Keeps]

@[simp] theorem execPortOutageTimeout_keep (p : Nat) (s : State) : Keeps s (stateAfter s (execPortOutageTimeout p s)) := by
  show Kept _ _; unfold execPortOutageTimeout
  refine portStep_keep _ _ _ ?_; intro s; (try dsimp only); (repeat' split) <;> simp [Kept, Keeps]

@[simp] theorem execRelease_keep (p : Nat) (s : State) : Keeps s (stateAfter s (execRelease p s)) := by
  show Kept _ _; unfold execRelease
  refine portStep_keep _ _ _ ?_; intro s; (try dsimp only); (repeat' split) <;> simp [Kept, Keeps]

@[simp] theorem execPortClr_keep (p : Nat) (s : State) : Keeps s (stateAfter s (execPortClr p s)) := by
  show Kept _ _; unfold execPortClr
  refine regWrite_keep _ _ ?_; intro s; (try dsimp only); (repeat' split) <;> simp [Kept, Keeps]

@[simp] theorem landPkt_keep (e : TagEnt) (k : Packet) (s : State) : Keeps s (landPkt e k s) := by
  show Kept _ _; unfold landPkt; (try dsimp only); (repeat' split) <;> simp [Kept, Keeps]

theorem landSpan_keep (e : TagEnt) (k : Packet) (acc : State × Bool) (x : Nat × Nat) : Keeps acc.1 (landSpan e k acc x).1 := by
  show Kept _ _; unfold landSpan; (try dsimp only); (repeat' split) <;> simp [Kept, Keeps]

@[simp] theorem notePart_keep (i : PktIdent) (spans : List (Nat × Nat)) (whole : Bool) (s : State) : Keeps s (notePart i spans whole s) := by
  show Kept _ _; unfold notePart; (try dsimp only); (repeat' split) <;> simp [Kept, Keeps]

theorem landSeg_keep (e : TagEnt) (acc : State × List Seg × Bool) (g : Seg) : Keeps acc.1 (landSeg e acc g).1 := by
  obtain ⟨s, waits, bad⟩ := acc
  unfold landSeg; dsimp -zeta only
  extract_lets i cov fresh spans whole s1
  have h : Keeps s s1 := (notePart_keep _ _ _ _).trans (chargeRx_keep _ _ _)
  clear_value s1
  split
  · exact Keeps.refl s
  · split
    · exact Keeps.refl s
    · split
      · exact h.trans (foldl_fst_keeps _ (fun a x => landSpan_keep e g.pkt a x) fresh (s1, false))
      · dsimp only; split
        · exact h.trans (landPkt_keep _ _ _)
        · exact h

@[simp] theorem freeSlot_keep (p : Nat) (f : RxFlit) (s : State) : Keeps s (freeSlot p f s) := by
  show Kept _ _; unfold freeSlot; (try dsimp only); (repeat' split) <;> simp [Kept, Keeps]

@[simp] theorem forwardFlit_keep (p : Nat) (f : RxFlit) (s : State) : Keeps s (forwardFlit p f s) := by
  show Kept _ _; unfold forwardFlit; (try dsimp only); (repeat' split) <;> simp [Kept, Keeps]

@[simp] theorem deliverFlit_keep (p : Nat) (s : State) (f : RxFlit) : Keeps s (deliverFlit p s f) := by
  unfold deliverFlit; split
  · exact discardFlit_keep _ _ _
  · next e _ =>
    split
    · exact forwardFlit_keep _ _ _
    · split
      · exact returnCredit_keep _ _ _
      · split
        · exact discardFlit_keep _ _ _
        · have h := foldl_fst_keeps (landSeg e) (fun a x => landSeg_keep e a x) f.segs (s, ([], false))
          generalize f.segs.foldl (landSeg e) (s, [], false) = o at h ⊢
          obtain ⟨s1, waits, bad⟩ := o
          dsimp only
          have h2 : Keeps s (if bad then countDiscard p s1 else s1) := by
            split
            · exact h.trans (countDiscard_keep _ _)
            · exact h
          split
          · exact h2.trans (freeSlot_keep _ _ _)
          · exact h2.trans (State.modPort_keep _ _ _)

@[simp] theorem freeInord_keep (p n : Nat) (s : State) : Keeps s (freeInord p n s) := by
  induction n generalizing s with
  | zero => exact Keeps.refl s
  | succ n ih =>
    unfold freeInord; dsimp only
    split
    · exact Keeps.refl s
    · split
      · refine Keeps.trans ?_ (ih _); simp [Keeps]
      · split
        · refine Keeps.trans ?_ (ih _); simp [Keeps]
        · exact Keeps.refl s

@[simp] theorem takeInOrder_keep (p n : Nat) (s : State) : Keeps s (takeInOrder p n s) := by
  induction n generalizing s with
  | zero => exact Keeps.refl s
  | succ n ih =>
    unfold takeInOrder; dsimp only
    split
    · exact Keeps.refl s
    · refine Keeps.trans ?_ (ih _)
      split <;> simp [Keeps]

@[simp] theorem ackUpTo_keep (p a : Nat) (s : State) : Keeps s (ackUpTo p a s) := by
  show Kept _ _; unfold ackUpTo; (try dsimp only); (repeat' split) <;> simp [Kept, Keeps]

@[simp] theorem creditBack_keep (p ltag n : Nat) (s : State) : Keeps s (creditBack p ltag n s) := by
  show Kept _ _; unfold creditBack; (try dsimp only); (repeat' split) <;> simp [Kept, Keeps]

@[simp] theorem takeData_keep (p : Nat) (f : RxFlit) (s : State) : Keeps s (takeData p f s) := by
  show Kept _ _; unfold takeData; (try dsimp only); (repeat' split) <;> simp [Kept, Keeps]

@[simp] theorem replayFlit_keep (p seqNo : Nat) (s : State) : Keeps s (replayFlit p seqNo s) := by
  show Kept _ _; unfold replayFlit; (try dsimp only); (repeat' split) <;> simp [Kept, Keeps]

@[simp] theorem tagControl_keep (p ltag : Nat) (ok : Bool) (s : State) : Keeps s (tagControl p ltag ok s) := by
  show Kept _ _; unfold tagControl; (try dsimp only); (repeat' split) <;> simp [Kept, Keeps]

@[simp] theorem takeFlit_keep (p : Nat) (f : RxFlit) (s : State) : Keeps s (takeFlit p f s) := by
  show Kept _ _; unfold takeFlit; (try dsimp only); (repeat' split) <;> simp [Kept, Keeps]

@[simp] theorem hearFlit_keep (p : Nat) (f : RxFlit) (s : State) : Keeps s (hearFlit p f s) := by
  show Kept _ _; unfold hearFlit; (try dsimp only); (repeat' split) <;> simp [Kept, Keeps]

@[simp] theorem execFlitReceive_keep (p : Nat) (f : RxFlit) (s : State) : Keeps s (stateAfter s (execFlitReceive p f s)) := by
  show Kept _ _; unfold execFlitReceive
  refine engine_keep _ _ ?_; intro s; (try dsimp only); (repeat' split) <;> simp [Kept, Keeps]

@[simp] theorem execReplayRequest_keep (p : Nat) (seqNo : Nat) (s : State) : Keeps s (stateAfter s (execReplayRequest p seqNo s)) := by
  show Kept _ _; unfold execReplayRequest
  refine engine_keep _ _ ?_; intro s; (try dsimp only); (repeat' split) <;> simp [Kept, Keeps]

@[simp] theorem execCreditReturn_keep (p : Nat) (ack : Option Nat) (ltag : Nat) (n : Nat) (s : State) : Keeps s (stateAfter s (execCreditReturn p ack ltag n s)) := by
  show Kept _ _; unfold execCreditReturn
  refine engine_keep _ _ ?_; intro s; (try dsimp only); (repeat' split) <;> simp [Kept, Keeps]

@[simp] theorem execLrAckTimer_keep (p : Nat) (s : State) : Keeps s (stateAfter s (execLrAckTimer p s)) := by
  show Kept _ _; unfold execLrAckTimer
  refine engine_keep _ _ ?_; intro s; (try dsimp only); (repeat' split) <;> simp [Kept, Keeps]

@[simp] theorem askFrame_keep (p : Nat) (fr rest : List RxFlit) (s : State) : Keeps s (askFrame p fr rest s) := by
  show Kept _ _; unfold askFrame; (try dsimp only); (repeat' split) <;> simp [Kept, Keeps]

@[simp] theorem execFrameAuthenticate_keep (p : Nat) (ltag : Nat) (ok : Bool) (s : State) : Keeps s (stateAfter s (execFrameAuthenticate p ltag ok s)) := by
  show Kept _ _; unfold execFrameAuthenticate
  refine engine_keep _ _ ?_; intro s; (try dsimp only); (repeat' split) <;> simp [Kept, Keeps]

@[simp] theorem execRangingExchange_keep (p : Nat) (t1 : Nat) (t2 : Nat) (t3 : Nat) (t4 : Nat) (s : State) : Keeps s (stateAfter s (execRangingExchange p t1 t2 t3 t4 s)) := by
  show Kept _ _; unfold execRangingExchange
  refine engine_keep _ _ ?_; intro s; (try dsimp only); (repeat' split) <;> simp [Kept, Keeps]

@[simp] theorem execRangingResult_keep (p : Nat) (s : State) : Keeps s (stateAfter s (execRangingResult p s)) := by
  show Kept _ _; unfold execRangingResult
  refine engine_keep _ _ ?_; intro s; (try dsimp only); (repeat' split) <;> simp [Kept, Keeps]

@[simp] theorem execAccept_keep (p : Nat) (s : State) : Keeps s (stateAfter s (execAccept p s)) := by
  show Kept _ _; unfold execAccept
  refine regWrite_keep _ _ ?_; intro s; (try dsimp only); (repeat' split) <;> simp [Kept, Keeps]

@[simp] theorem execRefMmWrite_keep (p : Nat) (v : Nat) (s : State) : Keeps s (stateAfter s (execRefMmWrite p v s)) := by
  show Kept _ _; unfold execRefMmWrite
  refine regWrite_keep _ _ ?_; intro s; (try dsimp only); (repeat' split) <;> simp [Kept, Keeps]

@[simp] theorem syncOpt_keep (t : Nat) (s : State) : Keeps s (syncOpt t s) := by
  show Kept _ _; unfold syncOpt; (try dsimp only); (repeat' split) <;> simp [Kept, Keeps]

@[simp] theorem syncGroup_keep (t : Nat) (g : Nat) (s : State) : Keeps s (syncGroup t g s) := by
  show Kept _ _; unfold syncGroup; (try dsimp only); (repeat' split) <;> simp [Kept, Keeps]

@[simp] theorem State.modJob_keep (s : State) (j : Nat) (f : Job → Job) : Keeps s (State.modJob s j f) := by
  show Kept _ _; unfold State.modJob; (try dsimp only); (repeat' split) <;> simp [Kept, Keeps]

@[simp] theorem sendJob_keep (x : Job) (kind : String) (vals : List Nat) (s : State) : Keeps s (sendJob x kind vals s) := by
  show Kept _ _; unfold sendJob; (try dsimp only); (repeat' split) <;> simp [Kept, Keeps]

@[simp] theorem takeArm_keep (j : Nat) (s : State) : Keeps s (takeArm j s) := by
  show Kept _ _; unfold takeArm; (try dsimp only); (repeat' split) <;> simp [Kept, Keeps]

@[simp] theorem coordArm_keep (j : Nat) (s : State) : Keeps s (coordArm j s) := by
  show Kept _ _; unfold coordArm; (try dsimp only); (repeat' split) <;> simp [Kept, Keeps]

@[simp] theorem releaseAllHeld_keep (s : State) : Keeps s (releaseAllHeld s) := by
  show Kept _ _; unfold releaseAllHeld; (try dsimp only); (repeat' split) <;> simp [Kept, Keeps]

@[simp] theorem armJob_keep (j : Nat) (s : State) : Keeps s (armJob j s) := by
  show Kept _ _; unfold armJob; (try dsimp only); (repeat' split) <;> simp [Kept, Keeps]

@[simp] theorem tryVerdict_keep (t : Nat) (s : State) : Keeps s (tryVerdict t s) := by
  show Kept _ _; unfold tryVerdict; (try dsimp only); (repeat' split) <;> simp [Kept, Keeps]

@[simp] theorem postContrib_keep (t : Nat) (v : VContrib) (s : State) : Keeps s (postContrib t v s) := by
  show Kept _ _; unfold postContrib; (try dsimp only); (repeat' split) <;> simp [Kept, Keeps]

@[simp] theorem verdictChild_keep (t : Nat) (child : Nat) (tchk : Nat) (v : VContrib) (s : State) : Keeps s (verdictChild t child tchk v s) := by
  show Kept _ _; unfold verdictChild; (try dsimp only); (repeat' split) <;> simp [Kept, Keeps]

@[simp] theorem decideRoot_keep (t : Nat) (s : State) : Keeps s (decideRoot t s) := by
  show Kept _ _; unfold decideRoot; (try dsimp only); (repeat' split) <;> simp [Kept, Keeps]

@[simp] theorem forwardVerdict_keep (t : Nat) (v : VerdictRec) (s : State) : Keeps s (forwardVerdict t v s) := by
  show Kept _ _; unfold forwardVerdict; (try dsimp only); (repeat' split) <;> simp [Kept, Keeps]

@[simp] theorem applyGset_keep (t : Nat) (s : State) (g : HeldGset) : Keeps s (applyGset t s g) := by
  show Kept _ _; unfold applyGset; (try dsimp only); (repeat' split) <;> simp [Kept, Keeps]

@[simp] theorem applyGsets_keep (t : Nat) (n : Nat) (s : State) : Keeps s (applyGsets t n s) := by
  show Kept _ _; unfold applyGsets; (try dsimp only); (repeat' split) <;> simp [Kept, Keeps]

@[simp] theorem loadConsts_keep (t : Nat) (v : VerdictRec) (s : State) : Keeps s (loadConsts t v s) := by
  show Kept _ _; unfold loadConsts; (try dsimp only); (repeat' split) <;> simp [Kept, Keeps]

@[simp] theorem fireActions_keep (t : Nat) (n : Nat) (s : State) : Keeps s (fireActions t n s) := by
  show Kept _ _; unfold fireActions; (try dsimp only); (repeat' split) <;> simp [Kept, Keeps]

@[simp] theorem endLearn_keep (t : Nat) (s : State) : Keeps s (endLearn t s) := by
  show Kept _ _; unfold endLearn; (try dsimp only); (repeat' split) <;> simp [Kept, Keeps]

@[simp] theorem commitStep_keep (t : Nat) (n : Nat) (s : State) : Keeps s (commitStep t n s) := by
  show Kept _ _; unfold commitStep; (try dsimp only); (repeat' split) <;> simp [Kept, Keeps]

@[simp] theorem putWhet_keep (t j n status elems : Nat) (r : NearRange) (s : State) : Keeps s (putWhet t j n status elems r s) := by
  show Kept _ _; unfold putWhet; (try dsimp only); (repeat' split) <;> simp [Kept, Keeps]

@[simp] theorem endWhet_keep (t : Nat) (j : Nat) (status : Nat) (elems : Nat) (s : State) : Keeps s (endWhet t j status elems s) := by
  show Kept _ _; unfold endWhet; (try dsimp only); (repeat' split) <;> simp [Kept, Keeps]

@[simp] theorem issueWhets_keep (t : Nat) (n : Nat) (skip : Bool) (s : State) : Keeps s (issueWhets t n skip s) := by
  show Kept _ _; unfold issueWhets; (try dsimp only); (repeat' split) <;> simp [Kept, Keeps]

@[simp] theorem applyVerdict_keep (t : Nat) (v : VerdictRec) (s : State) : Keeps s (applyVerdict t v s) := by
  show Kept _ _; unfold applyVerdict; (try dsimp only); (repeat' split) <;> simp [Kept, Keeps]

@[simp] theorem countStall_keep (t : Nat) (who : Nat) (s : State) : Keeps s (countStall t who s) := by
  show Kept _ _; unfold countStall; (try dsimp only); (repeat' split) <;> simp [Kept, Keeps]

theorem optBody_keep (o : OptOp) (c : Nat) (w : VecWord) (s : State) (u : State) (h : optBody o c w s = .ok u) : Keeps s u := by
  unfold optBody at h; (repeat' (first | split at h | (dsimp only at h; split at h))) <;> first
    | exact vecBody_keep _ _ _ _ _ _ h
    | exact scatAddBody_keep _ _ _ _ _ _ h
    | (cases h <;> simp [Keeps])

@[simp] theorem holdOptm_keep (o : OptOp) (c : Nat) (w : VecWord) (s : State) : Keeps s (holdOptm o c w s) := by
  show Kept _ _; unfold holdOptm; (try dsimp only); (repeat' split) <;> simp [Kept, Keeps]

@[simp] theorem optm_keep (o : OptOp) (c : Nat) (w : VecWord) (s : State) : Keeps s (stateAfter s (optm o c w s)) := by
  unfold optm; split
  · simp [Keeps]
  · exact coreIssue_keep _ _ _ _ (fun s u h => optBody_keep _ _ _ _ _ h)

@[simp] theorem releaseCore_keep (s : State) (c : Nat) : Keeps s (releaseCore s c) := by
  unfold releaseCore; split
  · extract_lets o s1
    split
    · split <;> simp [Keeps]
    · exact (State.modRegs_keep s c _).trans (coreIssue_keep _ _ _ s1 (fun s u h => optBody_keep _ _ _ _ _ h))
  · exact Keeps.refl s

@[simp] theorem releaseOptm_keep (t : Nat) (s : State) : Keeps s (releaseOptm t s) := by
  show Kept _ _; unfold releaseOptm; (try dsimp only); (repeat' split) <;> simp [Kept, Keeps]

@[simp] theorem execOsgdm_keep (c : Nat) (w : VecWord) (s : State) : Keeps s (stateAfter s (execOsgdm c w s)) := by
  show Kept _ _; unfold execOsgdm
  exact optm_keep _ _ _ _

@[simp] theorem execOadam_keep (c : Nat) (w : VecWord) (s : State) : Keeps s (stateAfter s (execOadam c w s)) := by
  show Kept _ _; unfold execOadam
  exact optm_keep _ _ _ _

@[simp] theorem execOlion_keep (c : Nat) (w : VecWord) (s : State) : Keeps s (stateAfter s (execOlion c w s)) := by
  show Kept _ _; unfold execOlion
  exact optm_keep _ _ _ _

@[simp] theorem execOmom_keep (c : Nat) (w : VecWord) (s : State) : Keeps s (stateAfter s (execOmom c w s)) := by
  show Kept _ _; unfold execOmom
  exact optm_keep _ _ _ _

@[simp] theorem execOorth_keep (c : Nat) (w : VecWord) (s : State) : Keeps s (stateAfter s (execOorth c w s)) := by
  show Kept _ _; unfold execOorth
  exact optm_keep _ _ _ _

@[simp] theorem execLrnBind_keep (h : CmdHdr) (r : BindRecord) (s : State) : Keeps s (stateAfter s (execLrnBind h r s)) := by
  show Kept _ _; unfold execLrnBind
  refine hostCmd_keep _ _ _ _ ?_; intro s; (try dsimp only); (repeat' split) <;> simp [Kept, Keeps]

@[simp] theorem execReductionContribution_keep (t : Nat) (m : UpMsg) (s : State) : Keeps s (stateAfter s (execReductionContribution t m s)) := by
  show Kept _ _; unfold execReductionContribution
  refine engine_keep _ _ ?_; intro s; (try dsimp only); (repeat' split) <;> simp [Kept, Keeps]

@[simp] theorem execVerdictContribution_keep (t sumsq : Nat) (s : State) : Keeps s (stateAfter s (execVerdictContribution t sumsq s)) := by
  show Kept _ _; unfold execVerdictContribution
  refine engine_keep _ _ ?_; intro s; (try dsimp only); (repeat' split) <;> simp [Kept, Keeps]

@[simp] theorem execRootDecision_keep (t : Nat) (s : State) : Keeps s (stateAfter s (execRootDecision t s)) := by
  show Kept _ _; unfold execRootDecision
  refine engine_keep _ _ ?_; intro s; (try dsimp only); (repeat' split) <;> simp [Kept, Keeps]

@[simp] theorem execVerdictApply_keep (t : Nat) (v : VerdictRec) (s : State) : Keeps s (stateAfter s (execVerdictApply t v s)) := by
  show Kept _ _; unfold execVerdictApply
  refine engine_keep _ _ ?_; intro s; (try dsimp only); (repeat' split) <;> simp [Kept, Keeps]

@[simp] theorem execVerdictLate_keep (t : Nat) (s : State) : Keeps s (stateAfter s (execVerdictLate t s)) := by
  show Kept _ _; unfold execVerdictLate
  refine engine_keep _ _ ?_; intro s; (try dsimp only); (repeat' split) <;> simp [Kept, Keeps]

@[simp] theorem execLrnSkip_keep (h : CmdHdr) (job n : Nat) (s : State) : Keeps s (stateAfter s (execLrnSkip h job n s)) := by
  show Kept _ _; unfold execLrnSkip
  refine hostCmd_keep _ _ _ _ ?_; intro s; (try dsimp only); (repeat' split) <;> simp [Kept, Keeps]

@[simp] theorem execLrnEvtClr_keep (t : Nat) (s : State) : Keeps s (stateAfter s (execLrnEvtClr t s)) := by
  show Kept _ _; unfold execLrnEvtClr
  refine regWrite_keep _ _ ?_; intro s; (try dsimp only); (repeat' split) <;> simp [Kept, Keeps]

@[simp] theorem execLearnerStepCommand_keep (t : Nat) (n : Nat) (s : State) : Keeps s (stateAfter s (execLearnerStepCommand t n s)) := by
  show Kept _ _; unfold execLearnerStepCommand
  refine engine_keep _ _ ?_; intro s; (try dsimp only); (repeat' split) <;> simp [Kept, Keeps]

@[simp] theorem execOptGset_keep (h : CmdHdr) (g : Nat) (n : Nat) (r : GroupParam) (s : State) : Keeps s (stateAfter s (execOptGset h g n r s)) := by
  show Kept _ _; unfold execOptGset
  refine hostCmd_keep _ _ _ _ ?_; intro s; (try dsimp only); (repeat' split) <;> simp [Kept, Keeps]

@[simp] theorem execOptEvtClr_keep (t : Nat) (s : State) : Keeps s (stateAfter s (execOptEvtClr t s)) := by
  show Kept _ _; unfold execOptEvtClr
  refine regWrite_keep _ _ ?_; intro s; (try dsimp only); (repeat' split) <;> simp [Kept, Keeps]

@[simp] theorem execWhetStatusClr_keep (n : Nat) (s : State) : Keeps s (stateAfter s (execWhetStatusClr n s)) := by
  show Kept _ _; unfold execWhetStatusClr
  refine regWrite_keep _ _ ?_; intro s; (try dsimp only); (repeat' split) <;> simp [Kept, Keeps]

@[simp] theorem writeBits_keep (t : Nat) (a : Nat) (s : State) (w : Nat × Nat × Nat) : Keeps s (writeBits t a s w) := by
  show Kept _ _; unfold writeBits; (try dsimp only); (repeat' split) <;> simp [Kept, Keeps]

@[simp] theorem settleHold_keep (t : Nat) (s : State) : Keeps s (settleHold t s) := by
  show Kept _ _; unfold settleHold; (try dsimp only); (repeat' split) <;> simp [Kept, Keeps]

@[simp] theorem endShards_keep (t : Nat) (lo : Nat) (n : Nat) (s : State) : Keeps s (endShards t lo n s) := by
  show Kept _ _; unfold endShards; (try dsimp only); (repeat' split) <;> simp [Kept, Keeps]

@[simp] theorem storePieces_keep (r : LoadRecord) (l : List (Nat × List Byte)) (s : State) : Keeps s (storePieces r l s).1 := by
  induction l generalizing s with
  | nil => exact Keeps.refl s
  | cons e l ih =>
    unfold storePieces; dsimp only
    split
    · exact Keeps.refl s
    · split
      · exact writeLocs_keep _ _ _ _
      · exact Keeps.trans (Keeps.trans (writeLocs_keep _ _ _ _) (chargeStacks_keep _ _ _ _)) (ih _)

@[simp] theorem listFailed_keep (t : Nat) (a : Nat) (n : Nat) (s : State) : Keeps s (listFailed t a n s) := by
  show Kept _ _; unfold listFailed; (try dsimp only); (repeat' split) <;> simp [Kept, Keeps]

@[simp] theorem unlistFailed_keep (t : Nat) (a : Nat) (n : Nat) (s : State) : Keeps s (unlistFailed t a n s) := by
  show Kept _ _; unfold unlistFailed; (try dsimp only); (repeat' split) <;> simp [Kept, Keeps]

@[simp] theorem finishLoad_keep (l : HeldLoad) (src : List Byte) (ps : List (Nat × List Byte)) (s : State) : Keeps s (finishLoad l src ps s).1 := by
  show Kept _ _; unfold finishLoad; (try dsimp only); (repeat' split) <;> simp [Kept, Keeps]

@[simp] theorem completeLoad_keep (h : CmdHdr) (r : LoadRecord) (status : Nat) (s : State) : Keeps s (completeLoad h r status s) := by
  show Kept _ _; unfold completeLoad; (try dsimp only); (repeat' split) <;> simp [Kept, Keeps]

@[simp] theorem endLoad_keep (l : HeldLoad) (status : Nat) (s : State) : Keeps s (endLoad l status s) := by
  show Kept _ _; unfold endLoad; (try dsimp only); (repeat' split) <;> simp [Kept, Keeps]

@[simp] theorem execMemoryZeroing_keep (s : State) : Keeps s (stateAfter s (execMemoryZeroing s)) := by
  show Kept _ _; unfold execMemoryZeroing
  refine engine_keep _ _ ?_; intro s; (try dsimp only); (repeat' split) <;> simp [Kept, Keeps]

@[simp] theorem execPatrolScrub_keep (a : Nat) (found : Nat) (passEnd : Bool) (s : State) : Keeps s (stateAfter s (execPatrolScrub a found passEnd s)) := by
  show Kept _ _; unfold execPatrolScrub
  refine engine_keep _ _ ?_; intro s; (try dsimp only); (repeat' split) <;> simp [Kept, Keeps]

@[simp] theorem execStkEccClr_keep (n : Nat) (s : State) : Keeps s (stateAfter s (execStkEccClr n s)) := by
  show Kept _ _; unfold execStkEccClr
  refine regWrite_keep _ _ ?_; intro s; (try dsimp only); (repeat' split) <;> simp [Kept, Keeps]

@[simp] theorem execWtLoad_keep (h : CmdHdr) (r : LoadRecord) (s : State) : Keeps s (stateAfter s (execWtLoad h r s)) := by
  show Kept _ _; unfold execWtLoad
  refine hostCmd_keep _ _ _ _ ?_; intro s; (try dsimp only); (repeat' split) <;> simp [Kept, Keeps]

@[simp] theorem execLoadTurn_keep (scales : Bool) (s : State) : Keeps s (stateAfter s (execLoadTurn scales s)) := by
  show Kept _ _; unfold execLoadTurn
  refine engine_keep _ _ ?_; intro s; (try dsimp only); (repeat' split) <;> simp [Kept, Keeps]

@[simp] theorem execLoadEnd_keep (src : List Byte) (s : State) : Keeps s (stateAfter s (execLoadEnd src s)) := by
  show Kept _ _; unfold execLoadEnd
  refine engine_keep _ _ ?_; intro s; (try dsimp only); (repeat' split) <;> simp [Kept, Keeps]

@[simp] theorem execWtReady_keep (h : CmdHdr) (slot : Nat) (s : State) : Keeps s (stateAfter s (execWtReady h slot s)) := by
  show Kept _ _; unfold execWtReady
  refine hostCmd_keep _ _ _ _ ?_; intro s; (try dsimp only); (repeat' split) <;> simp [Kept, Keeps]

@[simp] theorem execWtRelease_keep (h : CmdHdr) (shard : Bool) (n : Nat) (s : State) : Keeps s (stateAfter s (execWtRelease h shard n s)) := by
  show Kept _ _; unfold execWtRelease
  refine hostCmd_keep _ _ _ _ ?_; intro s; (try dsimp only); (repeat' split) <;> simp [Kept, Keeps]

@[simp] theorem execWtTable_keep (h : CmdHdr) (addr : Nat) (s : State) : Keeps s (stateAfter s (execWtTable h addr s)) := by
  show Kept _ _; unfold execWtTable
  refine hostCmd_keep _ _ _ _ ?_; intro s; (try dsimp only); (repeat' split) <;> simp [Kept, Keeps]

end Sys2Proof.Machine
end

