-- ==== Sys2Proof/Laws/KeepHub.lean ====
section
/-! SUPPORT. The operations that keep them: troupes, checkpoints, the host link and casting. -/

namespace Sys2Proof.Machine

@[simp] theorem execDigestScrub_keep (i : Nat) (passEnd : Bool) (s : State) : Keeps s (stateAfter s (execDigestScrub i passEnd s)) := by
  show Kept _ _; unfold execDigestScrub
  refine engine_keep _ _ ?_; intro s; (try dsimp only); (repeat' split) <;> simp [Kept, Keeps]

@[simp] theorem execScrubEvtClr_keep (s : State) : Keeps s (stateAfter s (execScrubEvtClr s)) := by
  show Kept _ _; unfold execScrubEvtClr
  refine regWrite_keep _ _ ?_; intro s; (try dsimp only); (repeat' split) <;> simp [Kept, Keeps]

@[simp] theorem execCueExchange_keep (t1 t2 t3 t4 : Nat) (s : State) : Keeps s (stateAfter s (execCueExchange t1 t2 t3 t4 s)) := by
  show Kept _ _; unfold execCueExchange
  refine engine_keep _ _ ?_; intro s; (try dsimp only); (repeat' split) <;> simp [Kept, Keeps]

@[simp] theorem execCueExchangeTimeout_keep (s : State) : Keeps s (stateAfter s (execCueExchangeTimeout s)) := by
  unfold execCueExchangeTimeout
  refine engine_keep _ _ ?_
  intro s; split
  · exact unlockCue_keep s
  · exact Keeps.refl s

@[simp] theorem execBarrierArrival_keep (t : Nat) (b : Nat) (child : Nat) (steps : Option (Nat × Nat)) (s : State) : Keeps s (stateAfter s (execBarrierArrival t b child steps s)) := by
  show Kept _ _; unfold execBarrierArrival
  refine engine_keep _ _ ?_; intro s; (try dsimp only); (repeat' split) <;> simp [Kept, Keeps]

@[simp] theorem execBarrierTRelArrival_keep (t : Nat) (b : Nat) (rel : Nat) (steps : Option (Nat × Nat)) (s : State) : Keeps s (stateAfter s (execBarrierTRelArrival t b rel steps s)) := by
  show Kept _ _; unfold execBarrierTRelArrival
  refine engine_keep _ _ ?_; intro s; (try dsimp only); (repeat' split) <;> simp [Kept, Keeps]

@[simp] theorem execBarrierRelease_keep (t : Nat) (b : Nat) (s : State) : Keeps s (stateAfter s (execBarrierRelease t b s)) := by
  show Kept _ _; unfold execBarrierRelease
  refine engine_keep _ _ ?_; intro s; (try dsimp only); (repeat' split) <;> simp [Kept, Keeps]

@[simp] theorem execCueStall_keep (t : Nat) (b : Nat) (s : State) : Keeps s (stateAfter s (execCueStall t b s)) := by
  show Kept _ _; unfold execCueStall
  refine engine_keep _ _ ?_; intro s; (try dsimp only); (repeat' split) <;> simp [Kept, Keeps]

@[simp] theorem execCueEvtClr_keep (s : State) : Keeps s (stateAfter s (execCueEvtClr s)) := by
  show Kept _ _; unfold execCueEvtClr
  refine regWrite_keep _ _ ?_; intro s; (try dsimp only); (repeat' split) <;> simp [Kept, Keeps]

@[simp] theorem zeroMem_keep (a : Nat) (n : Nat) (s : State) : Keeps s (zeroMem a n s) := by
  show Kept _ _; unfold zeroMem; (try dsimp only); (repeat' split) <;> simp [Kept, Keeps]

@[simp] theorem settleMap_keep (t : Nat) (s : State) (m : HeldMap) : Keeps s (settleMap t s m) := by
  show Kept _ _; unfold settleMap; (try dsimp only); (repeat' split) <;> simp [Kept, Keeps]

@[simp] theorem settleMaps_keep (s : State) : Keeps s (settleMaps s) := by
  show Kept _ _; unfold settleMaps; (try dsimp only); (repeat' split) <;> simp [Kept, Keeps]

@[simp] theorem abandonWait_keep (c : Nat) (s : State) : Keeps s (abandonWait c s) := by
  show Kept _ _; unfold abandonWait; (try dsimp only); (repeat' split) <;> simp [Kept, Keeps]

@[simp] theorem stopCore_keep (c : Nat) (s : State) : Keeps s (stopCore c s) := by
  show Kept _ _; unfold stopCore; (try dsimp only); (repeat' split) <;> simp [Kept, Keeps]

@[simp] theorem renameCore_keep (a : Nat) (b : Nat) (s : State) : Keeps s (renameCore a b s) := by
  show Kept _ _; unfold renameCore; (try dsimp only); (repeat' split) <;> simp [Kept, Keeps]

@[simp] theorem saveCore_keep (t : Nat) (s : State) (c : Nat) : Keeps s (saveCore t s c) := by
  show Kept _ _; unfold saveCore; (try dsimp only); (repeat' split) <;> simp [Kept, Keeps]

@[simp] theorem giveCore_keep (t : Nat) (c : Nat) (k : Core) (s : State) : Keeps s (giveCore t c k s) := by
  show Kept _ _; unfold giveCore; (try dsimp only); (repeat' split) <;> simp [Kept, Keeps]

@[simp] theorem loadCore_keep (t : Nat) (s : State) (c : Nat) : Keeps s (loadCore t s c) := by
  show Kept _ _; unfold loadCore; (try dsimp only); (repeat' split) <;> simp [Kept, Keeps]

@[simp] theorem dropAway_keep (t : Nat) (s : State) : Keeps s (dropAway t s) := by
  show Kept _ _; unfold dropAway; (try dsimp only); (repeat' split) <;> simp [Kept, Keeps]

@[simp] theorem restoreHub_keep (t : Nat) (i : CtxImage) (s : State) : Keeps s (restoreHub t i s) := by
  show Kept _ _; unfold restoreHub; (try dsimp only); (repeat' split) <;> simp [Kept, Keeps]

@[simp] theorem restoreImage_keep (t : Nat) (i : CtxImage) (s : State) : Keeps s (restoreImage t i s) := by
  show Kept _ _; unfold restoreImage; (try dsimp only); (repeat' split) <;> simp [Kept, Keeps]

@[simp] theorem startSwitch_keep (w : Switch) (s : State) : Keeps s (startSwitch w s) := by
  show Kept _ _; unfold startSwitch; (try dsimp only); (repeat' split) <;> simp [Kept, Keeps]

@[simp] theorem takeSwitch_keep (w : Switch) (s : State) : Keeps s (takeSwitch w s) := by
  show Kept _ _; unfold takeSwitch; (try dsimp only); (repeat' split) <;> simp [Kept, Keeps]

@[simp] theorem settleSwitches_keep (s : State) : Keeps s (settleSwitches s) := by
  show Kept _ _; unfold settleSwitches; (try dsimp only); (repeat' split) <;> simp [Kept, Keeps]

@[simp] theorem moveContexts_keep (w : Switch) (s : State) : Keeps s (moveContexts w s) := by
  show Kept _ _; unfold moveContexts; (try dsimp only); (repeat' split) <;> simp [Kept, Keeps]

@[simp] theorem redeliver_keep (t : Nat) (s : State) : Keeps s (redeliver t s) := by
  show Kept _ _; unfold redeliver; (try dsimp only); (repeat' split) <;> simp [Kept, Keeps]

@[simp] theorem arriveIn_keep (i : Nat) (t0 : Nat) (s : State) : Keeps s (arriveIn i t0 s) := by
  show Kept _ _; unfold arriveIn; (try dsimp only); (repeat' split) <;> simp [Kept, Keeps]

@[simp] theorem leaveOut_keep (o : Nat) (s : State) : Keeps s (leaveOut o s) := by
  show Kept _ _; unfold leaveOut; (try dsimp only); (repeat' split) <;> simp [Kept, Keeps]

@[simp] theorem writeTables_keep (t : Nat) (s : State) : Keeps s (writeTables t s) := by
  show Kept _ _; unfold writeTables; (try dsimp only); (repeat' split) <;> simp [Kept, Keeps]

@[simp] theorem abortSlot_keep (t : Nat) (g : Gen) (s : State) (e : Nat × GSlot) : Keeps s (abortSlot t g s e) := by
  show Kept _ _; unfold abortSlot; (try dsimp only); (repeat' split) <;> simp [Kept, Keeps]

@[simp] theorem abortRequests_keep (t : Nat) (s : State) : Keeps s (abortRequests t s) := by
  rw [abortRequests]
  exact (foldl_keeps _ (fun _ _ => finishReq_keep _ _ _ _ _ _) _ _).trans (foldl_keeps _ (fun _ _ => abortSlot_keep _ _ _ _) _ _)

@[simp] theorem goneCommands_keep (t : Nat) (s : State) : Keeps s (goneCommands t s) := by
  show Kept _ _; unfold goneCommands; (try dsimp only); (repeat' split) <;> simp [Kept, Keeps]

@[simp] theorem goneDescs_keep (s : State) (c : Nat) : Keeps s (goneDescs s c) := by
  show Kept _ _; unfold goneDescs; (try dsimp only); (repeat' split) <;> simp [Kept, Keeps]

@[simp] theorem haltCore_keep (s : State) (c : Nat) : Keeps s (haltCore s c) := by
  show Kept _ _; unfold haltCore; (try dsimp only); (repeat' split) <;> simp [Kept, Keeps]

@[simp] theorem clearTags_keep (t : Nat) (p : Nat) (s : State) : Keeps s (clearTags t p s) := by
  show Kept _ _; unfold clearTags; (try dsimp only); (repeat' split) <;> simp [Kept, Keeps]

@[simp] theorem clearDir_keep (t : Nat) (s : State) : Keeps s (clearDir t s) := by
  show Kept _ _; unfold clearDir; (try dsimp only); (repeat' split) <;> simp [Kept, Keeps]

@[simp] theorem startTear_keep (t : Nat) (s : State) : Keeps s (startTear t s) := by
  show Kept _ _; unfold startTear; (try dsimp only); (repeat' split) <;> simp [Kept, Keeps]

@[simp] theorem zeroSlices_keep (t : Nat) (s : State) : Keeps s (zeroSlices t s) := by
  show Kept _ _; unfold zeroSlices; (try dsimp only); (repeat' split) <;> simp [Kept, Keeps]

@[simp] theorem scrubTroupe_keep (t : Nat) (s : State) : Keeps s (scrubTroupe t s) := by
  show Kept _ _; unfold scrubTroupe; (try dsimp only); (repeat' split) <;> simp [Kept, Keeps]

@[simp] theorem takeHome_keep (t : Nat) (s : State) : Keeps s (takeHome t s) := by
  show Kept _ _; unfold takeHome; (try dsimp only); (repeat' split) <;> simp [Kept, Keeps]

@[simp] theorem endTear_keep (t : Nat) (s : State) : Keeps s (endTear t s) := by
  show Kept _ _; unfold endTear; (try dsimp only); (repeat' split) <;> simp [Kept, Keeps]

@[simp] theorem settleTears_keep (t : Nat) (s : State) : Keeps s (settleTears t s) := by
  show Kept _ _; unfold settleTears; (try dsimp only); (repeat' split) <;> simp [Kept, Keeps]

@[simp] theorem putMeta_keep (j o : Nat) (bs : List Byte) (s : State) : Keeps s (putMeta j o bs s) := by
  show Kept _ _; unfold putMeta; (try dsimp only); (repeat' split) <;> simp [Kept, Keeps]

theorem copyChunk_keep (s : State) (j n : Nat) (x : State × Nat) (e : Nat × List Byte) : Keeps x.1 (copyChunk s j n x e).1 := by
  rw [copyChunk]; dsimp only; split
  · exact Keeps.refl _
  · exact hubWrite_keep _ _ _

@[simp] theorem copyPage_keep (j key : Nat) (i : CkptImage) (s : State) : Keeps s (copyPage j key i s) := by
  unfold copyPage; extract_lets n mine below here
  exact foldl_fst_keeps _ (fun x e => copyChunk_keep s j n x e) here (s, _)

@[simp] theorem putRanges_keep (t : Nat) (l : List (Nat × Nat)) (bs : List Byte) (s : State) : Keeps s (putRanges t l bs s) := by
  induction l generalizing s bs with
  | nil => exact Keeps.refl s
  | cons e l ih => exact Keeps.trans (troupePut_keep _ _ _ _) (ih _ _)

@[simp] theorem putStreams_keep (t : Nat) (l : Nat) (xs : List Nat) (s : State) : Keeps s (putStreams t l xs s) := by
  show Kept _ _; unfold putStreams; (try dsimp only); (repeat' split) <;> simp [Kept, Keeps]

@[simp] theorem putTroupe_keep (t : Nat) (x : TroupeImg) (s : State) : Keeps s (putTroupe t x s) := by
  show Kept _ _; unfold putTroupe; (try dsimp only); (repeat' split) <;> simp [Kept, Keeps]

@[simp] theorem putLearner_keep (t : Nat) (x : LearnerImg) (s : State) : Keeps s (putLearner t x s) := by
  show Kept _ _; unfold putLearner; (try dsimp only); (repeat' split) <;> simp [Kept, Keeps]

@[simp] theorem writePiece_keep (x : Job) (p : Piece) (s : State) : Keeps s (writePiece x p s).1 := by
  show Kept _ _; unfold writePiece; (try dsimp only); (repeat' split) <;> simp [Kept, Keeps]

@[simp] theorem writePieces_keep (x : Job) (l : List Piece) (s : State) : Keeps s (writePieces x l s).1 := by
  induction l generalizing s with
  | nil => exact Keeps.refl s
  | cons e l ih =>
    unfold writePieces; dsimp only
    split
    · exact Keeps.trans (writePiece_keep _ _ _) (ih _)
    · exact writePiece_keep _ _ _

@[simp] theorem dropArrivals_keep (t : Nat) (s : State) : Keeps s (dropArrivals t s) := ⟨rfl, rfl, rfl⟩

@[simp] theorem restoredTroupe_keep (dc : Nat) (t : Nat) (s : State) : Keeps s (restoredTroupe dc t s) := by
  show Kept _ _; unfold restoredTroupe; (try dsimp only); (repeat' split) <;> simp [Kept, Keeps]

@[simp] theorem badDoorbell_keep (s : State) : Keeps s (badDoorbell s) := by
  show Kept _ _; unfold badDoorbell; (try dsimp only); (repeat' split) <;> simp [Kept, Keeps]

@[simp] theorem openAdmin_keep (s : State) : Keeps s (openAdmin s) := by
  show Kept _ _; unfold openAdmin; (try dsimp only); (repeat' split) <;> simp [Kept, Keeps]

@[simp] theorem passCommand_keep (q : Nat) (e : CmdEntry) (bytes : List Byte) (s : State) (n : Nat) : Keeps s (passCommand q e bytes s n) := by
  show Kept _ _; unfold passCommand; (try dsimp only); (repeat' split) <;> simp [Kept, Keeps]

theorem fetchOne_keep (q : Nat) (mem : List (Nat × List Byte)) (tenants : List (Nat × Nat)) (s t : State)
    (h : fetchOne q mem tenants s = some t) : Keeps s t := by
  unfold fetchOne at h
  split at h
  · cases h
  · split at h
    · cases h
    · split at h
      · cases h
      · extract_lets bytes e at h
        split at h
        · cases h
        · split at h <;> cases h
          · exact Keeps.trans ⟨rfl, rfl, rfl⟩ (foldl_keeps _ (fun s x => passCommand_keep _ _ _ s x) _ _)
          · exact Keeps.trans ⟨rfl, rfl, rfl⟩ (complete_keep _ _ _ _)

@[simp] theorem fetchMore_keep (q : Nat) (mem : List (Nat × List Byte)) (tenants : List (Nat × Nat)) (n : Nat) (s : State) :
    Keeps s (fetchMore q mem tenants n s) := by
  induction n generalizing s with
  | zero => exact Keeps.refl s
  | succ n ih =>
    unfold fetchMore
    split
    · exact Keeps.refl s
    · next h => exact (fetchOne_keep _ _ _ _ _ h).trans (ih _)

@[simp] theorem fetchVisit_keep (mem : List (Nat × List Byte)) (tenants : List (Nat × Nat)) (s : State) (l : List Nat) :
    Keeps s (fetchVisit mem tenants s l) := by
  induction l with
  | nil => exact Keeps.refl s
  | cons q l ih =>
    unfold fetchVisit
    split
    · exact ih
    · next h => exact (fetchOne_keep _ _ _ _ _ h).trans ((fetchMore_keep _ _ _ _ _).trans ⟨rfl, rfl, rfl⟩)

theorem writeCpl_keep (c : Cpl) (s t : State) (h : writeCpl c s = some t) : Keeps s t := by
  unfold writeCpl at h; dsimp only at h
  (repeat' split at h) <;> simp only [Option.some.injEq, reduceCtorEq] at h <;> subst h <;> exact ⟨rfl, rfl, rfl⟩

@[simp] theorem dropFetched_keep (h : CmdHdr) (s : State) : Keeps s (dropFetched h s) := by
  show Kept _ _; unfold dropFetched; (try dsimp only); (repeat' split) <;> simp [Kept, Keeps]

@[simp] theorem afterChange_keep (s : State) : Keeps s (afterChange s) := by
  show Kept _ _; unfold afterChange; (try dsimp only); (repeat' split) <;> simp [Kept, Keeps]

@[simp] theorem putSlot_keep (n : Nat) (e : EnsSlot) (s : State) : Keeps s (putSlot n e s) := by
  show Kept _ _; unfold putSlot; (try dsimp only); (repeat' split) <;> simp [Kept, Keeps]

@[simp] theorem sendChange_keep (m : MemberMsg) (s : State) : Keeps s (sendChange m s) := by
  show Kept _ _; unfold sendChange; (try dsimp only); (repeat' split) <;> simp [Kept, Keeps]

@[simp] theorem changeSlot_keep (n : Nat) (st : Nat) (subst : Bool) (s : State) : Keeps s (changeSlot n st subst s) := by
  show Kept _ _; unfold changeSlot; (try dsimp only); (repeat' split) <;> simp [Kept, Keeps]

@[simp] theorem stopTroupes_keep (s : State) : Keeps s (stopTroupes s) := by
  show Kept _ _; unfold stopTroupes; (try dsimp only); (repeat' split) <;> simp [Kept, Keeps]

@[simp] theorem failCore_keep (reason : Nat) (s : State) (c : Nat) : Keeps s (failCore reason s c) := by
  show Kept _ _; unfold failCore; (try dsimp only); (repeat' split) <;> simp [Kept, Keeps]

@[simp] theorem nameCore_keep (c : Nat) (l : Nat) (idleSt : CoreState) (s : State) : Keeps s (nameCore c l idleSt s) := by
  show Kept _ _; unfold nameCore; (try dsimp only); (repeat' split) <;> simp [Kept, Keeps]

@[simp] theorem nameCluster_keep (p : ClusterPlan) (keep : List Nat) (s : State) : Keeps s (nameCluster p keep s) := by
  unfold nameCluster
  refine foldl_keeps _ ?_ _ _
  intro s c; (repeat' split) <;> simp [Keeps]

@[simp] theorem matchCluster_keep (s : State) (p : ClusterPlan) : Keeps s (matchCluster s p) := by
  show Kept _ _; unfold matchCluster; (try dsimp only); (repeat' split) <;> simp [Kept, Keeps]

@[simp] theorem withholdTroupes_keep (img : CastImage) (s : State) : Keeps s (withholdTroupes img s) := by
  show Kept _ _; unfold withholdTroupes; (try dsimp only); (repeat' split) <;> simp [Kept, Keeps]

@[simp] theorem putMap_keep (img : CastImage) (s : State) : Keeps s (putMap img s) := by
  show Kept _ _; unfold putMap; (try dsimp only); (repeat' split) <;> simp [Kept, Keeps]

@[simp] theorem zeroBut_keep (kept : Nat → Bool) (s : State) : Keeps s (zeroBut kept s) := by
  show Kept _ _; unfold zeroBut; (try dsimp only); (repeat' split) <;> simp [Kept, Keeps]

@[simp] theorem dropImages_keep (s : State) : Keeps s (dropImages s) := by
  show Kept _ _; unfold dropImages; (try dsimp only); (repeat' split) <;> simp [Kept, Keeps]

@[simp] theorem zeroForPlan_keep (img : CastImage) (s : State) : Keeps s (zeroForPlan img s) := by
  show Kept _ _; unfold zeroForPlan; (try dsimp only); (repeat' split) <;> simp [Kept, Keeps]

@[simp] theorem writeXlat_keep (p : TroupePlan) (s : State) : Keeps s (writeXlat p s) := by
  show Kept _ _; unfold writeXlat; (try dsimp only); (repeat' split) <;> simp [Kept, Keeps]

@[simp] theorem castSeed_keep (img : CastImage) (t : Nat) (s : State) : Keeps s (castSeed img t s) := by
  show Kept _ _; unfold castSeed; (try dsimp only); (repeat' split) <;> simp [Kept, Keeps]

@[simp] theorem createTroupes_keep (img : CastImage) (keep : List Nat) (s : State) : Keeps s (createTroupes img keep s) := by
  show Kept _ _; unfold createTroupes; (try dsimp only); (repeat' split) <;> simp [Kept, Keeps]

@[simp] theorem startInitial_keep (img : CastImage) (keep : List Nat) (s : State) : Keeps s (startInitial img keep s) := by
  show Kept _ _; unfold startInitial; (try dsimp only); (repeat' split) <;> simp [Kept, Keeps]

@[simp] theorem castPorts_keep (img : CastImage) (first : Bool) (s : State) : Keeps s (castPorts img first s) := by
  show Kept _ _; unfold castPorts; (try dsimp only); (repeat' split) <;> simp [Kept, Keeps]

@[simp] theorem castFabric_keep (img : CastImage) (keep : List Nat) (s : State) : Keeps s (castFabric img keep s) := by
  show Kept _ _; unfold castFabric; (try dsimp only); (repeat' split) <;> simp [Kept, Keeps]

@[simp] theorem castEnsemble_keep (img : CastImage) (s : State) : Keeps s (castEnsemble img s) := by
  show Kept _ _; unfold castEnsemble; (try dsimp only); (repeat' split) <;> simp [Kept, Keeps]

@[simp] theorem castJobs_keep (img : CastImage) (s : State) : Keeps s (castJobs img s) := by
  show Kept _ _; unfold castJobs; (try dsimp only); (repeat' split) <;> simp [Kept, Keeps]

@[simp] theorem installCast_keep (img : CastImage) (s : State) : Keeps s (installCast img s) := by
  show Kept _ _; unfold installCast; extract_lets +onlyGivenNames keep first s1 s2 s3 s4 s5
  have h1 : Keeps s s1 := (zeroForPlan_keep _ _).trans (putMap_keep _ _)
  have h2 : Keeps s s2 := by
    refine h1.trans (foldl_keeps _ ?_ _ _)
    intro s cl; split
    · exact nameCluster_keep _ _ _
    · exact foldl_keeps _ (fun s c => nameCore_keep _ _ _ s) _ _
  have h3 : Keeps s s3 := ((h2.trans (castEnsemble_keep _ _)).trans (castPorts_keep _ _ _)).trans (castFabric_keep _ _ _)
  have h4 : Keeps s s4 := h3.trans (Keeps.trans ⟨rfl, rfl, rfl⟩ (castJobs_keep _ _))
  have h5 : Keeps s s5 := h4.trans (foldl_keeps _ (fun s c => matchCluster_keep s c) _ _)
  exact ((h5.trans (createTroupes_keep _ _ _)).trans (withholdTroupes_keep _ _)).trans (startInitial_keep _ _ _)

@[simp] theorem finishCast_keep (hdr : Option CmdHdr) (img : CastImage) (s : State) : Keeps s (finishCast hdr img s) := by
  show Kept _ _; unfold finishCast; (try dsimp only); (repeat' split) <;> simp [Kept, Keeps]

@[simp] theorem startCast_keep (hdr : Option CmdHdr) (img : CastImage) (s : State) : Keeps s (startCast hdr img s) := by
  show Kept _ _; unfold startCast; (try dsimp only); (repeat' split) <;> simp [Kept, Keeps]

@[simp] theorem removeTroupe_keep (t : Nat) (s : State) : Keeps s (removeTroupe t s) := by
  show Kept _ _; unfold removeTroupe; (try dsimp only); (repeat' split) <;> simp [Kept, Keeps]

@[simp] theorem settleTear_keep (t : Nat) (s : State) : Keeps s (settleTear t s) := by
  show Kept _ _; unfold settleTear; (try dsimp only); (repeat' split) <;> simp [Kept, Keeps]

@[simp] theorem execTeardownDone_keep (t : Nat) (s : State) : Keeps s (stateAfter s (execTeardownDone t s)) := by
  show Kept _ _; unfold execTeardownDone
  refine engine_keep _ _ ?_; intro s; (try dsimp only); (repeat' split) <;> simp [Kept, Keeps]

@[simp] theorem sendPiece_keep (t : Nat) (epoch : Nat) (s : State) (e : FlyEntry) : Keeps s (sendPiece t epoch s e) := by
  show Kept _ _; unfold sendPiece; (try dsimp only); (repeat' split) <;> simp [Kept, Keeps]

@[simp] theorem startFly_keep (t : Nat) (s : State) : Keeps s (startFly t s) := by
  show Kept _ _; unfold startFly; (try dsimp only); (repeat' split) <;> simp [Kept, Keeps]

@[simp] theorem execFlyInStart_keep (t : Nat) (s : State) : Keeps s (stateAfter s (execFlyInStart t s)) := by
  show Kept _ _; unfold execFlyInStart
  refine engine_keep _ _ ?_; intro s; (try dsimp only); (repeat' split) <;> simp [Kept, Keeps]

@[simp] theorem endFly_keep (t st : Nat) (s : State) : Keeps s (endFly t st s) := by
  show Kept _ _; unfold endFly; (try dsimp only); (repeat' split) <;> simp [Kept, Keeps]

@[simp] theorem execFlySourceReadDone_keep (t away : Nat) (s : State) : Keeps s (stateAfter s (execFlySourceReadDone t away s)) := by
  show Kept _ _; unfold execFlySourceReadDone
  refine engine_keep _ _ ?_; intro s; (try dsimp only); (repeat' split) <;> simp [Kept, Keeps]

@[simp] theorem execFlyNow_keep (h : CmdHdr) (s : State) : Keeps s (stateAfter s (execFlyNow h s)) := by
  show Kept _ _; unfold execFlyNow
  refine hostCmd_keep _ _ _ _ ?_; intro s; (try dsimp only); (repeat' split) <;> simp [Kept, Keeps]

@[simp] theorem claimSlot_keep (t : Nat) (k : Nat) (e : Nat) (s : State) : Keeps s (claimSlot t k e s) := by
  show Kept _ _; unfold claimSlot; (try dsimp only); (repeat' split) <;> simp [Kept, Keeps]

@[simp] theorem refuseTo_keep (src : FlySrc) (t e st : Nat) (s : State) : Keeps s (refuseTo src t e st s) := by
  show Kept _ _; unfold refuseTo; (try dsimp only); (repeat' split) <;> simp [Kept, Keeps]

@[simp] theorem fillSlot_keep (t k : Nat) (src : FlySrc) (nf : Bool) (data : List (Nat × Nat × Nat)) (s : State) : Keeps s (fillSlot t k src nf data s) := by
  show Kept _ _; unfold fillSlot; (try dsimp only); (repeat' split) <;> simp [Kept, Keeps]

@[simp] theorem refuseInbound_keep (t e : Nat) (s : State) : Keeps s (refuseInbound t e s) := by
  show Kept _ _; unfold refuseInbound; (try dsimp only); (repeat' split) <;> simp [Kept, Keeps]

@[simp] theorem takePiece_keep (t epoch : Nat) (src : FlySrc) (nf : Bool) (data : List (Nat × Nat × Nat)) (s : State) : Keeps s (takePiece t epoch src nf data s).1 := by
  show Kept _ _; unfold takePiece; (try dsimp only); (repeat' split) <;> simp_all [Kept, Keeps]

@[simp] theorem execFlyPieceArrival_keep (t epoch : Nat) (away : Option (Nat × Bool × List (Nat × Nat × Nat))) (s : State) : Keeps s (stateAfter s (execFlyPieceArrival t epoch away s)) := by
  show Kept _ _; unfold execFlyPieceArrival
  refine engine_keep _ _ ?_; intro s; (try dsimp only); (repeat' split) <;> simp [Kept, Keeps]

@[simp] theorem tellSenders_keep (t e : Nat) (s : State) : Keeps s (tellSenders t e s) := by
  show Kept _ _; unfold tellSenders; (try dsimp only); (repeat' split) <;> simp [Kept, Keeps]

@[simp] theorem execFlyResume_keep (t : Nat) (s : State) : Keeps s (stateAfter s (execFlyResume t s)) := by
  show Kept _ _; unfold execFlyResume
  refine engine_keep _ _ ?_; intro s; (try dsimp only); (repeat' split) <;> simp [Kept, Keeps]

@[simp] theorem execRoleSwitch_keep (h : CmdHdr) (s : State) : Keeps s (stateAfter s (execRoleSwitch h s)) := by
  show Kept _ _; unfold execRoleSwitch
  refine hostCmd_keep _ _ _ _ ?_; intro s; (try dsimp only); (repeat' split) <;> simp [Kept, Keeps]

@[simp] theorem execFlyEvtClr_keep (t : Nat) (s : State) : Keeps s (stateAfter s (execFlyEvtClr t s)) := by
  show Kept _ _; unfold execFlyEvtClr
  refine regWrite_keep _ _ ?_; intro s; (try dsimp only); (repeat' split) <;> simp [Kept, Keeps]

@[simp] theorem volatileGone_keep (s : State) : Keeps s (volatileGone s) := by
  show Kept _ _; unfold volatileGone; (try dsimp only); (repeat' split) <;> simp [Kept, Keeps]

@[simp] theorem moduleReset_keep (cause : Nat) (keep : Bool) (s : State) : Keeps s (moduleReset cause keep s) := by
  show Kept _ _; unfold moduleReset; (try dsimp only); (repeat' split) <;> simp [Kept, Keeps]

@[simp] theorem logFault_keep (code : Nat) (num : Nat) (s : State) : Keeps s (logFault code num s) := by
  show Kept _ _; unfold logFault; (try dsimp only); (repeat' split) <;> simp [Kept, Keeps]

@[simp] theorem powerFail_keep (next : PwrPhase) (s : State) : Keeps s (powerFail next s) := by
  show Kept _ _; unfold powerFail; (try dsimp only); (repeat' split) <;> simp [Kept, Keeps]

@[simp] theorem powerUp_keep (retry : Option Nat) (s : State) : Keeps s (powerUp retry s) := by
  show Kept _ _; unfold powerUp; (try dsimp only); (repeat' split) <;> simp [Kept, Keeps]

@[simp] theorem warnEvent_keep (code : Nat) (data : List Byte) (s : State) : Keeps s (warnEvent code data s) := by
  show Kept _ _; unfold warnEvent; (try dsimp only); (repeat' split) <;> simp [Kept, Keeps]

@[simp] theorem loseRef_keep (s : State) : Keeps s (loseRef s) := by
  show Kept _ _; unfold loseRef; (try dsimp only); (repeat' split) <;> simp [Kept, Keeps]

@[simp] theorem startClocks_keep (s : State) : Keeps s (startClocks s) := by
  show Kept _ _; unfold startClocks; (try dsimp only); (repeat' split) <;> simp [Kept, Keeps]

@[simp] theorem bootEnded_keep (s : State) : Keeps s (bootEnded s) := by
  show Kept _ _; unfold bootEnded; (try dsimp only); (repeat' split) <;> simp [Kept, Keeps]

@[simp] theorem stopBoot_keep (code : Nat) (s : State) : Keeps s (stopBoot code s) := by
  show Kept _ _; unfold stopBoot; (try dsimp only); (repeat' split) <;> simp [Kept, Keeps]

@[simp] theorem romStep_keep (s : State) : Keeps s (romStep s) := by
  show Kept _ _; unfold romStep; (try dsimp only); (repeat' split) <;> simp [Kept, Keeps]

@[simp] theorem execHubResetRelease_keep (s : State) : Keeps s (stateAfter s (execHubResetRelease s)) := by
  show Keeps s (if _ then _ else _)
  split
  · dsimp only; split
    · exact Keeps.trans (Keeps.trans ⟨rfl, rfl, rfl⟩ (startClocks_keep _)) (romStep_keep _)
    · exact ⟨rfl, rfl, rfl⟩
  · exact Keeps.refl s

@[simp] theorem execRefclkQualify_keep (s : State) : Keeps s (stateAfter s (execRefclkQualify s)) := by
  show Keeps s (if _ then _ else _)
  split
  · exact Keeps.refl s
  · dsimp only; split
    · exact Keeps.trans (Keeps.trans ⟨rfl, rfl, rfl⟩ (startClocks_keep _)) (romStep_keep _)
    · exact ⟨rfl, rfl, rfl⟩

@[simp] theorem raiseLogged_keep (e : LogEnt) (s : State) : Keeps s (raiseLogged e s) := by
  show Kept _ _; unfold raiseLogged; (try dsimp only); (repeat' split) <;> simp [Kept, Keeps]

@[simp] theorem readFaultLog_keep (s : State) : Keeps s (readFaultLog s) := by
  show Kept _ _; unfold readFaultLog; (try dsimp only); (repeat' split) <;> simp [Kept, Keeps]

theorem recordStep_ok_keep (ok : Bool) (s t : State) (h : recordStep ok s = .ok t) : Keeps s t := by
  unfold recordStep at h; dsimp only at h
  (repeat' split at h) <;> cases h <;> simp [Keeps]

theorem recordStep_error_keep (ok : Bool) (s t : State) (c : Nat) (h : recordStep ok s = .error (c, t)) : Keeps s t := by
  unfold recordStep at h; dsimp only at h
  (repeat' split at h) <;> cases h <;> simp [Keeps]

theorem firmwareStep_ok_keep (s t : State) (h : firmwareStep s = .ok t) : Keeps s t := by
  unfold firmwareStep at h
  split at h
  · cases h
  · dsimp only at h
    split at h
    · cases h
    · generalize (_ && _ : Bool) = fits at h
      cases fits <;> cases h
      exact ⟨rfl, rfl, rfl⟩

theorem firmwareStep_error_keep (s t : State) (c : Nat) (h : firmwareStep s = .error (c, t)) : Keeps s t := by
  unfold firmwareStep at h
  split at h
  · cases h; exact Keeps.refl s
  · dsimp only at h
    split at h
    · cases h; exact ⟨rfl, rfl, rfl⟩
    · generalize (_ && _ : Bool) = fits at h
      cases fits <;> cases h
      exact ⟨rfl, rfl, rfl⟩

@[simp] theorem listStep_keep (s : State) : Keeps s (listStep s) := by
  show Kept _ _; unfold listStep; (try dsimp only); (repeat' split) <;> simp [Kept, Keeps]

@[simp] theorem hubFirmware_keep (ok : Bool) (s : State) : Keeps s (hubFirmware ok s) := by
  show Kept _ _; unfold hubFirmware
  split
  · next h => exact (readFaultLog_keep s).trans ((recordStep_error_keep _ _ _ _ h).trans (stopBoot_keep _ _))
  · next h =>
    refine (readFaultLog_keep s).trans ((recordStep_ok_keep _ _ _ h).trans ?_)
    split
    · next h => exact (firmwareStep_error_keep _ _ _ h).trans (stopBoot_keep _ _)
    · next h => exact (firmwareStep_ok_keep _ _ h).trans (listStep_keep _)

@[simp] theorem execHubFirmwareStart_keep (rpfOk : Bool) (s : State) : Keeps s (stateAfter s (execHubFirmwareStart rpfOk s)) := by
  show Kept _ _; unfold execHubFirmwareStart
  refine engine_keep _ _ ?_; intro s; (try dsimp only); (repeat' split) <;> simp [Kept, Keeps]

@[simp] theorem startCores_keep (lack silent bad : List Nat) (s : State) : Keeps s (startCores lack silent bad s) := by
  show Kept _ _; unfold startCores
  refine foldl_keeps _ ?_ _ _
  intro s c; split <;> simp [Keeps]

@[simp] theorem clusterBack_keep (h : CmdHdr) (cl : Nat) (s : State) : Keeps s (clusterBack h cl s) := by
  show Kept _ _; unfold clusterBack; (try dsimp only); (repeat' split) <;> simp [Kept, Keeps]

@[simp] theorem execCoreFwBroadcastRound_keep (missing : List Nat) (silent : List Nat) (badDigest : List Nat) (s : State) : Keeps s (stateAfter s (execCoreFwBroadcastRound missing silent badDigest s)) := by
  show Kept _ _; unfold execCoreFwBroadcastRound
  refine engine_keep _ _ ?_; intro s; (try dsimp only); (repeat' split) <;> simp [Kept, Keeps]

@[simp] theorem execBootCastingApply_keep (s : State) : Keeps s (stateAfter s (execBootCastingApply s)) := by
  show Kept _ _; unfold execBootCastingApply
  refine engine_keep _ _ ?_; intro s; (try dsimp only); (repeat' split) <;> simp [Kept, Keeps]

@[simp] theorem execHubWatchdog_keep (s : State) : Keeps s (stateAfter s (execHubWatchdog s)) := by
  show Kept _ _; unfold execHubWatchdog
  refine engine_keep _ _ ?_; intro s; (try dsimp only); (repeat' split) <;> simp [Kept, Keeps]

@[simp] theorem execHubEcc_keep (s : State) : Keeps s (stateAfter s (execHubEcc s)) := by
  show Kept _ _; unfold execHubEcc
  refine engine_keep _ _ ?_; intro s; (try dsimp only); (repeat' split) <;> simp [Kept, Keeps]

@[simp] theorem execResetPin_keep (s : State) : Keeps s (stateAfter s (execResetPin s)) := by
  show Keeps s (if _ then _ else _)
  split
  · exact moduleReset_keep _ _ _
  · exact Keeps.refl s

@[simp] theorem execCastApply_keep (h : CmdHdr) (len : Nat) (img : CastImage) (agree : Bool) (s : State) : Keeps s (stateAfter s (execCastApply h len img agree s)) := by
  show Kept _ _; unfold execCastApply
  refine hostCmd_keep _ _ _ _ ?_; intro s; (try dsimp only); (repeat' split) <;> simp [Kept, Keeps]

@[simp] theorem tornBank_keep {α : Type} (old new : Option α) (s : State) : Keeps s (tornBank old new s).2 := ⟨rfl, rfl, rfl⟩

@[simp] theorem execCastStore_keep (h : CmdHdr) (len : Nat) (img : CastImage) (flashOk : Bool) (s : State) : Keeps s (stateAfter s (execCastStore h len img flashOk s)) := by
  show Kept _ _; unfold execCastStore
  refine hostCmd_keep _ _ _ _ ?_; intro s; (try dsimp only); (repeat' split) <;> simp [Kept, Keeps]

theorem putFwBank_modRec (f : Flash) (type : Nat) (b : Bank FwImage) : (putFwBank f type b).modRec = f.modRec := by
  unfold putFwBank; (repeat' split) <;> rfl

@[simp] theorem stageObject_keep (type : Nat) (ok : Bool) (x : FwObject) (s : State) : Keeps s (stageObject type ok x s) := by
  show Kept _ _; unfold stageObject
  split
  · extract_lets b
    split
    · exact ⟨rfl, putFwBank_modRec _ _ _, rfl⟩
    · exact ⟨rfl, putFwBank_modRec _ _ _, rfl⟩
  · split <;> exact ⟨rfl, rfl, rfl⟩

@[simp] theorem execFwStage_keep (h : CmdHdr) (type : Nat) (len : Nat) (x : FwObject) (flashOk : Bool) (s : State) : Keeps s (stateAfter s (execFwStage h type len x flashOk s)) := by
  show Kept _ _; unfold execFwStage
  refine hostCmd_keep _ _ _ _ ?_; intro s; (try dsimp only); (repeat' split) <;> simp [Kept, Keeps]

@[simp] theorem execFwSelect_keep (h : CmdHdr) (hub : Bool) (core : Bool) (link : Bool) (bundle : Bool) (s : State) : Keeps s (stateAfter s (execFwSelect h hub core link bundle s)) := by
  show Kept _ _; unfold execFwSelect
  refine hostCmd_keep _ _ _ _ ?_; intro s; (try dsimp only); (repeat' split) <;> simp [Kept, Keeps]

@[simp] theorem execRecGet_keep (h : CmdHdr) (addr : Nat) (s : State) : Keeps s (stateAfter s (execRecGet h addr s)) := by
  show Kept _ _; unfold execRecGet
  refine hostCmd_keep _ _ _ _ ?_; intro s; (try dsimp only); (repeat' split) <;> simp [Kept, Keeps]

@[simp] theorem execOwnInstall_keep (h : CmdHdr) (len : Nat) (x : OwnerRec) (flashOk : Bool) (s : State) : Keeps s (stateAfter s (execOwnInstall h len x flashOk s)) := by
  show Kept _ _; unfold execOwnInstall
  refine hostCmd_keep _ _ _ _ ?_; intro s; (try dsimp only); (repeat' split) <;> simp [Kept, Keeps]

@[simp] theorem execAttReport_keep (h : CmdHdr) (nonce : Nat) (addr : Nat) (s : State) : Keeps s (stateAfter s (execAttReport h nonce addr s)) := by
  show Kept _ _; unfold execAttReport
  refine hostCmd_keep _ _ _ _ ?_; intro s; (try dsimp only); (repeat' split) <;> simp [Kept, Keeps]

@[simp] theorem execKeySession_keep (h : CmdHdr) (n : Nat) (tenant : Nat) (shared : Nat) (s : State) : Keeps s (stateAfter s (execKeySession h n tenant shared s)) := by
  show Kept _ _; unfold execKeySession
  refine hostCmd_keep _ _ _ _ ?_; intro s; (try dsimp only); (repeat' split) <;> simp [Kept, Keeps]

@[simp] theorem execLrKey_keep (h : CmdHdr) (p ltag slot : Nat) (activate : Bool) (w : Wrapped) (s : State) : Keeps s (stateAfter s (execLrKey h p ltag slot activate w s)) := by
  show Kept _ _; unfold execLrKey
  refine hostCmd_keep _ _ _ _ ?_; intro s; (try dsimp only); (repeat' split) <;> simp [Kept, Keeps]

@[simp] theorem resetOneCore_keep (h : CmdHdr) (target : Nat) (s : State) : Keeps s (resetOneCore h target s) := by
  show Kept _ _; unfold resetOneCore; (try dsimp only); (repeat' split) <;> simp [Kept, Keeps]

@[simp] theorem resetCluster_keep (h : CmdHdr) (cl : Nat) (s : State) : Keeps s (resetCluster h cl s) := by
  show Kept _ _; unfold resetCluster; (try dsimp only); (repeat' split) <;> simp [Kept, Keeps]

@[simp] theorem resetTroupe_keep (h : CmdHdr) (t : Nat) (s : State) : Keeps s (resetTroupe h t s) := by
  show Kept _ _; unfold resetTroupe; (try dsimp only); (repeat' split) <;> simp [Kept, Keeps]

@[simp] theorem resetModule_keep (h : CmdHdr) (keep : Bool) (s : State) : Keeps s (resetModule h keep s) := by
  unfold resetModule
  refine Keeps.trans ?_ (moduleReset_keep _ _ _)
  split
  · split
    · next h => exact writeCpl_keep _ _ _ h
    · exact Keeps.refl s
  · exact ⟨rfl, rfl, rfl⟩

@[simp] theorem execReset_keep (h : CmdHdr) (level : Nat) (target : Nat) (keep : Bool) (s : State) : Keeps s (stateAfter s (execReset h level target keep s)) := by
  show Kept _ _; unfold execReset
  refine hostCmd_keep _ _ _ _ ?_; intro s; (try dsimp only); (repeat' split) <;> simp [Kept, Keeps]

@[simp] theorem execCoreRetire_keep (h : CmdHdr) (l : Nat) (s : State) : Keeps s (stateAfter s (execCoreRetire h l s)) := by
  show Kept _ _; unfold execCoreRetire
  refine hostCmd_keep _ _ _ _ ?_; intro s; (try dsimp only); (repeat' split) <;> simp [Kept, Keeps]

@[simp] theorem execCkptTake_keep (h : CmdHdr) (job : Nat) (s : State) : Keeps s (stateAfter s (execCkptTake h job s)) := by
  show Kept _ _; unfold execCkptTake
  refine hostCmd_keep _ _ _ _ ?_; intro s; (try dsimp only); (repeat' split) <;> simp [Kept, Keeps]

@[simp] theorem crossWatch_keep (c : WatchCause) (s : State) : Keeps s (crossWatch c s) := by
  show Kept _ _; unfold crossWatch; (try dsimp only); (repeat' split) <;> simp [Kept, Keeps]

@[simp] theorem execCkptRequest_keep (c : WatchCause) (s : State) : Keeps s (stateAfter s (execCkptRequest c s)) := by
  show Kept _ _; unfold execCkptRequest
  refine engine_keep _ _ ?_; intro s; (try dsimp only); (repeat' split) <;> simp [Kept, Keeps]

@[simp] theorem execHoldoffExpiry_keep (s : State) : Keeps s (stateAfter s (execHoldoffExpiry s)) := by
  show Kept _ _; unfold execHoldoffExpiry
  refine engine_keep _ _ ?_; intro s; (try dsimp only); (repeat' split) <;> simp [Kept, Keeps]

@[simp] theorem releaseHeld_keep (j : Nat) (s : State) : Keeps s (releaseHeld j s) := by
  show Kept _ _; unfold releaseHeld; (try dsimp only); (repeat' split) <;> simp [Kept, Keeps]

@[simp] theorem drainEnded_keep (j : Nat) (l : Nat) (s : State) : Keeps s (drainEnded j l s) := by
  show Kept _ _; unfold drainEnded; (try dsimp only); (repeat' split) <;> simp [Kept, Keeps]

@[simp] theorem endDrain_keep (j : Nat) (s : State) : Keeps s (endDrain j s) := by
  show Kept _ _; unfold endDrain; (try dsimp only); (repeat' split) <;> simp [Kept, Keeps]

@[simp] theorem execCkptArm_keep (j : Nat) (m : JobMsg) (s : State) : Keeps s (stateAfter s (execCkptArm j m s)) := by
  show Kept _ _; unfold execCkptArm
  refine engine_keep _ _ ?_; intro s; (try dsimp only); (repeat' split) <;> simp [Kept, Keeps]

@[simp] theorem endStep_keep (t : Nat) (s : State) : Keeps s (endStep t s) := by
  show Kept _ _; unfold endStep; (try dsimp only); (repeat' split) <;> simp [Kept, Keeps]

@[simp] theorem compareJob_keep (x : Job) (c : Compare) (s : State) : Keeps s (compareJob x c s) := by
  show Kept _ _; unfold compareJob; (try dsimp only); (repeat' split) <;> simp [Kept, Keeps]

@[simp] theorem settleCompare_keep (t : Nat) (s : State) : Keeps s (settleCompare t s) := by
  unfold settleCompare
  refine foldl_keeps _ ?_ _ _
  intro s e; dsimp only
  split
  · exact Keeps.refl s
  · split
    · exact (State.modJob_keep _ _ _).trans (foldl_keeps _ (fun s c => compareJob_keep _ _ _) _ _)
    · exact State.modJob_keep _ _ _

@[simp] theorem execCkptCutPoint_keep (t : Nat) (s : State) : Keeps s (stateAfter s (execCkptCutPoint t s)) := by
  show Kept _ _; unfold execCkptCutPoint
  refine engine_keep _ _ ?_; intro s; (try dsimp only); (repeat' split) <;> simp [Kept, Keeps]

@[simp] theorem passBarrier_keep (x : Job) (s : State) : Keeps s (passBarrier x s) := by
  show Kept _ _; unfold passBarrier; (try dsimp only); (repeat' split) <;> simp [Kept, Keeps]

@[simp] theorem execCkptCut_keep (j : Nat) (s : State) : Keeps s (stateAfter s (execCkptCut j s)) := by
  show Kept _ _; unfold execCkptCut
  refine engine_keep _ _ ?_; intro s; (try dsimp only); (repeat' split) <;> simp [Kept, Keeps]

@[simp] theorem dropCut_keep (j : Nat) (x : Job) (s : State) : Keeps s (dropCut j x s) := by
  show Kept _ _; unfold dropCut; (try dsimp only); (repeat' split) <;> simp [Kept, Keeps]

@[simp] theorem execCkptAbort_keep (j : Nat) (ordered : Bool) (s : State) : Keeps s (stateAfter s (execCkptAbort j ordered s)) := by
  show Kept _ _; unfold execCkptAbort
  refine engine_keep _ _ ?_; intro s; (try dsimp only); (repeat' split) <;> simp [Kept, Keeps]

@[simp] theorem copyFor_keep (key : Nat) (s : State) (e : Nat × Job) : Keeps s (copyFor key s e) := by
  show Kept _ _; unfold copyFor; (try dsimp only); (repeat' split) <;> simp [Kept, Keeps]

@[simp] theorem execSnapshotPageCopy_keep (n : Nat) (s : State) : Keeps s (stateAfter s (execSnapshotPageCopy n s)) := by
  show Kept _ _; unfold execSnapshotPageCopy
  refine engine_keep _ _ ?_; intro s; (try dsimp only); (repeat' split) <;> simp [Kept, Keeps]

@[simp] theorem afterStalled_keep (w : Stalled) (bad : Bool) (s : State) : Keeps s (afterStalled w bad s) := by
  show Kept _ _; unfold afterStalled; (try dsimp only); (repeat' split) <;> simp [Kept, Keeps]

@[simp] theorem execStalledWriteProceed_keep (s : State) : Keeps s (stateAfter s (execStalledWriteProceed s)) := by
  show Kept _ _; unfold execStalledWriteProceed
  refine engine_keep _ _ ?_; intro s; (try dsimp only); (repeat' split) <;> simp [Kept, Keeps]

@[simp] theorem execCkptS0Done_keep (j : Nat) (s : State) : Keeps s (stateAfter s (execCkptS0Done j s)) := by
  show Kept _ _; unfold execCkptS0Done
  refine engine_keep _ _ ?_; intro s; (try dsimp only); (repeat' split) <;> simp [Kept, Keeps]

@[simp] theorem execCkptBuf_keep (h : CmdHdr) (job : Nat) (no : Nat) (addr : Nat) (len : Nat) (s : State) : Keeps s (stateAfter s (execCkptBuf h job no addr len s)) := by
  show Kept _ _; unfold execCkptBuf
  refine hostCmd_keep _ _ _ _ ?_; intro s; (try dsimp only); (repeat' split) <;> simp [Kept, Keeps]

@[simp] theorem execCkptBufferFilled_keep (j : Nat) (s : State) : Keeps s (stateAfter s (execCkptBufferFilled j s)) := by
  show Kept _ _; unfold execCkptBufferFilled
  refine engine_keep _ _ ?_; intro s; (try dsimp only); (repeat' split) <;> simp [Kept, Keeps]

@[simp] theorem execCkptStored_keep (h : CmdHdr) (job : Nat) (no : Nat) (s : State) : Keeps s (stateAfter s (execCkptStored h job no s)) := by
  show Kept _ _; unfold execCkptStored
  refine hostCmd_keep _ _ _ _ ?_; intro s; (try dsimp only); (repeat' split) <;> simp [Kept, Keeps]

@[simp] theorem execCkptDiscard_keep (h : CmdHdr) (job : Nat) (no : Nat) (s : State) : Keeps s (stateAfter s (execCkptDiscard h job no s)) := by
  show Kept _ _; unfold execCkptDiscard
  refine hostCmd_keep _ _ _ _ ?_; intro s; (try dsimp only); (repeat' split) <;> simp [Kept, Keeps]

@[simp] theorem execCkptCursor_keep (h : CmdHdr) (job : Nat) (bytes : List Byte) (s : State) : Keeps s (stateAfter s (execCkptCursor h job bytes s)) := by
  show Kept _ _; unfold execCkptCursor
  refine hostCmd_keep _ _ _ _ ?_; intro s; (try dsimp only); (repeat' split) <;> simp [Kept, Keeps]

@[simp] theorem abandonCkpt_keep (j : Nat) (s : State) : Keeps s (abandonCkpt j s) := by
  show Kept _ _; unfold abandonCkpt; (try dsimp only); (repeat' split) <;> simp [Kept, Keeps]

theorem applyOwn_keep (x : Job) (n : Nat) (es : List CatEntry) (r : RestoreRun) : Keeps r.s (applyOwn x n es r).1.s := by
  induction es generalizing r with
  | nil => exact Keeps.refl _
  | cons e es ih =>
    show Kept _ _; unfold applyOwn
    split
    · exact ih _
    · next i _ =>
      split
      · exact ih _
      · have h := writePieces_keep x i.pieces r.s
        generalize writePieces x i.pieces r.s = o at h ⊢
        obtain ⟨s1, ok⟩ := o
        dsimp only
        split
        · exact h
        · exact Keeps.trans h (ih { r with s := s1, fails := r.fails + 1, last := e.lmid })

theorem applyOther_keep (es : List CatEntry) (r : RestoreRun) : Keeps r.s (applyOther es r).1.s := by
  induction es generalizing r with
  | nil => exact Keeps.refl _
  | cons e es ih =>
    show Kept _ _; unfold applyOther
    split
    · exact Keeps.refl _
    · exact ih _

theorem applyStep_keep (x : Job) (cat : List CatEntry) (n : Nat) (ls : List Nat) (r : RestoreRun) : Keeps r.s (applyStep x cat n ls r).1.s := by
  induction ls generalizing r with
  | nil => exact Keeps.refl _
  | cons l ls ih =>
    show Kept _ _; unfold applyStep; extract_lets es
    have h : Keeps r.s (if l == r.s.lmid then applyOwn x n es r else applyOther es r).1.s := by
      split
      · exact applyOwn_keep _ _ _ _
      · exact applyOther_keep _ _
    generalize (if l == r.s.lmid then applyOwn x n es r else applyOther es r) = o at h ⊢
    obtain ⟨r1, ok⟩ := o
    dsimp only
    split
    · exact h.trans (ih _)
    · exact h

theorem trySteps_keep (x : Job) (cat : List CatEntry) (lmids ns : List Nat) (r : RestoreRun) : Keeps r.s (trySteps x cat lmids ns r).1.s := by
  induction ns generalizing r with
  | nil => exact Keeps.refl _
  | cons n ns ih =>
    show Kept _ _; unfold trySteps
    have h := applyStep_keep x cat n lmids { r with tried := r.tried + 1, used := [], fails := 0 }
    generalize applyStep x cat n lmids { r with tried := r.tried + 1, used := [], fails := 0 } = o at h ⊢
    obtain ⟨r1, ok⟩ := o
    dsimp only
    split
    · exact h
    · exact Keeps.trans h (ih _)

@[simp] theorem refuseRestore_keep (h : CmdHdr) (job : Nat) (status : Nat) (s : State) : Keeps s (refuseRestore h job status s) := by
  show Kept _ _; unfold refuseRestore; (try dsimp only); (repeat' split) <;> simp [Kept, Keeps]

@[simp] theorem restoreJob_keep (h : CmdHdr) (j : Nat) (x : Job) (cat : List CatEntry) (s : State) : Keeps s (restoreJob h j x cat s) := by
  show Kept _ _; unfold restoreJob; extract_lets all s0
  have h0 := trySteps_keep x all (jobLmids s x) (catSteps all) { s := s0 }
  have hs : Keeps s s0 := abandonCkpt_keep _ _
  generalize trySteps x all (jobLmids s x) (catSteps all) { s := s0 } = o at h0 ⊢
  obtain ⟨r, done⟩ := o
  have hr : Keeps s r.s := hs.trans h0
  dsimp -zeta only
  split
  · exact hr.trans (completeRec_keep _ _ _ _ _)
  · extract_lets own img
    generalize (match img with | some i => (i.dclass, i.no) | none => (dclass s, x.no)) = o
    obtain ⟨dc, no⟩ := o
    exact ((hr.trans (foldl_keeps _ (fun s p => restoredTroupe_keep _ _ s) _ _)).trans (sendJob_keep _ _ _ _)).trans (completeRec_keep _ _ _ _ _)

@[simp] theorem execCkptRestore_keep (h : CmdHdr) (job : Nat) (cat : List CatEntry) (busy : Bool) (s : State) : Keeps s (stateAfter s (execCkptRestore h job cat busy s)) := by
  show Kept _ _; unfold execCkptRestore
  refine hostCmd_keep _ _ _ _ ?_; intro s; (try dsimp only); (repeat' split) <;> simp [Kept, Keeps]

@[simp] theorem execRplCompare_keep (h : CmdHdr) (job : Nat) (others : List ReplDigest) (pairs : List (Nat × Nat)) (s : State) : Keeps s (stateAfter s (execRplCompare h job others pairs s)) := by
  show Kept _ _; unfold execRplCompare
  refine hostCmd_keep _ _ _ _ ?_; intro s; (try dsimp only); (repeat' split) <;> simp [Kept, Keeps]

@[simp] theorem execWchEvtClr_keep (s : State) : Keeps s (stateAfter s (execWchEvtClr s)) := by
  show Kept _ _; unfold execWchEvtClr
  refine regWrite_keep _ _ ?_; intro s; (try dsimp only); (repeat' split) <;> simp [Kept, Keeps]

@[simp] theorem execWchCkptEvtClr_keep (j : Nat) (s : State) : Keeps s (stateAfter s (execWchCkptEvtClr j s)) := by
  show Kept _ _; unfold execWchCkptEvtClr
  refine regWrite_keep _ _ ?_; intro s; (try dsimp only); (repeat' split) <;> simp [Kept, Keeps]

theorem flintIssue_keep (c : Nat) (w : VecWord) (cycles : Nat) (body : State → Core → Core) (s : State) :
    Keeps s (stateAfter s (flintIssue c w cycles body s)) := by
  refine coreIssue_keep _ _ _ _ ?_
  intro s u h; split at h <;> cases h; simp [Keeps]

@[simp] theorem execFstr_keep (c : Nat) (w : VecWord) (s : State) : Keeps s (stateAfter s (execFstr c w s)) := by
  show Kept _ _; unfold execFstr
  refine flintIssue_keep _ _ _ _ _

@[simp] theorem execFraw_keep (c : Nat) (w : VecWord) (s : State) : Keeps s (stateAfter s (execFraw c w s)) := by
  show Kept _ _; unfold execFraw
  refine coreIssue_keep _ _ _ _ ?_; intro s u h; (repeat' (first | split at h | (dsimp only at h; split at h))) <;> first
    | exact vecBody_keep _ _ _ _ _ _ h
    | exact scatAddBody_keep _ _ _ _ _ _ h
    | (cases h <;> simp [Keeps])

@[simp] theorem execFuni_keep (c : Nat) (w : VecWord) (s : State) : Keeps s (stateAfter s (execFuni c w s)) := by
  show Kept _ _; unfold execFuni
  refine flintIssue_keep _ _ _ _ _

@[simp] theorem execFber_keep (c : Nat) (w : VecWord) (s : State) : Keeps s (stateAfter s (execFber c w s)) := by
  show Kept _ _; unfold execFber
  refine coreIssue_keep _ _ _ _ ?_; intro s u h; (repeat' (first | split at h | (dsimp only at h; split at h))) <;> first
    | exact vecBody_keep _ _ _ _ _ _ h
    | exact scatAddBody_keep _ _ _ _ _ _ h
    | (cases h <;> simp [Keeps])

@[simp] theorem execFgum_keep (c : Nat) (w : VecWord) (s : State) : Keeps s (stateAfter s (execFgum c w s)) := by
  show Kept _ _; unfold execFgum
  refine flintIssue_keep _ _ _ _ _

@[simp] theorem execFnrm_keep (c : Nat) (w : VecWord) (s : State) : Keeps s (stateAfter s (execFnrm c w s)) := by
  show Kept _ _; unfold execFnrm
  refine flintIssue_keep _ _ _ _ _

end Sys2Proof.Machine
end

