-- ==== Sys2Proof/Laws/KeepRows.lean ====
section
/-! SUPPORT. The operations that keep them: boot, power, the Tableau, register space and the tick. -/

namespace Sys2Proof.Machine

@[simp] theorem execFdisc_keep (c : Nat) (w : VecWord) (s : State) : Keeps s (stateAfter s (execFdisc c w s)) := by
  show Kept _ _; unfold execFdisc
  refine flintIssue_keep _ _ _ _ _

@[simp] theorem execFlintLoad_keep (t : Nat) (s : State) : Keeps s (stateAfter s (execFlintLoad t s)) := by
  show Kept _ _; unfold execFlintLoad
  refine regWrite_keep _ _ ?_; intro s; (try dsimp only); (repeat' split) <;> simp [Kept, Keeps]

@[simp] theorem execFlintCntClr_keep (t : Nat) (s : State) : Keeps s (stateAfter s (execFlintCntClr t s)) := by
  show Kept _ _; unfold execFlintCntClr
  refine regWrite_keep _ _ ?_; intro s; (try dsimp only); (repeat' split) <;> simp [Kept, Keeps]

theorem vecBody_keep (c : Nat) (w : VecWord) (lanes : Nat) (f : Core → Nat → F32) (s : State) (u : State) (h : vecBody c w lanes f s = .ok u) : Keeps s u := by
  unfold vecBody at h; (repeat' (first | split at h | (dsimp only at h; split at h))) <;> first
    | exact vecBody_keep _ _ _ _ _ _ h
    | exact scatAddBody_keep _ _ _ _ _ _ h
    | (cases h <;> simp [Keeps])

theorem vec1_keep (c : Nat) (w : VecWord) (lanes : Nat) (f : F32 → F32) (s : State) : Keeps s (stateAfter s (vec1 c w lanes f s)) :=
  coreIssue_keep _ _ _ _ (fun s u h => vecBody_keep _ _ _ _ _ _ h)

theorem vec2_keep (c : Nat) (w : VecWord) (lanes : Nat) (f : F32 → F32 → F32) (s : State) : Keeps s (stateAfter s (vec2 c w lanes f s)) :=
  coreIssue_keep _ _ _ _ (fun s u h => vecBody_keep _ _ _ _ _ _ h)

@[simp] theorem execVadd_keep (c : Nat) (w : VecWord) (s : State) : Keeps s (stateAfter s (execVadd c w s)) := by
  show Kept _ _; unfold execVadd
  exact vec2_keep _ _ _ _ _

@[simp] theorem execVsub_keep (c : Nat) (w : VecWord) (s : State) : Keeps s (stateAfter s (execVsub c w s)) := by
  show Kept _ _; unfold execVsub
  exact vec2_keep _ _ _ _ _

@[simp] theorem execVmul_keep (c : Nat) (w : VecWord) (s : State) : Keeps s (stateAfter s (execVmul c w s)) := by
  show Kept _ _; unfold execVmul
  exact vec2_keep _ _ _ _ _

@[simp] theorem execVfma_keep (c : Nat) (w : VecWord) (s : State) : Keeps s (stateAfter s (execVfma c w s)) := by
  show Kept _ _; unfold execVfma
  exact coreIssue_keep _ _ _ _ (fun s u h => vecBody_keep _ _ _ _ _ _ h)

@[simp] theorem execVmin_keep (c : Nat) (w : VecWord) (s : State) : Keeps s (stateAfter s (execVmin c w s)) := by
  show Kept _ _; unfold execVmin
  exact vec2_keep _ _ _ _ _

@[simp] theorem execVmax_keep (c : Nat) (w : VecWord) (s : State) : Keeps s (stateAfter s (execVmax c w s)) := by
  show Kept _ _; unfold execVmax
  exact vec2_keep _ _ _ _ _

@[simp] theorem execVabs_keep (c : Nat) (w : VecWord) (s : State) : Keeps s (stateAfter s (execVabs c w s)) := by
  show Kept _ _; unfold execVabs
  exact vec1_keep _ _ _ _ _

@[simp] theorem execVneg_keep (c : Nat) (w : VecWord) (s : State) : Keeps s (stateAfter s (execVneg c w s)) := by
  show Kept _ _; unfold execVneg
  exact vec1_keep _ _ _ _ _

@[simp] theorem execVintAdd_keep (c : Nat) (w : VecWord) (s : State) : Keeps s (stateAfter s (execVintAdd c w s)) := by
  show Kept _ _; unfold execVintAdd
  exact vec2_keep _ _ _ _ _

@[simp] theorem execVintShift_keep (c : Nat) (w : VecWord) (s : State) : Keeps s (stateAfter s (execVintShift c w s)) := by
  show Kept _ _; unfold execVintShift
  exact vec2_keep _ _ _ _ _

@[simp] theorem execVdiv_keep (c : Nat) (w : VecWord) (s : State) : Keeps s (stateAfter s (execVdiv c w s)) := by
  show Kept _ _; unfold execVdiv
  exact vec2_keep _ _ _ _ _

@[simp] theorem execVsqrt_keep (c : Nat) (w : VecWord) (s : State) : Keeps s (stateAfter s (execVsqrt c w s)) := by
  show Kept _ _; unfold execVsqrt
  exact vec1_keep _ _ _ _ _

@[simp] theorem execVrsqrt_keep (c : Nat) (w : VecWord) (s : State) : Keeps s (stateAfter s (execVrsqrt c w s)) := by
  show Kept _ _; unfold execVrsqrt
  exact vec1_keep _ _ _ _ _

theorem cmpBody_keep (c : Nat) (w : VecWord) (f : F32 → F32 → Bool) (s : State) (u : State) (h : cmpBody c w f s = .ok u) : Keeps s u := by
  unfold cmpBody at h; (repeat' (first | split at h | (dsimp only at h; split at h))) <;> first
    | exact vecBody_keep _ _ _ _ _ _ h
    | exact scatAddBody_keep _ _ _ _ _ _ h
    | (cases h <;> simp [Keeps])

@[simp] theorem execVeq_keep (c : Nat) (w : VecWord) (s : State) : Keeps s (stateAfter s (execVeq c w s)) := by
  show Kept _ _; unfold execVeq
  exact coreIssue_keep _ _ _ _ (fun s u h => cmpBody_keep _ _ _ _ _ h)

@[simp] theorem execVlt_keep (c : Nat) (w : VecWord) (s : State) : Keeps s (stateAfter s (execVlt c w s)) := by
  show Kept _ _; unfold execVlt
  exact coreIssue_keep _ _ _ _ (fun s u h => cmpBody_keep _ _ _ _ _ h)

@[simp] theorem execVle_keep (c : Nat) (w : VecWord) (s : State) : Keeps s (stateAfter s (execVle c w s)) := by
  show Kept _ _; unfold execVle
  exact coreIssue_keep _ _ _ _ (fun s u h => cmpBody_keep _ _ _ _ _ h)

@[simp] theorem execVisNan_keep (c : Nat) (w : VecWord) (s : State) : Keeps s (stateAfter s (execVisNan c w s)) := by
  show Kept _ _; unfold execVisNan
  exact coreIssue_keep _ _ _ _ (fun s u h => cmpBody_keep _ _ _ _ _ h)

@[simp] theorem execVisInf_keep (c : Nat) (w : VecWord) (s : State) : Keeps s (stateAfter s (execVisInf c w s)) := by
  show Kept _ _; unfold execVisInf
  exact coreIssue_keep _ _ _ _ (fun s u h => cmpBody_keep _ _ _ _ _ h)

theorem reduceBody_keep (c : Nat) (w : VecWord) (f : Core → F32) (s : State) (u : State) (h : reduceBody c w f s = .ok u) : Keeps s u := by
  unfold reduceBody at h; (repeat' (first | split at h | (dsimp only at h; split at h))) <;> first
    | exact vecBody_keep _ _ _ _ _ _ h
    | exact scatAddBody_keep _ _ _ _ _ _ h
    | (cases h <;> simp [Keeps])

@[simp] theorem execRsum_keep (c : Nat) (w : VecWord) (s : State) : Keeps s (stateAfter s (execRsum c w s)) := by
  show Kept _ _; unfold execRsum
  exact coreIssue_keep _ _ _ _ (fun s u h => reduceBody_keep _ _ _ _ _ h)

@[simp] theorem execRmax_keep (c : Nat) (w : VecWord) (s : State) : Keeps s (stateAfter s (execRmax c w s)) := by
  show Kept _ _; unfold execRmax
  exact coreIssue_keep _ _ _ _ (fun s u h => reduceBody_keep _ _ _ _ _ h)

@[simp] theorem execRmin_keep (c : Nat) (w : VecWord) (s : State) : Keeps s (stateAfter s (execRmin c w s)) := by
  show Kept _ _; unfold execRmin
  exact coreIssue_keep _ _ _ _ (fun s u h => reduceBody_keep _ _ _ _ _ h)

@[simp] theorem execRamax_keep (c : Nat) (w : VecWord) (s : State) : Keeps s (stateAfter s (execRamax c w s)) := by
  show Kept _ _; unfold execRamax
  exact coreIssue_keep _ _ _ _ (fun s u h => reduceBody_keep _ _ _ _ _ h)

@[simp] theorem execGather_keep (c : Nat) (w : VecWord) (s : State) : Keeps s (stateAfter s (execGather c w s)) := by
  show Kept _ _; unfold execGather
  exact coreIssue_keep _ _ _ _ (fun s u h => vecBody_keep _ _ _ _ _ _ h)

@[simp] theorem execScatter_keep (c : Nat) (w : VecWord) (s : State) : Keeps s (stateAfter s (execScatter c w s)) := by
  show Kept _ _; unfold execScatter
  refine coreIssue_keep _ _ _ _ ?_; intro s u h; (repeat' (first | split at h | (dsimp only at h; split at h))) <;> first
    | exact vecBody_keep _ _ _ _ _ _ h
    | exact scatAddBody_keep _ _ _ _ _ _ h
    | (cases h <;> simp [Keeps])

theorem scatAddBody_keep (c : Nat) (w : VecWord) (s : State) (order : List Nat) (t : State) (u : State) (h : scatAddBody c w s order t = .ok u) : Keeps t u := by
  unfold scatAddBody at h; (repeat' (first | split at h | (dsimp only at h; split at h))) <;> first
    | exact vecBody_keep _ _ _ _ _ _ h
    | exact scatAddBody_keep _ _ _ _ _ _ h
    | (cases h <;> simp [Keeps])

@[simp] theorem execScataddO_keep (c : Nat) (w : VecWord) (s : State) : Keeps s (stateAfter s (execScataddO c w s)) := by
  show Kept _ _; unfold execScataddO
  refine coreIssue_keep _ _ _ _ ?_; intro s u h; (repeat' (first | split at h | (dsimp only at h; split at h))) <;> first
    | exact vecBody_keep _ _ _ _ _ _ h
    | exact scatAddBody_keep _ _ _ _ _ _ h
    | (cases h <;> simp [Keeps])

@[simp] theorem execScataddU_keep (c : Nat) (w : VecWord) (s : State) : Keeps s (stateAfter s (execScataddU c w s)) := by
  refine coreIssue_keep _ _ _ _ ?_
  intro s u h
  dsimp only at h
  (repeat' split at h) <;> first
    | (cases h; done)
    | exact Keeps.trans (t := s.draw.2) ⟨rfl, rfl, rfl⟩ (scatAddBody_keep _ _ _ _ _ _ h)

theorem funcBody_keep (c : Nat) (w : VecWord) (fs : Nat) (s : State) (u : State) (h : funcBody c w fs s = .ok u) : Keeps s u := by
  unfold funcBody at h; (repeat' (first | split at h | (dsimp only at h; split at h))) <;> first
    | exact vecBody_keep _ _ _ _ _ _ h
    | exact scatAddBody_keep _ _ _ _ _ _ h
    | (cases h <;> simp [Keeps])

@[simp] theorem execFunc_keep (c : Nat) (w : VecWord) (fs : Nat) (s : State) : Keeps s (stateAfter s (execFunc c w fs s)) := by
  show Kept _ _; unfold execFunc
  exact coreIssue_keep _ _ _ _ (fun s u h => funcBody_keep _ _ _ _ _ h)

theorem funcdBody_keep (c : Nat) (w : VecWord) (fs : Nat) (s : State) (u : State) (h : funcdBody c w fs s = .ok u) : Keeps s u := by
  unfold funcdBody at h; (repeat' (first | split at h | (dsimp only at h; split at h))) <;> first
    | exact vecBody_keep _ _ _ _ _ _ h
    | exact scatAddBody_keep _ _ _ _ _ _ h
    | (cases h <;> simp [Keeps])

@[simp] theorem execFuncd_keep (c : Nat) (w : VecWord) (fs : Nat) (s : State) : Keeps s (stateAfter s (execFuncd c w fs s)) := by
  show Kept _ _; unfold execFuncd
  exact coreIssue_keep _ _ _ _ (fun s u h => funcdBody_keep _ _ _ _ _ h)

theorem floadBody_keep (c : Nat) (fs : Nat) (addr : Nat) (s : State) (u : State) (h : floadBody c fs addr s = .ok u) : Keeps s u := by
  unfold floadBody at h; (repeat' (first | split at h | (dsimp only at h; split at h))) <;> first
    | exact vecBody_keep _ _ _ _ _ _ h
    | exact scatAddBody_keep _ _ _ _ _ _ h
    | (cases h <;> simp [Keeps])

@[simp] theorem execFload_keep (c : Nat) (nd : Bool) (fs : Nat) (addr : Nat) (s : State) : Keeps s (stateAfter s (execFload c nd fs addr s)) := by
  show Kept _ _; unfold execFload
  exact coreIssue_keep _ _ _ _ (fun s u h => floadBody_keep _ _ _ _ _ h)

theorem xposeBody_keep (c : Nat) (w : XposeWord) (s : State) (u : State) (h : xposeBody c w s = .ok u) : Keeps s u := by
  unfold xposeBody at h; (repeat' (first | split at h | (dsimp only at h; split at h))) <;> first
    | exact vecBody_keep _ _ _ _ _ _ h
    | exact scatAddBody_keep _ _ _ _ _ _ h
    | (cases h <;> simp [Keeps])

@[simp] theorem execXpose_keep (c : Nat) (w : XposeWord) (s : State) : Keeps s (stateAfter s (execXpose c w s)) := by
  show Kept _ _; unfold execXpose
  exact coreIssue_keep _ _ _ _ (fun s u h => xposeBody_keep _ _ _ _ h)

theorem whetElt_keep (t : Nat) (r : GroupParam) (c : GroupConst) (gfac : F32) (sh : ShardRec) (tag : Word) (gaddr e : Nat) (s s1 : State)
    (h : whetElt t r c gfac sh tag gaddr e s = some s1) : Keeps s s1 := by
  unfold whetElt at h; dsimp only at h
  split at h
  · cases h
  · cases h; split <;> simp [Keeps]

@[simp] theorem whetRun_keep (t : Nat) (r : GroupParam) (c : GroupConst) (gfac : F32) (sh : ShardRec) (tag : Word) (gaddr : Nat)
    (es : List Nat) (n : Nat) (s : State) : Keeps s (whetRun t r c gfac sh tag gaddr es n s).1 := by
  induction es generalizing s n with
  | nil => exact Keeps.refl s
  | cons e es ih =>
    unfold whetRun
    split
    · exact Keeps.refl s
    · next h => exact (whetElt_keep _ _ _ _ _ _ _ _ _ _ h).trans (ih _ _)

@[simp] theorem whetFails_keep (t : Nat) (stack : Nat) (record : Nat) (s : State) : Keeps s (whetFails t stack record s) := by
  show Kept _ _; unfold whetFails; (try dsimp only); (repeat' split) <;> simp [Kept, Keeps]

@[simp] theorem runWhet_keep (t j : Nat) (r : NearRange) (k : WhetCmd) (s : State) : Keeps s (runWhet t j r k s) := by
  show Kept _ _; unfold runWhet; (try dsimp only); (repeat' split) <;> simp [Kept, Keeps]

@[simp] theorem execWhetstoneComplete_keep (t j : Nat) (s : State) : Keeps s (stateAfter s (execWhetstoneComplete t j s)) := by
  show Kept _ _; unfold execWhetstoneComplete
  refine engine_keep _ _ ?_; intro s; (try dsimp only); (repeat' split) <;> simp [Kept, Keeps]

@[simp] theorem execInputQualify_keep (s : State) : Keeps s (stateAfter s (execInputQualify s)) := by
  show Kept _ _; unfold execInputQualify
  rw [stateAfter_nextS]; (try dsimp only); (repeat' split) <;> simp [Kept, Keeps]

@[simp] theorem execInputUv_keep (s : State) : Keeps s (stateAfter s (execInputUv s)) := by
  show Kept _ _; unfold execInputUv
  refine engine_keep _ _ ?_; intro s; (try dsimp only); (repeat' split) <;> simp [Kept, Keeps]

@[simp] theorem execInputOv_keep (s : State) : Keeps s (stateAfter s (execInputOv s)) := by
  show Kept _ _; unfold execInputOv
  refine engine_keep _ _ ?_; intro s; (try dsimp only); (repeat' split) <;> simp [Kept, Keeps]

@[simp] theorem execInputOvervoltageTrip_keep (s : State) : Keeps s (stateAfter s (execInputOvervoltageTrip s)) := by
  show Kept _ _; unfold execInputOvervoltageTrip
  rw [stateAfter_nextS]; (try dsimp only); (repeat' split) <;> simp [Kept, Keeps]

@[simp] theorem execInputLost_keep (removed : Bool) (s : State) : Keeps s (stateAfter s (execInputLost removed s)) := by
  show Kept _ _; unfold execInputLost
  rw [stateAfter_nextS]; (try dsimp only); (repeat' split) <;> simp [Kept, Keeps]

@[simp] theorem execInputReversed_keep (s : State) : Keeps s (stateAfter s (execInputReversed s)) := by
  show Kept _ _; unfold execInputReversed
  rw [stateAfter_nextS]; (try dsimp only); (repeat' split) <;> simp [Kept, Keeps]

@[simp] theorem execPowerMeasure_keep (vin iin pin : Nat) (s : State) : Keeps s (stateAfter s (execPowerMeasure vin iin pin s)) := by
  show Kept _ _; unfold execPowerMeasure; (try dsimp only); (repeat' split) <;> simp [Kept, Keeps]

@[simp] theorem execRailPowerGood_keep (r : Nat) (s : State) : Keeps s (stateAfter s (execRailPowerGood r s)) := by
  show Kept _ _; unfold execRailPowerGood
  rw [stateAfter_nextS]; (try dsimp only); (repeat' split) <;> simp [Kept, Keeps]

@[simp] theorem execRailShort_keep (r : Nat) (s : State) : Keeps s (stateAfter s (execRailShort r s)) := by
  show Kept _ _; unfold execRailShort
  rw [stateAfter_nextS]; (try dsimp only); (repeat' split) <;> simp [Kept, Keeps]

@[simp] theorem execRailRestartTimer_keep (s : State) : Keeps s (stateAfter s (execRailRestartTimer s)) := by
  show Kept _ _; unfold execRailRestartTimer
  rw [stateAfter_nextS]; (try dsimp only); (repeat' split) <;> simp [Kept, Keeps]

@[simp] theorem execSenseOpen_keep (r : Nat) (s : State) : Keeps s (stateAfter s (execSenseOpen r s)) := by
  show Kept _ _; unfold execSenseOpen
  rw [stateAfter_nextS]; (try dsimp only); (repeat' split) <;> simp [Kept, Keeps]

@[simp] theorem execRailOcWarn_keep (r : Nat) (s : State) : Keeps s (stateAfter s (execRailOcWarn r s)) := by
  show Kept _ _; unfold execRailOcWarn
  refine engine_keep _ _ ?_; intro s; (try dsimp only); (repeat' split) <;> simp [Kept, Keeps]

@[simp] theorem execRegHot_keep (r : Nat) (s : State) : Keeps s (stateAfter s (execRegHot r s)) := by
  show Kept _ _; unfold execRegHot
  refine engine_keep _ _ ?_; intro s; (try dsimp only); (repeat' split) <;> simp [Kept, Keeps]

@[simp] theorem execPwrEvtClr_keep (s : State) : Keeps s (stateAfter s (execPwrEvtClr s)) := by
  show Kept _ _; unfold execPwrEvtClr
  refine regWrite_keep _ _ ?_; intro s; (try dsimp only); (repeat' split) <;> simp [Kept, Keeps]

@[simp] theorem execClkRefLost_keep (s : State) : Keeps s (stateAfter s (execClkRefLost s)) := by
  show Kept _ _; unfold execClkRefLost
  rw [stateAfter_nextS]; (try dsimp only); (repeat' split) <;> simp [Kept, Keeps]

@[simp] theorem execReferenceReturn_keep (s : State) : Keeps s (stateAfter s (execReferenceReturn s)) := by
  show Kept _ _; unfold execReferenceReturn
  rw [stateAfter_nextS]; (try dsimp only); (repeat' split) <;> simp [Kept, Keeps]

@[simp] theorem execClkFail_keep (s : State) : Keeps s (stateAfter s (execClkFail s)) := by
  show Kept _ _; unfold execClkFail
  rw [stateAfter_nextS]; (try dsimp only); (repeat' split) <;> simp [Kept, Keeps]

@[simp] theorem execClkFailRestartTimer_keep (s : State) : Keeps s (stateAfter s (execClkFailRestartTimer s)) := by
  show Kept _ _; unfold execClkFailRestartTimer
  rw [stateAfter_nextS]; (try dsimp only); (repeat' split) <;> simp [Kept, Keeps]

@[simp] theorem execCableDetect_keep (low : Bool) (s : State) : Keeps s (stateAfter s (execCableDetect low s)) := by
  show Kept _ _; unfold execCableDetect
  rw [stateAfter_nextS]; (try dsimp only); (repeat' split) <;> simp [Kept, Keeps]

@[simp] theorem execThermalSample_keep (sample : List (Nat × Int)) (inlet : Nat) (outlet : Nat) (s : State) : Keeps s (stateAfter s (execThermalSample sample inlet outlet s)) := by
  show Kept _ _; unfold execThermalSample
  refine engine_keep _ _ ?_; intro s; (try dsimp only); (repeat' split) <;> simp [Kept, Keeps]

@[simp] theorem execThermTrip_keep (die : Nat) (s : State) : Keeps s (stateAfter s (execThermTrip die s)) := by
  show Kept _ _; unfold execThermTrip
  rw [stateAfter_nextS]; (try dsimp only); (repeat' split) <;> simp [Kept, Keeps]

@[simp] theorem execCoolantHot_keep (s : State) : Keeps s (stateAfter s (execCoolantHot s)) := by
  show Kept _ _; unfold execCoolantHot
  refine engine_keep _ _ ?_; intro s; (try dsimp only); (repeat' split) <;> simp [Kept, Keeps]

@[simp] theorem execCoolantFlow_keep (s : State) : Keeps s (stateAfter s (execCoolantFlow s)) := by
  show Kept _ _; unfold execCoolantFlow
  refine engine_keep _ _ ?_; intro s; (try dsimp only); (repeat' split) <;> simp [Kept, Keeps]

@[simp] theorem execThermClr_keep (s : State) : Keeps s (stateAfter s (execThermClr s)) := by
  show Kept _ _; unfold execThermClr
  refine regWrite_keep _ _ ?_; intro s; (try dsimp only); (repeat' split) <;> simp [Kept, Keeps]

@[simp] theorem answerRead_keep (vals : List Nat) (s : State) : Keeps s (answerRead vals s) := by
  show Kept _ _; unfold answerRead; (try dsimp only); (repeat' split) <;> simp [Kept, Keeps]

@[simp] theorem execSmbReadStatus_keep (s : State) : Keeps s (stateAfter s (execSmbReadStatus s)) := by
  show Kept _ _; unfold execSmbReadStatus
  rw [stateAfter_nextS]; (try dsimp only); (repeat' split) <;> simp [Kept, Keeps]

@[simp] theorem execSmbReadLog_keep (s : State) : Keeps s (stateAfter s (execSmbReadLog s)) := by
  show Kept _ _; unfold execSmbReadLog
  rw [stateAfter_nextS]; (try dsimp only); (repeat' split) <;> simp [Kept, Keeps]

@[simp] theorem execSmbRestart_keep (s : State) : Keeps s (stateAfter s (execSmbRestart s)) := by
  show Kept _ _; unfold execSmbRestart
  rw [stateAfter_nextS]; (try dsimp only); (repeat' split) <;> simp [Kept, Keeps]

@[simp] theorem execThlPresent_keep (low : Bool) (s : State) : Keeps s (stateAfter s (execThlPresent low s)) := by
  show Kept _ _; unfold execThlPresent
  rw [stateAfter_nextS]; (try dsimp only); (repeat' split) <;> simp [Kept, Keeps]

@[simp] theorem execPluginInsert_keep (p : Nat) (watts : Nat) (s : State) : Keeps s (stateAfter s (execPluginInsert p watts s)) := by
  show Kept _ _; unfold execPluginInsert
  rw [stateAfter_nextS]; (try dsimp only); (repeat' split) <;> simp [Kept, Keeps]

@[simp] theorem execRingRecordWrite_keep (t : Nat) (s : State) : Keeps s (stateAfter s (execRingRecordWrite t s)) := by
  show Kept _ _; unfold execRingRecordWrite
  refine engine_keep _ _ ?_; intro s; (try dsimp only); (repeat' split) <;> simp [Kept, Keeps]

@[simp] theorem execScorerHand_keep (t : Nat) (s : State) : Keeps s (stateAfter s (execScorerHand t s)) := by
  show Kept _ _; unfold execScorerHand
  refine engine_keep _ _ ?_; intro s; (try dsimp only); (repeat' split) <;> simp [Kept, Keeps]

@[simp] theorem execExpSeal_keep (h : CmdHdr) (seqNo : Nat) (reward : Nat) (reward2 : Nat) (drop : Bool) (s : State) : Keeps s (stateAfter s (execExpSeal h seqNo reward reward2 drop s)) := by
  show Kept _ _; unfold execExpSeal
  refine hostCmd_keep _ _ _ _ ?_; intro s; (try dsimp only); (repeat' split) <;> simp [Kept, Keeps]

@[simp] theorem execRingPoll_keep (t : Nat) (s : State) : Keeps s (stateAfter s (execRingPoll t s)) := by
  show Kept _ _; unfold execRingPoll
  refine engine_keep _ _ ?_; intro s; (try dsimp only); (repeat' split) <;> simp [Kept, Keeps]

@[simp] theorem execConsumerHand_keep (t : Nat) (s : State) : Keeps s (stateAfter s (execConsumerHand t s)) := by
  show Kept _ _; unfold execConsumerHand
  refine engine_keep _ _ ?_; intro s; (try dsimp only); (repeat' split) <;> simp [Kept, Keeps]

@[simp] theorem execExpEvtClr_keep (t : Nat) (s : State) : Keeps s (stateAfter s (execExpEvtClr t s)) := by
  show Kept _ _; unfold execExpEvtClr
  refine regWrite_keep _ _ ?_; intro s; (try dsimp only); (repeat' split) <;> simp [Kept, Keeps]

@[simp] theorem execTrpMap_keep (h : CmdHdr) (page : Nat) (entry : Nat) (s : State) : Keeps s (stateAfter s (execTrpMap h page entry s)) := by
  show Kept _ _; unfold execTrpMap
  refine hostCmd_keep _ _ _ _ ?_; intro s; (try dsimp only); (repeat' split) <;> simp [Kept, Keeps]

@[simp] theorem execTrpQpush_keep (h : CmdHdr) (q : Nat) (value : Nat) (s : State) : Keeps s (stateAfter s (execTrpQpush h q value s)) := by
  show Kept _ _; unfold execTrpQpush
  refine hostCmd_keep _ _ _ _ ?_; intro s; (try dsimp only); (repeat' split) <;> simp [Kept, Keeps]

@[simp] theorem execTrpSwitch_keep (h : CmdHdr) (out : Option Nat) (inn : Option Nat) (s : State) : Keeps s (stateAfter s (execTrpSwitch h out inn s)) := by
  show Kept _ _; unfold execTrpSwitch
  refine hostCmd_keep _ _ _ _ ?_; intro s; (try dsimp only); (repeat' split) <;> simp [Kept, Keeps]

@[simp] theorem execSwitchDrainDone_keep (t : Nat) (s : State) : Keeps s (stateAfter s (execSwitchDrainDone t s)) := by
  show Kept _ _; unfold execSwitchDrainDone
  refine engine_keep _ _ ?_; intro s; (try dsimp only); (repeat' split) <;> simp [Kept, Keeps]

@[simp] theorem execSwitchComplete_keep (t : Nat) (s : State) : Keeps s (stateAfter s (execSwitchComplete t s)) := by
  unfold execSwitchComplete
  refine engine_keep _ _ ?_
  intro s
  split
  · exact Keeps.refl s
  · next w _ =>
    extract_lets s0 s1 s2 s3 s4
    have h0 : Keeps s s0 := ⟨rfl, rfl, rfl⟩
    have h1 : Keeps s s1 := by
      show Keeps s (match w.out with | some o => leaveOut o s0 | none => s0)
      split
      · exact h0.trans (leaveOut_keep _ _)
      · exact h0
    have h2 : Keeps s s2 := by
      show Keeps s (match w.inn with | some i => arriveIn i w.t0 s1 | none => s1)
      split
      · exact h1.trans (arriveIn_keep _ _ _)
      · exact h1
    have h3 : Keeps s s3 := h2.trans (complete_keep _ _ _ _)
    have h4 : Keeps s s4 := h3.trans (foldl_keeps _ (fun s t => settleTears_keep t s) _ _)
    exact h4.trans (settleSwitches_keep _)

@[simp] theorem execTrpCtxPut_keep (h : CmdHdr) (img : CtxImage) (s : State) : Keeps s (stateAfter s (execTrpCtxPut h img s)) := by
  show Kept _ _; unfold execTrpCtxPut
  refine hostCmd_keep _ _ _ _ ?_; intro s; (try dsimp only); (repeat' split) <;> simp [Kept, Keeps]

@[simp] theorem execTrpCtxGet_keep (h : CmdHdr) (addr : Nat) (s : State) : Keeps s (stateAfter s (execTrpCtxGet h addr s)) := by
  show Kept _ _; unfold execTrpCtxGet
  refine hostCmd_keep _ _ _ _ ?_; intro s; (try dsimp only); (repeat' split) <;> simp [Kept, Keeps]

@[simp] theorem execTrpRestore_keep (h : CmdHdr) (s : State) : Keeps s (stateAfter s (execTrpRestore h s)) := by
  show Kept _ _; unfold execTrpRestore
  refine hostCmd_keep _ _ _ _ ?_; intro s; (try dsimp only); (repeat' split) <;> simp [Kept, Keeps]

@[simp] theorem execTrpTeardown_keep (h : CmdHdr) (s : State) : Keeps s (stateAfter s (execTrpTeardown h s)) := by
  show Kept _ _; unfold execTrpTeardown
  refine hostCmd_keep _ _ _ _ ?_; intro s; (try dsimp only); (repeat' split) <;> simp [Kept, Keeps]

@[simp] theorem execTrpEvtClr_keep (t : Nat) (s : State) : Keeps s (stateAfter s (execTrpEvtClr t s)) := by
  show Kept _ _; unfold execTrpEvtClr
  refine regWrite_keep _ _ ?_; intro s; (try dsimp only); (repeat' split) <;> simp [Kept, Keeps]

@[simp] theorem flushMsgs_keep (s : State) : Keeps s (flushMsgs s) := by
  show Kept _ _; unfold flushMsgs; (try dsimp only); (repeat' split) <;> simp [Kept, Keeps]

@[simp] theorem execThlTraining_keep (lo : Bool) (hi : Bool) (s : State) : Keeps s (stateAfter s (execThlTraining lo hi s)) := by
  show Kept _ _; unfold execThlTraining
  refine engine_keep _ _ ?_; intro s; (try dsimp only); (repeat' split) <;> simp [Kept, Keeps]

@[simp] theorem execThlLockLoss_keep (ms : Nat) (s : State) : Keeps s (stateAfter s (execThlLockLoss ms s)) := by
  show Kept _ _; unfold execThlLockLoss
  refine engine_keep _ _ ?_; intro s; (try dsimp only); (repeat' split) <;> simp [Kept, Keeps]

@[simp] theorem execHostFault_keep (h : CmdHdr) (opcode : Nat) (s : State) : Keeps s (stateAfter s (execHostFault h opcode s)) := by
  show Kept _ _; unfold execHostFault
  refine engine_keep _ _ ?_; intro s; (try dsimp only); (repeat' split) <;> simp [Kept, Keeps]

@[simp] theorem execEnable_keep (v : Nat) (s : State) : Keeps s (stateAfter s (execEnable v s)) := by
  show Kept _ _; unfold execEnable
  refine regWrite_keep _ _ ?_; intro s; (try dsimp only); (repeat' split) <;> simp [Kept, Keeps]

@[simp] theorem execAdminQueueWrite_keep (which : Nat) (v : Nat) (s : State) : Keeps s (stateAfter s (execAdminQueueWrite which v s)) := by
  show Kept _ _; unfold execAdminQueueWrite
  refine regWrite_keep _ _ ?_; intro s; (try dsimp only); (repeat' split) <;> simp [Kept, Keeps]

@[simp] theorem execQueueCreate_keep (h : CmdHdr) (r : QueueRec) (s : State) : Keeps s (stateAfter s (execQueueCreate h r s)) := by
  show Kept _ _; unfold execQueueCreate
  refine hostCmd_keep _ _ _ _ ?_; intro s; (try dsimp only); (repeat' split) <;> simp [Kept, Keeps]

@[simp] theorem execQueueDelete_keep (h : CmdHdr) (qid : Nat) (kind : Nat) (s : State) : Keeps s (stateAfter s (execQueueDelete h qid kind s)) := by
  show Kept _ _; unfold execQueueDelete
  refine hostCmd_keep _ _ _ _ ?_; intro s; (try dsimp only); (repeat' split) <;> simp [Kept, Keeps]

@[simp] theorem execEvqBind_keep (h : CmdHdr) (slot : Nat) (troupe : Nat) (eqid : Nat) (tenants : List (Nat × Nat)) (s : State) : Keeps s (stateAfter s (execEvqBind h slot troupe eqid tenants s)) := by
  show Kept _ _; unfold execEvqBind
  refine hostCmd_keep _ _ _ _ ?_; intro s; (try dsimp only); (repeat' split) <;> simp [Kept, Keeps]

@[simp] theorem execDoorbell_keep (kind : Nat) (q : Nat) (v : Nat) (s : State) : Keeps s (stateAfter s (execDoorbell kind q v s)) := by
  show Kept _ _; unfold execDoorbell
  refine regWrite_keep _ _ ?_; intro s; (try dsimp only); (repeat' split) <;> simp [Kept, Keeps]

@[simp] theorem execCommandFetch_keep (mem : List (Nat × List Byte)) (tenants : List (Nat × Nat)) (s : State) : Keeps s (stateAfter s (execCommandFetch mem tenants s)) := by
  show Kept _ _; unfold execCommandFetch
  refine engine_keep _ _ ?_; intro s; (try dsimp only); (repeat' split) <;> simp [Kept, Keeps]

@[simp] theorem execCommandRelay_keep (h : CmdHdr) (opcode : Nat) (fence : Bool) (s : State) : Keeps s (stateAfter s (execCommandRelay h opcode fence s)) := by
  show Kept _ _; unfold execCommandRelay
  refine engine_keep _ _ ?_; intro s; (try dsimp only); (repeat' split) <;> simp [Kept, Keeps]

@[simp] theorem execCompletionWrite_keep (c : Option Cpl) (s : State) : Keeps s (stateAfter s (execCompletionWrite c s)) := by
  unfold execCompletionWrite
  refine engine_keep _ _ ?_
  intro s
  split
  · split <;> exact ⟨rfl, rfl, rfl⟩
  · split
    · exact Keeps.refl s
    · next x xs _ =>
      have h1 : Keeps s (dropFetched x.hdr { s with thl.cplWait := xs }) := Keeps.trans ⟨rfl, rfl, rfl⟩ (dropFetched_keep _ _)
      dsimp only
      split
      · split
        · split
          · next h => exact h1.trans (writeCpl_keep _ _ _ h)
          · exact Keeps.refl s
        · exact Keeps.refl s
      · split
        · exact Keeps.refl s
        · exact h1.trans ⟨rfl, rfl, rfl⟩

@[simp] theorem execEventRaise_keep (e : EventIn) (s : State) : Keeps s (stateAfter s (execEventRaise e s)) := by
  show Kept _ _; unfold execEventRaise
  refine engine_keep _ _ ?_; intro s; (try dsimp only); (repeat' split) <;> simp [Kept, Keeps]

@[simp] theorem enterBuffer_keep (q : Nat) (s : State) : Keeps s (enterBuffer q s) := by
  show Kept _ _; unfold enterBuffer; (try dsimp only); (repeat' split) <;> simp [Kept, Keeps]

@[simp] theorem execNoticeBufferDrain_keep (q : Nat) (s : State) : Keeps s (stateAfter s (execNoticeBufferDrain q s)) := by
  show Kept _ _; unfold execNoticeBufferDrain
  refine engine_keep _ _ ?_; intro s; (try dsimp only); (repeat' split) <;> simp [Kept, Keeps]

@[simp] theorem execPendClear_keep (code : Nat) (s : State) : Keeps s (stateAfter s (execPendClear code s)) := by
  show Kept _ _; unfold execPendClear
  refine regWrite_keep _ _ ?_; intro s; (try dsimp only); (repeat' split) <;> simp [Kept, Keeps]

@[simp] theorem execEvtCntClr_keep (code : Nat) (s : State) : Keeps s (stateAfter s (execEvtCntClr code s)) := by
  show Kept _ _; unfold execEvtCntClr
  refine regWrite_keep _ _ ?_; intro s; (try dsimp only); (repeat' split) <;> simp [Kept, Keeps]

@[simp] theorem execThlEvtClr_keep (s : State) : Keeps s (stateAfter s (execThlEvtClr s)) := by
  show Kept _ _; unfold execThlEvtClr
  refine regWrite_keep _ _ ?_; intro s; (try dsimp only); (repeat' split) <;> simp [Kept, Keeps]

@[simp] theorem execMemberJoined_keep (lmid : Nat) (serial : Nat) (s : State) : Keeps s (stateAfter s (execMemberJoined lmid serial s)) := by
  show Kept _ _; unfold execMemberJoined
  refine engine_keep _ _ ?_; intro s; (try dsimp only); (repeat' split) <;> simp [Kept, Keeps]

@[simp] theorem execJoinTimeout_keep (slot : Nat) (s : State) : Keeps s (stateAfter s (execJoinTimeout slot s)) := by
  show Kept _ _; unfold execJoinTimeout
  refine engine_keep _ _ ?_; intro s; (try dsimp only); (repeat' split) <;> simp [Kept, Keeps]

@[simp] theorem execHeartbeatSend_keep (s : State) : Keeps s (stateAfter s (execHeartbeatSend s)) := by
  show Kept _ _; unfold execHeartbeatSend
  refine engine_keep _ _ ?_; intro s; (try dsimp only); (repeat' split) <;> simp [Kept, Keeps]

@[simp] theorem execHeartbeatReceive_keep (slot : Nat) (stop : Bool) (s : State) : Keeps s (stateAfter s (execHeartbeatReceive slot stop s)) := by
  show Kept _ _; unfold execHeartbeatReceive
  refine engine_keep _ _ ?_; intro s; (try dsimp only); (repeat' split) <;> simp [Kept, Keeps]

@[simp] theorem execMemberFailed_keep (slot : Nat) (s : State) : Keeps s (stateAfter s (execMemberFailed slot s)) := by
  show Kept _ _; unfold execMemberFailed
  refine engine_keep _ _ ?_; intro s; (try dsimp only); (repeat' split) <;> simp [Kept, Keeps]

@[simp] theorem rerouteLmid_keep (l : Nat) (s : State) : Keeps s (rerouteLmid l s) := by
  show Kept _ _; unfold rerouteLmid; (try dsimp only); (repeat' split) <;> simp [Kept, Keeps]

@[simp] theorem fencePorts_keep (l : Nat) (s : State) : Keeps s (fencePorts l s) := by
  show Kept _ _; unfold fencePorts; (try dsimp only); (repeat' split) <;> simp [Kept, Keeps]

@[simp] theorem subBegins_keep (l : Nat) (s : State) : Keeps s (subBegins l s) := by
  show Kept _ _; unfold subBegins; (try dsimp only); (repeat' split) <;> simp [Kept, Keeps]

@[simp] theorem subChange_keep (m : MemberMsg) (s : State) : Keeps s (subChange m s) := by
  show Kept _ _; unfold subChange; (try dsimp only); (repeat' split) <;> simp [Kept, Keeps]

@[simp] theorem execMembershipChange_keep (m : MemberMsg) (s : State) : Keeps s (stateAfter s (execMembershipChange m s)) := by
  show Kept _ _; unfold execMembershipChange
  refine engine_keep _ _ ?_; intro s; (try dsimp only); (repeat' split) <;> simp [Kept, Keeps]

@[simp] theorem execEnsReadmit_keep (h : CmdHdr) (lmid : Nat) (s : State) : Keeps s (stateAfter s (execEnsReadmit h lmid s)) := by
  show Kept _ _; unfold execEnsReadmit
  refine hostCmd_keep _ _ _ _ ?_; intro s; (try dsimp only); (repeat' split) <;> simp [Kept, Keeps]

@[simp] theorem outsideTrigger_keep (src : Nat) (s : State) : Keeps s (outsideTrigger src s) := by
  show Kept _ _; unfold outsideTrigger; (try dsimp only); (repeat' split) <;> simp [Kept, Keeps]

@[simp] theorem execFreezePin_keep (s : State) : Keeps s (stateAfter s (execFreezePin s)) := by
  show Kept _ _; unfold execFreezePin
  rw [stateAfter_nextS]; (try dsimp only); (repeat' split) <;> simp [Kept, Keeps]

@[simp] theorem execFreeze_keep (s : State) : Keeps s (stateAfter s (execFreeze s)) := by
  show Kept _ _; unfold execFreeze
  refine regWrite_keep _ _ ?_; intro s; (try dsimp only); (repeat' split) <;> simp [Kept, Keeps]

@[simp] theorem execFreezeCueTrigger_keep (s : State) : Keeps s (stateAfter s (execFreezeCueTrigger s)) := by
  show Kept _ _; unfold execFreezeCueTrigger
  refine engine_keep _ _ ?_; intro s; (try dsimp only); (repeat' split) <;> simp [Kept, Keeps]

@[simp] theorem execFreezeMarkerReceive_keep (p : Nat) (s : State) : Keeps s (stateAfter s (execFreezeMarkerReceive p s)) := by
  show Kept _ _; unfold execFreezeMarkerReceive
  rw [stateAfter_nextS]; (try dsimp only); (repeat' split) <;> simp [Kept, Keeps]

@[simp] theorem execFreezeStop_keep (s : State) : Keeps s (stateAfter s (execFreezeStop s)) := by
  show Kept _ _; unfold execFreezeStop
  rw [stateAfter_nextS]; (try dsimp only); (repeat' split) <;> simp [Kept, Keeps]

@[simp] theorem execTabIgnClr_keep (s : State) : Keeps s (stateAfter s (execTabIgnClr s)) := by
  show Kept _ _; unfold execTabIgnClr
  refine regWrite_keep _ _ ?_; intro s; (try dsimp only); (repeat' split) <;> simp [Kept, Keeps]

theorem tabWrite_keep (f : State → State) (s : State) (h : ∀ s, Kept s (f s)) : Keeps s (stateAfter s (tabWrite f s)) := by
  show Keeps s (if _ then _ else if _ then _ else _)
  split
  · exact Keeps.refl s
  · split
    · exact h s
    · exact ⟨rfl, rfl, rfl⟩

theorem jtag_keep (f : State → State) (s : State) (h : ∀ s, Kept s (f s)) : Keeps s (stateAfter s (jtag f s)) := by
  show Keeps s (if _ then _ else _)
  split
  · exact h s
  · exact Keeps.refl s

@[simp] theorem execRead_keep (s : State) : Keeps s (stateAfter s (execRead s)) := by
  show Kept _ _; unfold execRead
  refine tabWrite_keep _ _ ?_; intro s; (try dsimp only); (repeat' split) <;> simp [Kept, Keeps]

@[simp] theorem execTabRead_keep (s : State) : Keeps s (stateAfter s (execTabRead s)) := by
  show Kept _ _; unfold execTabRead
  refine jtag_keep _ _ ?_; intro s; (try dsimp only); (repeat' split) <;> simp [Kept, Keeps]

@[simp] theorem execMemread_keep (s : State) : Keeps s (stateAfter s (execMemread s)) := by
  show Kept _ _; unfold execMemread
  refine tabWrite_keep _ _ ?_; intro s; (try dsimp only); (repeat' split) <;> simp [Kept, Keeps]

@[simp] theorem writePages_keep (s : State) : Keeps s (writePages s) := by
  show Kept _ _; unfold writePages; (try dsimp only); (repeat' split) <;> simp [Kept, Keeps]

@[simp] theorem resume_keep (s : State) : Keeps s (resume s) := by
  show Kept _ _; unfold resume; (try dsimp only); (repeat' split) <;> simp [Kept, Keeps]

@[simp] theorem execTabReadoutDone_keep (s : State) : Keeps s (stateAfter s (execTabReadoutDone s)) := by
  show Kept _ _; unfold execTabReadoutDone
  rw [stateAfter_nextS]; (try dsimp only); (repeat' split) <;> simp [Kept, Keeps]

@[simp] theorem execResume_keep (s : State) : Keeps s (stateAfter s (execResume s)) := by
  show Kept _ _; unfold execResume
  refine tabWrite_keep _ _ ?_; intro s; (try dsimp only); (repeat' split) <;> simp [Kept, Keeps]

@[simp] theorem execTabResume_keep (s : State) : Keeps s (stateAfter s (execTabResume s)) := by
  show Kept _ _; unfold execTabResume
  refine jtag_keep _ _ ?_; intro s; (try dsimp only); (repeat' split) <;> simp [Kept, Keeps]

@[simp] theorem execWakeSignalReceive_keep (p : Nat) (s : State) : Keeps s (stateAfter s (execWakeSignalReceive p s)) := by
  show Kept _ _; unfold execWakeSignalReceive
  rw [stateAfter_nextS]; (try dsimp only); (repeat' split) <;> simp [Kept, Keeps]

@[simp] theorem execDividerRestart_keep (s : State) : Keeps s (stateAfter s (execDividerRestart s)) := by
  show Kept _ _; unfold execDividerRestart
  rw [stateAfter_nextS]; (try dsimp only); (repeat' split) <;> simp [Kept, Keeps]

@[simp] theorem onBit_keep (v i : Nat) (f : State → Host.Outcome State Fault Refusal) (s : State) (h : ∀ s, Keeps s (stateAfter s (f s))) :
    Keeps s (onBit v i f s) := by
  show Kept _ _; unfold onBit; split
  · exact h s
  · exact Keeps.refl s

@[simp] theorem writeIdent_keep (o : Nat) (v : Nat) (s : State) : Keeps s (writeIdent o v s) := by
  show Kept _ _; unfold writeIdent; (try dsimp only); (repeat' split) <;> simp [Kept, Keeps]

@[simp] theorem writeEvents_keep (o : Nat) (v : Nat) (s : State) : Keeps s (writeEvents o v s) := by
  show Kept _ _; unfold writeEvents; (try dsimp only); (repeat' split) <;> simp [Kept, Keeps]

@[simp] theorem writeBoot_keep (o : Nat) (v : Nat) (s : State) : Keeps s (writeBoot o v s) := by
  show Kept _ _; unfold writeBoot; (try dsimp only); (repeat' split) <;> simp [Kept, Keeps]

@[simp] theorem armTrigger_keep (s : State) : Keeps s (armTrigger s) := by
  show Kept _ _; unfold armTrigger; (try dsimp only); (repeat' split) <;> simp [Kept, Keeps]

@[simp] theorem writePower_keep (o : Nat) (v : Nat) (s : State) : Keeps s (writePower o v s) := by
  show Kept _ _; unfold writePower; (try dsimp only); (repeat' split) <;> simp [Kept, Keeps]

@[simp] theorem writeCue_keep (o : Nat) (v : Nat) (s : State) : Keeps s (writeCue o v s) := by
  show Kept _ _; unfold writeCue; (try dsimp only); (repeat' split) <;> simp [Kept, Keeps]

@[simp] theorem writeTrp_keep (t : Nat) (o : Nat) (v : Nat) (s : State) : Keeps s (writeTrp t o v s) := by
  show Kept _ _; unfold writeTrp; (try dsimp only); (repeat' split) <;> simp [Kept, Keeps]

@[simp] theorem writeFly_keep (t : Nat) (o : Nat) (v : Nat) (s : State) : Keeps s (writeFly t o v s) := by
  show Kept _ _; unfold writeFly; (try dsimp only); (repeat' split) <;> simp [Kept, Keeps]

@[simp] theorem writeLrn_keep (w : Nat) (t : Nat) (o : Nat) (v : Nat) (s : State) : Keeps s (writeLrn w t o v s) := by
  show Kept _ _; unfold writeLrn; (try dsimp only); (repeat' split) <;> simp [Kept, Keeps]

@[simp] theorem writeTroupe_keep (o : Nat) (v : Nat) (s : State) : Keeps s (writeTroupe o v s) := by
  show Kept _ _; unfold writeTroupe; (try dsimp only); (repeat' split) <;> simp [Kept, Keeps]

@[simp] theorem writeThl_keep (o : Nat) (v : Nat) (s : State) : Keeps s (writeThl o v s) := by
  show Kept _ _; unfold writeThl; (try dsimp only); (repeat' split) <;> simp [Kept, Keeps]

@[simp] theorem writeTab_keep (o : Nat) (v : Nat) (s : State) : Keeps s (writeTab o v s) := by
  show Kept _ _; unfold writeTab; (try dsimp only); (repeat' split) <;> simp [Kept, Keeps]

@[simp] theorem writeWatch_keep (o : Nat) (v : Nat) (s : State) : Keeps s (writeWatch o v s) := by
  show Kept _ _; unfold writeWatch; (try dsimp only); (repeat' split) <;> simp [Kept, Keeps]

@[simp] theorem writePort_keep (p o v : Nat) (s : State) : Keeps s (writePort p o v s) := by
  show Kept _ _; unfold writePort; (try dsimp only); (repeat' split) <;> simp [Kept, Keeps]

@[simp] theorem writeStack_keep (n : Nat) (o : Nat) (v : Nat) (s : State) : Keeps s (writeStack n o v s) := by
  show Kept _ _; unfold writeStack; (try dsimp only); (repeat' split) <;> simp [Kept, Keeps]

@[simp] theorem writeCore_keep (c : Nat) (o : Nat) (v : Nat) (s : State) : Keeps s (writeCore c o v s) := by
  show Kept _ _; unfold writeCore; (try dsimp only); (repeat' split) <;> simp [Kept, Keeps]

@[simp] theorem regPut_keep (off : Nat) (v : Nat) (s : State) : Keeps s (regPut off v s) := by
  show Kept _ _; unfold regPut; (try dsimp only); (repeat' split) <;> simp [Kept, Keeps]

@[simp] theorem hostWriteReg_keep (off : Nat) (v : Nat) (s : State) : Keeps s (hostWriteReg off v s) := by
  show Kept _ _; unfold hostWriteReg; (try dsimp only); (repeat' split) <;> simp [Kept, Keeps]

@[simp] theorem rejectAccess_keep (off : Nat) (wr : Bool) (s : State) : Keeps s (rejectAccess off wr s) := by
  show Kept _ _; unfold rejectAccess; (try dsimp only); (repeat' split) <;> simp [Kept, Keeps]

@[simp] theorem execRejectedAccess_keep (off : Nat) (wr : Bool) (s : State) : Keeps s (stateAfter s (execRejectedAccess off wr s)) := by
  show Kept _ _; unfold execRejectedAccess
  refine regWrite_keep _ _ ?_; intro s; (try dsimp only); (repeat' split) <;> simp [Kept, Keeps]

@[simp] theorem execAccErrClr_keep (s : State) : Keeps s (stateAfter s (execAccErrClr s)) := by
  show Kept _ _; unfold execAccErrClr
  refine regWrite_keep _ _ ?_; intro s; (try dsimp only); (repeat' split) <;> simp [Kept, Keeps]

@[simp] theorem execRegisterWrite_keep (off v : Nat) (s : State) : Keeps s (stateAfter s (execRegisterWrite off v s)) := by
  show Kept _ _; unfold execRegisterWrite
  split
  · exact regWrite_keep _ _ (fun s => rejectAccess_keep _ _ s)
  · exact hostWriteReg_keep _ _ _

@[simp] theorem relayFails_keep (s : State) : Keeps s (relayFails s) := by
  show Kept _ _; unfold relayFails; (try dsimp only); (repeat' split) <;> simp [Kept, Keeps]

@[simp] theorem execRegisterAccessRelay_keep (n : Nat) (off : Nat) (wr : Option Nat) (answer : Option Nat) (s : State) : Keeps s (stateAfter s (execRegisterAccessRelay n off wr answer s)) := by
  show Kept _ _; unfold execRegisterAccessRelay
  rw [stateAfter_nextS]; (try dsimp only); (repeat' split) <;> simp [Kept, Keeps]

theorem sampIssue_keep (c : Nat) (w : VecWord) (slot : Nat) (rows : List (Nat × Nat)) (body : Nat → GSlot → State → State) (s : State)
    (hb : ∀ u x s, Keeps s (body u x s)) : Keeps s (stateAfter s (sampIssue c w slot rows body s)) := by
  refine coreIssue_keep _ _ _ _ ?_
  intro s u h
  dsimp only at h
  split at h
  · cases h
  · split at h
    · cases h
    · split at h
      · cases h; exact Keeps.refl _
      · cases h; exact hb _ _ _

@[simp] theorem execSampMask_keep (c : Nat) (w : VecWord) (slot n src dst : Nat) (s : State) :
    Keeps s (stateAfter s (execSampMask c w slot n src dst s)) := by
  refine sampIssue_keep _ _ _ _ _ _ (fun u x s => ?_)
  dsimp only
  refine Keeps.trans ?_ (Keeps.trans (State.modCore_keep _ _ _) (chargeVec_keep _ _ _))
  split
  · exact ⟨rfl, rfl, rfl⟩
  · exact Keeps.refl _

@[simp] theorem execSampDraw_keep (c : Nat) (w : VecWord) (slot n scores masked : Nat) (draft : Bool) (s : State) :
    Keeps s (stateAfter s (execSampDraw c w slot n scores masked draft s)) := by
  refine sampIssue_keep _ _ _ _ _ _ (fun u x s => ?_)
  dsimp only; (repeat' split) <;> simp [Keeps]

@[simp] theorem execSampAccept_keep (c : Nat) (w : VecWord) (slot n drafts policies : Nat) (s : State) :
    Keeps s (stateAfter s (execSampAccept c w slot n drafts policies s)) := by
  refine sampIssue_keep _ _ _ _ _ _ (fun u x s => ?_)
  dsimp only; (repeat' split) <;> simp [Keeps]

@[simp] theorem execFenceL_keep (c : Nat) (nd : Bool) (s : State) : Keeps s (stateAfter s (execFenceL c nd s)) := by
  show Kept _ _; unfold execFenceL
  refine coreIssue_keep _ _ _ _ ?_; intro s u h; (repeat' (first | split at h | (dsimp only at h; split at h))) <;> first
    | exact vecBody_keep _ _ _ _ _ _ h
    | exact scatAddBody_keep _ _ _ _ _ _ h
    | (cases h <;> simp [Keeps])

@[simp] theorem execFenceM_keep (c : Nat) (nd : Bool) (s : State) : Keeps s (stateAfter s (execFenceM c nd s)) := by
  show Kept _ _; unfold execFenceM
  refine coreIssue_keep _ _ _ _ ?_; intro s u h; (repeat' (first | split at h | (dsimp only at h; split at h))) <;> first
    | exact vecBody_keep _ _ _ _ _ _ h
    | exact scatAddBody_keep _ _ _ _ _ _ h
    | (cases h <;> simp [Keeps])

@[simp] theorem execSemSig_keep (c : Nat) (nd : Bool) (sem : Nat) (count : Nat) (s : State) : Keeps s (stateAfter s (execSemSig c nd sem count s)) := by
  show Kept _ _; unfold execSemSig
  refine coreIssue_keep _ _ _ _ ?_; intro s u h; (repeat' (first | split at h | (dsimp only at h; split at h))) <;> first
    | exact vecBody_keep _ _ _ _ _ _ h
    | exact scatAddBody_keep _ _ _ _ _ _ h
    | (cases h <;> simp [Keeps])

@[simp] theorem execSemWait_keep (c : Nat) (nd : Bool) (sem : Nat) (count : Nat) (s : State) : Keeps s (stateAfter s (execSemWait c nd sem count s)) := by
  show Kept _ _; unfold execSemWait
  refine coreIssue_keep _ _ _ _ ?_; intro s u h; (repeat' (first | split at h | (dsimp only at h; split at h))) <;> first
    | exact vecBody_keep _ _ _ _ _ _ h
    | exact scatAddBody_keep _ _ _ _ _ _ h
    | (cases h <;> simp [Keeps])

@[simp] theorem execSemTake_keep (c : Nat) (nd : Bool) (sem : Nat) (count : Nat) (s : State) : Keeps s (stateAfter s (execSemTake c nd sem count s)) := by
  show Kept _ _; unfold execSemTake
  refine coreIssue_keep _ _ _ _ ?_; intro s u h; (repeat' (first | split at h | (dsimp only at h; split at h))) <;> first
    | exact vecBody_keep _ _ _ _ _ _ h
    | exact scatAddBody_keep _ _ _ _ _ _ h
    | (cases h <;> simp [Keeps])

@[simp] theorem execSemWaitSatisfied_keep (c : Nat) (s : State) : Keeps s (stateAfter s (execSemWaitSatisfied c s)) := by
  show Kept _ _; unfold execSemWaitSatisfied
  refine engine_keep _ _ ?_; intro s; (try dsimp only); (repeat' split) <;> simp [Kept, Keeps]

@[simp] theorem execQpop_keep (c : Nat) (nd : Bool) (q : Nat) (rd : Nat) (s : State) : Keeps s (stateAfter s (execQpop c nd q rd s)) := by
  show Kept _ _; unfold execQpop
  refine coreIssue_keep _ _ _ _ ?_; intro s u h; (repeat' (first | split at h | (dsimp only at h; split at h))) <;> first
    | exact vecBody_keep _ _ _ _ _ _ h
    | exact scatAddBody_keep _ _ _ _ _ _ h
    | (cases h <;> simp [Keeps])

@[simp] theorem execQueueEntryAvailable_keep (c : Nat) (s : State) : Keeps s (stateAfter s (execQueueEntryAvailable c s)) := by
  show Kept _ _; unfold execQueueEntryAvailable
  refine engine_keep _ _ ?_; intro s; (try dsimp only); (repeat' split) <;> simp [Kept, Keeps]

@[simp] theorem execCueWait_keep (c : Nat) (w : CueWord) (s : State) : Keeps s (stateAfter s (execCueWait c w s)) := by
  show Kept _ _; unfold execCueWait
  refine coreIssue_keep _ _ _ _ ?_; intro s u h; (repeat' (first | split at h | (dsimp only at h; split at h))) <;> first
    | exact vecBody_keep _ _ _ _ _ _ h
    | exact scatAddBody_keep _ _ _ _ _ _ h
    | (cases h <;> simp [Keeps])

@[simp] theorem execCueWaitRelease_keep (c : Nat) (s : State) : Keeps s (stateAfter s (execCueWaitRelease c s)) := by
  show Kept _ _; unfold execCueWaitRelease
  refine engine_keep _ _ ?_; intro s; (try dsimp only); (repeat' split) <;> simp [Kept, Keeps]

@[simp] theorem execUndStage_keep (h : CmdHdr) (l : Nat) (len : Nat) (img : CastImage) (agree : Bool) (s : State) : Keeps s (stateAfter s (execUndStage h l len img agree s)) := by
  show Kept _ _; unfold execUndStage
  refine hostCmd_keep _ _ _ _ ?_; intro s; (try dsimp only); (repeat' split) <;> simp [Kept, Keeps]

@[simp] theorem subEnds_keep (s : State) : Keeps s (subEnds s) := by
  show Kept _ _; unfold subEnds; (try dsimp only); (repeat' split) <;> simp [Kept, Keeps]

@[simp] theorem takeOver_keep (l : Nat) (img : CastImage) (s : State) : Keeps s (takeOver l img s) := by
  simp [takeOver, Keeps]

@[simp] theorem substituteHere_keep (h : CmdHdr) (l : Nat) (image : Option (Nat × CastImage)) (agree : Bool) (s : State) : Keeps s (substituteHere h l image agree s) := by
  show Kept _ _; unfold substituteHere; (try dsimp only); (repeat' split) <;> simp [Kept, Keeps]

@[simp] theorem execEnsSubstitute_keep (h : CmdHdr) (l : Nat) (image : Option (Nat × CastImage)) (agree : Bool) (s : State) : Keeps s (stateAfter s (execEnsSubstitute h l image agree s)) := by
  show Kept _ _; unfold execEnsSubstitute
  refine hostCmd_keep _ _ _ _ ?_; intro s; (try dsimp only); (repeat' split) <;> simp [Kept, Keeps]

@[simp] theorem execAutoSubstitution_keep (l : Nat) (s : State) : Keeps s (stateAfter s (execAutoSubstitution l s)) := by
  show Kept _ _; unfold execAutoSubstitution
  refine engine_keep _ _ ?_; intro s; (try dsimp only); (repeat' split) <;> simp [Kept, Keeps]

@[simp] theorem execSubstitutionFill_keep (t : Nat) (pieces : List Piece) (bars : List (Nat × Nat)) (s : State) : Keeps s (stateAfter s (execSubstitutionFill t pieces bars s)) := by
  show Kept _ _; unfold execSubstitutionFill
  refine engine_keep _ _ ?_; intro s; (try dsimp only); (repeat' split) <;> simp [Kept, Keeps]

@[simp] theorem refuseUndefined_keep (s : State) : Keeps s (refuseUndefined s) := by
  show Kept _ _; unfold refuseUndefined; (try dsimp only); (repeat' split) <;> simp [Kept, Keeps]

@[simp] theorem endCount_keep (s : State) : Keeps s (endCount s) := by
  show Kept _ _; unfold endCount; (try dsimp only); (repeat' split) <;> simp [Kept, Keeps]

@[simp] theorem tick_keep (s : State) : Keeps s (tick s) := by
  show Kept _ _; unfold tick; (try dsimp only); (repeat' split) <;> simp [Kept, Keeps]

end Sys2Proof.Machine
end

