-- ==== Sys2Proof/Laws/Table.lean ====
section
/-! SUPPORT. Laws of the tables and of byte memory: a read after a write, and the canonical form that every operation keeps. -/

namespace Sys2Proof.Machine

/-! ### Tables -/

@[simp] theorem mapFind_nil {α : Type} (k : Nat) : mapFind ([] : Map α) k = none := rfl

theorem mapFind_cons {α : Type} (j k : Nat) (v : α) (m : Map α) :
    mapFind ((j, v) :: m) k = if j = k then some v else mapFind m k := by
  simp [mapFind]

/-- A put is found, and every other key finds what it found. This holds of every list, ordered or not. -/
theorem mapFind_put {α : Type} (m : Map α) (k j : Nat) (v : α) :
    mapFind (mapPut m k v) j = if j = k then some v else mapFind m j := by
  induction m with
  | nil => simp only [mapPut, mapFind_cons, mapFind_nil, eq_comm]
  | cons e m ih =>
    obtain ⟨i, w⟩ := e
    simp only [mapPut]
    split
    · simp only [mapFind_cons]; by_cases h : j = k
      · simp [h]
      · simp [h, Ne.symm h]
    · split
      · next h =>
        simp at h; subst h; simp only [mapFind_cons]
        by_cases h : i = j
        · simp [h]
        · simp [h, Ne.symm h]
      · next h => simp at h; simp only [mapFind_cons, ih]; split <;> simp_all

@[simp] theorem mapFind_put_same {α : Type} (m : Map α) (k : Nat) (v : α) : mapFind (mapPut m k v) k = some v := by
  simp [mapFind_put]

theorem mapFind_put_other {α : Type} (m : Map α) {k j : Nat} (v : α) (h : j ≠ k) : mapFind (mapPut m k v) j = mapFind m j := by
  simp [mapFind_put, h]

theorem mapGet_put {α : Type} (d : α) (m : Map α) (k j : Nat) (v : α) :
    mapGet d (mapPut m k v) j = if j = k then v else mapGet d m j := by
  simp only [mapGet, mapFind_put]
  by_cases h : j = k <;> simp [h]

@[simp] theorem mapGet_put_same {α : Type} (d : α) (m : Map α) (k : Nat) (v : α) : mapGet d (mapPut m k v) k = v := by
  simp [mapGet_put]

theorem mapGet_put_other {α : Type} (d : α) (m : Map α) {k j : Nat} (v : α) (h : j ≠ k) :
    mapGet d (mapPut m k v) j = mapGet d m j := by
  simp [mapGet_put, h]

theorem mapFind_del {α : Type} (m : Map α) (k j : Nat) :
    mapFind (mapDel m k) j = if j = k then none else mapFind m j := by
  induction m with
  | nil => simp [mapDel]
  | cons e m ih =>
    obtain ⟨i, w⟩ := e
    simp only [mapDel, List.filter_cons] at ih ⊢
    by_cases h : i = k
    · subst h; simp only [bne_self_eq_false, Bool.false_eq_true, ite_false, ih, mapFind_cons]
      by_cases hj : j = i <;> simp [hj, eq_comm]
    · have : (i != k) = true := by simp [h]
      simp only [this, ite_true, mapFind_cons, ih]
      by_cases hj : i = j
      · subst hj; simp [h]
      · simp [hj]

theorem mapGet_del {α : Type} (d : α) (m : Map α) (k j : Nat) :
    mapGet d (mapDel m k) j = if j = k then d else mapGet d m j := by
  simp only [mapGet, mapFind_del]
  by_cases h : j = k <;> simp [h]

/-- A table is ordered when its first key lies below the keys of the ordered rest. -/
theorem mapOrdered_cons {α : Type} (j : Nat) (v : α) (m : Map α) :
    mapOrdered ((j, v) :: m) = true ↔ (∀ e ∈ m, j < e.1) ∧ mapOrdered m = true := by
  induction m generalizing j v with
  | nil => simp [mapOrdered]
  | cons e m ih =>
    obtain ⟨k, w⟩ := e
    rw [mapOrdered, Bool.and_eq_true, decide_eq_true_eq, ih]
    constructor
    · rintro ⟨h, hm, ho⟩
      refine ⟨?_, hm, ho⟩
      intro e he
      simp only [List.mem_cons] at he
      rcases he with rfl | he
      · exact h
      · exact Nat.lt_trans h (hm e he)
    · rintro ⟨h, hm, ho⟩
      exact ⟨h (k, w) (by simp), hm, ho⟩

theorem mem_mapPut {α : Type} {m : Map α} {k : Nat} {v : α} {e : Nat × α} (h : e ∈ mapPut m k v) : e = (k, v) ∨ e ∈ m := by
  induction m with
  | nil => simpa [mapPut] using h
  | cons a m ih =>
    obtain ⟨j, w⟩ := a
    simp only [mapPut] at h
    split at h
    · simpa using h
    · split at h <;> simp only [List.mem_cons] at h ⊢
      · rcases h with h | h <;> simp [h]
      · rcases h with h | h
        · simp [h]
        · rcases ih h with h | h <;> simp [h]

/-- A put keeps the order of the keys. -/
theorem mapOrdered_put {α : Type} {m : Map α} (k : Nat) (v : α) (h : mapOrdered m = true) : mapOrdered (mapPut m k v) = true := by
  induction m with
  | nil => rfl
  | cons e m ih =>
    obtain ⟨j, w⟩ := e
    rw [mapOrdered_cons] at h
    simp only [mapPut]
    split
    · next hk =>
      rw [mapOrdered_cons, mapOrdered_cons]
      refine ⟨?_, h⟩
      intro e he
      simp only [List.mem_cons] at he
      rcases he with rfl | he
      · exact hk
      · exact Nat.lt_trans hk (h.1 e he)
    · split
      · next hj => simp at hj; subst hj; rw [mapOrdered_cons]; exact h
      · next hk hj =>
        rw [mapOrdered_cons]
        refine ⟨?_, ih h.2⟩
        intro e he
        rcases mem_mapPut he with rfl | he
        · simp at hj; omega
        · exact h.1 e he

/-- Dropping entries keeps the order of the keys. -/
theorem mapOrdered_filter {α : Type} {m : Map α} (p : Nat × α → Bool) (h : mapOrdered m = true) : mapOrdered (m.filter p) = true := by
  induction m with
  | nil => rfl
  | cons e m ih =>
    obtain ⟨j, w⟩ := e
    rw [mapOrdered_cons] at h
    rw [List.filter_cons]
    split
    · rw [mapOrdered_cons]
      exact ⟨fun e he => h.1 e (List.mem_filter.1 he).1, ih h.2⟩
    · exact ih h.2

/-! ### Byte memory -/

theorem Memory.read_write (m : Memory) (a b : Nat) (x : Byte) :
    (m.write a x).read b = if b = a then x else m.read b := by
  simp only [Memory.write, Memory.read]
  split
  · next h => simp at h; subst h; simp [mapGet_del]
  · simp [mapGet_put]

@[simp] theorem Memory.read_write_same (m : Memory) (a : Nat) (x : Byte) : (m.write a x).read a = x := by
  simp [Memory.read_write]

theorem Memory.read_write_other (m : Memory) {a b : Nat} (x : Byte) (h : b ≠ a) : (m.write a x).read b = m.read b := by
  simp [Memory.read_write, h]

/-- A write of a list leaves every address outside its range alone. -/
theorem Memory.read_writeN_outside (m : Memory) (a b : Nat) (xs : List Byte) (h : b < a ∨ a + xs.length ≤ b) :
    (m.writeN a xs).read b = m.read b := by
  induction xs generalizing m a with
  | nil => rfl
  | cons x xs ih =>
    simp only [List.length_cons] at h
    rw [Memory.writeN, ih _ _ (by omega), Memory.read_write_other _ _ (by omega)]

/-- A read inside the range of a written list gives its byte. -/
theorem Memory.read_writeN_inside (m : Memory) (a i : Nat) (xs : List Byte) (h : i < xs.length) :
    (m.writeN a xs).read (a + i) = xs[i] := by
  induction xs generalizing m a i with
  | nil => simp at h
  | cons x xs ih =>
    rw [Memory.writeN]
    cases i with
    | zero => rw [Memory.read_writeN_outside _ _ _ _ (by omega)]; simp
    | succ i =>
      have := ih (m.write a x) (a + 1) i (by simpa using h)
      rw [show a + (i + 1) = a + 1 + i by omega, this]
      simp

/-- Reading back the range of a written list gives the list. -/
theorem Memory.readN_writeN (m : Memory) (a : Nat) (xs : List Byte) : (m.writeN a xs).readN a xs.length = xs := by
  induction xs generalizing m a with
  | nil => rfl
  | cons x xs ih =>
    rw [List.length_cons, Memory.readN, Memory.writeN, ih, Memory.read_writeN_outside _ _ _ _ (by omega)]
    simp

@[simp] theorem leBytes_length (n v : Nat) : (leBytes n v).length = n := by
  induction n generalizing v with
  | zero => rfl
  | succ n ih => simp [leBytes, ih]

theorem leNat_leBytes (n v : Nat) : leNat (leBytes n v) = v % 256 ^ n := by
  induction n generalizing v with
  | zero => simp [leBytes, leNat, Nat.mod_one]
  | succ n ih =>
    have h : (v % 256) % 2 ^ 8 = v % 256 := Nat.mod_mod v 256
    rw [leBytes, leNat, ih, BitVec.toNat_ofNat, h, Nat.pow_succ, Nat.mul_comm (256 ^ n) 256, Nat.mod_mul]

/-- A number stored and loaded again is the number, within its bytes. -/
theorem Memory.nat_putNat (m : Memory) (a n v : Nat) : (m.putNat a n v).nat a n = v % 256 ^ n := by
  have h := Memory.readN_writeN m a (leBytes n v)
  rw [leBytes_length] at h
  rw [Memory.nat, Memory.putNat, h, leNat_leBytes]

theorem mapFind_filter {α : Type} (m : Map α) (p : Nat → Bool) (k : Nat) :
    mapFind (m.filter (fun e => p e.1)) k = if p k then mapFind m k else none := by
  induction m with
  | nil => simp
  | cons e m ih =>
    obtain ⟨j, w⟩ := e
    by_cases hj : j = k
    · subst hj
      by_cases h : p j = true
      · simp [h, mapFind_cons]
      · simp [h, ih]
    · by_cases h : p j = true
      · simp [h, mapFind_cons, hj, ih]
      · simp [h, ih, mapFind_cons, hj]

theorem Memory.read_zeroRange (m : Memory) (a n b : Nat) :
    (m.zeroRange a n).read b = if a ≤ b ∧ b < a + n then 0 else m.read b := by
  have h := mapFind_filter m (fun x => decide (x < a) || decide (a + n ≤ x)) b
  simp only [Memory.zeroRange, Memory.read, mapGet, h]
  by_cases hb : a ≤ b ∧ b < a + n
  · have h1 : ¬ b < a := by omega
    have h2 : ¬ a + n ≤ b := by omega
    simp [h1, h2, hb, Memory.unlisted]
  · have h1 : b < a ∨ a + n ≤ b := by omega
    simp [h1, hb]

/-! ### The canonical form -/

theorem Memory.wf_nil : Memory.wf [] = true := rfl

/-- A write of one byte keeps the canonical form. -/
theorem Memory.wf_write (m : Memory) (a : Nat) (x : Byte) (h : m.wf = true) : (m.write a x).wf = true := by
  simp only [Memory.wf, Bool.and_eq_true, List.all_eq_true] at h ⊢
  simp only [Memory.write]
  split
  · exact ⟨mapOrdered_filter _ h.1, fun e he => h.2 e (List.mem_filter.1 he).1⟩
  · next hx =>
    refine ⟨mapOrdered_put _ _ h.1, ?_⟩
    intro e he
    rcases mem_mapPut he with rfl | he
    · simpa using hx
    · exact h.2 e he

/-- A write of a list keeps the canonical form. -/
theorem Memory.wf_writeN (m : Memory) (a : Nat) (xs : List Byte) (h : m.wf = true) : (m.writeN a xs).wf = true := by
  induction xs generalizing m a with
  | nil => exact h
  | cons x xs ih => exact ih _ _ (Memory.wf_write m a x h)

/-- A store of a number keeps the canonical form. -/
theorem Memory.wf_putNat (m : Memory) (a n v : Nat) (h : m.wf = true) : (m.putNat a n v).wf = true :=
  Memory.wf_writeN m a _ h

/-- Dropping cells keeps the canonical form. -/
theorem Memory.wf_filter (m : Memory) (p : Host.Cell → Bool) (h : m.wf = true) : Memory.wf (m.filter p) = true := by
  simp only [Memory.wf, Bool.and_eq_true, List.all_eq_true] at h ⊢
  exact ⟨mapOrdered_filter _ h.1, fun e he => h.2 e (List.mem_filter.1 he).1⟩

/-- Zeroing a range keeps the canonical form. -/
theorem Memory.wf_zeroRange (m : Memory) (a n : Nat) (h : m.wf = true) : (m.zeroRange a n).wf = true :=
  Memory.wf_filter m _ h

end Sys2Proof.Machine
end

