-- ==== Sys2Proof/Laws/State.lean ====
section
/-! SUPPORT. What each update of the state does to each of its fields, and what it does to its parts. -/

namespace Sys2Proof.Machine

/-! ### Parts -/

theorem State.core_setCore (s : State) (c d : Nat) (k : Core) : (s.setCore c k).core d = if d = c then k else s.core d := mapGet_put _ _ _ _ _
@[simp] theorem State.core_setCore_same (s : State) (c : Nat) (k : Core) : (s.setCore c k).core c = k := mapGet_put_same _ _ _ _
theorem State.core_setCore_other (s : State) {c d : Nat} (k : Core) (h : d ≠ c) : (s.setCore c k).core d = s.core d := mapGet_put_other _ _ _ h
@[simp] theorem State.core_modCore_same (s : State) (c : Nat) (f : Core → Core) : (s.modCore c f).core c = f (s.core c) := mapGet_put_same _ _ _ _
theorem State.core_modCore_other (s : State) {c d : Nat} (f : Core → Core) (h : d ≠ c) : (s.modCore c f).core d = s.core d :=
  mapGet_put_other _ _ _ h
@[simp] theorem State.core_modRegs_same (s : State) (c : Nat) (f : CoreRegs → CoreRegs) :
    (s.modRegs c f).core c = { s.core c with regs := f (s.core c).regs } := mapGet_put_same _ _ _ _
theorem State.core_modRegs_other (s : State) {c d : Nat} (f : CoreRegs → CoreRegs) (h : d ≠ c) : (s.modRegs c f).core d = s.core d :=
  mapGet_put_other _ _ _ h
theorem State.troupe_setTroupe (s : State) (t u : Nat) (x : Troupe) : (s.setTroupe t x).troupe u = if u = t then x else s.troupe u :=
  mapGet_put _ _ _ _ _
@[simp] theorem State.troupe_setTroupe_same (s : State) (t : Nat) (x : Troupe) : (s.setTroupe t x).troupe t = x := mapGet_put_same _ _ _ _
@[simp] theorem State.troupe_modTroupe_same (s : State) (t : Nat) (f : Troupe → Troupe) : (s.modTroupe t f).troupe t = f (s.troupe t) :=
  mapGet_put_same _ _ _ _
theorem State.troupe_modTroupe_other (s : State) {t u : Nat} (f : Troupe → Troupe) (h : u ≠ t) : (s.modTroupe t f).troupe u = s.troupe u :=
  mapGet_put_other _ _ _ h
@[simp] theorem State.gen_modGen_same (s : State) (t : Nat) (f : Gen → Gen) : (s.modGen t f).gen t = f (s.gen t) := by
  simp [State.gen, State.modGen]
@[simp] theorem State.lrn_modGen_same (s : State) (t : Nat) (f : Gen → Gen) : (s.modGen t f).lrn t = s.lrn t := by
  simp [State.lrn, State.modGen]
@[simp] theorem State.lrn_modLrn_same (s : State) (t : Nat) (f : Lrn → Lrn) : (s.modLrn t f).lrn t = f (s.lrn t) := by
  simp [State.lrn, State.modLrn]
@[simp] theorem State.gen_modLrn_same (s : State) (t : Nat) (f : Lrn → Lrn) : (s.modLrn t f).gen t = s.gen t := by
  simp [State.gen, State.modLrn]
@[simp] theorem State.stack_modStack_same (s : State) (n : Nat) (f : Stack → Stack) : (s.modStack n f).stack n = f (s.stack n) :=
  mapGet_put_same _ _ _ _
@[simp] theorem State.port_modPort_same (s : State) (p : Nat) (f : Port → Port) : (s.modPort p f).port p = f (s.port p) :=
  mapGet_put_same _ _ _ _
theorem State.port_modPort_other (s : State) {p q : Nat} (f : Port → Port) (h : q ≠ p) : (s.modPort p f).port q = s.port q :=
  mapGet_put_other _ _ _ h
@[simp] theorem State.bar_setBar_same (s : State) (t b : Nat) (x : BarState) : (s.setBar t b x).bar t b = x := mapGet_put_same _ _ _ _

/-! ### Fields -/

@[simp] theorem State.setCore_pending (s : State) (c : Nat) (k : Core) : (s.setCore c k).pending = s.pending := rfl
@[simp] theorem State.setCore_cue (s : State) (c : Nat) (k : Core) : (s.setCore c k).cue = s.cue := rfl
@[simp] theorem State.setCore_cueRegs (s : State) (c : Nat) (k : Core) : (s.setCore c k).cueRegs = s.cueRegs := rfl
@[simp] theorem State.setCore_fab (s : State) (c : Nat) (k : Core) : (s.setCore c k).fab = s.fab := rfl
@[simp] theorem State.setCore_boot (s : State) (c : Nat) (k : Core) : (s.setCore c k).boot = s.boot := rfl
@[simp] theorem State.setCore_bt (s : State) (c : Nat) (k : Core) : (s.setCore c k).bt = s.bt := rfl
@[simp] theorem State.setCore_record (s : State) (c : Nat) (k : Core) : (s.setCore c k).record = s.record := rfl
@[simp] theorem State.setCore_lmid (s : State) (c : Nat) (k : Core) : (s.setCore c k).lmid = s.lmid := rfl
@[simp] theorem State.setCore_accErr (s : State) (c : Nat) (k : Core) : (s.setCore c k).accErr = s.accErr := rfl
@[simp] theorem State.setCore_tab (s : State) (c : Nat) (k : Core) : (s.setCore c k).tab = s.tab := rfl
@[simp] theorem State.setCore_hw (s : State) (c : Nat) (k : Core) : (s.setCore c k).hw = s.hw := rfl
@[simp] theorem State.setCore_pwr (s : State) (c : Nat) (k : Core) : (s.setCore c k).pwr = s.pwr := rfl
@[simp] theorem State.setCore_mem (s : State) (c : Nat) (k : Core) : (s.setCore c k).mem = s.mem := rfl
@[simp] theorem State.setCore_wt (s : State) (c : Nat) (k : Core) : (s.setCore c k).wt = s.wt := rfl
@[simp] theorem State.setCore_prm (s : State) (c : Nat) (k : Core) : (s.setCore c k).prm = s.prm := rfl
@[simp] theorem State.setCore_ckpt (s : State) (c : Nat) (k : Core) : (s.setCore c k).ckpt = s.ckpt := rfl
@[simp] theorem State.setCore_cast (s : State) (c : Nat) (k : Core) : (s.setCore c k).cast = s.cast := rfl
@[simp] theorem State.setCore_troupes (s : State) (c : Nat) (k : Core) : (s.setCore c k).troupes = s.troupes := rfl
@[simp] theorem State.setCore_sems (s : State) (c : Nat) (k : Core) : (s.setCore c k).sems = s.sems := rfl
@[simp] theorem State.setCore_thl (s : State) (c : Nat) (k : Core) : (s.setCore c k).thl = s.thl := rfl
@[simp] theorem State.setCore_switches (s : State) (c : Nat) (k : Core) : (s.setCore c k).switches = s.switches := rfl
@[simp] theorem State.setCore_waitSw (s : State) (c : Nat) (k : Core) : (s.setCore c k).waitSw = s.waitSw := rfl
@[simp] theorem State.setCore_takers (s : State) (c : Nat) (k : Core) : (s.setCore c k).takers = s.takers := rfl
@[simp] theorem State.setCore_notStarted (s : State) (c : Nat) (k : Core) : (s.setCore c k).notStarted = s.notStarted := rfl
@[simp] theorem State.setCore_out (s : State) (c : Nat) (k : Core) : (s.setCore c k).out = s.out := rfl
@[simp] theorem State.setCore_fresh (s : State) (c : Nat) (k : Core) : (s.setCore c k).fresh = s.fresh := rfl

@[simp] theorem State.modCore_pending (s : State) (c : Nat) (f : Core → Core) : (s.modCore c f).pending = s.pending := rfl
@[simp] theorem State.modCore_cue (s : State) (c : Nat) (f : Core → Core) : (s.modCore c f).cue = s.cue := rfl
@[simp] theorem State.modCore_cueRegs (s : State) (c : Nat) (f : Core → Core) : (s.modCore c f).cueRegs = s.cueRegs := rfl
@[simp] theorem State.modCore_fab (s : State) (c : Nat) (f : Core → Core) : (s.modCore c f).fab = s.fab := rfl
@[simp] theorem State.modCore_boot (s : State) (c : Nat) (f : Core → Core) : (s.modCore c f).boot = s.boot := rfl
@[simp] theorem State.modCore_bt (s : State) (c : Nat) (f : Core → Core) : (s.modCore c f).bt = s.bt := rfl
@[simp] theorem State.modCore_record (s : State) (c : Nat) (f : Core → Core) : (s.modCore c f).record = s.record := rfl
@[simp] theorem State.modCore_lmid (s : State) (c : Nat) (f : Core → Core) : (s.modCore c f).lmid = s.lmid := rfl
@[simp] theorem State.modCore_accErr (s : State) (c : Nat) (f : Core → Core) : (s.modCore c f).accErr = s.accErr := rfl
@[simp] theorem State.modCore_tab (s : State) (c : Nat) (f : Core → Core) : (s.modCore c f).tab = s.tab := rfl
@[simp] theorem State.modCore_hw (s : State) (c : Nat) (f : Core → Core) : (s.modCore c f).hw = s.hw := rfl
@[simp] theorem State.modCore_pwr (s : State) (c : Nat) (f : Core → Core) : (s.modCore c f).pwr = s.pwr := rfl
@[simp] theorem State.modCore_mem (s : State) (c : Nat) (f : Core → Core) : (s.modCore c f).mem = s.mem := rfl
@[simp] theorem State.modCore_wt (s : State) (c : Nat) (f : Core → Core) : (s.modCore c f).wt = s.wt := rfl
@[simp] theorem State.modCore_prm (s : State) (c : Nat) (f : Core → Core) : (s.modCore c f).prm = s.prm := rfl
@[simp] theorem State.modCore_ckpt (s : State) (c : Nat) (f : Core → Core) : (s.modCore c f).ckpt = s.ckpt := rfl
@[simp] theorem State.modCore_cast (s : State) (c : Nat) (f : Core → Core) : (s.modCore c f).cast = s.cast := rfl
@[simp] theorem State.modCore_troupes (s : State) (c : Nat) (f : Core → Core) : (s.modCore c f).troupes = s.troupes := rfl
@[simp] theorem State.modCore_sems (s : State) (c : Nat) (f : Core → Core) : (s.modCore c f).sems = s.sems := rfl
@[simp] theorem State.modCore_thl (s : State) (c : Nat) (f : Core → Core) : (s.modCore c f).thl = s.thl := rfl
@[simp] theorem State.modCore_switches (s : State) (c : Nat) (f : Core → Core) : (s.modCore c f).switches = s.switches := rfl
@[simp] theorem State.modCore_waitSw (s : State) (c : Nat) (f : Core → Core) : (s.modCore c f).waitSw = s.waitSw := rfl
@[simp] theorem State.modCore_takers (s : State) (c : Nat) (f : Core → Core) : (s.modCore c f).takers = s.takers := rfl
@[simp] theorem State.modCore_notStarted (s : State) (c : Nat) (f : Core → Core) : (s.modCore c f).notStarted = s.notStarted := rfl
@[simp] theorem State.modCore_out (s : State) (c : Nat) (f : Core → Core) : (s.modCore c f).out = s.out := rfl
@[simp] theorem State.modCore_fresh (s : State) (c : Nat) (f : Core → Core) : (s.modCore c f).fresh = s.fresh := rfl

@[simp] theorem State.modRegs_pending (s : State) (c : Nat) (f : CoreRegs → CoreRegs) : (s.modRegs c f).pending = s.pending := rfl
@[simp] theorem State.modRegs_cue (s : State) (c : Nat) (f : CoreRegs → CoreRegs) : (s.modRegs c f).cue = s.cue := rfl
@[simp] theorem State.modRegs_cueRegs (s : State) (c : Nat) (f : CoreRegs → CoreRegs) : (s.modRegs c f).cueRegs = s.cueRegs := rfl
@[simp] theorem State.modRegs_fab (s : State) (c : Nat) (f : CoreRegs → CoreRegs) : (s.modRegs c f).fab = s.fab := rfl
@[simp] theorem State.modRegs_boot (s : State) (c : Nat) (f : CoreRegs → CoreRegs) : (s.modRegs c f).boot = s.boot := rfl
@[simp] theorem State.modRegs_bt (s : State) (c : Nat) (f : CoreRegs → CoreRegs) : (s.modRegs c f).bt = s.bt := rfl
@[simp] theorem State.modRegs_record (s : State) (c : Nat) (f : CoreRegs → CoreRegs) : (s.modRegs c f).record = s.record := rfl
@[simp] theorem State.modRegs_lmid (s : State) (c : Nat) (f : CoreRegs → CoreRegs) : (s.modRegs c f).lmid = s.lmid := rfl
@[simp] theorem State.modRegs_accErr (s : State) (c : Nat) (f : CoreRegs → CoreRegs) : (s.modRegs c f).accErr = s.accErr := rfl
@[simp] theorem State.modRegs_tab (s : State) (c : Nat) (f : CoreRegs → CoreRegs) : (s.modRegs c f).tab = s.tab := rfl
@[simp] theorem State.modRegs_hw (s : State) (c : Nat) (f : CoreRegs → CoreRegs) : (s.modRegs c f).hw = s.hw := rfl
@[simp] theorem State.modRegs_pwr (s : State) (c : Nat) (f : CoreRegs → CoreRegs) : (s.modRegs c f).pwr = s.pwr := rfl
@[simp] theorem State.modRegs_mem (s : State) (c : Nat) (f : CoreRegs → CoreRegs) : (s.modRegs c f).mem = s.mem := rfl
@[simp] theorem State.modRegs_wt (s : State) (c : Nat) (f : CoreRegs → CoreRegs) : (s.modRegs c f).wt = s.wt := rfl
@[simp] theorem State.modRegs_prm (s : State) (c : Nat) (f : CoreRegs → CoreRegs) : (s.modRegs c f).prm = s.prm := rfl
@[simp] theorem State.modRegs_ckpt (s : State) (c : Nat) (f : CoreRegs → CoreRegs) : (s.modRegs c f).ckpt = s.ckpt := rfl
@[simp] theorem State.modRegs_cast (s : State) (c : Nat) (f : CoreRegs → CoreRegs) : (s.modRegs c f).cast = s.cast := rfl
@[simp] theorem State.modRegs_troupes (s : State) (c : Nat) (f : CoreRegs → CoreRegs) : (s.modRegs c f).troupes = s.troupes := rfl
@[simp] theorem State.modRegs_sems (s : State) (c : Nat) (f : CoreRegs → CoreRegs) : (s.modRegs c f).sems = s.sems := rfl
@[simp] theorem State.modRegs_thl (s : State) (c : Nat) (f : CoreRegs → CoreRegs) : (s.modRegs c f).thl = s.thl := rfl
@[simp] theorem State.modRegs_switches (s : State) (c : Nat) (f : CoreRegs → CoreRegs) : (s.modRegs c f).switches = s.switches := rfl
@[simp] theorem State.modRegs_waitSw (s : State) (c : Nat) (f : CoreRegs → CoreRegs) : (s.modRegs c f).waitSw = s.waitSw := rfl
@[simp] theorem State.modRegs_takers (s : State) (c : Nat) (f : CoreRegs → CoreRegs) : (s.modRegs c f).takers = s.takers := rfl
@[simp] theorem State.modRegs_notStarted (s : State) (c : Nat) (f : CoreRegs → CoreRegs) : (s.modRegs c f).notStarted = s.notStarted := rfl
@[simp] theorem State.modRegs_out (s : State) (c : Nat) (f : CoreRegs → CoreRegs) : (s.modRegs c f).out = s.out := rfl
@[simp] theorem State.modRegs_fresh (s : State) (c : Nat) (f : CoreRegs → CoreRegs) : (s.modRegs c f).fresh = s.fresh := rfl

@[simp] theorem State.setTroupe_pending (s : State) (t : Nat) (x : Troupe) : (s.setTroupe t x).pending = s.pending := rfl
@[simp] theorem State.setTroupe_cue (s : State) (t : Nat) (x : Troupe) : (s.setTroupe t x).cue = s.cue := rfl
@[simp] theorem State.setTroupe_cueRegs (s : State) (t : Nat) (x : Troupe) : (s.setTroupe t x).cueRegs = s.cueRegs := rfl
@[simp] theorem State.setTroupe_fab (s : State) (t : Nat) (x : Troupe) : (s.setTroupe t x).fab = s.fab := rfl
@[simp] theorem State.setTroupe_boot (s : State) (t : Nat) (x : Troupe) : (s.setTroupe t x).boot = s.boot := rfl
@[simp] theorem State.setTroupe_bt (s : State) (t : Nat) (x : Troupe) : (s.setTroupe t x).bt = s.bt := rfl
@[simp] theorem State.setTroupe_record (s : State) (t : Nat) (x : Troupe) : (s.setTroupe t x).record = s.record := rfl
@[simp] theorem State.setTroupe_lmid (s : State) (t : Nat) (x : Troupe) : (s.setTroupe t x).lmid = s.lmid := rfl
@[simp] theorem State.setTroupe_accErr (s : State) (t : Nat) (x : Troupe) : (s.setTroupe t x).accErr = s.accErr := rfl
@[simp] theorem State.setTroupe_tab (s : State) (t : Nat) (x : Troupe) : (s.setTroupe t x).tab = s.tab := rfl
@[simp] theorem State.setTroupe_hw (s : State) (t : Nat) (x : Troupe) : (s.setTroupe t x).hw = s.hw := rfl
@[simp] theorem State.setTroupe_pwr (s : State) (t : Nat) (x : Troupe) : (s.setTroupe t x).pwr = s.pwr := rfl
@[simp] theorem State.setTroupe_mem (s : State) (t : Nat) (x : Troupe) : (s.setTroupe t x).mem = s.mem := rfl
@[simp] theorem State.setTroupe_wt (s : State) (t : Nat) (x : Troupe) : (s.setTroupe t x).wt = s.wt := rfl
@[simp] theorem State.setTroupe_prm (s : State) (t : Nat) (x : Troupe) : (s.setTroupe t x).prm = s.prm := rfl
@[simp] theorem State.setTroupe_ckpt (s : State) (t : Nat) (x : Troupe) : (s.setTroupe t x).ckpt = s.ckpt := rfl
@[simp] theorem State.setTroupe_cast (s : State) (t : Nat) (x : Troupe) : (s.setTroupe t x).cast = s.cast := rfl
@[simp] theorem State.setTroupe_sems (s : State) (t : Nat) (x : Troupe) : (s.setTroupe t x).sems = s.sems := rfl
@[simp] theorem State.setTroupe_thl (s : State) (t : Nat) (x : Troupe) : (s.setTroupe t x).thl = s.thl := rfl
@[simp] theorem State.setTroupe_cores (s : State) (t : Nat) (x : Troupe) : (s.setTroupe t x).cores = s.cores := rfl
@[simp] theorem State.setTroupe_switches (s : State) (t : Nat) (x : Troupe) : (s.setTroupe t x).switches = s.switches := rfl
@[simp] theorem State.setTroupe_waitSw (s : State) (t : Nat) (x : Troupe) : (s.setTroupe t x).waitSw = s.waitSw := rfl
@[simp] theorem State.setTroupe_takers (s : State) (t : Nat) (x : Troupe) : (s.setTroupe t x).takers = s.takers := rfl
@[simp] theorem State.setTroupe_notStarted (s : State) (t : Nat) (x : Troupe) : (s.setTroupe t x).notStarted = s.notStarted := rfl
@[simp] theorem State.setTroupe_out (s : State) (t : Nat) (x : Troupe) : (s.setTroupe t x).out = s.out := rfl
@[simp] theorem State.setTroupe_fresh (s : State) (t : Nat) (x : Troupe) : (s.setTroupe t x).fresh = s.fresh := rfl

@[simp] theorem State.modTroupe_pending (s : State) (t : Nat) (f : Troupe → Troupe) : (s.modTroupe t f).pending = s.pending := rfl
@[simp] theorem State.modTroupe_cue (s : State) (t : Nat) (f : Troupe → Troupe) : (s.modTroupe t f).cue = s.cue := rfl
@[simp] theorem State.modTroupe_cueRegs (s : State) (t : Nat) (f : Troupe → Troupe) : (s.modTroupe t f).cueRegs = s.cueRegs := rfl
@[simp] theorem State.modTroupe_fab (s : State) (t : Nat) (f : Troupe → Troupe) : (s.modTroupe t f).fab = s.fab := rfl
@[simp] theorem State.modTroupe_boot (s : State) (t : Nat) (f : Troupe → Troupe) : (s.modTroupe t f).boot = s.boot := rfl
@[simp] theorem State.modTroupe_bt (s : State) (t : Nat) (f : Troupe → Troupe) : (s.modTroupe t f).bt = s.bt := rfl
@[simp] theorem State.modTroupe_record (s : State) (t : Nat) (f : Troupe → Troupe) : (s.modTroupe t f).record = s.record := rfl
@[simp] theorem State.modTroupe_lmid (s : State) (t : Nat) (f : Troupe → Troupe) : (s.modTroupe t f).lmid = s.lmid := rfl
@[simp] theorem State.modTroupe_accErr (s : State) (t : Nat) (f : Troupe → Troupe) : (s.modTroupe t f).accErr = s.accErr := rfl
@[simp] theorem State.modTroupe_tab (s : State) (t : Nat) (f : Troupe → Troupe) : (s.modTroupe t f).tab = s.tab := rfl
@[simp] theorem State.modTroupe_hw (s : State) (t : Nat) (f : Troupe → Troupe) : (s.modTroupe t f).hw = s.hw := rfl
@[simp] theorem State.modTroupe_pwr (s : State) (t : Nat) (f : Troupe → Troupe) : (s.modTroupe t f).pwr = s.pwr := rfl
@[simp] theorem State.modTroupe_mem (s : State) (t : Nat) (f : Troupe → Troupe) : (s.modTroupe t f).mem = s.mem := rfl
@[simp] theorem State.modTroupe_wt (s : State) (t : Nat) (f : Troupe → Troupe) : (s.modTroupe t f).wt = s.wt := rfl
@[simp] theorem State.modTroupe_prm (s : State) (t : Nat) (f : Troupe → Troupe) : (s.modTroupe t f).prm = s.prm := rfl
@[simp] theorem State.modTroupe_ckpt (s : State) (t : Nat) (f : Troupe → Troupe) : (s.modTroupe t f).ckpt = s.ckpt := rfl
@[simp] theorem State.modTroupe_cast (s : State) (t : Nat) (f : Troupe → Troupe) : (s.modTroupe t f).cast = s.cast := rfl
@[simp] theorem State.modTroupe_sems (s : State) (t : Nat) (f : Troupe → Troupe) : (s.modTroupe t f).sems = s.sems := rfl
@[simp] theorem State.modTroupe_thl (s : State) (t : Nat) (f : Troupe → Troupe) : (s.modTroupe t f).thl = s.thl := rfl
@[simp] theorem State.modTroupe_cores (s : State) (t : Nat) (f : Troupe → Troupe) : (s.modTroupe t f).cores = s.cores := rfl
@[simp] theorem State.modTroupe_switches (s : State) (t : Nat) (f : Troupe → Troupe) : (s.modTroupe t f).switches = s.switches := rfl
@[simp] theorem State.modTroupe_waitSw (s : State) (t : Nat) (f : Troupe → Troupe) : (s.modTroupe t f).waitSw = s.waitSw := rfl
@[simp] theorem State.modTroupe_takers (s : State) (t : Nat) (f : Troupe → Troupe) : (s.modTroupe t f).takers = s.takers := rfl
@[simp] theorem State.modTroupe_notStarted (s : State) (t : Nat) (f : Troupe → Troupe) : (s.modTroupe t f).notStarted = s.notStarted := rfl
@[simp] theorem State.modTroupe_out (s : State) (t : Nat) (f : Troupe → Troupe) : (s.modTroupe t f).out = s.out := rfl
@[simp] theorem State.modTroupe_fresh (s : State) (t : Nat) (f : Troupe → Troupe) : (s.modTroupe t f).fresh = s.fresh := rfl

@[simp] theorem State.modGen_pending (s : State) (t : Nat) (f : Gen → Gen) : (s.modGen t f).pending = s.pending := rfl
@[simp] theorem State.modGen_cue (s : State) (t : Nat) (f : Gen → Gen) : (s.modGen t f).cue = s.cue := rfl
@[simp] theorem State.modGen_cueRegs (s : State) (t : Nat) (f : Gen → Gen) : (s.modGen t f).cueRegs = s.cueRegs := rfl
@[simp] theorem State.modGen_fab (s : State) (t : Nat) (f : Gen → Gen) : (s.modGen t f).fab = s.fab := rfl
@[simp] theorem State.modGen_boot (s : State) (t : Nat) (f : Gen → Gen) : (s.modGen t f).boot = s.boot := rfl
@[simp] theorem State.modGen_bt (s : State) (t : Nat) (f : Gen → Gen) : (s.modGen t f).bt = s.bt := rfl
@[simp] theorem State.modGen_record (s : State) (t : Nat) (f : Gen → Gen) : (s.modGen t f).record = s.record := rfl
@[simp] theorem State.modGen_lmid (s : State) (t : Nat) (f : Gen → Gen) : (s.modGen t f).lmid = s.lmid := rfl
@[simp] theorem State.modGen_accErr (s : State) (t : Nat) (f : Gen → Gen) : (s.modGen t f).accErr = s.accErr := rfl
@[simp] theorem State.modGen_tab (s : State) (t : Nat) (f : Gen → Gen) : (s.modGen t f).tab = s.tab := rfl
@[simp] theorem State.modGen_hw (s : State) (t : Nat) (f : Gen → Gen) : (s.modGen t f).hw = s.hw := rfl
@[simp] theorem State.modGen_pwr (s : State) (t : Nat) (f : Gen → Gen) : (s.modGen t f).pwr = s.pwr := rfl
@[simp] theorem State.modGen_mem (s : State) (t : Nat) (f : Gen → Gen) : (s.modGen t f).mem = s.mem := rfl
@[simp] theorem State.modGen_wt (s : State) (t : Nat) (f : Gen → Gen) : (s.modGen t f).wt = s.wt := rfl
@[simp] theorem State.modGen_prm (s : State) (t : Nat) (f : Gen → Gen) : (s.modGen t f).prm = s.prm := rfl
@[simp] theorem State.modGen_ckpt (s : State) (t : Nat) (f : Gen → Gen) : (s.modGen t f).ckpt = s.ckpt := rfl
@[simp] theorem State.modGen_cast (s : State) (t : Nat) (f : Gen → Gen) : (s.modGen t f).cast = s.cast := rfl
@[simp] theorem State.modGen_sems (s : State) (t : Nat) (f : Gen → Gen) : (s.modGen t f).sems = s.sems := rfl
@[simp] theorem State.modGen_thl (s : State) (t : Nat) (f : Gen → Gen) : (s.modGen t f).thl = s.thl := rfl
@[simp] theorem State.modGen_cores (s : State) (t : Nat) (f : Gen → Gen) : (s.modGen t f).cores = s.cores := rfl
@[simp] theorem State.modGen_switches (s : State) (t : Nat) (f : Gen → Gen) : (s.modGen t f).switches = s.switches := rfl
@[simp] theorem State.modGen_waitSw (s : State) (t : Nat) (f : Gen → Gen) : (s.modGen t f).waitSw = s.waitSw := rfl
@[simp] theorem State.modGen_takers (s : State) (t : Nat) (f : Gen → Gen) : (s.modGen t f).takers = s.takers := rfl
@[simp] theorem State.modGen_notStarted (s : State) (t : Nat) (f : Gen → Gen) : (s.modGen t f).notStarted = s.notStarted := rfl
@[simp] theorem State.modGen_out (s : State) (t : Nat) (f : Gen → Gen) : (s.modGen t f).out = s.out := rfl
@[simp] theorem State.modGen_fresh (s : State) (t : Nat) (f : Gen → Gen) : (s.modGen t f).fresh = s.fresh := rfl

@[simp] theorem State.modLrn_pending (s : State) (t : Nat) (f : Lrn → Lrn) : (s.modLrn t f).pending = s.pending := rfl
@[simp] theorem State.modLrn_cue (s : State) (t : Nat) (f : Lrn → Lrn) : (s.modLrn t f).cue = s.cue := rfl
@[simp] theorem State.modLrn_cueRegs (s : State) (t : Nat) (f : Lrn → Lrn) : (s.modLrn t f).cueRegs = s.cueRegs := rfl
@[simp] theorem State.modLrn_fab (s : State) (t : Nat) (f : Lrn → Lrn) : (s.modLrn t f).fab = s.fab := rfl
@[simp] theorem State.modLrn_boot (s : State) (t : Nat) (f : Lrn → Lrn) : (s.modLrn t f).boot = s.boot := rfl
@[simp] theorem State.modLrn_bt (s : State) (t : Nat) (f : Lrn → Lrn) : (s.modLrn t f).bt = s.bt := rfl
@[simp] theorem State.modLrn_record (s : State) (t : Nat) (f : Lrn → Lrn) : (s.modLrn t f).record = s.record := rfl
@[simp] theorem State.modLrn_lmid (s : State) (t : Nat) (f : Lrn → Lrn) : (s.modLrn t f).lmid = s.lmid := rfl
@[simp] theorem State.modLrn_accErr (s : State) (t : Nat) (f : Lrn → Lrn) : (s.modLrn t f).accErr = s.accErr := rfl
@[simp] theorem State.modLrn_tab (s : State) (t : Nat) (f : Lrn → Lrn) : (s.modLrn t f).tab = s.tab := rfl
@[simp] theorem State.modLrn_hw (s : State) (t : Nat) (f : Lrn → Lrn) : (s.modLrn t f).hw = s.hw := rfl
@[simp] theorem State.modLrn_pwr (s : State) (t : Nat) (f : Lrn → Lrn) : (s.modLrn t f).pwr = s.pwr := rfl
@[simp] theorem State.modLrn_mem (s : State) (t : Nat) (f : Lrn → Lrn) : (s.modLrn t f).mem = s.mem := rfl
@[simp] theorem State.modLrn_wt (s : State) (t : Nat) (f : Lrn → Lrn) : (s.modLrn t f).wt = s.wt := rfl
@[simp] theorem State.modLrn_prm (s : State) (t : Nat) (f : Lrn → Lrn) : (s.modLrn t f).prm = s.prm := rfl
@[simp] theorem State.modLrn_ckpt (s : State) (t : Nat) (f : Lrn → Lrn) : (s.modLrn t f).ckpt = s.ckpt := rfl
@[simp] theorem State.modLrn_cast (s : State) (t : Nat) (f : Lrn → Lrn) : (s.modLrn t f).cast = s.cast := rfl
@[simp] theorem State.modLrn_sems (s : State) (t : Nat) (f : Lrn → Lrn) : (s.modLrn t f).sems = s.sems := rfl
@[simp] theorem State.modLrn_thl (s : State) (t : Nat) (f : Lrn → Lrn) : (s.modLrn t f).thl = s.thl := rfl
@[simp] theorem State.modLrn_cores (s : State) (t : Nat) (f : Lrn → Lrn) : (s.modLrn t f).cores = s.cores := rfl
@[simp] theorem State.modLrn_switches (s : State) (t : Nat) (f : Lrn → Lrn) : (s.modLrn t f).switches = s.switches := rfl
@[simp] theorem State.modLrn_waitSw (s : State) (t : Nat) (f : Lrn → Lrn) : (s.modLrn t f).waitSw = s.waitSw := rfl
@[simp] theorem State.modLrn_takers (s : State) (t : Nat) (f : Lrn → Lrn) : (s.modLrn t f).takers = s.takers := rfl
@[simp] theorem State.modLrn_notStarted (s : State) (t : Nat) (f : Lrn → Lrn) : (s.modLrn t f).notStarted = s.notStarted := rfl
@[simp] theorem State.modLrn_out (s : State) (t : Nat) (f : Lrn → Lrn) : (s.modLrn t f).out = s.out := rfl
@[simp] theorem State.modLrn_fresh (s : State) (t : Nat) (f : Lrn → Lrn) : (s.modLrn t f).fresh = s.fresh := rfl

@[simp] theorem State.modStack_pending (s : State) (n : Nat) (f : Stack → Stack) : (s.modStack n f).pending = s.pending := rfl
@[simp] theorem State.modStack_cue (s : State) (n : Nat) (f : Stack → Stack) : (s.modStack n f).cue = s.cue := rfl
@[simp] theorem State.modStack_cueRegs (s : State) (n : Nat) (f : Stack → Stack) : (s.modStack n f).cueRegs = s.cueRegs := rfl
@[simp] theorem State.modStack_fab (s : State) (n : Nat) (f : Stack → Stack) : (s.modStack n f).fab = s.fab := rfl
@[simp] theorem State.modStack_boot (s : State) (n : Nat) (f : Stack → Stack) : (s.modStack n f).boot = s.boot := rfl
@[simp] theorem State.modStack_bt (s : State) (n : Nat) (f : Stack → Stack) : (s.modStack n f).bt = s.bt := rfl
@[simp] theorem State.modStack_record (s : State) (n : Nat) (f : Stack → Stack) : (s.modStack n f).record = s.record := rfl
@[simp] theorem State.modStack_lmid (s : State) (n : Nat) (f : Stack → Stack) : (s.modStack n f).lmid = s.lmid := rfl
@[simp] theorem State.modStack_accErr (s : State) (n : Nat) (f : Stack → Stack) : (s.modStack n f).accErr = s.accErr := rfl
@[simp] theorem State.modStack_tab (s : State) (n : Nat) (f : Stack → Stack) : (s.modStack n f).tab = s.tab := rfl
@[simp] theorem State.modStack_hw (s : State) (n : Nat) (f : Stack → Stack) : (s.modStack n f).hw = s.hw := rfl
@[simp] theorem State.modStack_pwr (s : State) (n : Nat) (f : Stack → Stack) : (s.modStack n f).pwr = s.pwr := rfl
@[simp] theorem State.modStack_wt (s : State) (n : Nat) (f : Stack → Stack) : (s.modStack n f).wt = s.wt := rfl
@[simp] theorem State.modStack_prm (s : State) (n : Nat) (f : Stack → Stack) : (s.modStack n f).prm = s.prm := rfl
@[simp] theorem State.modStack_ckpt (s : State) (n : Nat) (f : Stack → Stack) : (s.modStack n f).ckpt = s.ckpt := rfl
@[simp] theorem State.modStack_cast (s : State) (n : Nat) (f : Stack → Stack) : (s.modStack n f).cast = s.cast := rfl
@[simp] theorem State.modStack_troupes (s : State) (n : Nat) (f : Stack → Stack) : (s.modStack n f).troupes = s.troupes := rfl
@[simp] theorem State.modStack_sems (s : State) (n : Nat) (f : Stack → Stack) : (s.modStack n f).sems = s.sems := rfl
@[simp] theorem State.modStack_thl (s : State) (n : Nat) (f : Stack → Stack) : (s.modStack n f).thl = s.thl := rfl
@[simp] theorem State.modStack_cores (s : State) (n : Nat) (f : Stack → Stack) : (s.modStack n f).cores = s.cores := rfl
@[simp] theorem State.modStack_switches (s : State) (n : Nat) (f : Stack → Stack) : (s.modStack n f).switches = s.switches := rfl
@[simp] theorem State.modStack_waitSw (s : State) (n : Nat) (f : Stack → Stack) : (s.modStack n f).waitSw = s.waitSw := rfl
@[simp] theorem State.modStack_takers (s : State) (n : Nat) (f : Stack → Stack) : (s.modStack n f).takers = s.takers := rfl
@[simp] theorem State.modStack_notStarted (s : State) (n : Nat) (f : Stack → Stack) : (s.modStack n f).notStarted = s.notStarted := rfl
@[simp] theorem State.modStack_out (s : State) (n : Nat) (f : Stack → Stack) : (s.modStack n f).out = s.out := rfl
@[simp] theorem State.modStack_fresh (s : State) (n : Nat) (f : Stack → Stack) : (s.modStack n f).fresh = s.fresh := rfl

@[simp] theorem State.modPort_pending (s : State) (p : Nat) (f : Port → Port) : (s.modPort p f).pending = s.pending := rfl
@[simp] theorem State.modPort_cue (s : State) (p : Nat) (f : Port → Port) : (s.modPort p f).cue = s.cue := rfl
@[simp] theorem State.modPort_cueRegs (s : State) (p : Nat) (f : Port → Port) : (s.modPort p f).cueRegs = s.cueRegs := rfl
@[simp] theorem State.modPort_boot (s : State) (p : Nat) (f : Port → Port) : (s.modPort p f).boot = s.boot := rfl
@[simp] theorem State.modPort_bt (s : State) (p : Nat) (f : Port → Port) : (s.modPort p f).bt = s.bt := rfl
@[simp] theorem State.modPort_record (s : State) (p : Nat) (f : Port → Port) : (s.modPort p f).record = s.record := rfl
@[simp] theorem State.modPort_lmid (s : State) (p : Nat) (f : Port → Port) : (s.modPort p f).lmid = s.lmid := rfl
@[simp] theorem State.modPort_accErr (s : State) (p : Nat) (f : Port → Port) : (s.modPort p f).accErr = s.accErr := rfl
@[simp] theorem State.modPort_tab (s : State) (p : Nat) (f : Port → Port) : (s.modPort p f).tab = s.tab := rfl
@[simp] theorem State.modPort_hw (s : State) (p : Nat) (f : Port → Port) : (s.modPort p f).hw = s.hw := rfl
@[simp] theorem State.modPort_pwr (s : State) (p : Nat) (f : Port → Port) : (s.modPort p f).pwr = s.pwr := rfl
@[simp] theorem State.modPort_mem (s : State) (p : Nat) (f : Port → Port) : (s.modPort p f).mem = s.mem := rfl
@[simp] theorem State.modPort_wt (s : State) (p : Nat) (f : Port → Port) : (s.modPort p f).wt = s.wt := rfl
@[simp] theorem State.modPort_prm (s : State) (p : Nat) (f : Port → Port) : (s.modPort p f).prm = s.prm := rfl
@[simp] theorem State.modPort_ckpt (s : State) (p : Nat) (f : Port → Port) : (s.modPort p f).ckpt = s.ckpt := rfl
@[simp] theorem State.modPort_cast (s : State) (p : Nat) (f : Port → Port) : (s.modPort p f).cast = s.cast := rfl
@[simp] theorem State.modPort_troupes (s : State) (p : Nat) (f : Port → Port) : (s.modPort p f).troupes = s.troupes := rfl
@[simp] theorem State.modPort_sems (s : State) (p : Nat) (f : Port → Port) : (s.modPort p f).sems = s.sems := rfl
@[simp] theorem State.modPort_thl (s : State) (p : Nat) (f : Port → Port) : (s.modPort p f).thl = s.thl := rfl
@[simp] theorem State.modPort_cores (s : State) (p : Nat) (f : Port → Port) : (s.modPort p f).cores = s.cores := rfl
@[simp] theorem State.modPort_switches (s : State) (p : Nat) (f : Port → Port) : (s.modPort p f).switches = s.switches := rfl
@[simp] theorem State.modPort_waitSw (s : State) (p : Nat) (f : Port → Port) : (s.modPort p f).waitSw = s.waitSw := rfl
@[simp] theorem State.modPort_takers (s : State) (p : Nat) (f : Port → Port) : (s.modPort p f).takers = s.takers := rfl
@[simp] theorem State.modPort_notStarted (s : State) (p : Nat) (f : Port → Port) : (s.modPort p f).notStarted = s.notStarted := rfl
@[simp] theorem State.modPort_out (s : State) (p : Nat) (f : Port → Port) : (s.modPort p f).out = s.out := rfl
@[simp] theorem State.modPort_fresh (s : State) (p : Nat) (f : Port → Port) : (s.modPort p f).fresh = s.fresh := rfl

@[simp] theorem State.setBar_pending (s : State) (t b : Nat) (x : BarState) : (s.setBar t b x).pending = s.pending := rfl
@[simp] theorem State.setBar_cue (s : State) (t b : Nat) (x : BarState) : (s.setBar t b x).cue = s.cue := rfl
@[simp] theorem State.setBar_cueRegs (s : State) (t b : Nat) (x : BarState) : (s.setBar t b x).cueRegs = s.cueRegs := rfl
@[simp] theorem State.setBar_boot (s : State) (t b : Nat) (x : BarState) : (s.setBar t b x).boot = s.boot := rfl
@[simp] theorem State.setBar_bt (s : State) (t b : Nat) (x : BarState) : (s.setBar t b x).bt = s.bt := rfl
@[simp] theorem State.setBar_record (s : State) (t b : Nat) (x : BarState) : (s.setBar t b x).record = s.record := rfl
@[simp] theorem State.setBar_lmid (s : State) (t b : Nat) (x : BarState) : (s.setBar t b x).lmid = s.lmid := rfl
@[simp] theorem State.setBar_accErr (s : State) (t b : Nat) (x : BarState) : (s.setBar t b x).accErr = s.accErr := rfl
@[simp] theorem State.setBar_tab (s : State) (t b : Nat) (x : BarState) : (s.setBar t b x).tab = s.tab := rfl
@[simp] theorem State.setBar_hw (s : State) (t b : Nat) (x : BarState) : (s.setBar t b x).hw = s.hw := rfl
@[simp] theorem State.setBar_pwr (s : State) (t b : Nat) (x : BarState) : (s.setBar t b x).pwr = s.pwr := rfl
@[simp] theorem State.setBar_mem (s : State) (t b : Nat) (x : BarState) : (s.setBar t b x).mem = s.mem := rfl
@[simp] theorem State.setBar_wt (s : State) (t b : Nat) (x : BarState) : (s.setBar t b x).wt = s.wt := rfl
@[simp] theorem State.setBar_prm (s : State) (t b : Nat) (x : BarState) : (s.setBar t b x).prm = s.prm := rfl
@[simp] theorem State.setBar_ckpt (s : State) (t b : Nat) (x : BarState) : (s.setBar t b x).ckpt = s.ckpt := rfl
@[simp] theorem State.setBar_cast (s : State) (t b : Nat) (x : BarState) : (s.setBar t b x).cast = s.cast := rfl
@[simp] theorem State.setBar_troupes (s : State) (t b : Nat) (x : BarState) : (s.setBar t b x).troupes = s.troupes := rfl
@[simp] theorem State.setBar_sems (s : State) (t b : Nat) (x : BarState) : (s.setBar t b x).sems = s.sems := rfl
@[simp] theorem State.setBar_thl (s : State) (t b : Nat) (x : BarState) : (s.setBar t b x).thl = s.thl := rfl
@[simp] theorem State.setBar_cores (s : State) (t b : Nat) (x : BarState) : (s.setBar t b x).cores = s.cores := rfl
@[simp] theorem State.setBar_switches (s : State) (t b : Nat) (x : BarState) : (s.setBar t b x).switches = s.switches := rfl
@[simp] theorem State.setBar_waitSw (s : State) (t b : Nat) (x : BarState) : (s.setBar t b x).waitSw = s.waitSw := rfl
@[simp] theorem State.setBar_takers (s : State) (t b : Nat) (x : BarState) : (s.setBar t b x).takers = s.takers := rfl
@[simp] theorem State.setBar_notStarted (s : State) (t b : Nat) (x : BarState) : (s.setBar t b x).notStarted = s.notStarted := rfl
@[simp] theorem State.setBar_out (s : State) (t b : Nat) (x : BarState) : (s.setBar t b x).out = s.out := rfl
@[simp] theorem State.setBar_fresh (s : State) (t b : Nat) (x : BarState) : (s.setBar t b x).fresh = s.fresh := rfl

@[simp] theorem complete_pending (h : CmdHdr) (o st : Nat) (s : State) : (complete h o st s).pending = s.pending := rfl
@[simp] theorem complete_cue (h : CmdHdr) (o st : Nat) (s : State) : (complete h o st s).cue = s.cue := rfl
@[simp] theorem complete_cueRegs (h : CmdHdr) (o st : Nat) (s : State) : (complete h o st s).cueRegs = s.cueRegs := rfl
@[simp] theorem complete_fab (h : CmdHdr) (o st : Nat) (s : State) : (complete h o st s).fab = s.fab := rfl
@[simp] theorem complete_boot (h : CmdHdr) (o st : Nat) (s : State) : (complete h o st s).boot = s.boot := rfl
@[simp] theorem complete_bt (h : CmdHdr) (o st : Nat) (s : State) : (complete h o st s).bt = s.bt := rfl
@[simp] theorem complete_record (h : CmdHdr) (o st : Nat) (s : State) : (complete h o st s).record = s.record := rfl
@[simp] theorem complete_lmid (h : CmdHdr) (o st : Nat) (s : State) : (complete h o st s).lmid = s.lmid := rfl
@[simp] theorem complete_accErr (h : CmdHdr) (o st : Nat) (s : State) : (complete h o st s).accErr = s.accErr := rfl
@[simp] theorem complete_tab (h : CmdHdr) (o st : Nat) (s : State) : (complete h o st s).tab = s.tab := rfl
@[simp] theorem complete_hw (h : CmdHdr) (o st : Nat) (s : State) : (complete h o st s).hw = s.hw := rfl
@[simp] theorem complete_pwr (h : CmdHdr) (o st : Nat) (s : State) : (complete h o st s).pwr = s.pwr := rfl
@[simp] theorem complete_mem (h : CmdHdr) (o st : Nat) (s : State) : (complete h o st s).mem = s.mem := rfl
@[simp] theorem complete_wt (h : CmdHdr) (o st : Nat) (s : State) : (complete h o st s).wt = s.wt := rfl
@[simp] theorem complete_prm (h : CmdHdr) (o st : Nat) (s : State) : (complete h o st s).prm = s.prm := rfl
@[simp] theorem complete_ckpt (h : CmdHdr) (o st : Nat) (s : State) : (complete h o st s).ckpt = s.ckpt := rfl
@[simp] theorem complete_cast (h : CmdHdr) (o st : Nat) (s : State) : (complete h o st s).cast = s.cast := rfl
@[simp] theorem complete_troupes (h : CmdHdr) (o st : Nat) (s : State) : (complete h o st s).troupes = s.troupes := rfl
@[simp] theorem complete_sems (h : CmdHdr) (o st : Nat) (s : State) : (complete h o st s).sems = s.sems := rfl
@[simp] theorem complete_cores (h : CmdHdr) (o st : Nat) (s : State) : (complete h o st s).cores = s.cores := rfl
@[simp] theorem complete_switches (h : CmdHdr) (o st : Nat) (s : State) : (complete h o st s).switches = s.switches := rfl
@[simp] theorem complete_waitSw (h : CmdHdr) (o st : Nat) (s : State) : (complete h o st s).waitSw = s.waitSw := rfl
@[simp] theorem complete_takers (h : CmdHdr) (o st : Nat) (s : State) : (complete h o st s).takers = s.takers := rfl
@[simp] theorem complete_notStarted (h : CmdHdr) (o st : Nat) (s : State) : (complete h o st s).notStarted = s.notStarted := rfl
@[simp] theorem complete_out (h : CmdHdr) (o st : Nat) (s : State) : (complete h o st s).out = s.out := rfl
@[simp] theorem complete_fresh (h : CmdHdr) (o st : Nat) (s : State) : (complete h o st s).fresh = s.fresh := rfl

@[simp] theorem completeRec_pending (h : CmdHdr) (o st : Nat) (b : List Byte) (s : State) : (completeRec h o st b s).pending = s.pending := rfl
@[simp] theorem completeRec_cue (h : CmdHdr) (o st : Nat) (b : List Byte) (s : State) : (completeRec h o st b s).cue = s.cue := rfl
@[simp] theorem completeRec_cueRegs (h : CmdHdr) (o st : Nat) (b : List Byte) (s : State) : (completeRec h o st b s).cueRegs = s.cueRegs := rfl
@[simp] theorem completeRec_fab (h : CmdHdr) (o st : Nat) (b : List Byte) (s : State) : (completeRec h o st b s).fab = s.fab := rfl
@[simp] theorem completeRec_boot (h : CmdHdr) (o st : Nat) (b : List Byte) (s : State) : (completeRec h o st b s).boot = s.boot := rfl
@[simp] theorem completeRec_bt (h : CmdHdr) (o st : Nat) (b : List Byte) (s : State) : (completeRec h o st b s).bt = s.bt := rfl
@[simp] theorem completeRec_record (h : CmdHdr) (o st : Nat) (b : List Byte) (s : State) : (completeRec h o st b s).record = s.record := rfl
@[simp] theorem completeRec_lmid (h : CmdHdr) (o st : Nat) (b : List Byte) (s : State) : (completeRec h o st b s).lmid = s.lmid := rfl
@[simp] theorem completeRec_accErr (h : CmdHdr) (o st : Nat) (b : List Byte) (s : State) : (completeRec h o st b s).accErr = s.accErr := rfl
@[simp] theorem completeRec_tab (h : CmdHdr) (o st : Nat) (b : List Byte) (s : State) : (completeRec h o st b s).tab = s.tab := rfl
@[simp] theorem completeRec_hw (h : CmdHdr) (o st : Nat) (b : List Byte) (s : State) : (completeRec h o st b s).hw = s.hw := rfl
@[simp] theorem completeRec_pwr (h : CmdHdr) (o st : Nat) (b : List Byte) (s : State) : (completeRec h o st b s).pwr = s.pwr := rfl
@[simp] theorem completeRec_mem (h : CmdHdr) (o st : Nat) (b : List Byte) (s : State) : (completeRec h o st b s).mem = s.mem := rfl
@[simp] theorem completeRec_wt (h : CmdHdr) (o st : Nat) (b : List Byte) (s : State) : (completeRec h o st b s).wt = s.wt := rfl
@[simp] theorem completeRec_prm (h : CmdHdr) (o st : Nat) (b : List Byte) (s : State) : (completeRec h o st b s).prm = s.prm := rfl
@[simp] theorem completeRec_ckpt (h : CmdHdr) (o st : Nat) (b : List Byte) (s : State) : (completeRec h o st b s).ckpt = s.ckpt := rfl
@[simp] theorem completeRec_cast (h : CmdHdr) (o st : Nat) (b : List Byte) (s : State) : (completeRec h o st b s).cast = s.cast := rfl
@[simp] theorem completeRec_troupes (h : CmdHdr) (o st : Nat) (b : List Byte) (s : State) : (completeRec h o st b s).troupes = s.troupes := rfl
@[simp] theorem completeRec_sems (h : CmdHdr) (o st : Nat) (b : List Byte) (s : State) : (completeRec h o st b s).sems = s.sems := rfl
@[simp] theorem completeRec_cores (h : CmdHdr) (o st : Nat) (b : List Byte) (s : State) : (completeRec h o st b s).cores = s.cores := rfl
@[simp] theorem completeRec_switches (h : CmdHdr) (o st : Nat) (b : List Byte) (s : State) : (completeRec h o st b s).switches = s.switches := rfl
@[simp] theorem completeRec_waitSw (h : CmdHdr) (o st : Nat) (b : List Byte) (s : State) : (completeRec h o st b s).waitSw = s.waitSw := rfl
@[simp] theorem completeRec_takers (h : CmdHdr) (o st : Nat) (b : List Byte) (s : State) : (completeRec h o st b s).takers = s.takers := rfl
@[simp] theorem completeRec_notStarted (h : CmdHdr) (o st : Nat) (b : List Byte) (s : State) : (completeRec h o st b s).notStarted = s.notStarted := rfl
@[simp] theorem completeRec_out (h : CmdHdr) (o st : Nat) (b : List Byte) (s : State) : (completeRec h o st b s).out = s.out := rfl
@[simp] theorem completeRec_fresh (h : CmdHdr) (o st : Nat) (b : List Byte) (s : State) : (completeRec h o st b s).fresh = s.fresh := rfl

@[simp] theorem hostWrite_pending (a : Nat) (b : List Byte) (s : State) : (hostWrite a b s).pending = s.pending := rfl
@[simp] theorem hostWrite_cue (a : Nat) (b : List Byte) (s : State) : (hostWrite a b s).cue = s.cue := rfl
@[simp] theorem hostWrite_cueRegs (a : Nat) (b : List Byte) (s : State) : (hostWrite a b s).cueRegs = s.cueRegs := rfl
@[simp] theorem hostWrite_fab (a : Nat) (b : List Byte) (s : State) : (hostWrite a b s).fab = s.fab := rfl
@[simp] theorem hostWrite_boot (a : Nat) (b : List Byte) (s : State) : (hostWrite a b s).boot = s.boot := rfl
@[simp] theorem hostWrite_bt (a : Nat) (b : List Byte) (s : State) : (hostWrite a b s).bt = s.bt := rfl
@[simp] theorem hostWrite_record (a : Nat) (b : List Byte) (s : State) : (hostWrite a b s).record = s.record := rfl
@[simp] theorem hostWrite_lmid (a : Nat) (b : List Byte) (s : State) : (hostWrite a b s).lmid = s.lmid := rfl
@[simp] theorem hostWrite_accErr (a : Nat) (b : List Byte) (s : State) : (hostWrite a b s).accErr = s.accErr := rfl
@[simp] theorem hostWrite_tab (a : Nat) (b : List Byte) (s : State) : (hostWrite a b s).tab = s.tab := rfl
@[simp] theorem hostWrite_hw (a : Nat) (b : List Byte) (s : State) : (hostWrite a b s).hw = s.hw := rfl
@[simp] theorem hostWrite_pwr (a : Nat) (b : List Byte) (s : State) : (hostWrite a b s).pwr = s.pwr := rfl
@[simp] theorem hostWrite_mem (a : Nat) (b : List Byte) (s : State) : (hostWrite a b s).mem = s.mem := rfl
@[simp] theorem hostWrite_wt (a : Nat) (b : List Byte) (s : State) : (hostWrite a b s).wt = s.wt := rfl
@[simp] theorem hostWrite_prm (a : Nat) (b : List Byte) (s : State) : (hostWrite a b s).prm = s.prm := rfl
@[simp] theorem hostWrite_ckpt (a : Nat) (b : List Byte) (s : State) : (hostWrite a b s).ckpt = s.ckpt := rfl
@[simp] theorem hostWrite_cast (a : Nat) (b : List Byte) (s : State) : (hostWrite a b s).cast = s.cast := rfl
@[simp] theorem hostWrite_troupes (a : Nat) (b : List Byte) (s : State) : (hostWrite a b s).troupes = s.troupes := rfl
@[simp] theorem hostWrite_sems (a : Nat) (b : List Byte) (s : State) : (hostWrite a b s).sems = s.sems := rfl
@[simp] theorem hostWrite_thl (a : Nat) (b : List Byte) (s : State) : (hostWrite a b s).thl = s.thl := rfl
@[simp] theorem hostWrite_cores (a : Nat) (b : List Byte) (s : State) : (hostWrite a b s).cores = s.cores := rfl
@[simp] theorem hostWrite_switches (a : Nat) (b : List Byte) (s : State) : (hostWrite a b s).switches = s.switches := rfl
@[simp] theorem hostWrite_waitSw (a : Nat) (b : List Byte) (s : State) : (hostWrite a b s).waitSw = s.waitSw := rfl
@[simp] theorem hostWrite_takers (a : Nat) (b : List Byte) (s : State) : (hostWrite a b s).takers = s.takers := rfl
@[simp] theorem hostWrite_notStarted (a : Nat) (b : List Byte) (s : State) : (hostWrite a b s).notStarted = s.notStarted := rfl
@[simp] theorem hostWrite_fresh (a : Nat) (b : List Byte) (s : State) : (hostWrite a b s).fresh = s.fresh := rfl

@[simp] theorem sendFab_pending (m : FabMsg) (s : State) : (sendFab m s).pending = s.pending := rfl
@[simp] theorem sendFab_cue (m : FabMsg) (s : State) : (sendFab m s).cue = s.cue := rfl
@[simp] theorem sendFab_cueRegs (m : FabMsg) (s : State) : (sendFab m s).cueRegs = s.cueRegs := rfl
@[simp] theorem sendFab_fab (m : FabMsg) (s : State) : (sendFab m s).fab = s.fab := rfl
@[simp] theorem sendFab_boot (m : FabMsg) (s : State) : (sendFab m s).boot = s.boot := rfl
@[simp] theorem sendFab_bt (m : FabMsg) (s : State) : (sendFab m s).bt = s.bt := rfl
@[simp] theorem sendFab_record (m : FabMsg) (s : State) : (sendFab m s).record = s.record := rfl
@[simp] theorem sendFab_lmid (m : FabMsg) (s : State) : (sendFab m s).lmid = s.lmid := rfl
@[simp] theorem sendFab_accErr (m : FabMsg) (s : State) : (sendFab m s).accErr = s.accErr := rfl
@[simp] theorem sendFab_tab (m : FabMsg) (s : State) : (sendFab m s).tab = s.tab := rfl
@[simp] theorem sendFab_hw (m : FabMsg) (s : State) : (sendFab m s).hw = s.hw := rfl
@[simp] theorem sendFab_pwr (m : FabMsg) (s : State) : (sendFab m s).pwr = s.pwr := rfl
@[simp] theorem sendFab_mem (m : FabMsg) (s : State) : (sendFab m s).mem = s.mem := rfl
@[simp] theorem sendFab_wt (m : FabMsg) (s : State) : (sendFab m s).wt = s.wt := rfl
@[simp] theorem sendFab_prm (m : FabMsg) (s : State) : (sendFab m s).prm = s.prm := rfl
@[simp] theorem sendFab_ckpt (m : FabMsg) (s : State) : (sendFab m s).ckpt = s.ckpt := rfl
@[simp] theorem sendFab_cast (m : FabMsg) (s : State) : (sendFab m s).cast = s.cast := rfl
@[simp] theorem sendFab_troupes (m : FabMsg) (s : State) : (sendFab m s).troupes = s.troupes := rfl
@[simp] theorem sendFab_sems (m : FabMsg) (s : State) : (sendFab m s).sems = s.sems := rfl
@[simp] theorem sendFab_thl (m : FabMsg) (s : State) : (sendFab m s).thl = s.thl := rfl
@[simp] theorem sendFab_cores (m : FabMsg) (s : State) : (sendFab m s).cores = s.cores := rfl
@[simp] theorem sendFab_switches (m : FabMsg) (s : State) : (sendFab m s).switches = s.switches := rfl
@[simp] theorem sendFab_waitSw (m : FabMsg) (s : State) : (sendFab m s).waitSw = s.waitSw := rfl
@[simp] theorem sendFab_takers (m : FabMsg) (s : State) : (sendFab m s).takers = s.takers := rfl
@[simp] theorem sendFab_notStarted (m : FabMsg) (s : State) : (sendFab m s).notStarted = s.notStarted := rfl
@[simp] theorem sendFab_fresh (m : FabMsg) (s : State) : (sendFab m s).fresh = s.fresh := rfl

end Sys2Proof.Machine
end

