-- ==== Sys2Proof/Laws/Wrap.lean ====
section
/-! SUPPORT. What the wrappers of the meanings answer, one lemma for each way they go. -/

namespace Sys2Proof.Machine

theorem engine_alive (f : State → State) (s : State) (h : s.alive = true) : engine f s = .next (f s) := by
  simp [engine, nextS, h]

theorem engine_still (f : State → State) (s : State) (h : s.alive = false) : engine f s = .next s := by
  simp [engine, nextS, h]

theorem regWrite_alive (f : State → State) (s : State) (h : s.alive = true) : regWrite f s = .next (f s) := by
  simp [regWrite, nextS, h]

theorem regWrite_still (f : State → State) (s : State) (h : s.alive = false) : regWrite f s = .next s := by
  simp [regWrite, nextS, h]

theorem hostCmd_still (h : CmdHdr) (opcode : Nat) (f : State → State) (s : State) (ha : s.alive = false) :
    hostCmd h opcode f s = .next s := by
  simp [hostCmd, nextS, ha]

/-- An accepted command has its effect. -/
theorem hostCmd_accepted (h : CmdHdr) (opcode : Nat) (f : State → State) (s : State) (ha : accepted s h opcode = true) :
    hostCmd h opcode f s = .next (f s) := by
  simp only [accepted, hostWaits, Bool.and_eq_true, Bool.not_eq_true'] at ha
  obtain ⟨⟨h1, h2⟩, h3⟩ := ha
  simp [hostCmd, nextS, h1, h2, h3]

theorem accepted_alive {s : State} {h : CmdHdr} {opcode : Nat} (ha : accepted s h opcode = true) : s.alive = true := by
  simp only [accepted, Bool.and_eq_true] at ha
  exact ha.1.1

theorem coreIssue_ok (c : Nat) (nd : Bool) (body : State → Issue) (s t : State) (hi : issues s c = true)
    (hb : body (issueState c nd s) = .ok t) : coreIssue c nd body s = .next t := by
  simp [coreIssue, nextS, hi, hb]

theorem coreIssue_refuse (c : Nat) (nd : Bool) (body : State → Issue) (s : State) (code : Nat) (hi : issues s c = true)
    (hb : body (issueState c nd s) = .refuse code) : coreIssue c nd body s = .next (refuseCore c code s) := by
  simp [coreIssue, nextS, hi, hb]

/-- A core that does not issue leaves the state. -/
theorem coreIssue_still (c : Nat) (nd : Bool) (body : State → Issue) (s : State) (hi : issues s c = false) :
    coreIssue c nd body s = .next s := by
  simp [coreIssue, nextS, hi]

/-- Only an alive module issues. -/
theorem issues_alive {s : State} {c : Nat} (hi : issues s c = true) : s.alive = true := by
  simp only [issues, Bool.and_eq_true] at hi
  exact hi.1.1.1.1

/-! ### Issue -/

theorem State.core_congr {s t : State} (h : t.cores = s.cores) (c : Nat) : t.core c = s.core c := by
  simp only [State.core, h]

/-- Recording the ND mark changes the core's registers, and beside the cores only CUE_ND_MAP. -/
theorem markNd_cores (c : Nat) (s : State) :
    (markNd c s).cores = (s.modRegs c (fun r => { r with ndSeen := true, ndCount := inc16 r.ndCount })).cores ∧
      { markNd c s with cores := s.cores, cueRegs.ndMap := s.cueRegs.ndMap } = s := by
  unfold markNd; dsimp only
  split <;> exact ⟨rfl, rfl⟩

theorem issueState_plain (c : Nat) (s : State) : issueState c false s = s.modRegs c (fun r => { r with pc := r.pc + 16 }) := by
  simp [issueState]

theorem issueState_nd (c : Nat) (s : State) : issueState c true s = markNd c (s.modRegs c (fun r => { r with pc := r.pc + 16 })) := by
  simp [issueState]

theorem issueState_core_other (c d : Nat) (nd : Bool) (s : State) (h : d ≠ c) : (issueState c nd s).core d = s.core d := by
  cases nd
  · rw [issueState_plain, State.core_modRegs_other _ _ h]
  · rw [issueState_nd, State.core_congr (markNd_cores _ _).1, State.core_modRegs_other _ _ h, State.core_modRegs_other _ _ h]

/-- The core that issues keeps all but CORE_PC, ND_SEEN and ND_COUNT. -/
theorem issueState_core (c : Nat) (nd : Bool) (s : State) :
    (issueState c nd s).core c = { s.core c with regs := { (s.core c).regs with
      pc := (s.core c).regs.pc + 16, ndSeen := nd || (s.core c).regs.ndSeen
      ndCount := (if nd then inc16 (s.core c).regs.ndCount else (s.core c).regs.ndCount) } } := by
  cases nd
  · simp [issueState_plain]
  · rw [issueState_nd, State.core_congr (markNd_cores _ _).1]; simp

/-- Beside the cores and CUE_ND_MAP an issue changes nothing. -/
theorem issueState_rest (c : Nat) (nd : Bool) (s : State) :
    { issueState c nd s with cores := s.cores, cueRegs.ndMap := s.cueRegs.ndMap } = s := by
  cases nd
  · rfl
  · have h := congrArg (fun t : State => { t with cores := s.cores }) (markNd_cores c (s.modRegs c (fun r => { r with pc := r.pc + 16 }))).2
    rw [issueState_nd]; exact h

@[simp] theorem issueState_troupes (c : Nat) (nd : Bool) (s : State) : (issueState c nd s).troupes = s.troupes := by
  have h := congrArg State.troupes (issueState_rest c nd s); exact h
@[simp] theorem issueState_mem (c : Nat) (nd : Bool) (s : State) : (issueState c nd s).mem = s.mem := by
  have h := congrArg State.mem (issueState_rest c nd s); exact h
@[simp] theorem issueState_sems (c : Nat) (nd : Bool) (s : State) : (issueState c nd s).sems = s.sems := by
  have h := congrArg State.sems (issueState_rest c nd s); exact h
@[simp] theorem issueState_takers (c : Nat) (nd : Bool) (s : State) : (issueState c nd s).takers = s.takers := by
  have h := congrArg State.takers (issueState_rest c nd s); exact h
@[simp] theorem issueState_cue (c : Nat) (nd : Bool) (s : State) : (issueState c nd s).cue = s.cue := by
  have h := congrArg State.cue (issueState_rest c nd s); exact h
@[simp] theorem issueState_thl (c : Nat) (nd : Bool) (s : State) : (issueState c nd s).thl = s.thl := by
  have h := congrArg State.thl (issueState_rest c nd s); exact h
@[simp] theorem issueState_tab (c : Nat) (nd : Bool) (s : State) : (issueState c nd s).tab = s.tab := by
  have h := congrArg State.tab (issueState_rest c nd s); exact h
@[simp] theorem issueState_troupe (c : Nat) (nd : Bool) (s : State) (t : Nat) : (issueState c nd s).troupe t = s.troupe t := by
  simp only [State.troupe, issueState_troupes]

/-! ### What a core reads as it issues -/

@[simp] theorem issueState_vGet (c : Nat) (nd : Bool) (s : State) (r i : Nat) : ((issueState c nd s).core c).vGet r i = (s.core c).vGet r i := by
  unfold Core.vGet; rw [issueState_core]
@[simp] theorem issueState_pGet (c : Nat) (nd : Bool) (s : State) (r i : Nat) : ((issueState c nd s).core c).pGet r i = (s.core c).pGet r i := by
  unfold Core.pGet; rw [issueState_core]
@[simp] theorem issueState_sGet (c : Nat) (nd : Bool) (s : State) (r : Nat) : ((issueState c nd s).core c).sGet r = (s.core c).sGet r := by
  unfold Core.sGet; rw [issueState_core]
@[simp] theorem issueState_fGet (c : Nat) (nd : Bool) (s : State) (r : Nat) : ((issueState c nd s).core c).fGet r = (s.core c).fGet r := by
  unfold Core.fGet; rw [issueState_core]
@[simp] theorem issueState_tagGet (c : Nat) (nd : Bool) (s : State) (r : Nat) : ((issueState c nd s).core c).tagGet r = (s.core c).tagGet r := by
  unfold Core.tagGet; rw [issueState_core]
@[simp] theorem issueState_v (c : Nat) (nd : Bool) (s : State) : ((issueState c nd s).core c).v = (s.core c).v := by rw [issueState_core]
@[simp] theorem issueState_p (c : Nat) (nd : Bool) (s : State) : ((issueState c nd s).core c).p = (s.core c).p := by rw [issueState_core]
@[simp] theorem issueState_s (c : Nat) (nd : Bool) (s : State) : ((issueState c nd s).core c).s = (s.core c).s := by rw [issueState_core]
@[simp] theorem issueState_f (c : Nat) (nd : Bool) (s : State) : ((issueState c nd s).core c).f = (s.core c).f := by rw [issueState_core]
@[simp] theorem issueState_tags (c : Nat) (nd : Bool) (s : State) : ((issueState c nd s).core c).tags = (s.core c).tags := by rw [issueState_core]
@[simp] theorem issueState_store (c : Nat) (nd : Bool) (s : State) : ((issueState c nd s).core c).store = (s.core c).store := by rw [issueState_core]
@[simp] theorem issueState_slots (c : Nat) (nd : Bool) (s : State) : ((issueState c nd s).core c).slots = (s.core c).slots := by rw [issueState_core]
@[simp] theorem issueState_drain (c : Nat) (nd : Bool) (s : State) : ((issueState c nd s).core c).drain = (s.core c).drain := by rw [issueState_core]
@[simp] theorem issueState_planeA (c : Nat) (nd : Bool) (s : State) : ((issueState c nd s).core c).planeA = (s.core c).planeA := by rw [issueState_core]
@[simp] theorem issueState_planeB (c : Nat) (nd : Bool) (s : State) : ((issueState c nd s).core c).planeB = (s.core c).planeB := by rw [issueState_core]
@[simp] theorem issueState_descs (c : Nat) (nd : Bool) (s : State) : ((issueState c nd s).core c).descs = (s.core c).descs := by rw [issueState_core]
@[simp] theorem issueState_arith (c : Nat) (nd : Bool) (s : State) : ((issueState c nd s).core c).arith = (s.core c).arith := by rw [issueState_core]
@[simp] theorem issueState_ofTroupe (c : Nat) (nd : Bool) (s : State) : ((issueState c nd s).core c).regs.troupe = (s.core c).regs.troupe := by
  rw [issueState_core]

/-! ### Refusal -/

@[simp] theorem complete_core (h : CmdHdr) (o st : Nat) (s : State) (c : Nat) : (complete h o st s).core c = s.core c := rfl
@[simp] theorem complete_troupe (h : CmdHdr) (o st : Nat) (s : State) (t : Nat) : (complete h o st s).troupe t = s.troupe t := rfl

/-! ### One troupe alone -/

@[simp] theorem troupeFrame_modTroupe (s : State) (u : Nat) (f : Troupe → Troupe) : TroupeFrame u s (s.modTroupe u f) :=
  ⟨fun _ h => State.troupe_modTroupe_other _ _ h, rfl⟩
@[simp] theorem troupeFrame_modGen (s : State) (u : Nat) (f : Gen → Gen) : TroupeFrame u s (s.modGen u f) := troupeFrame_modTroupe _ _ _
@[simp] theorem troupeFrame_modLrn (s : State) (u : Nat) (f : Lrn → Lrn) : TroupeFrame u s (s.modLrn u f) := troupeFrame_modTroupe _ _ _

end Sys2Proof.Machine
end

