-- ==== Sys2Proof/Laws/Event.lean ====
section
/-! SUPPORT. What raising an event (R386, R387), a freeze source (R451) and a refusal (R84) do, and what they leave alone. -/

namespace Sys2Proof.Machine

/-- From `s` to `t` only the host link, the outside and the Tableau changed. -/
def EventFrame (s t : State) : Prop := { t with thl := s.thl, out := s.out, tab := s.tab } = s

theorem EventFrame.refl (s : State) : EventFrame s s := rfl

theorem EventFrame.trans {s t u : State} (h : EventFrame s t) (k : EventFrame t u) : EventFrame s u := by
  have h1 := congrArg (fun x : State => { x with thl := s.thl, out := s.out, tab := s.tab }) k
  exact h1.trans h

theorem EventFrame.cores {s t : State} (h : EventFrame s t) : t.cores = s.cores := by have := congrArg State.cores h; exact this
theorem EventFrame.mem {s t : State} (h : EventFrame s t) : t.mem = s.mem := by have := congrArg State.mem h; exact this
theorem EventFrame.troupes {s t : State} (h : EventFrame s t) : t.troupes = s.troupes := by have := congrArg State.troupes h; exact this
theorem EventFrame.sems {s t : State} (h : EventFrame s t) : t.sems = s.sems := by have := congrArg State.sems h; exact this
theorem EventFrame.cue {s t : State} (h : EventFrame s t) : t.cue = s.cue := by have := congrArg State.cue h; exact this
theorem EventFrame.cueRegs {s t : State} (h : EventFrame s t) : t.cueRegs = s.cueRegs := by have := congrArg State.cueRegs h; exact this
theorem EventFrame.fab {s t : State} (h : EventFrame s t) : t.fab = s.fab := by have := congrArg State.fab h; exact this
theorem EventFrame.wt {s t : State} (h : EventFrame s t) : t.wt = s.wt := by have := congrArg State.wt h; exact this
theorem EventFrame.bt {s t : State} (h : EventFrame s t) : t.bt = s.bt := by have := congrArg State.bt h; exact this
theorem EventFrame.boot {s t : State} (h : EventFrame s t) : t.boot = s.boot := by have := congrArg State.boot h; exact this

theorem freezeTrigger_frame (src : Nat) (s : State) : EventFrame s (freezeTrigger src s) := by
  unfold freezeTrigger; dsimp only; split <;> rfl

theorem freezeTrigger_thl (src : Nat) (s : State) : (freezeTrigger src s).thl = s.thl := by
  unfold freezeTrigger; dsimp only; split <;> rfl

/-- Of the host link, writing a message changes the event queues alone. -/
theorem writeEvent_frame (s : State) (q : Nat) (e : EvtQueue) (m : EvMsg) :
    EventFrame s (writeEvent s q e m) ∧ (writeEvent s q e m).thl.events = s.thl.events := by
  unfold writeEvent; dsimp only; split <;> exact ⟨rfl, rfl⟩

theorem dropEvent_frame (s : State) (q : Nat) : EventFrame s (dropEvent s q) ∧ (dropEvent s q).thl.events = s.thl.events := by
  unfold dropEvent; dsimp only; split <;> exact ⟨rfl, rfl⟩

theorem postAtLead_frame (s : State) (m : EvMsg) : EventFrame s (postAtLead s m) ∧ (postAtLead s m).thl.events = s.thl.events := by
  unfold postAtLead; dsimp only
  split
  · exact dropEvent_frame _ _
  · split
    · exact writeEvent_frame _ _ _ _
    · exact dropEvent_frame _ _

theorem postEvent_frame (s : State) (m : EvMsg) : EventFrame s (postEvent s m) ∧ (postEvent s m).thl.events = s.thl.events := by
  unfold postEvent
  split
  · split
    · exact postAtLead_frame _ _
    · exact ⟨rfl, rfl⟩
  · dsimp only; split
    · exact dropEvent_frame _ _
    · exact ⟨rfl, rfl⟩

/-- Raising an event sets the event's PEND and counts it, whether or not a message is posted, and leaves everything but the host link, the outside and
the Tableau (R386). -/
theorem raiseEvent_spec (code troupe : Nat) (data : List Byte) (s : State) :
    EventFrame s (raiseEvent code troupe data s) ∧
    (raiseEvent code troupe data s).thl.events =
      mapPut s.thl.events code { s.occ code with pend := true, count := inc16 (s.occ code).count } := by
  unfold raiseEvent; dsimp only
  generalize hs1 : ({ s with thl.events := mapPut s.thl.events code { s.occ code with pend := true, count := inc16 (s.occ code).count } } : State) = s1
  have h1 : EventFrame s s1 := by rw [← hs1]; rfl
  have e1 : s1.thl.events = mapPut s.thl.events code { s.occ code with pend := true, count := inc16 (s.occ code).count } := by rw [← hs1]
  generalize hs2 : (if (s.occ code).mask then s1 else postEvent s1 _) = s2
  have h2 : EventFrame s1 s2 ∧ s2.thl.events = s1.thl.events := by
    rw [← hs2]; split
    · exact ⟨rfl, rfl⟩
    · exact postEvent_frame _ _
  split
  · exact ⟨(h1.trans h2.1).trans (freezeTrigger_frame _ _), by rw [freezeTrigger_thl, h2.2, e1]⟩
  · exact ⟨h1.trans h2.1, by rw [h2.2, e1]⟩

theorem raiseEvent_frame (code troupe : Nat) (data : List Byte) (s : State) : EventFrame s (raiseEvent code troupe data s) :=
  (raiseEvent_spec code troupe data s).1

/-- The event's entry after it is raised. -/
theorem raiseEvent_occ (code troupe : Nat) (data : List Byte) (s : State) :
    (raiseEvent code troupe data s).occ code = { s.occ code with pend := true, count := inc16 (s.occ code).count } := by
  simp only [State.occ, (raiseEvent_spec code troupe data s).2, mapGet_put_same]

/-- The other events' entries stay. -/
theorem raiseEvent_occ_other (code troupe : Nat) (data : List Byte) (s : State) (d : Nat) (h : d ≠ code) :
    (raiseEvent code troupe data s).occ d = s.occ d := by
  simp only [State.occ, (raiseEvent_spec code troupe data s).2, mapGet_put_other _ _ _ h]

@[simp] theorem raiseEvent_core (code troupe : Nat) (data : List Byte) (s : State) (c : Nat) :
    (raiseEvent code troupe data s).core c = s.core c := State.core_congr (raiseEvent_frame _ _ _ _).cores c
@[simp] theorem raiseEvent_troupe (code troupe : Nat) (data : List Byte) (s : State) (t : Nat) :
    (raiseEvent code troupe data s).troupe t = s.troupe t := by simp only [State.troupe, (raiseEvent_frame _ _ _ _).troupes]
@[simp] theorem raiseEvent_mem (code troupe : Nat) (data : List Byte) (s : State) : (raiseEvent code troupe data s).mem = s.mem :=
  (raiseEvent_frame _ _ _ _).mem
@[simp] theorem raiseEvent_cores (code troupe : Nat) (data : List Byte) (s : State) : (raiseEvent code troupe data s).cores = s.cores :=
  (raiseEvent_frame _ _ _ _).cores
@[simp] theorem raiseEvent_troupes (code troupe : Nat) (data : List Byte) (s : State) : (raiseEvent code troupe data s).troupes = s.troupes :=
  (raiseEvent_frame _ _ _ _).troupes
@[simp] theorem raiseEvent_sems (code troupe : Nat) (data : List Byte) (s : State) : (raiseEvent code troupe data s).sems = s.sems :=
  (raiseEvent_frame _ _ _ _).sems
@[simp] theorem raiseEvent_cue (code troupe : Nat) (data : List Byte) (s : State) : (raiseEvent code troupe data s).cue = s.cue :=
  (raiseEvent_frame _ _ _ _).cue
@[simp] theorem raiseEvent_cueRegs (code troupe : Nat) (data : List Byte) (s : State) : (raiseEvent code troupe data s).cueRegs = s.cueRegs :=
  (raiseEvent_frame _ _ _ _).cueRegs
@[simp] theorem raiseEvent_wt (code troupe : Nat) (data : List Byte) (s : State) : (raiseEvent code troupe data s).wt = s.wt :=
  (raiseEvent_frame _ _ _ _).wt
@[simp] theorem raiseEvent_fab (code troupe : Nat) (data : List Byte) (s : State) : (raiseEvent code troupe data s).fab = s.fab :=
  (raiseEvent_frame _ _ _ _).fab

/-! ### Refusal (R84) -/

/-- A refusal changes the core's registers and its CORE_ARITH, and beside the core only what an event and a freeze change. -/
theorem refuseCore_spec (c code : Nat) (s : State) :
    EventFrame (s.setCore c { s.core c with
      regs := { (s.core c).regs with
        state := .faulted, fault := true
        faultCode := (if (s.core c).regs.fault then (s.core c).regs.faultCode else code)
        faultPc := (if (s.core c).regs.fault then (s.core c).regs.faultPc else (s.core c).regs.pc) }
      arith := refuseArith code (s.core c).arith }) (refuseCore c code s) := by
  unfold refuseCore; dsimp only
  generalize hs1 : s.setCore c _ = s1
  generalize hs2 : (if (s.core c).regs.fault then s1 else raiseEvent _ _ _ s1) = s2
  have h2 : EventFrame s1 s2 := by
    rw [← hs2]; split
    · rfl
    · exact raiseEvent_frame _ _ _ _
  split
  · exact h2.trans (freezeTrigger_frame _ _)
  · exact h2

/-- The refused core: faulted, with the first refusal since FAULT was cleared (R84). -/
theorem refuseCore_core (c code : Nat) (s : State) :
    (refuseCore c code s).core c = { s.core c with
      regs := { (s.core c).regs with
        state := .faulted, fault := true
        faultCode := (if (s.core c).regs.fault then (s.core c).regs.faultCode else code)
        faultPc := (if (s.core c).regs.fault then (s.core c).regs.faultPc else (s.core c).regs.pc) }
      arith := refuseArith code (s.core c).arith } := by
  rw [State.core_congr (refuseCore_spec c code s).cores]; simp

theorem refuseCore_core_other (c d code : Nat) (s : State) (h : d ≠ c) : (refuseCore c code s).core d = s.core d := by
  rw [State.core_congr (refuseCore_spec c code s).cores, State.core_setCore_other _ _ h]

@[simp] theorem refuseCore_mem (c code : Nat) (s : State) : (refuseCore c code s).mem = s.mem := (refuseCore_spec c code s).mem
@[simp] theorem refuseCore_sems (c code : Nat) (s : State) : (refuseCore c code s).sems = s.sems := (refuseCore_spec c code s).sems
@[simp] theorem refuseCore_troupes (c code : Nat) (s : State) : (refuseCore c code s).troupes = s.troupes := (refuseCore_spec c code s).troupes

/-! ### Sticky arithmetic conditions -/

/-- Noting conditions changes the core's CORE_ARITH, and beside the core only what events change. -/
theorem noteArith_spec (c : Nat) (a : ArithRep) (s : State) :
    ∃ n, EventFrame (s.setCore c { s.core c with arith := n }) (noteArith c a s) ∧
      n.nf = ((s.core c).arith.nf || a.nf) ∧ n.convSat = ((s.core c).arith.convSat || a.sat) := by
  unfold noteArith; dsimp only
  generalize hn : ({ (s.core c).arith with nf := _, awLow := _, awHigh := _, convSat := _, nfCount := _, awCount := _, satCount := _ } : Arith) = n
  have hn1 : n.nf = ((s.core c).arith.nf || a.nf) := by rw [← hn]
  have hn2 : n.convSat = ((s.core c).arith.convSat || a.sat) := by rw [← hn]
  refine ⟨n, ?_, hn1, hn2⟩
  generalize hs1 : s.setCore c { s.core c with arith := n } = s1
  generalize hs2 : (if (a.low || a.high) && !(s.core c).arith.awLow && !(s.core c).arith.awHigh then raiseEvent _ _ _ s1 else s1) = s2
  have h2 : EventFrame s1 s2 := by
    rw [← hs2]; split
    · exact raiseEvent_frame _ _ _ _
    · rfl
  split
  · exact h2.trans (raiseEvent_frame _ _ _ _)
  · exact h2

theorem noteArith_core_other (c d : Nat) (a : ArithRep) (s : State) (h : d ≠ c) : (noteArith c a s).core d = s.core d := by
  obtain ⟨n, hf, -⟩ := noteArith_spec c a s
  rw [State.core_congr hf.cores, State.core_setCore_other _ _ h]

theorem noteArith_core (c : Nat) (a : ArithRep) (s : State) :
    ∃ n, (noteArith c a s).core c = { s.core c with arith := n } ∧
      n.nf = ((s.core c).arith.nf || a.nf) ∧ n.convSat = ((s.core c).arith.convSat || a.sat) := by
  obtain ⟨n, hf, h⟩ := noteArith_spec c a s
  exact ⟨n, by rw [State.core_congr hf.cores]; simp, h⟩

@[simp] theorem noteArith_mem (c : Nat) (a : ArithRep) (s : State) : (noteArith c a s).mem = s.mem := by
  obtain ⟨n, hf, -⟩ := noteArith_spec c a s; exact hf.mem
@[simp] theorem noteArith_sems (c : Nat) (a : ArithRep) (s : State) : (noteArith c a s).sems = s.sems := by
  obtain ⟨n, hf, -⟩ := noteArith_spec c a s; exact hf.sems
@[simp] theorem noteArith_troupes (c : Nat) (a : ArithRep) (s : State) : (noteArith c a s).troupes = s.troupes := by
  obtain ⟨n, hf, -⟩ := noteArith_spec c a s; exact hf.troupes

end Sys2Proof.Machine
end

