-- ==== Sys2Proof/Laws/Barrier.lean ====
section
/-! SUPPORT. What barriers, waits and stops change: nodes and messages of the fabric, and the registers of one core. -/

namespace Sys2Proof.Machine

/-- From `s` to `t` nothing changed but the fabric's state and the messages sent over it. -/
def BarFrame (s t : State) : Prop := { t with fab := s.fab, out.fabric := s.out.fabric } = s

theorem BarFrame.refl (s : State) : BarFrame s s := rfl

theorem BarFrame.trans {s t u : State} (h : BarFrame s t) (k : BarFrame t u) : BarFrame s u := by
  have := congrArg (fun x : State => { x with fab := s.fab, out.fabric := s.out.fabric }) k
  exact Eq.trans this h

theorem BarFrame.cores {s t : State} (h : BarFrame s t) : t.cores = s.cores := by have := congrArg State.cores h; exact this
theorem BarFrame.mem {s t : State} (h : BarFrame s t) : t.mem = s.mem := by have := congrArg State.mem h; exact this
theorem BarFrame.sems {s t : State} (h : BarFrame s t) : t.sems = s.sems := by have := congrArg State.sems h; exact this
theorem BarFrame.troupes {s t : State} (h : BarFrame s t) : t.troupes = s.troupes := by have := congrArg State.troupes h; exact this
theorem BarFrame.core {s t : State} (h : BarFrame s t) (c : Nat) : t.core c = s.core c := State.core_congr h.cores c
theorem BarFrame.descs {s t : State} (h : BarFrame s t) : t.out.descs = s.out.descs := by
  have := congrArg (fun x : State => x.out.descs) h; exact this

theorem sendRelease_frame (t b rel : Nat) (steps : Option (Nat × Nat)) (tr : TreeRec) (g : GroupRec) (r : Nat) (s : State) :
    BarFrame s (sendRelease t b rel steps tr g r s) := by
  unfold sendRelease
  have key : ∀ (m : Nat → FabMsg) (l : List Nat) (s0 : State), BarFrame s0 (l.foldl (fun s k => sendFab (m k) s) s0) := by
    intro m l
    induction l with
    | nil => intro s0; rfl
    | cons x l ih => intro s0; exact (show BarFrame s0 (sendFab (m x) s0) from rfl).trans (ih _)
  exact (key (fun k => { kind := "barrier_rel", dest := (nth (0, 0) g.members k).1
                         vals := [(nth (0, 0) g.members k).2, b, rel] ++ stepVals steps }) _ s).trans rfl

theorem barrierForward_frame (t b : Nat) (s : State) : BarFrame s (barrierForward t b s) := by
  unfold barrierForward
  split
  · rfl
  · split
    · rfl
    · dsimp only; split
      · split
        · exact sendRelease_frame ..
        · rfl
      · rfl

theorem memberArrive_frame (t b : Nat) (step : Option (Nat × Nat)) (s : State) : BarFrame s (memberArrive t b step s) := by
  unfold memberArrive; dsimp only
  split
  · rfl
  · exact BarFrame.trans (t := s.setBar t b _) rfl (barrierForward_frame _ _ _)

/-- A troupe's arrivals at its barriers change the fabric alone. -/
theorem checkBarriers_frame (t : Nat) (s : State) : BarFrame s (checkBarriers t s) := by
  unfold checkBarriers
  generalize (s.fab.barriers.filter fun e => e.troupe == t) = l
  induction l generalizing s with
  | nil => rfl
  | cons x l ih =>
    refine BarFrame.trans ?_ (ih _)
    dsimp only
    split
    · exact memberArrive_frame ..
    · rfl

@[simp] theorem checkBarriers_core (t : Nat) (s : State) (c : Nat) : (checkBarriers t s).core c = s.core c := (checkBarriers_frame t s).core c
@[simp] theorem checkBarriers_mem (t : Nat) (s : State) : (checkBarriers t s).mem = s.mem := (checkBarriers_frame t s).mem
@[simp] theorem checkBarriers_sems (t : Nat) (s : State) : (checkBarriers t s).sems = s.sems := (checkBarriers_frame t s).sems
@[simp] theorem checkBarriers_troupes (t : Nat) (s : State) : (checkBarriers t s).troupes = s.troupes := (checkBarriers_frame t s).troupes
@[simp] theorem checkBarriers_descs (t : Nat) (s : State) : (checkBarriers t s).out.descs = s.out.descs := (checkBarriers_frame t s).descs

/-- A wait that ends on a core that is not stopping, with no reset waiting, clears the core's wait and nothing else. -/
theorem endWait_plain (c : Nat) (s : State) (h1 : (s.core c).regs.stopping = false) (h2 : s.bt.resets = []) :
    endWait c s = s.modRegs c (fun (r : CoreRegs) => { r with wait := .none }) := by
  unfold endWait settleStop
  simp [h1, h2]

/-- The count of a semaphore after one of its troupe's is set. -/
theorem semGet_semSet (s : State) (u n v j : Nat) : semGet (semSet u n v s) u j = if j = n then v else semGet s u j := by
  unfold semGet semSet
  show mapGet 0 (mapPut _ _ _) _ = _
  rw [mapGet_put]
  have h : ((s.troupe u).cfg.semBase + j = (s.troupe u).cfg.semBase + n) ↔ j = n := by omega
  simp only [State.troupe] at h ⊢
  simp only [h]

end Sys2Proof.Machine
end

