-- ==== Sys2Proof/Laws/Ecc.lean ====
section
/-! SUPPORT. What finding stored errors (R249) does, and what it leaves alone. -/

namespace Sys2Proof.Machine

/-- From `s` to `t` only the host link, the outside, the Tableau, the watch's counts and, of memory, the stacks' registers and the marks of units changed. -/
def FoundFrame (s t : State) : Prop :=
  { t with thl := s.thl, out := s.out, tab := s.tab, ckpt := s.ckpt, mem := s.mem } = s ∧
    { t.mem with stks := s.mem.stks, poison := s.mem.poison, weak := s.mem.weak } = s.mem

theorem FoundFrame.refl (s : State) : FoundFrame s s := ⟨rfl, rfl⟩

theorem FoundFrame.trans {s t u : State} (h : FoundFrame s t) (k : FoundFrame t u) : FoundFrame s u :=
  ⟨(congrArg (fun x : State => { x with thl := s.thl, out := s.out, tab := s.tab, ckpt := s.ckpt, mem := s.mem }) k.1).trans h.1,
   (congrArg (fun x : Mem => { x with stks := s.mem.stks, poison := s.mem.poison, weak := s.mem.weak }) k.2).trans h.2⟩

theorem FoundFrame.cores {s t : State} (h : FoundFrame s t) : t.cores = s.cores := by have := congrArg State.cores h.1; exact this
theorem FoundFrame.troupes {s t : State} (h : FoundFrame s t) : t.troupes = s.troupes := by have := congrArg State.troupes h.1; exact this
theorem FoundFrame.sems {s t : State} (h : FoundFrame s t) : t.sems = s.sems := by have := congrArg State.sems h.1; exact this
theorem FoundFrame.fab {s t : State} (h : FoundFrame s t) : t.fab = s.fab := by have := congrArg State.fab h.1; exact this
theorem FoundFrame.wt {s t : State} (h : FoundFrame s t) : t.wt = s.wt := by have := congrArg State.wt h.1; exact this
theorem FoundFrame.cue {s t : State} (h : FoundFrame s t) : t.cue = s.cue := by have := congrArg State.cue h.1; exact this
theorem FoundFrame.bytes {s t : State} (h : FoundFrame s t) : t.mem.bytes = s.mem.bytes := by have := congrArg Mem.bytes h.2; exact this
theorem FoundFrame.tbuf {s t : State} (h : FoundFrame s t) : t.mem.tbuf = s.mem.tbuf := by have := congrArg Mem.tbuf h.2; exact this

theorem EventFrame.found {s t : State} (h : EventFrame s t) : FoundFrame s t :=
  ⟨by
    have := congrArg (fun x : State => { x with ckpt := s.ckpt, mem := s.mem }) h
    exact this,
   by rw [h.mem]⟩

theorem unitWeak_frame (a : Nat) (s : State) : FoundFrame s (unitWeak a s) := ⟨rfl, rfl⟩

theorem unitBad_frame (a : Nat) (s : State) : FoundFrame s (unitBad a s) := by
  unfold unitBad
  refine FoundFrame.trans ?_ (EventFrame.found (raiseEvent_frame _ _ _ _))
  exact ⟨rfl, rfl⟩

theorem findUnit_frame (s : State) (e : Nat × Bool) : FoundFrame s (findUnit s e) := by
  unfold findUnit
  split
  · exact FoundFrame.trans (t := { s with mem.weak := mapDel s.mem.weak e.1 }) ⟨rfl, rfl⟩ (unitBad_frame _ _)
  · exact unitWeak_frame _ _

/-- Everything that a read's finding of stored errors can change. -/
theorem findErrors_frame (ls : List (Loc × Nat)) (s : State) : FoundFrame s (findErrors ls s) := by
  unfold findErrors
  generalize s.mem.weak.filter (fun e => readsUnit ls e.1) = es
  induction es generalizing s with
  | nil => exact FoundFrame.refl s
  | cons e es ih => exact (findUnit_frame s e).trans (ih _)

/-- Without a stored error in the units of a read, it finds nothing. -/
theorem findErrors_none (ls : List (Loc × Nat)) (s : State) (h : ∀ e ∈ s.mem.weak, readsUnit ls e.1 = false) : findErrors ls s = s := by
  have : s.mem.weak.filter (fun e => readsUnit ls e.1) = [] := List.filter_eq_nil_iff.2 (fun e he => by simp [h e he])
  unfold findErrors; rw [this]; rfl

end Sys2Proof.Machine
end

