-- ==== Sys2Proof/Laws/Vec.lean ====
section
/-! SUPPORT. What the shared writes of the vector engine do: an element, a destination under its predicate, a compare's predicate register, and
the accounting. -/

namespace Sys2Proof.Machine

theorem Core.vGet_vPut (k : Core) (r q i j : Nat) (x : F32) (hi : i < 256) (hj : j < 256) :
    (k.vPut r i x).vGet q j = if q = r ∧ j = i then x else k.vGet q j := by
  unfold Core.vGet Core.vPut
  rw [mapGet_put]
  by_cases h : q = r ∧ j = i
  · obtain ⟨rfl, rfl⟩ := h; simp
  · have : ¬ 256 * q + j = 256 * r + i := by intro e; exact h (by omega)
    simp [h, this]

theorem Core.pRead_pPut (k : Core) (r q i j : Nat) (b : Bool) (hi : i < 256) (hj : j < 256) :
    mapGet false (k.pPut r i b).p (256 * q + j) = if q = r ∧ j = i then b else mapGet false k.p (256 * q + j) := by
  unfold Core.pPut
  dsimp only
  rw [mapGet_put]
  by_cases h : q = r ∧ j = i
  · obtain ⟨rfl, rfl⟩ := h; simp
  · have : ¬ 256 * q + j = 256 * r + i := by intro e; exact h (by omega)
    simp [h, this]

/-- A write of a destination under its predicate changes the vector registers alone, and of them one destination's first elements. -/
theorem vecWrite_spec (k : Core) (w : VecWord) (f : Nat → F32) (h : w.vl ≤ 256) :
    (∀ i, i < 256 → (vecWrite k w f).vGet w.vd i = resultAt k w f i (k.vGet w.vd i)) ∧
    (∀ r i, i < 256 → r ≠ w.vd → (vecWrite k w f).vGet r i = k.vGet r i) ∧
    { vecWrite k w f with v := k.v } = k := by
  have key : ∀ n, n ≤ 256 →
      let c := (List.range n).foldl (fun (k' : Core) i =>
        if k.pGet w.pred i then k'.vPut w.vd i (f i) else if w.pz then k'.vPut w.vd i 0 else k') k
      (∀ i, i < 256 → c.vGet w.vd i =
        if i < n then (if k.pGet w.pred i then f i else if w.pz then 0 else k.vGet w.vd i) else k.vGet w.vd i) ∧
      (∀ r i, i < 256 → r ≠ w.vd → c.vGet r i = k.vGet r i) ∧ { c with v := k.v } = k := by
    intro n
    induction n with
    | zero => intro _; simp
    | succ n ih =>
      intro hn
      obtain ⟨h1, h2, h3⟩ := ih (by omega)
      have hn' : n < 256 := hn
      dsimp only at h1 h2 h3 ⊢
      rw [List.range_succ, List.foldl_append]
      simp only [List.foldl_cons, List.foldl_nil]
      generalize (List.range n).foldl _ k = c at h1 h2 h3 ⊢
      refine ⟨fun i hi => ?_, fun r i hi hr => ?_, ?_⟩
      · by_cases e : i = n
        · subst e
          by_cases p : k.pGet w.pred i <;> by_cases z : w.pz <;> simp [p, z, Core.vGet_vPut _ _ _ _ _ _ hi hi, h1 i hi]
        · have e1 : (i < n + 1) ↔ (i < n) := ⟨fun a => by omega, fun a => by omega⟩
          simp only [e1]
          rw [← h1 i hi]
          by_cases p : k.pGet w.pred n <;> by_cases z : w.pz <;> simp [p, z, Core.vGet_vPut _ _ _ _ _ _ hn' hi, e]
      · rw [← h2 r i hi hr]
        by_cases p : k.pGet w.pred n <;> by_cases z : w.pz <;> simp [p, z, Core.vGet_vPut _ _ _ _ _ _ hn' hi, hr]
      · refine Eq.trans ?_ h3
        by_cases p : k.pGet w.pred n <;> by_cases z : w.pz <;> simp [p, z, Core.vPut]
  exact key w.vl h

/-- A compare's write changes the predicate registers alone, and of them one register's first bits. -/
theorem predWrite_spec (k : Core) (w : VecWord) (f : Nat → Bool) (h : w.vl ≤ 256) :
    (∀ i, i < 256 → mapGet false (predWrite k w f).p (256 * (w.vd % 8) + i) =
      if i < w.vl then (if k.pGet w.pred i then f i else if w.pz then false else mapGet false k.p (256 * (w.vd % 8) + i))
      else mapGet false k.p (256 * (w.vd % 8) + i)) ∧
    (∀ r i, i < 256 → r ≠ w.vd % 8 → mapGet false (predWrite k w f).p (256 * r + i) = mapGet false k.p (256 * r + i)) ∧
    { predWrite k w f with p := k.p } = k := by
  have key : ∀ n, n ≤ 256 →
      let c := (List.range n).foldl (fun (k' : Core) i =>
        if k.pGet w.pred i then k'.pPut (w.vd % 8) i (f i) else if w.pz then k'.pPut (w.vd % 8) i false else k') k
      (∀ i, i < 256 → mapGet false c.p (256 * (w.vd % 8) + i) =
        if i < n then (if k.pGet w.pred i then f i else if w.pz then false else mapGet false k.p (256 * (w.vd % 8) + i))
        else mapGet false k.p (256 * (w.vd % 8) + i)) ∧
      (∀ r i, i < 256 → r ≠ w.vd % 8 → mapGet false c.p (256 * r + i) = mapGet false k.p (256 * r + i)) ∧ { c with p := k.p } = k := by
    intro n
    induction n with
    | zero => intro _; simp
    | succ n ih =>
      intro hn
      obtain ⟨h1, h2, h3⟩ := ih (by omega)
      have hn' : n < 256 := hn
      dsimp only at h1 h2 h3 ⊢
      rw [List.range_succ, List.foldl_append]
      simp only [List.foldl_cons, List.foldl_nil]
      generalize (List.range n).foldl _ k = c at h1 h2 h3 ⊢
      refine ⟨fun i hi => ?_, fun r i hi hr => ?_, ?_⟩
      · by_cases e : i = n
        · subst e
          by_cases p : k.pGet w.pred i <;> by_cases z : w.pz <;> simp [p, z, Core.pRead_pPut _ _ _ _ _ _ hi hi, h1 i hi]
        · have e1 : (i < n + 1) ↔ (i < n) := ⟨fun a => by omega, fun a => by omega⟩
          simp only [e1]
          rw [← h1 i hi]
          by_cases p : k.pGet w.pred n <;> by_cases z : w.pz <;> simp [p, z, Core.pRead_pPut _ _ _ _ _ _ hn' hi, e]
      · rw [← h2 r i hi hr]
        by_cases p : k.pGet w.pred n <;> by_cases z : w.pz <;> simp [p, z, Core.pRead_pPut _ _ _ _ _ _ hn' hi, hr]
      · refine Eq.trans ?_ h3
        by_cases p : k.pGet w.pred n <;> by_cases z : w.pz <;> simp [p, z, Core.pPut]
  exact key w.vl h

/-- Charging a troupe changes nothing but its accounting. -/
theorem chargeTroupe_spec (c : Nat) (f : Acct → Acct) (s : State) :
    (∀ u, { (chargeTroupe c f s).troupe u with regs.acct := (s.troupe u).regs.acct } = s.troupe u) ∧
    { chargeTroupe c f s with troupes := s.troupes } = s := by
  unfold chargeTroupe; dsimp only
  split
  · refine ⟨fun u => ?_, rfl⟩
    by_cases h : u = (s.core c).regs.troupe
    · subst h; rw [State.troupe_modTroupe_same]
    · rw [State.troupe_modTroupe_other _ _ h]
  · exact ⟨fun _ => rfl, rfl⟩

@[simp] theorem chargeTroupe_core (c d : Nat) (f : Acct → Acct) (s : State) : (chargeTroupe c f s).core d = s.core d :=
  State.core_congr (congrArg State.cores (chargeTroupe_spec c f s).2 :) d

/-- Replacing one core and charging its troupe leaves the other cores and all else. -/
theorem chargeTroupe_frame (c : Nat) (f : Acct → Acct) (k : Core) (s : State) : CoreFrame c s (chargeTroupe c f (s.setCore c k)) := by
  have h := chargeTroupe_spec c f (s.setCore c k)
  refine ⟨fun d hd => ?_, h.1, ?_⟩
  · rw [chargeTroupe_core, State.core_setCore_other _ _ hd]
  · have := congrArg (fun t : State => { t with cores := s.cores }) h.2
    exact this

/-- An elementwise write with its charge is what `Elementwise` says. -/
theorem elementwise_of (c : Nat) (w : VecWord) (f : Nat → F32) (cycles : Nat) (s : State) (h : vlOk w = true) :
    Elementwise c w f s (chargeVec c cycles (s.setCore c (vecWrite (s.core c) w f))) := by
  simp only [vlOk, Bool.and_eq_true, decide_eq_true_eq] at h
  obtain ⟨h1, h2, h3⟩ := vecWrite_spec (s.core c) w f h.2
  refine ⟨?_, ?_, ?_, chargeTroupe_frame _ _ _ _⟩ <;> unfold chargeVec <;> rw [chargeTroupe_core, State.core_setCore_same] <;> assumption

/-- A compare with its charge is what `Compares` says. -/
theorem compares_of (c : Nat) (w : VecWord) (f : Nat → Bool) (cycles : Nat) (s : State) (h : vlOk w = true) :
    Compares c w f s (chargeVec c cycles (s.setCore c (predWrite (s.core c) w f))) := by
  simp only [vlOk, Bool.and_eq_true, decide_eq_true_eq] at h
  obtain ⟨h1, h2, h3⟩ := predWrite_spec (s.core c) w f h.2
  refine ⟨?_, ?_, ?_, chargeTroupe_frame _ _ _ _⟩ <;> unfold chargeVec <;> rw [chargeTroupe_core, State.core_setCore_same] <;> assumption

/-- A reduction with its charge is what `Reduces` says. -/
theorem reduces_of (c : Nat) (w : VecWord) (x : F32) (cycles : Nat) (s : State) :
    Reduces c w x s (chargeVec c cycles (s.setCore c ((s.core c).vPut w.vd 0 x))) := by
  refine ⟨?_, fun r i hi hr => ?_, ?_, chargeTroupe_frame _ _ _ _⟩ <;> unfold chargeVec <;> rw [chargeTroupe_core, State.core_setCore_same]
  · rw [Core.vGet_vPut _ _ _ _ _ _ (by omega) (by omega)]; simp
  · rw [Core.vGet_vPut _ _ _ _ _ _ (by omega) hi, if_neg (fun e => hr (Prod.ext e.1 e.2))]
  · rfl

/-- A store of the core store with its charge is what `Stores` says. -/
theorem stores_of (c : Nat) (m : Memory) (cycles : Nat) (s : State) :
    Stores c m s (chargeVec c cycles (s.setCore c { s.core c with store := m })) := by
  refine ⟨?_, chargeTroupe_frame _ _ _ _⟩
  unfold chargeVec; rw [chargeTroupe_core, State.core_setCore_same]

end Sys2Proof.Machine
end

