-- ==== Sys2Proof/Machine/Ortho.lean ====
section
/-! DEFINITION. The ORTHO update of a binding (R195, R196). Its routine is carried in the core firmware and runs as instruction lists, of which
OMOM and OORTH take the elementwise ends; this is the result that the lists give for one binding, on whatever cores (assumption 80). -/

namespace Sys2Proof.Machine

/-! ### BF16 matrices -/

/-- A value rounded to BF16, nearest even (R39, R195). -/
def bf16Of (x : F32) : Nat := (convElt .bf16 false .rne 0 (f32Val x)).1

/-- The value of a BF16 word, exact in FP32. -/
def bf16Val (w : Nat) : F32 := BitVec.ofNat 32 (w * 0x10000)

/-- The columns of a matrix, `n` of them, as rows. -/
def transposeOf (n : Nat) (x : List (List Nat)) : List (List Nat) := (List.range n).map (fun j => x.map (fun row => nth 0 row j))

/-- A row by a row on the matrix arrays: chunks of 128 with groups of 8 summed exactly (R32), combined in tree order over the logical K index
(R33, R35, R196). -/
def matDot (xs ys : List Nat) : F32 :=
  let ts := List.zipWith (fun a b => ({ a := a, ea := 127, b := b, eb := 127 } : Term)) xs ys
  let cs := (piecesOf 128 (ts.length + 1) ts).map (fun c => (chunkResult .bf16 .bf16 c).1)
  (combineTree cs.length cs).1

/-- The product of a matrix and the transpose of another, in FP32. -/
def prodT (x y : List (List Nat)) : List (List F32) := x.map (fun r => y.map (matDot r))

/-- Every element rounded to BF16. -/
def bf16Mat (x : List (List F32)) : List (List Nat) := x.map (fun r => r.map bf16Of)

/-! ### The iteration -/

/-- The coefficients 3.4375, -4.78125 and 2.046875. -/
def orthoA : F32 := 0x405C0000
/-- See `orthoA`. -/
def orthoB : F32 := 0xC0990000
/-- See `orthoA`. -/
def orthoC : F32 := 0x40030000

/-- One iteration on a BF16 matrix of `n` columns: A = X Xᵀ, P = A A, B = fma(c, P, b A), X = fma(a, X, B X), in FP32 (R195 step 3). -/
def orthoIter (n : Nat) (x : List (List Nat)) : List (List F32) :=
  let a := bf16Mat (prodT x x)
  let p := bf16Mat (prodT a (transposeOf x.length a))
  let b := bf16Mat (List.zipWith (List.zipWith (fun pw aw => f32Fma orthoC (bf16Val pw) (f32Mul orthoB (bf16Val aw)))) p a)
  List.zipWith (List.zipWith (fun xw y => f32Fma orthoA (bf16Val xw) y)) x (prodT b (transposeOf n x))

/-- `k` iterations: X is BF16 between them and FP32 after the last (R195 step 3). -/
def orthoRun (n : Nat) : Nat → List (List Nat) → List (List F32)
  | 0, x => x.map (fun r => r.map bf16Val)
  | 1, x => orthoIter n x
  | k + 1, x => orthoRun n k (bf16Mat (orthoIter n x))

/-! ### The whole update -/

/-- A count as FP32. -/
def natF32 (n : Nat) : F32 := (roundF32 false false n 0).1

/-- X0 = U / (N + O_EPS), with N the square root of the sum of squares in the tree of R70 over the row-major index (R195 step 2). -/
def orthoNormal (oEps : F32) (u : List F32) : List F32 :=
  let d := f32Add (f32Sqrt (treeSum (u.map (fun v => f32Mul v v)))) oEps
  u.map (fun v => f32Div v d)

/-- The scale s = sqrt(max(1.0, ROWS / COLS)) (R195 step 4). -/
def orthoScale (rows cols : Nat) : F32 := f32Sqrt (f32Max2 f32One (f32Div (natF32 rows) (natF32 cols)))

/-- The orthogonalised direction of a binding, row-major: normalisation, five iterations on the matrix or its transpose, whichever has no more
rows than columns, and the scaling (R195 steps 2 to 4). -/
def orthoDirection (oEps : F32) (rows cols : Nat) (u : List F32) : List F32 :=
  let x0 := piecesOf cols (rows + 1) ((orthoNormal oEps u).map bf16Of)
  let at_ := fun (m : List (List F32)) (i j : Nat) => nth 0 (nth [] m i) j
  let s := orthoScale rows cols
  if cols < rows then
    let x5 := orthoRun rows 5 (transposeOf cols x0)
    (List.range rows).flatMap (fun i => (List.range cols).map (fun j => f32Mul s (at_ x5 j i)))
  else (orthoRun cols 5 x0).flatten.map (f32Mul s)

/-- The update of an ORTHO binding from its master weights, momentum and reduced gradient, row-major: OMOM, the routine, OORTH. Answers the
weights and the momentum (R195). -/
def orthoUpdate (r : GroupParam) (c : GroupConst) (gfac : F32) (rows cols : Nat) (theta m g : List F32) : List F32 × List F32 :=
  let mu := List.zipWith (fun gh mv => omomRule c (GroupParam.nest r) (f32Mul gfac gh) mv) g m
  let u := orthoDirection c.oEps rows cols (mu.map (·.2))
  (List.zipWith (fun th uv => thetaStep c c.eta th uv) theta u, mu.map (·.1))

end Sys2Proof.Machine
end

