-- ==== Sys2Proof/WellFormed.lean ====
section
/-! DEFINITION. Well-formed commands: every operand in the range of the field or number that the spec gives it. A command whose operands lie
outside has a meaning all the same (R462 and log entry 26 say which); this predicate says which commands the hardware can carry. -/

namespace Sys2Proof

open Sys2Proof.Machine

/-- A physical core, 68 t + p (R10). -/
def okCore (c : Nat) : Bool := c < 272

/-- The fields of a matrix word in their widths (R61). -/
def okMat (w : MatWord) : Bool :=
  w.rnd < 4 && w.fch < 4096 && w.nch < 256 && w.mrows < 256 && w.abase < 16384 && w.bbase < 16384 && w.dbase < 16384 &&
    w.ibase < 16384 && w.ta < 64 && w.tb < 64 && w.td < 64 && w.sri < 16

/-- The fields of a vector word in their widths (R71). -/
def okVec (w : VecWord) : Bool :=
  w.vl < 512 && w.vd < 32 && w.va < 32 && w.vb < 32 && w.vc < 32 && w.pred < 8 && w.rnd < 4 && w.sri < 16 && w.six < 16 &&
    w.addr < 16384 && w.tg < 64 && w.rsv < 2097152 && w.imm < 4294967296

/-- The fields of an attention word in their widths (R126). -/
def okAttn (w : AttnWord) : Bool :=
  w.mode < 4 && w.split < 16 && w.srb < 16 && w.fb < 65536 && w.nb < 65536 && w.mrows < 256 && w.qbase < 16384 && w.obase < 16384 &&
    w.sbase < 16384 && w.tq < 64 && w.td < 64 && w.rsv < 512

/-- The fields of a CUE.WAIT word in their widths (R315). -/
def okCue (w : CueWord) : Bool := w.bar < 256 && w.sx < 16 && w.rsv < 2 ^ 103

/-- The header of a command: queue 0 to 63, slot 0 to 63, troupe 0 to 63 or none, and 64 bits of CMD_ID (R378, R380, R390). -/
def okHdr (h : CmdHdr) : Bool := h.sq < 64 && h.slot < 64 && (h.troupe < 64 || h.troupe == 255) && h.cmdId < 2 ^ 64

/-- A troupe number (R320). -/
def okTroupe (t : Nat) : Bool := t < 64

/-- A port number (R269). -/
def okPort (p : Nat) : Bool := p < 18

/-- A rail or regulator number (R439). -/
def okRail (r : Nat) : Bool := r < 29

/-- A register's value (00, Registers). -/
def okWord (v : Nat) : Bool := v < 2 ^ 64

/-- Is every operand of a command in its range? -/
def wellFormed : Instr → Bool
  | .nop c _ | .halt c _ | .fenceL c _ | .fenceM c _ => okCore c
  | .branch c _ target => okCore c && target < 2097152
  | .loop c _ r target => okCore c && r < 16 && target < 2097152
  | .scalarArith c _ _ rd ra rb => okCore c && rd < 16 && ra < 16 && rb < 16
  | .tagLoad c _ tag addr | .tagStore c _ tag addr => okCore c && tag < 64 && addr < 2097152
  | .mfill c w | .mmul c w | .mmulx c w | .mzero c w => okCore c && okMat w
  | .vadd c w | .vsub c w | .vmul c w | .vfma c w | .vmin c w | .vmax c w | .vabs c w | .vneg c w | .vintAdd c w
  | .vintShift c w | .vdiv c w | .vsqrt c w | .vrsqrt c w | .veq c w | .vlt c w | .vle c w | .visNan c w | .visInf c w
  | .rsum c w | .rmax c w | .rmin c w | .ramax c w | .gather c w | .scatter c w | .scataddO c w | .scataddU c w
  | .vmemLoad c w | .vmemStore c w | .fstr c w | .fraw c w | .funi c w | .fber c w | .fgum c w | .fnrm c w | .fdisc c w
  | .osgdm c w | .oadam c w | .olion c w | .omom c w | .oorth c w => okCore c && okVec w
  | .func c w fs | .funcd c w fs => okCore c && okVec w && fs < 8
  | .fload c _ fs addr => okCore c && fs < 8 && addr < 2097152
  | .xpose c w => okCore c && w.ta < 64 && w.src < 2097152 && w.dst < 2097152
  | .move c _ addr => okCore c && addr < 2097152
  | .semSig c _ sem count | .semWait c _ sem count | .semTake c _ sem count => okCore c && sem < 65536 && count < 65536
  | .qpop c _ q rd => okCore c && q < 256 && rd < 16
  | .cueWait c w => okCore c && okCue w
  | .semWaitSatisfied c | .queueEntryAvailable c | .cueWaitRelease c | .coreStart c | .coreStop c | .ndClr c | .corePcWrite c _
  | .faultClear c | .arithCntClr c | .moveCopy c _ | .moveCopyTag c _ | .moveConvert c _ | .remoteWrite c _
  | .remoteRead c _ | .collective c _ | .descriptorComplete c _ | .noRoute c _ => okCore c
  | .astep c w | .amerge c w | .kvput c w => okCore c && okAttn w
  | .sampMask c w slot _ _ _ | .sampDraw c w slot _ _ _ _ | .sampAccept c w slot _ _ _ => okCore c && okVec w && slot < 65536
  | .genSubmit h body => okHdr h && body.length == 128
  | .clusterStart tile cluster mask => tile < 4 && cluster < 4 && mask < 131072
  | .genCancel h _ | .lrnBind h _ | .lrnSkip h _ _ | .flyNow h | .roleSwitch h | .wtLoad h _ | .wtTable h _
  | .trpCtxPut h _ | .trpCtxGet h _ | .trpRestore h | .trpTeardown h | .ckptTake h _ | .ckptBuf h _ _ _ _ | .ckptStored h _ _
  | .ckptDiscard h _ _ | .ckptRestore h _ _ _ | .rplCompare h _ _ _ | .hostFault h _
  | .queueCreate h _ | .commandRelay h _ _ | .castApply h _ _ _ | .castStore h _ _ _ | .fwStage h _ _ _ _
  | .fwSelect h _ _ _ _ | .recGet h _ | .ownInstall h _ _ _ | .rpfCommit h _ => okHdr h
  | .attReport h nonce addr => okHdr h && nonce < 2 ^ 256 && okWord addr
  | .genCurtain h epoch => okHdr h && epoch < 4294967296
  | .optGset h g n _ => okHdr h && g < 256 && okWord n
  | .expSeal h seqNo reward reward2 _ => okHdr h && okWord seqNo && reward < 4294967296 && reward2 < 4294967296
  | .wtReady h slot => okHdr h && slot < 256
  | .wtRelease h _ n => okHdr h && n < 65536
  | .lrKey h p ltag slot _ w =>
    okHdr h && okPort p && ltag < 4096 && slot < 2 && w.session < 256 && w.purpose < 256 && w.rsv < 65536 && okWord w.counter &&
      w.cipher < 2 ^ 256 && w.tag < 2 ^ 128
  | .trpMap h page entry => okHdr h && page < 4294967296 && okWord entry
  | .trpQpush h q value => okHdr h && q < 256 && okWord value
  | .trpSwitch h out inn => okHdr h && out.all okTroupe && inn.all okTroupe
  | .ckptCursor h _ bytes => okHdr h && bytes.length == 64
  | .undStage h l _ _ _ | .ensSubstitute h l _ _ | .ensReadmit h l => okHdr h && l < 4096
  | .queueDelete h qid kind => okHdr h && qid < 65536 && kind < 256
  | .evqBind h slot troupe eqid _ => okHdr h && slot < 256 && troupe < 256 && eqid < 65536
  | .keySession h n tenant _ => okHdr h && n < 256 && tenant < 256
  | .reset h level _ _ => okHdr h && level < 256
  | .coreRetire h l => okHdr h && l < 65536
  | .stepBoundary t _ | .admissionPassIdle t _ | .commit t | .shipArrival t _ _ | .kvEvtClr t | .flintLoad t | .flintCntClr t
  | .reductionContribution t _ | .verdictApply t _ | .verdictLate t | .rootDecision t | .lrnEvtClr t | .optEvtClr t
  | .flyInStart t | .flySourceReadDone t _ | .flyResume t | .flyEvtClr t | .expEvtClr t | .ringRecordWrite t | .scorerHand t
  | .ringPoll t | .consumerHand t | .switchDrainDone t | .switchComplete t | .teardownDone t | .trpEvtClr t | .ckptCutPoint t
  | .substitutionFill t _ _ => okTroupe t
  | .collectiveTimeout t _ inst => okTroupe t && okWord inst
  | .verdictContribution t sumsq => okTroupe t && sumsq < 4294967296
  | .learnerStepCommand t n => okTroupe t && okWord n
  | .whetstoneComplete t j => okTroupe t && j < 1024
  | .flyPieceArrival t epoch _ => okTroupe t && epoch < 4294967296
  | .whetStatusClr n | .stkEccClr n => n < 20
  | .patrolScrub a found _ => a < 0x7800000000 && found < 3
  | .digestScrub n _ => n < 4096
  | .portSignalDetect p | .portHeldRetry p | .portRetrainTrigger p | .portSignalLoss p | .portOutageTimeout p | .retrain p
  | .release p | .accept p | .portClr p | .rangingResult p | .lrAckTimer p | .freezeMarkerReceive p | .wakeSignalReceive p => okPort p
  | .portEqualizeDone p quarters => okPort p && quarters < 16
  | .portMap p _ _ polarity bad => okPort p && polarity < 65536 && bad < 16
  | .portIdent p lmid port serial _ => okPort p && lmid < 4096 && port < 32 && serial < 2 ^ 40
  | .refMmWrite p v => okPort p && okWord v
  | .flitReceive p f => okPort p && f.ltag < 4096 && f.dest < 4096 && f.keysel < 2
  | .replayRequest p _ => okPort p
  | .creditReturn p _ ltag _ => okPort p && ltag < 4096
  | .frameAuthenticate p ltag _ => okPort p && ltag < 4096
  | .rangingExchange p _ _ _ _ => okPort p
  | .cueExchange t1 t2 t3 t4 => okWord t1 && okWord t2 && okWord t3 && okWord t4
  | .barrierArrival t b _ _ | .barrierRelease t b | .cueStall t b => okTroupe t && b < 256
  | .barrierTRelArrival t b rel _ => okTroupe t && b < 256 && okWord rel
  | .autoSubstitution l => l < 4096
  | .enable v => okWord v
  | .adminQueueWrite which v => which < 3 && okWord v
  | .doorbell kind q v => kind < 3 && q < 65536 && okWord v
  | .commandFetch mem _ => mem.all (fun e => okWord e.1 && e.2.length == 64)
  | .pendClear code | .evtCntClr code => code < 65536
  | .memberJoined lmid serial => lmid < 4096 && serial < 2 ^ 64
  | .joinTimeout slot | .heartbeatReceive slot _ | .memberFailed slot => slot < 64
  | .membershipChange m => m.lmid < 4096
  | .registerAccessRelay n off wr answer => n < 64 && off < 2 ^ 40 && wr.all okWord && answer.all okWord
  | .rejectedAccess off _ => off < 2 ^ 40
  | .registerWrite off v => off < 2 ^ 40 && okWord v
  | .coreFwBroadcastRound missing silent badDigest => missing.all okCore && silent.all okCore && badDigest.all okCore
  | .powerMeasure vin iin pin => vin < 65536 && iin < 65536 && pin < 65536
  | .railPowerGood r | .railShort r | .senseOpen r | .railOcWarn r | .regHot r => okRail r
  | .thermalSample _ inlet outlet => inlet < 256 && outlet < 256
  | .thermTrip die => die < 256
  | .pluginInsert p watts => okPort p && watts < 65536
  | .loadEnd _ | .loadTurn _ | .memoryZeroing | .scrubEvtClr | .cueExchangeTimeout | .cueEvtClr | .ckptRequest _
  | .holdoffExpiry | .ckptArm _ _ | .ckptCut _ | .ckptAbort _ _ | .snapshotPageCopy _ | .stalledWriteProceed | .ckptS0Done _
  | .ckptBufferFilled _ | .wchEvtClr | .wchCkptEvtClr _ | .thlTraining _ _ | .thlLockLoss _ | .completionWrite _ | .eventRaise _
  | .noticeBufferDrain _ | .thlEvtClr | .heartbeatSend | .accErrClr | .hubResetRelease | .hubFirmwareStart _
  | .bootCastingApply | .hubWatchdog | .hubEcc | .resetPin | .inputQualify | .inputUv | .inputOv | .inputOvervoltageTrip
  | .inputLost _ | .inputReversed | .railRestartTimer | .pwrEvtClr | .clkRefLost | .referenceReturn | .clkFail | .coolantHot
  | .coolantFlow | .thermClr | .smbReadStatus | .smbReadLog | .smbRestart | .freezePin | .freeze | .freezeCueTrigger
  | .freezeStop | .tabIgnClr | .read | .tabRead | .memread | .tabReadoutDone | .resume | .tabResume | .cableDetect _
  | .refclkQualify | .thlPresent _ | .clkFailRestartTimer | .dividerRestart => true

end Sys2Proof
end

