-- ==== Sys2Proof/Tests/Slice0.lean ====
section
/-! SUPPORT. Tests: commands that are not well formed, small steps with values worked by hand from the spec, and for every statement with hypotheses
states that meet them. -/

namespace Sys2Proof.Tests

open Sys2Proof Sys2Proof.Machine

set_option maxRecDepth 100000

/-! ### States that the tests use -/

/-- A module whose hub runs in READY. -/
def live : State := { boot := .ready }

/-- A live module whose core 0 runs troupe 0, which is resident with four semaphores and one queue of four entries. -/
def withCore (k : Core) : State :=
  { live with
    cores := [(0, { k with regs := { k.regs with state := .running, troupe := 0 } })]
    troupes := [(0, { regs := { state := .resident }, cfg := { semCount := 4, queues := [(0x40, 4)] } })] }

/-- The same with core 0 in a given state. -/
def coreIn (st : CoreState) : State := { withCore {} with cores := [(0, { regs := { state := st, troupe := 0 } })] }

/-- The same with core 0 waiting. -/
def waiting (x : Wait) : State := withCore { regs := { wait := x } }

/-- FP32 words of small numbers: 1.0, 2.0, 3.0. -/
def one32 : F32 := 0x3F800000
def two32 : F32 := 0x40000000
def three32 : F32 := 0x40400000

/-- A core with 1.0 and 2.0 in elements 0 of vector registers 1 and 2. -/
def adding : Core := { v := [(256, one32), (512, two32)] }

/-- The next state of a command, or the state itself. -/
def after (c : Instr) (s : State) : State :=
  match exec c s with
  | .next t => t
  | _ => s

/-! ### Well-formedness: one ill-formed command for each check, which the check refuses -/

theorem test_wellFormed_accepts : wellFormed (.branch 271 false 2097151) = true ∧ wellFormed (.vadd 0 { vl := 256 }) = true ∧
    wellFormed (.genCancel { troupe := 63 } 7) = true := by decide
theorem test_illFormed_core : wellFormed (.nop 272 false) = false := by decide
theorem test_illFormed_target : wellFormed (.branch 0 false 2097152) = false := by decide
theorem test_illFormed_scalar : wellFormed (.loop 0 false 16 0) = false := by decide
theorem test_illFormed_tag : wellFormed (.tagLoad 0 false 64 0) = false := by decide
theorem test_illFormed_matrix : wellFormed (.mmul 0 { fch := 4096 }) = false := by decide
theorem test_illFormed_vector : wellFormed (.vadd 0 { vl := 512 }) = false := by decide
theorem test_illFormed_function_slot : wellFormed (.func 0 {} 8) = false := by decide
theorem test_illFormed_attention : wellFormed (.astep 0 { split := 16 }) = false := by decide
theorem test_illFormed_cue : wellFormed (.cueWait 0 { bar := 256 }) = false := by decide
theorem test_illFormed_header : wellFormed (.genCancel { troupe := 64 } 7) = false := by decide
theorem test_illFormed_troupe : wellFormed (.commit 64) = false := by decide
theorem test_illFormed_port : wellFormed (.retrain 18) = false := by decide
theorem test_illFormed_rail : wellFormed (.railPowerGood 29) = false := by decide
theorem test_illFormed_word : wellFormed (.enable (2 ^ 64)) = false := by decide
theorem test_illFormed_cluster : wellFormed (.clusterStart 0 0 131072) = false := by decide
theorem test_illFormed_semaphore : wellFormed (.semSig 0 false 65536 0) = false := by decide
theorem test_illFormed_member : wellFormed (.undStage {} 4096 0 { sig := { type := 7 } } true) = false := by decide
theorem test_illFormed_register : wellFormed (.registerWrite (2 ^ 40) 0) = false := by decide

/-! ### Behaviour: expected values are worked by hand from the rules -/

/-- R69, R20: 1.0 + 2.0 = 3.0. -/
theorem test_add : ((after (.vadd 0 { vl := 1, vd := 3, va := 1, vb := 2 }) (withCore adding)).core 0).vGet 3 0 = three32 := by decide
/-- R69: an element at VL keeps its value. -/
theorem test_add_stops_at_vl : ((after (.vadd 0 { vl := 1, vd := 1, va := 1, vb := 2 }) (withCore { v := [(257, two32)] })).core 0).vGet 1 1 = two32 := by
  decide
/-- 2.0 - 1.0 = 1.0, with the source also the destination. -/
theorem test_sub : ((after (.vsub 0 { vl := 1, vd := 1, va := 2, vb := 1 }) (withCore adding)).core 0).vGet 1 0 = one32 := by decide
/-- 1.0 / 2.0 = 0.5. -/
theorem test_div : ((after (.vdiv 0 { vl := 1, vd := 1, va := 1, vb := 2 }) (withCore adding)).core 0).vGet 1 0 = 0x3F000000 := by decide
/-- The square root of 2.0, rounded to nearest even. -/
theorem test_sqrt : ((after (.vsqrt 0 { vl := 1, vd := 1, va := 2 }) (withCore adding)).core 0).vGet 1 0 = 0x3FB504F3 := by decide
/-- 1.0 × 2.0 + 1.0 = 3.0. -/
theorem test_fma : ((after (.vfma 0 { vl := 1, vd := 1, va := 1, vb := 2, vc := 1 }) (withCore adding)).core 0).vGet 1 0 = three32 := by decide
/-- 1.0 < 2.0 and not the other way. -/
theorem test_lt : mapGet false ((after (.vlt 0 { vl := 1, vd := 1, va := 1, vb := 2 }) (withCore adding)).core 0).p 256 = true ∧
    mapGet false ((after (.vlt 0 { vl := 1, vd := 1, va := 2, vb := 1 }) (withCore adding)).core 0).p 256 = false := by decide
/-- R66, R84: a branch past the core store halts the list, and CORE_PC stays at the branch. -/
theorem test_branch_range : ((after (.branch 0 false 0x180000) (withCore {})).core 0).regs.state = .faulted ∧
    ((after (.branch 0 false 0x180000) (withCore {})).core 0).regs.pc = 0 := by decide
/-- R50: an instruction moves CORE_PC by 16. -/
theorem test_nop_pc : ((after (.nop 0 false) (withCore {})).core 0).regs.pc = 16 := by decide
/-- R54: a marked instruction counts. -/
theorem test_nd_count : ((after (.nop 0 true) (withCore { regs := { ndCount := 7 } })).core 0).regs.ndCount = 8 := by decide
/-- A semaphore that has no room stays at 2^32 - 1 (R327). -/
theorem test_sem_saturates : semGet (after (.semSig 0 false 1 2) { withCore {} with sems := [(1, 0xFFFFFFFE)] }) 0 1 = 0xFFFFFFFF := by decide
/-- SEM_TAKE takes (R78). -/
theorem test_sem_take : semGet (after (.semTake 0 true 1 2) { withCore {} with sems := [(1, 5)] }) 0 1 = 3 := by decide
/-- CORE_PC takes the last aligned offset and no offset past the store (R83). -/
theorem test_pc_bounds : ((after (.corePcWrite 0 0x17FFF0) (coreIn .idle)).core 0).regs.pc = 0x17FFF0 ∧
    ((after (.corePcWrite 0 0x180000) (coreIn .idle)).core 0).regs.pc = 0 ∧ ((after (.corePcWrite 0 0x8) (coreIn .idle)).core 0).regs.pc = 0 := by
  decide
/-- An empty queue is one core cycle (R310; log entry 1). -/
theorem test_tick : (match step live with | .next t => t.cue | _ => 0) = 1 := by decide
/-- The module does not answer while it is frozen (R454). -/
theorem test_frozen : after .accErrClr { live with accErr := { cnt := 3 }, tab := { state := .frozen } } =
    { live with accErr := { cnt := 3 }, tab := { state := .frozen } } := by decide
/-- R386: raising an event sets PEND and counts. -/
theorem test_event : ((after (.eventRaise (.raised 0x0050 0xFF [])) live).occ 0x0050) = { count := 1, pend := true } := by decide
/-- R462: a misaligned write is recorded with its aligned offset. -/
theorem test_misaligned : (after (.rejectedAccess 0x103 true) live).accErr = { cnt := 1, offset := 0x100, kind := true, err := true } := by decide
/-- R439: input power starts step 1 of the rails. -/
theorem test_power : (after .inputQualify State.reset).hw.phase = .rising ∧ (after .inputQualify State.reset).hw.seqStep = 1 := by decide
/-- R451: a freeze stops the clocks 64 counts on. -/
theorem test_freeze : (after .freeze { live with cue := 10 }).tab.tF = 74 := by decide
/-- A word of the table spells no command: its rows have no bits. -/
theorem test_decode_none : decodeTableWord 0 0 = none := by decide
/-- A matrix word, field by field from the table of R61. -/
theorem test_word_mmulx : decodeTableWord 128 (0x1 * 2 ^ 127 + 0x1 * 2 ^ 123 + 0x2 * 2 ^ 116 + 0x1 * 2 ^ 114 + 0x1 * 2 ^ 112 + 0x2 * 2 ^ 109 + 0x1 * 2 ^ 108 + 0xABC * 2 ^ 95 + 0x81 * 2 ^ 87 +
    0x7F * 2 ^ 79 + 0x1234 * 2 ^ 65 + 0x2345 * 2 ^ 51 + 0x3001 * 2 ^ 37 + 0xFF1 * 2 ^ 23 + 0x9 * 2 ^ 17 + 0x12 * 2 ^ 11 + 0x21 * 2 ^ 5 + 0x5 * 2 ^ 1 + 0x1) =
    some (.mmulx 0
      { nd := true, pl := false, pre := true, ax := false, chord := true, tsc := false, rnd := 2, inc := true, ofs := false
        fch := 0xabc, nch := 0x81, mrows := 0x7f, abase := 0x1234, bbase := 0x2345, dbase := 0x3001, ibase := 0xff1, ta := 9
        tb := 0x12, td := 0x21, sri := 5, lst := true }) := by decide
/-- A FLINT word from the tables of R71 and R153. -/
theorem test_word_fdisc : decodeTableWord 128 (0x8 * 2 ^ 123 + 0x6 * 2 ^ 116 + 0x100 * 2 ^ 107 + 0x11 * 2 ^ 102 + 0x3 * 2 ^ 97 + 0x4 * 2 ^ 92 + 0x1E * 2 ^ 87 + 0x5 * 2 ^ 84 + 0x1 * 2 ^ 83 +
    0x1 * 2 ^ 81 + 0x9 * 2 ^ 77 + 0x6 * 2 ^ 73 + 0x1357 * 2 ^ 59 + 0x29 * 2 ^ 53 + 0xDEADBEEF) =
    some (.fdisc 0
      { vl := 0x100, vd := 0x11, va := 3, vb := 4, vc := 0x1e, pred := 5, pz := true, rnd := 1, sri := 9, six := 6, addr := 0x1357
        tg := 0x29, rsv := 0, imm := 0xdeadbeef }) := by decide
/-- An ATTN word from the tables of R126 and R127. -/
theorem test_word_amerge : decodeTableWord 128 (0x1 * 2 ^ 127 + 0x9 * 2 ^ 123 + 0x1 * 2 ^ 116 + 0x1 * 2 ^ 114 + 0x1 * 2 ^ 112 + 0x5 * 2 ^ 108 + 0xB * 2 ^ 104 + 0x1234 * 2 ^ 88 + 0xFF * 2 ^ 72 +
    0x7F * 2 ^ 64 + 0x2001 * 2 ^ 50 + 0x1002 * 2 ^ 36 + 0x403 * 2 ^ 22 + 0x15 * 2 ^ 16 + 0x2A * 2 ^ 10 + 0x1 * 2 ^ 9) =
    some (.amerge 0
      { nd := true, mode := 1, causal := false, ofs := true, split := 5, srb := 0xb, fb := 0x1234, nb := 0xff, mrows := 0x7f
        qbase := 0x2001, obase := 0x1002, sbase := 0x403, tq := 0x15, td := 0x2a, fin := true, rsv := 0 }) := by decide
/-- An OPTM word from the tables of R71 and R199. -/
theorem test_word_omom : decodeTableWord 128 (0xA * 2 ^ 123 + 0x3 * 2 ^ 116 + 0x40 * 2 ^ 107 + 0x1 * 2 ^ 102 + 0x2 * 2 ^ 97 + 0x3 * 2 ^ 92 + 0x1234) =
    some (.omom 0
      { vl := 0x40, vd := 1, va := 2, vb := 3, imm := 0x1234 }) := by decide
/-- A CUE.WAIT word from the table of R315. -/
theorem test_word_cue_wait : decodeTableWord 128 (0x7 * 2 ^ 123 + 0x6 * 2 ^ 116 + 0x1 * 2 ^ 115 + 0xA5 * 2 ^ 107 + 0xD * 2 ^ 103) =
    some (.cueWait 0
      { mode := true, bar := 0xa5, sx := 0xd }) := by decide
/-- A class above 0xB and a FLINT operation above 0x06 are not in the tables (R52, R153). -/
theorem test_word_undefined : undefinedWord (0xC * 2 ^ 123) = true ∧ undefinedWord (8 * 2 ^ 123 + 7 * 2 ^ 116) = true ∧
    undefinedWord (8 * 2 ^ 123 + 6 * 2 ^ 116) = false ∧ decodeTableWord 128 (8 * 2 ^ 123 + 7 * 2 ^ 116) = none := by decide
/-- A row by a row on the arrays: 1 × 2 + 2 × 1 = 4 (R196). -/
theorem test_ortho_product : matDot [0x3F80, 0x4000] [0x4000, 0x3F80] = 0x40800000 := by decide
/-- The polynomial of the ORTHO iteration has p(1) = 0.703125 (R195). -/
theorem test_ortho_one : orthoIter 1 [[0x3F80]] = [[0x3F340000]] := by decide
/-- The scale of a 4 by 1 matrix is 2.0, and of a 1 by 4 one 1.0 (R195). -/
theorem test_ortho_scale : orthoScale 4 1 = 0x40000000 ∧ orthoScale 1 4 = 0x3F800000 := by decide

/-! ### Witnesses: the machine as a whole -/

theorem witness_StepRunsTheFrontCommand : { live with pending := [.nop 0 false] }.pending = .nop 0 false :: [] := rfl
theorem witness_IdleStepIsOneCoreCycle : State.reset.pending = [] ∧ State.reset.alive = false ∧ live.pending = [] ∧ live.alive = true ∧
    live.cueRegs.withhold = false ∧
    { live with cueRegs := { withhold := true } }.alive = true ∧ { live with cueRegs := { withhold := true } }.cueRegs.withhold = true ∧
    (∀ e ∈ live.troupes, e.2.gen.cancels = []) ∧ (∀ c, c < physCores → undefinedWord (nextWord live c) = false) :=
  ⟨by decide, by decide, by decide, by decide, by decide, by decide, by decide, by decide, by decide⟩

theorem witness_CommandsLeaveTheQueue : exec (.nop 0 false) State.reset = .next State.reset := rfl

/-- A signed object that a module with an owner record holds. -/
def svn3 : Signed := { type := 1, svn := 3 }
/-- A live module with firmware of SVN 3 in force. -/
def committing : State :=
  { live with
    bt := { force := { hub := some { sig := svn3 }, core := some { sig := svn3 }, link := some { sig := svn3 },
                       bundle := some { sig := svn3 },
                       modRec := some { sig := svn3 }, owner := some { sig := svn3 } } },
    cast := some { sig := svn3 } }

/-- A live module whose hub firmware counter is 4. -/
def higher : State := { live with bt := { counters := { hub := 4 } } }

theorem witness_CountersRiseOnlyByCommit : step live = .next (tick live) ∧ accepted committing {} opRpfCommit = true ∧
    committing.bt.force.hub = some { sig := svn3 } ∧ committing.bt.force.core = some { sig := svn3 } ∧
    committing.bt.force.link = some { sig := svn3 } ∧ committing.bt.force.bundle = some { sig := svn3 } ∧
    committing.bt.force.modRec = some { sig := svn3 } ∧ committing.bt.force.owner = some { sig := svn3 } ∧
    committing.cast = some { sig := svn3 } ∧
    signedOk higher svn3 1 0x100000 = true ∧
    svn3.svn < counterOf higher.bt.counters 1 := ⟨rfl, by decide⟩
theorem witness_ModuleRecordIsFixed : step live = .next (tick live) := rfl
/-- A live module with a fetched command that its FENCE holds behind an open one of its queue. -/
def fencing : State := { live with thl := { fetched := [{ hdr := { cmdId := 1 }, opcode := 1 }, { hdr := { cmdId := 2 }, opcode := opCkptTake, fence := true }] } }

theorem witness_HeldModuleDoesNothing : State.reset.alive = false ∧ outside (.nop 0 false) = false ∧
    hostOf (.ckptTake { cmdId := 2 } 9) = some ({ cmdId := 2 }, opCkptTake) ∧ fencing.alive = true ∧
    hostWaits fencing { cmdId := 2 } opCkptTake = true ∧ hostWaits fencing { cmdId := 1 } opCkptTake = false ∧
    { live with boot := .uncast }.alive = true ∧ hostWaits { live with boot := .uncast } { cmdId := 2 } opCkptTake = false ∧
    bootAccepts .uncast opCkptTake = false := by decide

/-! ### Witnesses: core instructions -/

/-- A core with a loop register above 1, a tag and BF16 tiles. -/
def busy : Core := { s := [(1, 2), (2, 1)], tags := [(1, 1)] }

theorem witness_IssueMovesThePcAndRecordsTheMark : (withCore {}).core 0 ≠ (withCore {}).core 1 ∧ ((withCore {}).core 0).regs.troupe < 64 ∧
    issues (withCore {}) 0 = true ∧
    Issue.ok (issueState 0 true (withCore {})) = .ok (issueState 0 true (withCore {})) ∧
    (fun _ : State => Issue.refuse rfStoreRange) (issueState 0 true (withCore {})) = .refuse rfStoreRange :=
  ⟨by decide, by decide, by decide, rfl, rfl⟩
theorem witness_RefusalHaltsTheListAtTheInstruction : issues (withCore {}) 0 = true ∧ vlOk { vl := 0 } = false ∧ vlOk { vl := 257 } = false ∧
    storeBytes ≤ 0x180000 := by decide
theorem witness_ControlInstructionResults : issues (withCore busy) 0 = true ∧ 0x17FFF0 % 16 = 0 ∧ 0x17FFF0 < storeBytes ∧
    1 < (((issueState 0 false (withCore busy)).core 0).sGet 1).toNat ∧ (((issueState 0 false (withCore busy)).core 0).sGet 2).toNat ≤ 1 ∧
    (((issueState 0 false (withCore busy)).core 0).sGet 3).toNat ≤ 1 ∧ ((withCore busy).core 0).regs.fault = false ∧
    (scalarResult .mul 2 1).isSome = true ∧
    (((issueState 0 false (withCore busy)).core 0).sGet 1).toNat + (((issueState 0 false (withCore busy)).core 0).sGet 2).toNat < 2 ^ 64 ∧
    0x17FFF8 + 8 ≤ storeBytes := by decide

theorem witness_VectorElementResults : (one32.toNat + two32.toNat < 2 ^ 32) ∧ issues (withCore adding) 0 = true ∧ vlOk { vl := 1 } = true ∧
    vlOk { vl := 256 } = true := by decide
theorem witness_CompareResults : issues (withCore adding) 0 = true ∧ vlOk { vd := 31 } = true := by decide
theorem witness_ReductionResults : issues (withCore adding) 0 = true ∧ vlOk { vl := 256, pred := 1 } = true := by decide
theorem witness_ScatterResults : issues (withCore adding) 0 = true ∧ vlOk { vl := 2, va := 1 } = true ∧
    (∀ i ∈ selected adding { vl := 2, va := 1 }, scatAddr adding { vl := 2, va := 1 } i + 4 ≤ storeBytes) ∧
    (∃ w : VecWord, w.nd = true ∧ vlOk w = true) ∧ (∃ w : VecWord, w.nd = false ∧ vlOk w = true) ∧
    ((withCore adding).core 0).regs.fault = false ∧
    (∀ j, 1 < j → j < 2 → permIndex (adding.vGet 3 j).toNat ≠ permIndex (adding.vGet 3 1).toNat) ∧
    (∀ i, i < 2 → permIndex (adding.vGet 3 i).toNat ≠ 255) :=
  ⟨by decide, by decide, by decide, ⟨{ nd := true }, by decide⟩, ⟨{}, by decide⟩, by decide, fun j h1 h2 => absurd h1 (by omega), by decide⟩

/-- A core whose function slot 0 holds a forward and a derivative table, with a table of KIND 0 at 0 of its store. -/
def tabled : Core := { slots := [(0, { lo := 0, wexp := 0, la := 0, lb := 0, ra := 0, rb := 0, segs := 0 }),
  (1, { lo := 0, wexp := 0, la := 0, lb := 0, ra := 0, rb := 0, segs := 0 })] }

theorem witness_FunctionTableResults : issues (withCore tabled) 0 = true ∧ 7 < 8 ∧ vlOk {} = true ∧ (mapFind tabled.slots (2 * 0)).isSome = true ∧
    (mapFind tabled.slots (2 * 0 + 1)).isSome = true ∧ mapFind tabled.slots (2 * 7) = none ∧ ((withCore tabled).core 0).regs.fault = false ∧
    0x180000 - 4160 + 4160 ≤ storeBytes ∧ (parseTable tabled.store (0x180000 - 4160)).isSome = true := by decide
theorem witness_VectorMemoryResults : issues (withCore {}) 0 = true ∧ vlOk { addr := 12280 } = true ∧ tagInvalid (({} : Core).tagGet 0) = false ∧
    12280 * 128 + vmemSpan (({} : Core).tagGet 0) 256 ≤ storeBytes ∧ ({ rnd := 2 } : VecWord).rnd ≠ 3 := by decide
theorem witness_PlaneDrainAndTransposeResults : issues (withCore busy) 0 = true ∧ matTagBad (busy.tagGet 1) (busy.tagGet 1) = false ∧
    matBase busy { ta := 1, tb := 1 } 0 + tileSpan (busy.tagGet 1) ≤ storeBytes ∧ pairForm (busy.tagGet 1) (busy.tagGet 1) = false ∧
    (∃ w : MatWord, w.dbase + w.mrows = 511) ∧ (∃ w : MatWord, 511 < w.dbase + w.mrows) ∧ ((withCore busy).core 0).regs.fault = false ∧
    xposeRefusal busy { ta := 1 } = none :=
  ⟨by decide, by decide, by decide, by decide, ⟨{ dbase := 256, mrows := 255 }, rfl⟩,
    ⟨{ dbase := 257, mrows := 255 }, by decide⟩, by decide, by decide⟩
theorem witness_MatrixProductResults : issues (withCore busy) 0 = true ∧ mmulRefusal busy { ta := 1, tb := 1, td := 1, inc := true } false = none ∧
    mmulRefusal busy { ta := 1, tb := 1, td := 1, inc := true, mrows := 127 } true = none ∧ ((withCore busy).core 0).regs.fault = false ∧
    (mmulRefusal busy { ta := 1, tb := 1, td := 1, rnd := 3 } false).isSome = true ∧
    (mmulRefusal busy { ta := 1, tb := 1, td := 1, mrows := 3 } true).isSome = true := by decide

/-- Core 0 with a descriptor outstanding, and with one queue entry; semaphore 1 at 5, semaphore 2 full. -/
def syncing : State :=
  { withCore { descs := [{ id := 0, raw := [], stage := .posted }] } with
    sems := [(1, 5), (2, 0xFFFFFFFF)]
    cue := 10 }
/-- The same with one entry in the queue. -/
def queued : State :=
  { syncing with
    troupes := [(0, { regs := { state := .resident }, cfg := { semCount := 4, queues := [(0x40, 4)] }, queues := [(0, { count := 1 })] })] }

/-- A core of a troupe with barrier 2, whose instance 1 its core missed while the troupe was away. -/
def missed : State :=
  { withCore { regs := { kept := some (2, 1) } } with
    fab := { barriers := [{ b := 2, troupe := 0, tree := 0, lead := 100, btimeout := 1 }], nodes := [(2, { instNo := 2, lastRel := 7 })] } }

theorem witness_SynchronizationResults_waits : semGet syncing 0 1 < 6 ∧ earlierTaker (issueState 0 true syncing) 0 1 = false ∧
    earlierTaker (issueState 0 true { syncing with takers := [1], cores := (1, { regs := { troupe := 0, wait := .sem 1 6 true } }) :: syncing.cores }) 0 1 = true ∧
    semNamed syncing 0 4 = false ∧ (syncing.core 0).regs.fault = false ∧ issues syncing 0 = true ∧ 0 < (syncing.troupe 0).cfg.queues.length ∧
    (syncing.queue 0 0).count = 0 ∧ issues missed 0 = true ∧ (barrierEnt missed 0 2).isSome = true ∧
    releasedAway (issueState 0 false missed) 0 0 2 = true ∧ releasedAway (issueState 0 false { missed with fab.nodes := [] }) 0 0 2 = false ∧
    (barrierEnt { missed with fab.nodes := [] } 0 2).isSome = true := by decide
theorem witness_SynchronizationResults : issues syncing 0 = true ∧ issues (withCore {}) 0 = true ∧ ((withCore {}).core 0).descs = [] ∧
    (syncing.core 0).descs ≠ [] ∧ semNamed syncing 0 3 = true ∧ semGet syncing 0 1 + 0xFFFFFFFA ≤ semMax ∧ semMax < semGet syncing 0 2 + 1 ∧
    5 ≤ semGet syncing 0 1 ∧ semGet syncing 0 1 < 6 ∧ syncing.takers = [] ∧ 0 < (syncing.troupe 0).cfg.queues.length ∧
    issues queued 0 = true ∧ 0 < (queued.troupe 0).cfg.queues.length ∧ (queued.queue 0 0).count ≠ 0 ∧ (syncing.queue 0 0).count = 0 ∧
    ((syncing.core 0).sGet 0).toNat ≤ syncing.cue ∧ issues (withCore busy) 0 = true ∧ (withCore busy).cue < (((withCore busy).core 0).sGet 1).toNat ∧
    (∃ w : CueWord, w.nd = true ∧ w.mode = false) ∧ (∃ w : CueWord, w.nd = false ∧ w.mode = false ∧ w.sx = 1) := by
  refine ⟨?_, ?_, ?_, ?_, ?_, ?_, ?_, ?_, ?_, ?_, ?_, ?_, ?_, ?_, ?_, ?_, ?_, ?_, ⟨{ nd := true }, rfl, rfl⟩, ⟨{ sx := 1 }, rfl, rfl, rfl⟩⟩ <;> decide

/-! ### Witnesses: waits, registers and descriptors of a core -/

/-- A waiting core beside `syncing`'s semaphores and queue. -/
def waitingOn (x : Wait) : State := { queued with cores := (waiting x).cores }

theorem witness_WaitsEndWhenSatisfied :
    (waitingOn .none).alive = true ∧ ((waitingOn .none).core 0).regs.stopping = false ∧ (waitingOn .none).bt.resets = [] ∧
    ((waitingOn (.sem 1 5 false)).core 0).regs.wait = .sem 1 5 false ∧ 5 ≤ semGet (waitingOn (.sem 1 5 false)) 0 1 ∧
    ((waitingOn (.sem 1 6 false)).core 0).regs.wait = .sem 1 6 false ∧ semGet (waitingOn (.sem 1 6 false)) 0 1 < 6 ∧
    ((waitingOn (.sem 1 5 true)).core 0).regs.wait = .sem 1 5 true ∧ earlierTaker (waitingOn (.sem 1 5 true)) 0 1 = false ∧
    semGet (waitingOn (.sem 1 6 true)) 0 1 < 6 ∧
    ((waitingOn (.qpop 0 3)).core 0).regs.wait = .qpop 0 3 ∧ ((waitingOn (.qpop 0 3)).queue 0 0).count ≠ 0 ∧
    ((waiting (.qpop 0 3)).core 0).regs.wait = .qpop 0 3 ∧ ((waiting (.qpop 0 3)).queue 0 0).count = 0 ∧
    ((waitingOn (.cue 10)).core 0).regs.wait = .cue 10 ∧ 10 ≤ (waitingOn (.cue 10)).cue ∧
    ((waitingOn (.cue 11)).core 0).regs.wait = .cue 11 ∧ (waitingOn (.cue 11)).cue < 11 ∧
    ((withCore { regs := { stopping := true } }).core 0).regs.stopping = true ∧ ((withCore { regs := { stopping := true } }).core 0).descs = [] := by decide

theorem witness_CorePcTakesAlignedWritesWhileStopped : (withCore {}).alive = true ∧ ((withCore {}).core 0).regs.state = .running ∧
    ((coreIn .idle).core 0).regs.state ≠ .running ∧ (0x17FFF0 : Word).toNat % 2 ^ 21 % 16 = 0 ∧ (0x17FFF0 : Word).toNat % 2 ^ 21 < 0x180000 ∧
    0x180000 ≤ (0x180000 : Word).toNat % 2 ^ 21 ∧ (0x17FFF8 : Word).toNat % 2 ^ 21 % 16 ≠ 0 := by decide
theorem witness_CoreControlResults : (coreIn .idle).alive = true ∧ startable ((coreIn .idle).core 0) = true ∧
    troupeStarts (coreIn .idle) ((coreIn .idle).core 0).regs.troupe = true ∧ startable ((withCore {}).core 0) = false ∧
    ((withCore {}).core 0).regs.state = .running ∧ ((withCore {}).core 0).regs.wait = .none ∧ ((withCore {}).core 0).descs = [] ∧
    (syncing.core 0).regs.state = .running ∧ (syncing.core 0).descs ≠ [] ∧ syncing.bt.resets = [] ∧ ((coreIn .halted).core 0).regs.state ≠ .running ∧
    startable ((coreIn .halted).core 0) = true ∧
    (0 ∈ ((clusterMaskCores 0 0 3).map (startTarget (coreIn .idle) 0)).filter (fun x => !startBarred (coreIn .idle) x)) ∧
    (∀ x ∈ ((clusterMaskCores 0 0 1).map (startTarget (coreIn .idle) 0)).filter (fun x => !startBarred (coreIn .idle) x),
      ((coreIn .idle).core x).regs.troupe = 0) := by decide

/-- The 64 bytes of a move descriptor of one row of 64 bytes from 0 to 64. -/
def moveBytes (op flags : Nat) : List Byte :=
  leBytes 8 0 ++ leBytes 8 64 ++ leBytes 4 1 ++ leBytes 4 64 ++ leBytes 8 64 ++ leBytes 8 64 ++ leBytes 2 op ++ [0, 0] ++ leBytes 2 0xFFFF ++
    leBytes 2 flags ++ List.replicate 16 0
/-- Core 0 with one descriptor at a stage; page 0 of the troupe is mapped to physical page 1, and peer 0 is troupe 5 of LMID 3. -/
def posting (raw : List Byte) (st : Stage) : State :=
  { withCore { descs := [{ id := 0, raw := raw, stage := st }] } with
    record := recordK640 1
    mem := { bytes := [(2, 0x20), (7, 0xE0)] }
    fab := { peers := [(0, [(3, 5)])], groups := [(5, { group := 5, timeout := 1, gchk := 0, members := [(0xFFF, 0)] })] } }
/-- The 64 bytes of a barrier of group 5. -/
def collBytes : List Byte :=
  leBytes 8 0 ++ leBytes 8 64 ++ leBytes 8 1 ++ leBytes 2 5 ++ leBytes 2 7 ++ [5, 0] ++ leBytes 2 0 ++ leBytes 8 1 ++ leBytes 2 0x200 ++ [0, 0] ++
    leBytes 2 0xFFFF ++ leBytes 2 0 ++ List.replicate 16 0
/-- Core 0 with 32 descriptors outstanding. -/
def fullEngine : State := withCore { descs := (List.range 32).map (fun i => { id := i, raw := moveBytes 0 0, stage := .posted }) }

theorem witness_DescriptorResults : (withCore {}).alive = true ∧ issues (withCore {}) 0 = true ∧ 0x17FFC0 + 64 ≤ storeBytes ∧
    ((withCore {}).core 0).descs.length < 32 ∧ issues fullEngine 0 = true ∧ 32 ≤ (fullEngine.core 0).descs.length ∧
    descOf (posting (moveBytes 0 1) .posted) 0 0 = some { id := 0, raw := moveBytes 0 1, stage := .posted } ∧
    descStarts (posting (moveBytes 0 1) .posted) 0 0 (Desc.ofBytes (moveBytes 0 1)) = true ∧ (Desc.ofBytes (moveBytes 0 1)).op = 0 ∧
    descStarts (posting (moveBytes 1 0) .posted) 0 0 (Desc.ofBytes (moveBytes 1 0)) = true ∧ (Desc.ofBytes (moveBytes 1 0)).op = 1 ∧
    descStarts (posting (moveBytes 2 0) .posted) 0 0 (Desc.ofBytes (moveBytes 2 0)) = true ∧ (Desc.ofBytes (moveBytes 2 0)).op = 2 ∧
    descOf (posting (moveBytes 0 0) (.done 0)) 0 0 = some { id := 0, raw := moveBytes 0 0, stage := .done 0 } ∧
    (posting (moveBytes 0 0) (.done 0)).mem.stalled = [] ∧ earlierMeets (posting (moveBytes 0 0) (.done 0)) 0 0 (Desc.ofBytes (moveBytes 0 0)) = false ∧
    (Desc.ofBytes (moveBytes 0 0)).sem = 0xFFFF ∧ ((posting (moveBytes 0 0) (.done 0)).core 0).regs.wait = .none ∧
    ((posting (moveBytes 0 0) (.done 0)).core 0).regs.stopping = false ∧ (posting (moveBytes 0 0) (.done 0)).bt.resets = [] := by decide
/-- A completed descriptor one of whose writes waits for a page that is copied, and one that ended with MEM_UE and names semaphore 1. -/
def stalledDesc : State :=
  { posting (moveBytes 0 0) (.done 0) with mem.stalled := [{ key := 7, addr := 0xE00000, bytes := [1], owner := .desc 0 0 }] }
theorem witness_DescriptorResults_ends : descOf stalledDesc 0 0 = some { id := 0, raw := moveBytes 0 0, stage := .done 0 } ∧ stalledDesc.alive = true ∧
    earlierMeets stalledDesc 0 0 (Desc.ofBytes (moveBytes 0 0)) = false ∧
    stalledDesc.mem.stalled.any (fun w => w.owner == .desc 0 0) = true ∧ semRises stMemUe = false ∧ semRises stOk = true ∧
    semNamed (posting (moveBytes 0 0) (.done 0)) 0 3 = true ∧ semGet (posting (moveBytes 0 0) (.done 0)) 0 3 < semMax := by decide
/-- The refused move: nothing of the troupe's memory is mapped. -/
theorem witness_DescriptorResults_refused : moveFieldsOk (withCore {}) 0 (Desc.ofBytes (moveBytes 2 0)) = true ∧
    (Desc.ofBytes (moveBytes 2 0)).stag < 64 ∧ (Desc.ofBytes (moveBytes 2 0)).dtag < 64 ∧
    tagInvalid (((withCore {}).core 0).tagGet 0) = false ∧
    ∃ f, rangesLocs (withCore {}) 0 false (moveSource .convert (((withCore {}).core 0).tagGet 0) (Desc.ofBytes (moveBytes 2 0))) = .error f :=
  ⟨by decide, by decide, by decide, by decide, ⟨_, rfl⟩⟩
theorem witness_RemoteDescriptorResults : (posting (moveBytes 0x100 0) .posted).alive = true ∧
    descOf (posting (moveBytes 0x100 0) .posted) 0 0 = some { id := 0, raw := moveBytes 0x100 0, stage := .posted } ∧
    remoteFieldsOk (posting (moveBytes 0x100 0) .posted) 0 (Desc.ofBytes (moveBytes 0x100 0)) = true ∧
    tagInvalid (((withCore {}).core 0).tagGet 0) = false ∧
    remoteReady (posting (moveBytes 0x100 0) .posted) 0 0 0x100 { id := 0, raw := moveBytes 0x100 0, stage := .posted } = true ∧
    remoteReady (posting (moveBytes 0x101 0) .posted) 0 0 0x101 { id := 0, raw := moveBytes 0x101 0, stage := .posted } = true ∧
    remoteFieldsOk (posting (moveBytes 0x101 0) .posted) 0 (Desc.ofBytes (moveBytes 0x101 0)) = true ∧
    collReady (posting collBytes .posted) 0 0 { id := 0, raw := collBytes, stage := .posted } = true ∧
    mapFind (posting collBytes .posted).fab.groups (CollDesc.ofBytes collBytes).group =
      some { group := 5, timeout := 1, gchk := 0, members := [(0xFFF, 0)] } ∧
    rankOf { group := 5, timeout := 1, gchk := 0, members := [(0xFFF, 0)] } 0xFFF 0 = some 0 ∧
    collFieldsOk (posting collBytes .posted) 0 0 0 (CollDesc.ofBytes collBytes) 1 = true := by decide
theorem witness_RemoteDescriptorResults_source : ∃ src, rangesLocs (posting (moveBytes 0x100 0) .posted) 0 false
    (moveSource (remoteKind 0 0) 0 (Desc.ofBytes (moveBytes 0x100 0))) = .ok src := ⟨_, rfl⟩
/-- A packet that has waited 1 ms of ROUTE_TIMEOUT. -/
def stuck : State :=
  { posting (moveBytes 0x100 0) .sent with
    cue := 1 * cyclesMs
    fab := { tx := [{ dest := 3, ltag := 5, troupe := 0, pkt := { kind := .write, src := 0xFFF }, since := some 0 }] } }
theorem witness_RemoteDescriptorResults_noRoute : (∃ x ∈ stuck.fab.tx, ownItem stuck 0 0 x = true ∧
      ∃ a, x.since = some a ∧ a + stuck.fab.routeTimeout * cyclesMs ≤ stuck.cue) ∧ isSent stuck 0 0 = true ∧ stuck.alive = true ∧
    (∀ x ∈ live.fab.tx, ownItem live 0 0 x = true → ∀ a, x.since = some a → live.cue < a + live.fab.routeTimeout * cyclesMs) :=
  ⟨⟨_, List.mem_singleton.2 rfl, by decide, ⟨0, rfl, by decide⟩⟩, by decide, by decide, fun _ h => absurd h (List.not_mem_nil)⟩

/-! ### Witnesses: Flint, optimizer, attention, sampling -/

theorem witness_FlintInstructionResults : issues (withCore {}) 0 = true ∧ vlOk { vl := 256, imm := 65536 } = true ∧ 65536 % 4 ≠ 3 ∧ 65536 ≤ 65536 := by
  decide
theorem witness_FlintLoadResults : (coreIn .idle).alive = true ∧ (coreIn .idle).hasTroupe 0 = true ∧ anyRunning (coreIn .idle) 0 = false ∧
    (withCore {}).alive = true ∧ (withCore {}).hasTroupe 0 = true ∧ anyRunning (withCore {}) 0 = true := by decide

/-- Core 0 of a learner with one parameter group of a rule and its verdict. -/
def learning (rule flags : Nat) (r : LrnRegs) : State :=
  { withCore {} with troupes := [(0, { regs := { state := .resident }, lrn := { cfg := { present := true }, groups := [{ rule := rule, flags := flags }], regs := r } })] }
/-- The conditions of one optimizer operation: it is refused without a learner, waits without a verdict, and runs with one, in a group that is
frozen and in one that is not, and with a verdict to skip. -/
def optCovers (o : OptOp) (rule : Nat) : Bool :=
  let w : VecWord := {}
  let v : LrnRegs := { vValid := true }
  issues (learning rule 0 v) 0 && optRefusal (withCore {}) 0 o w != 0 && issues (withCore {}) 0 && optBlocked (learning rule 0 {}) 0 o w &&
    optRefusal (learning rule 0 v) 0 o w == 0 && !optBlocked (learning rule 0 v) 0 o w && !v.vSkip && !GroupParam.frozen (nth {} ((learning rule 0 v).lrn 0).groups 0) &&
    optRefusal (learning rule 1 v) 0 o w == 0 && !optBlocked (learning rule 1 v) 0 o w && GroupParam.frozen (nth {} ((learning rule 1 v).lrn 0).groups 0) &&
    optRefusal (learning rule 0 { v with vSkip := true }) 0 o w == 0 && !optBlocked (learning rule 0 { v with vSkip := true }) 0 o w
theorem witness_OptimizerInstructionResults : optCovers .sgdm 0 = true ∧ optCovers .adam 1 = true ∧ optCovers .lion 2 = true ∧ optCovers .omom 3 = true ∧
    optCovers .oorth 3 = true ∧ ((withCore {}).core 0).regs.fault = false := by decide

/-- A sequence in DECODE with one block. -/
def sequence : GSlot := { st := .decode, hdr := {}, record := { reqId := 1 }, pol := [(0, 0)] }
/-- Core 0 of a generator with one slot in use; its tag 1 is BF16 and its store holds a NaN at 0x100. Page 0 is mapped. -/
def generating (x : GSlot) : State :=
  { withCore { tags := [(1, 1)], store := [(0x102, 0xC0), (0x103, 0x7F)] } with
    record := recordK640 1
    mem := { bytes := [(2, 0x20), (7, 0xE0)] }
    troupes := [(0, { regs := { state := .resident }, gen := { cfg := { present := true }, slots := [(0, x)], rowsP := [(0, [0])] } })] }
/-- ASTEP and KVPUT words for it. -/
def attnWord : AttnWord := { tq := 1, td := 1 }

/-- The same whose page 0 holds BF16 keys and values of its one head. -/
def paged : State :=
  { generating sequence with mem := { bytes := [(2, 0x20), (7, 0xE0), (0x200000, 1), (0x200008, 1), (0x200017, 1)] } }

theorem witness_AttentionInstructionResults : issues (generating sequence) 0 = true ∧ attnWord.fin = false ∧
    attnBase ((generating sequence).core 0) attnWord 0 + 1 * 64 * 4 + 8 * 1 ≤ storeBytes ∧
    attnBase ((generating sequence).core 0) attnWord 0 + outBytes attnWord 1 64 ≤ storeBytes ∧ tagInvalid 1 = false ∧ tagInvalid 0xFF = true ∧
    astepRefusal 0 attnWord (issueState 0 false (generating sequence)) = none ∧ attnSlot (generating sequence) 0 0 = some sequence ∧
    (astepPages (issueState 0 false (generating sequence)) 0 (attnSel ((generating sequence).core 0) 0) sequence attnWord).any
      (fun g => pageRefused (((generating sequence).gen 0).cfg.model 0) 0 g.2.2) = true ∧ sequence.kvStop = false ∧
    issues paged 0 = true ∧ astepRefusal 0 attnWord (issueState 0 false paged) = none ∧
    (astepPages (issueState 0 false paged) 0 (attnSel (paged.core 0) 0) sequence attnWord).any
      (fun g => pageRefused ((paged.gen 0).cfg.model 0) 0 g.2.2) = false ∧
    kvputRefusal 0 attnWord (issueState 0 false (generating sequence)) = none ∧
    issues (withCore {}) 0 = true ∧ kvputRefusal 0 attnWord (issueState 0 false (withCore {})) = some rfAttnSlot ∧
    (astepRefusal 0 attnWord (issueState 0 false (withCore {}))).isSome = true ∧ ((withCore {}).core 0).regs.fault = false := by decide
/-- A sequence that drafts two tokens a step. -/
def drafting : GSlot := { sequence with record := { reqId := 1, n := 8, flags := 8, specD := 2 } }
theorem witness_SamplingResults : issues (generating sequence) 0 = true ∧ isGen (generating sequence) 0 = true ∧ vlOk {} = true ∧
    ((generating sequence).gen 0).cfg.slotBase ≤ 0 ∧ 0 < ((generating sequence).gen 0).cfg.slotBase + ((generating sequence).gen 0).cfg.slotCount ∧
    mapFind ((generating sequence).gen 0).slots 0 = some sequence ∧ 0x100 + 4 * 1 ≤ storeBytes ∧
    rowBad (tempered sequence.record (rowAt ((generating sequence).core 0) 0x100 1)) = true ∧
    rowBad (tempered sequence.record (rowAt ((generating sequence).core 0) 0 1)) = false ∧ sequence.nf = false ∧ sequence.drawn = [] ∧
    isGen (withCore {}) 0 = false ∧ issues (withCore {}) 0 = true ∧ ((withCore {}).core 0).regs.fault = false := by decide
theorem witness_SamplingResults_drafts : drafting.props.length < draftCount drafting ∧ drafting.nf = false ∧
    rowBad (tempered drafting.record (rowAt ((generating drafting).core 0) 0x100 1)) = true ∧
    rowBad (tempered drafting.record (rowAt ((generating drafting).core 0) 0 1)) = false ∧ draftCount { drafting with props := [3, 4] } ≤ 2 ∧
    { sequence with drawn := [(3, 0)] }.drawn ≠ [] ∧ { sequence with nf := true }.nf = true ∧
    mapFind ((generating drafting).gen 0).slots 0 = some drafting ∧ issues (generating drafting) 0 = true ∧
    (2 < ((generating sequence).gen 0).cfg.slotBase + ((generating sequence).gen 0).cfg.slotCount → mapFind ((generating sequence).gen 0).slots 2 = none) := by
  decide

/-! ### Witnesses: generation -/

/-- A host command of troupe 0. -/
def toTroupe : CmdHdr := { troupe := 0 }
/-- A generator with a running sequence, a queued request and a READY version of epoch 3. -/
def serving : State :=
  { generating sequence with
    troupes := [(0, { regs := { state := .resident }
                      gen := { cfg := { present := true }, slots := [(0, sequence)], queue := [{ hdr := {}, record := { reqId := 9 } }]
                               vs := [(1, { st := .ready, epoch := 3 })] } })] }
/-- The 128 bytes of a request with one prompt and one output token. -/
def request (id deadline : Nat) : List Byte := reqBytes { reqId := id, deadline := deadline, stop := [] }
/-- The generator whose step in progress serves its sequence. -/
def uncommitted (cancelled : Bool) : State :=
  { serving with
    troupes := [(0, { regs := { state := .resident }
                      gen := { cfg := { present := true }, slots := [(0, { sequence with inStep := true, cancelled := cancelled })]
                               step := some { vslot := 0, epoch := 0, slots := [0] } } })] }
theorem witness_GenerationCommandResults : accepted (generating sequence) toTroupe opGenSubmit = true ∧ isGen (withCore {}) 0 = false ∧
    accepted (withCore {}) toTroupe opGenSubmit = true ∧ reqOk (generating sequence) 0 (reqOfBytes (request 1 0)) = false ∧
    isGen (generating sequence) 0 = true ∧ reqOk (generating sequence) 0 (reqOfBytes (request 2 0)) = true ∧
    (decideReq (generating sequence) 0 (reqOfBytes (request 2 0)) none).1 = .hold ∧
    ((generating sequence).gen 0).queue.length < ((generating sequence).gen 0).cfg.queueDepth ∧
    accepted { generating sequence with cue := 100 } toTroupe opGenSubmit = true ∧
    reqOk { generating sequence with cue := 100 } 0 (reqOfBytes (request 2 5)) = true ∧
    (match (decideReq { generating sequence with cue := 100 } 0 (reqOfBytes (request 2 5)) none).1 with | .refuse _ => true | _ => false) = true ∧
    accepted serving toTroupe opGenCancel = true ∧ isGen serving 0 = true ∧ cancelWaits (serving.gen 0) 9 = false ∧
    ((serving.gen 0).queue.find? (fun x => x.record.reqId == 9)).isSome = true ∧ cancelWaits (serving.gen 0) 1 = false ∧
    ((serving.gen 0).slots.find? (fun e => e.2.client.isNone && e.2.record.reqId == 1 && e.2.running && !e.2.cancelled)).isSome = true ∧
    (serving.gen 0).queue.find? (fun x => x.record.reqId == 1) = none ∧
    cancelWaits ((uncommitted false).gen 0) 1 = true ∧ isGen (uncommitted false) 0 = true ∧ accepted (uncommitted false) toTroupe opGenCancel = true ∧
    (serving.gen 0).slots.find? (fun e => e.2.client.isNone && e.2.record.reqId == 7 && e.2.running && !e.2.cancelled) = none ∧
    accepted serving toTroupe opGenCurtain = true ∧ (readySlots (serving.gen 0)).any (fun x => x.2 == 3) = true ∧
    (readySlots (serving.gen 0)).any (fun x => x.2 == 4) = false ∧ serving.hasTroupe 0 = true ∧ serving.hasTroupe 1 = false := by decide
/-- A queue as deep as its troupe allows. -/
def fullQueue : State :=
  { serving with
    troupes := [(0, { regs := { state := .resident }
                      gen := { cfg := { present := true, queueDepth := 1 }, queue := [{ hdr := {}, record := { reqId := 9 } }] } })] }
theorem witness_GenerationCommandResults_full : accepted fullQueue toTroupe opGenSubmit = true ∧ isGen fullQueue 0 = true ∧
    reqOk fullQueue 0 (reqOfBytes (request 2 0)) = true ∧ (fullQueue.gen 0).cfg.queueDepth ≤ (fullQueue.gen 0).queue.length ∧
    (match (decideReq fullQueue 0 (reqOfBytes (request 2 0)) none).1 with | .refuse _ => true | _ => false) = false := by decide

/-- A generator with a step of slot 0 in progress. -/
def stepping (committed sampled : Bool) : State :=
  { generating sequence with
    troupes := [(0, { regs := { state := .resident }
                      gen := { cfg := { present := true }, slots := [(0, { sequence with drawn := (if sampled then [(5, 0)] else []) })]
                               step := some { vslot := 0, epoch := 0, slots := [0], committed := committed } } })] }
/-- A sequence that waits for its prefill, and the same beside its prefill troupe 1, which ships. -/
def awaiting : GSlot := { sequence with st := .await }
def shipping : State :=
  { generating awaiting with
    troupes := [(0, { regs := { state := .resident }, gen := { cfg := { present := true, partner := .prefill 0 1 }, slots := [(0, awaiting)] } }),
                (1, { regs := { state := .resident }
                      gen := { cfg := { present := true }, slots := [(2, { sequence with st := .ship, client := some (0, 0, 0) })] } })] }
/-- A sequence that ships to module slot 3. -/
def shippedAway : GSlot := { sequence with st := .ship, client := some (3, 0, 0) }
theorem witness_GenerationStepResults : (generating sequence).alive = true ∧ isGen (generating sequence) 0 = true ∧ atBoundary (generating sequence) 0 = true ∧
    genIdle (generating sequence) 0 = false ∧
    isGen (coreIn .idle) 0 = false ∧ atBoundary (stepping true true) 0 = true ∧ genIdle (generating { sequence with st := .ending }) 0 = true ∧
    atBoundary (generating { sequence with st := .ending }) 0 = true ∧ atBoundary (stepping false true) 0 = false ∧
    ((stepping false true).gen 0).step = some { vslot := 0, epoch := 0, slots := [0], committed := false } ∧
    [0].all (sampledSlot ((stepping false true).gen 0)) = true ∧ [0].all (sampledSlot ((stepping false false).gen 0)) = false ∧
    ((stepping true true).gen 0).step = some { vslot := 0, epoch := 0, slots := [0], committed := true } ∧ ((generating sequence).gen 0).step = none ∧
    mapFind ((generating awaiting).gen 0).slots 0 = some awaiting ∧ awaiting.st = .await ∧ prefillHere (generating awaiting) 0 = none ∧
    prefillHere shipping 0 = some 1 ∧ clientSlot shipping 1 (shipping.thl.ens.mySlot, 0, 0) = some (2, { sequence with st := .ship, client := some (0, 0, 0) }) ∧
    mapFind ((generating shippedAway).gen 0).slots 0 = some shippedAway ∧ shipsAway (generating shippedAway) shippedAway = true ∧
    sequence.st ≠ .ship ∧ sequence.st ≠ .await ∧
    ({} : ShipData).blocks = [] ∧ ({} : ShipData).ended = none ∧ isExp ((generating awaiting).gen 0).cfg awaiting.record = false ∧ awaiting.toks = [] := by decide

/-! ### Witnesses: learning -/

/-- A troupe 0 that is a learner with one group and a tree of one rank. -/
def learnerWith (l : Lrn) : State :=
  { live with
    lmid := 1
    record := recordK640 1
    prm := [(0, { kind := 1 })]
    fab := { groups := [(0, { group := 0, timeout := 1, gchk := 0, members := [(1, 0)] })]
             trees := [(0, { tree := 0, group := 0, n := 1, root := 0, tchk := 0, entries := [] })] }
    troupes := [(0, { regs := { state := .resident }, lrn := { l with cfg := { l.cfg with present := true }, groups := [{}] } })] }

/-- The same under the verdict tree's root 1, which another module holds. -/
def underRoot : State :=
  { learnerWith {} with
    fab := { groups := [(0, { group := 0, timeout := 1, gchk := 0, members := [(1, 0), (2, 0)] })]
             trees := [(0, { tree := 0, group := 0, n := 2, root := 1, tchk := 0, entries := [] })] } }
/-- The same whose shard record 0 has a reserved bit set; page 0 is mapped. -/
def badShard : State := { learnerWith {} with mem := { bytes := [(2, 0x20), (7, 0xE0), (0x200029, 1)] } }
theorem witness_LearnerCommandResults : accepted (learnerWith {}) toTroupe opLrnBind = true ∧ isLearner (learnerWith {}) 0 = true ∧
    judgeBind ((learnerWith {}).lrn 0) {} = stOk ∧ judgeBind ((learnerWith {}).lrn 0) { elems := 0 } ≠ stOk ∧
    (shardAt (learnerWith {}) 0 0).rsv = 0 ∧ accepted badShard toTroupe opLrnBind = true ∧ isLearner badShard 0 = true ∧
    judgeBind (badShard.lrn 0) {} = stOk ∧ (shardAt badShard 0 0).rsv ≠ 0 ∧ accepted (coreIn .idle) toTroupe opLrnBind = true ∧ isLearner (coreIn .idle) 0 = false ∧
    accepted (learnerWith {}) toTroupe opLrnSkip = true ∧ jobLearner (learnerWith {}) toTroupe 9 = 0 ∧
    verdictTree (learnerWith {}) 0 = some ({ tree := 0, group := 0, n := 1, root := 0, tchk := 0, entries := [] },
      { group := 0, timeout := 1, gchk := 0, members := [(1, 0)] }, 0) ∧
    rootCommitted ((learnerWith {}).lrn 0) 0 = false ∧ isLearner (learnerWith { regs := { step := 1 } }) 0 = true ∧
    rootCommitted ((learnerWith { regs := { step := 1 } }).lrn 0) 0 = true ∧ isLearner underRoot 0 = true ∧ jobLearner underRoot toTroupe 9 = 0 ∧
    verdictTree underRoot 0 = some ({ tree := 0, group := 0, n := 2, root := 1, tchk := 0, entries := [] },
      { group := 0, timeout := 1, gchk := 0, members := [(1, 0), (2, 0)] }, 0) ∧
    accepted (learnerWith {}) toTroupe opOptGset = true ∧
    judgeGset (learnerWith {}) 0 0 0 {} = stOk ∧ judgeGset (learnerWith { regs := { step := 1 } }) 0 0 0 {} = stGsetLate ∧
    judgeGset (learnerWith {}) 0 1 0 {} = stGroupInvalid ∧ stGroupInvalid ≠ stOk ∧ stGroupInvalid ≠ stGsetLate ∧
    mayLearn (learnerWith {}) 0 = true ∧ mayLearn (coreIn .idle) 0 = false := by decide

/-- A learner whose contribution of step 3 was posted at count 0. -/
def posted (cue : Nat) : State := { learnerWith { posted := some (3, 0) } with cue := cue }
/-- The same with a node of a collective whose child has not come. -/
def gathering : State :=
  { learnerWith {} with
    cue := cyclesUs + 1
    fab := { (learnerWith {}).fab with colls := [((0, 0, 7), { posted := true, flags := 4, tFirst := some 0 })] } }
theorem witness_VerdictResults : (learnerWith {}).alive = true ∧ isLearner (learnerWith {}) 0 = true ∧ ((learnerWith {}).lrn 0).posted = none ∧
    isLearner live 0 = false ∧ isLearner (posted 0) 0 = true ∧ ((posted 0).lrn 0).posted ≠ none ∧ dueVerdict (posted 0) 0 { step := 3 } = some { step := 3 } ∧
    dueVerdict (learnerWith {}) 0 { step := 3 } = none ∧ ((posted 0).lrn 0).posted = some (3, 0) ∧ ((posted 0).lrn 0).lateSent = false ∧
    0 + ((posted 850000).lrn 0).cfg.verdictTimeout * cyclesMs ≤ (posted 850000).cue ∧
    (posted 849999).cue < 0 + ((posted 849999).lrn 0).cfg.verdictTimeout * cyclesMs ∧
    (collNode gathering (0, 0, 7)).posted = true ∧ (collNode gathering (0, 0, 7)).done = false ∧
    flAbsent (collNode gathering (0, 0, 7)).flags = true ∧ timeOver gathering 0 (collNode gathering (0, 0, 7)) = true ∧
    timeOver { gathering with cue := cyclesUs } 0 (collNode gathering (0, 0, 7)) = false ∧ (collNode live (0, 0, 7)).posted = false := by decide
theorem witness_CounterClears : (learnerWith {}).alive = true ∧ (learnerWith {}).hasTroupe 0 = true ∧ (learnerWith {}).hasTroupe 63 = false ∧
    stackEnabled (learnerWith {}) 19 = true ∧ stackEnabled (learnerWith {}) 20 = false ∧ portEnabled (learnerWith {}) 17 = true ∧
    portEnabled (learnerWith {}) 18 = false := by decide

/-- A learner with a NEAR range whose Whetstone command of step 3 is due, for a group that is frozen or not, and a fly-in. -/
def near (frozen : Bool) (flying : Option Nat) (cmds : Nat) : State :=
  { live with
    troupes := [(0, { regs := { state := .resident }
                      lrn := { cfg := { present := true, plan := [{ record := 0 }] }, binds := [{}], groups := [{}],
                               near := [{ record := 0, stack := 2, cmds := List.replicate cmds { step := 3, frozen := frozen } }], flying := flying } })] }
/-- The same behind a range of its stack whose command of step 2 is still to be served. -/
def nearBehind : State :=
  { live with
    troupes := [(0, { regs := { state := .resident }
                      lrn := { cfg := { present := true }, binds := [{}], groups := [{}]
                               near := [{ record := 0, stack := 2, cmds := [{ step := 3 }] }, { record := 0, stack := 2, cmds := [{ step := 2 }] }] } })] }
theorem witness_WhetstoneResults : (near false none 1).alive = true ∧
    ((near false none 1).lrn 0).near[0]? = some { record := 0, stack := 2, cmds := [{ step := 3 }] } ∧
    whetEarlier ((near false none 1).lrn 0) 0 2 { step := 3 } = false ∧ ((near false none 1).lrn 0).flying = none ∧
    ((near true none 1).lrn 0).near[0]? = some { record := 0, stack := 2, cmds := [{ step := 3, frozen := true }] } ∧
    whetEarlier ((near true none 1).lrn 0) 0 2 { step := 3, frozen := true } = false ∧
    ((near false (some 5) 1).lrn 0).flying.isSome = true ∧ ((near false (some 5) 1).lrn 0).cfg.plan.any (fun e => e.record == 0) = true ∧
    whetEarlier ((near false (some 5) 1).lrn 0) 0 2 { step := 3 } = false ∧ ((near false none 1).lrn 0).near[1]? = none ∧
    ((near false none 0).lrn 0).near[0]? = some { record := 0, stack := 2, cmds := [] } ∧ whetEarlier (nearBehind.lrn 0) 0 2 { step := 3 } = true ∧
    (nearBehind.lrn 0).near[0]? = some { record := 0, stack := 2, cmds := [{ step := 3 }] } := by decide

/-- A generator with version slots and waiting fly-ins. -/
def flying (vs : Map VSlot) (waits : List Nat) (alt : Bool) (role : Nat) : State :=
  { live with troupes := [(0, { regs := { state := .resident, role := role },
                                gen := { cfg := { present := true }, vs := vs, flyWaits := waits, vr := { alt := alt } } })] }
/-- The same with a piece of epoch 4 from troupe 6 of this module waiting. -/
def arriving (vs : Map VSlot) : State :=
  { flying vs [] false 1 with
    troupes := [(0, { regs := { state := .resident }, gen := { cfg := { present := true }, vs := vs, inbound := [{ src := 6, epoch := 4, nf := false, fields := [] }] } })] }
/-- Version slots none of which is FREE. -/
def noFree : Map VSlot := [(0, { st := .live, epoch := 1 }), (1, { st := .held, epoch := 2 }), (2, { st := .held, epoch := 3 })]
theorem witness_FlyInResults : accepted (learnerWith {}) toTroupe opFlyNow = true ∧ isLearner (learnerWith {}) 0 = true ∧ isLearner live 0 = false ∧
    accepted live toTroupe opFlyNow = true ∧
    flyReady { learnerWith { armed := true } with sems := [(0, 1)] } 0 = true ∧ flyReady (learnerWith { armed := true, flyForce := true }) 0 = true ∧
    flyReady (learnerWith { armed := true }) 0 = false ∧ ((learnerWith { flying := some 4 }).lrn 0).flying = some 4 ∧
    flyWaiting (learnerWith { flying := some 4 }) 0 4 = false ∧ ((learnerWith {}).lrn 0).flying = none ∧
    ((flying [(1, { st := .filling, epoch := 4 })] [] false 1).gen 0).cfg.present = true ∧
    ((flying [(1, { st := .filling, epoch := 4 })] [] false 1).gen 0).flyWaits.contains 4 = false ∧
    fillingSlot ((flying [(1, { st := .filling, epoch := 4 })] [] false 1).gen 0) 4 = some 1 ∧
    fillingSlot ((flying noFree [] false 1).gen 0) 4 = none ∧ epochOld ((flying noFree [] false 1).gen 0) 4 = false ∧
    epochOld ((flying noFree [] false 1).gen 0) 3 = true ∧ fillingSlot ((flying noFree [] false 1).gen 0) 3 = none ∧
    freeVslot ((flying noFree [] false 1).gen 0) = none ∧ freeVslot ((flying [(0, { st := .live, epoch := 1 })] [] false 1).gen 0) = some 1 ∧
    ((flying [(0, { st := .live, epoch := 1 })] [4] false 1).gen 0).flyWaits = 4 :: [] ∧
    freeVslot ((flying [(0, { st := .live, epoch := 1 })] [4] false 1).gen 0) = some 1 ∧
    epochOld ((flying [(0, { st := .live, epoch := 1 })] [4] false 1).gen 0) 4 = false ∧
    epochOld ((flying [(0, { st := .live, epoch := 5 })] [4] false 1).gen 0) 4 = true ∧ (live.gen 0).cfg.present = false ∧
    accepted (flying [] [] true 1) toTroupe opRoleSwitch = true ∧ ((flying [] [] true 1).gen 0).vr.alt = true ∧
    ((flying [] [] true 1).gen 0).alt.flying = false ∧ ((flying [] [] true 1).troupe 0).regs.role = 1 ∧
    ((flying [] [] true 2).troupe 0).regs.role ≠ 1 ∧ ((flying [] [] false 1).gen 0).vr.alt = false := by decide
/-- A fly-in whose destination is a troupe of this module where the epoch waits. -/
def flyingHere : State :=
  { live with
    troupes := [(0, { regs := { state := .resident }, lrn := { cfg := { present := true, plan := [{ dstModule := 0, dstTroupe := 1 }] }, flying := some 4 } }),
                (1, { regs := { state := .resident }, gen := { cfg := { present := true }, inbound := [{ src := 0, epoch := 4, nf := false, fields := [] }] } })] }
theorem witness_FlyInResults_here : (arriving []).alive = true ∧ ((arriving []).gen 0).cfg.present = true ∧ ((arriving []).gen 0).flyWaits.contains 4 = false ∧
    ((arriving []).gen 0).inbound.find? (fun x => x.epoch == 4) = some { src := 6, epoch := 4, nf := false, fields := [] } ∧
    (takePiece 0 4 (.troupe 6) false [] (arriving [])).2 = true ∧ (takePiece 0 4 (.troupe 6) false [] (arriving noFree)).2 = false ∧
    ((arriving []).gen 0).inbound.find? (fun x => x.epoch == 5) = none ∧ flyingHere.alive = true ∧ (flyingHere.lrn 0).flying = some 4 ∧
    flyWaiting flyingHere 0 4 = true := by decide

/-- A generator with an experience ring. -/
def ringing (held : List Notice) : State :=
  { live with
    thl := { atModule := held }
    troupes := [(0, { regs := { state := .resident }, gen := { cfg := { present := true, ring := { present := true } } } })] }
theorem witness_ExperienceRingResults : (ringing []).alive = true ∧ hasRing (ringing []) 0 = true ∧ noticeHolds (ringing []) 0 = false ∧
    hasRing (ringing [{ eq := 0, key := none, msg := { code := 1, slot := 0, troupe := 0, t := 0, count := 0, data := [] } }]) 0 = true ∧
    noticeHolds (ringing [{ eq := 0, key := none, msg := { code := 1, slot := 0, troupe := 0, t := 0, count := 0, data := [] } }]) 0 = true ∧
    hasRing live 0 = false ∧ live.alive = true ∧ accepted (ringing []) toTroupe opExpSeal = true ∧ accepted live toTroupe opExpSeal = true := by
  decide

/-! ### Witnesses: memory and weights -/

theorem witness_ZeroingLeavesMemoryZero : live.alive = true ∧ live.mem.zeroed = false ∧ { live with mem := { zeroed := true } }.alive = true ∧
    { live with mem := { zeroed := true } }.mem.zeroed = true := by decide

/-- A shard without data, whose recorded digest is off by `d`. -/
def emptyShard (d : Nat) : Shard := { digest := shardDigest [] + d, dst := 0, bytes := 0, tCheck := 0, troupe := 0, dpitchU := 0, loadId := 0 }
/-- A module with it at entry 0. -/
def sharded (d : Nat) : State := { learnerWith {} with wt := { shards := [(0, emptyShard d)] } }
theorem witness_PatrolResults : (sharded 0).alive = true ∧ 0x77FFFFFFFF < 0x7800000000 ∧ stackEnabled (sharded 0) (stackOf (sharded 0) 0x77FFFFFFFF).1 = true ∧
    (2 : Nat) ≤ 2 ∧ stackEnabled live (stackOf live 0).1 = false ∧ mapFind live.wt.shards 0 = none := by decide
theorem witness_PatrolResults_shards : mapFind (sharded 0).wt.shards 0 = some (emptyShard 0) ∧ shardData (sharded 0) (emptyShard 0) = some [] ∧
    shardDigest [] = (emptyShard 0).digest ∧ mapFind (sharded 1).wt.shards 0 = some (emptyShard 1) ∧ shardData (sharded 1) (emptyShard 1) = some [] ∧
    shardDigest [] ≠ (emptyShard 1).digest :=
  ⟨rfl, rfl, rfl, rfl, rfl, Nat.ne_of_lt (Nat.lt_succ_self _)⟩

/-- A module whose unit at `u` has a stored error. -/
def weakAt (u : Nat) (bad : Bool) : State := { sharded 0 with mem := { weak := [(u, bad)] } }
theorem witness_PatrolResults_found : (weakAt 0 false).alive = true ∧ patrolFinds (sharded 0) 0x40 0 = 0 ∧ patrolFinds (weakAt 0x40 false) 0x7F 0 = 1 ∧
    2 ≤ patrolFinds (weakAt 0x40 true) 0x40 1 ∧ stackEnabled (weakAt 0x40 true) (stackOf (weakAt 0x40 true) 0x40).1 = true ∧
    readsUnit [(.mem 0, 64)] 0x40 = false ∧ readsUnit [(.mem 0x7F, 1)] 0x40 = true := by decide
theorem witness_PatrolResults_write : mapFind (weakAt 0x40 false).mem.weak 0x40 = some false ∧ (∀ e ∈ (weakAt 0x40 false).mem.weak, e.1 = 0x40 → e.2 = false) ∧
    0x40 ≤ 0x40 ∧ 0x40 + 64 ≤ 0x40 + (List.replicate 64 (0 : Byte)).length ∧ 0x7F < 0x40 + 64 ∧ 0x40 < 0x7F + [(0 : Byte)].length ∧ 0x40 + 64 ≤ 0x80 := by decide
/-- A read of one byte of a unit finds its uncorrectable error: the unit is poisoned and counted. -/
theorem test_read_finds_error :
    let t := findErrors [(.mem 0x7F, 1)] (weakAt 0x40 true)
    t.mem.poison = [0x40] ∧ t.mem.weak = [] ∧ (t.stack 0).ueCnt = 1 ∧ (t.stack 0).eccAddr = 0x40 := by decide

/-- A load of 64 raw bytes into mapped memory of troupe 0. -/
def load64 : LoadRecord := { srcLen := 64, dst := 0, troupe := 0 }
/-- A module that holds loads, and whose troupe 0 has a version slot that loads fill. -/
def loading (r : LoadRecord) (running : Bool) (n : Nat) : State :=
  { posting [] .posted with
    wt := { loads := (List.replicate n { hdr := {}, record := r, running := running }) }
    troupes := [(0, { regs := { state := .resident }, gen := { cfg := { present := true }, vs := [(1, { st := .filling, byLoads := true })] } })] }
/-- A load of a stream that is no stream of R259. -/
def badLoad : LoadRecord := { srcLen := 1, troupe := 0, mode := 2 }
/-- A load that claims version slot 1, and one whose destination nothing maps. -/
def claiming : LoadRecord := { load64 with vslot := 1, epoch := 1 }
def unmapped : LoadRecord := { load64 with dst := 2 ^ 39 }
theorem witness_WeightCommandResults : accepted (loading load64 false 0) {} opWtLoad = true ∧ loadFieldsOk load64 = true ∧
    loadFieldsOk { load64 with troupe := 64 } = false ∧ (loading load64 false 63).wt.loads.length < 64 ∧
    64 ≤ (loading load64 false 64).wt.loads.length ∧
    (loading load64 false 1).wt.loads = { hdr := {}, record := load64 } :: [] ∧ (loading load64 false 0).wt.loads = [] ∧
    judgeTurn (loading load64 false 1) { hdr := {}, record := load64 } = 0 ∧ (judgeVslot (loading load64 false 1) load64).2 = false ∧
    judgeTurn (loading claiming false 1) { hdr := {}, record := claiming } = 0 ∧ (judgeVslot (loading claiming false 1) claiming).2 = true ∧
    judgeTurn (loading { load64 with troupe := 5 } false 1) { hdr := {}, record := { load64 with troupe := 5 } } ≠ 0 ∧
    (loading load64 true 1).wt.loads = { hdr := {}, record := load64, running := true } :: [] ∧
    srcAgrees { hdr := {}, record := load64, running := true } (List.replicate 64 0) = true ∧
    srcAgrees { hdr := {}, record := load64, running := true } [] = false ∧
    (storePieces load64 [(0, List.replicate 64 0)] ((loading load64 true 1).modTroupe 0 (fun (x : Troupe) =>
      { x with regs.acct.thl := (x.regs.acct.thl + 64) % 2 ^ 64 }))).2 = false ∧
    (storePieces unmapped [(0, List.replicate 64 0)] ((loading unmapped true 1).modTroupe 0 (fun (x : Troupe) =>
      { x with regs.acct.thl := (x.regs.acct.thl + 64) % 2 ^ 64 }))).2 = true ∧
    accepted (loading load64 false 0) toTroupe opWtReady = true ∧ judgeReady (loading load64 false 0) 0 0 = 0 ∧
    judgeReady (loading load64 false 0) 0 2 = 0 ∧ judgeReady (loading load64 false 1) 0 0 ≠ 0 ∧
    accepted (loading load64 false 0) toTroupe opWtRelease = true ∧
    judgeRelease (loading load64 false 0) 0 2 = 0 ∧ judgeRelease (loading load64 false 0) 0 0 ≠ 0 ∧
    mapFind (loading load64 false 0).wt.shards 0 = none ∧ accepted (loading load64 false 0) toTroupe opWtTable = true ∧
    accepted (sharded 0) toTroupe opWtRelease = true := by decide

theorem witness_WeightCommandResults_pieces : loadPieces load64 (List.replicate 64 0) = .ok [(0, List.replicate 64 0)] ∧
    loadPieces unmapped (List.replicate 64 0) = .ok [(0, List.replicate 64 0)] ∧
    (∃ e, loadPieces badLoad [0] = .error e) ∧ mapFind (sharded 0).wt.shards 0 = some (emptyShard 0) := ⟨rfl, rfl, ⟨_, rfl⟩, rfl⟩

/-! ### Witnesses: ports and the fabric -/

/-- A module whose port 3 is in a state. -/
def port (x : Port) : State := { live with record := recordK640 1, cue := 2000 * cyclesMs, fab := { ports := [(3, x)] } }
/-- The same with port 17, a long-reach port. -/
def longPort (x : Port) : State :=
  { live with record := recordK640 1, cue := 1000 * cyclesMs, fab := { ports := [(17, { x with cfg := { x.cfg with role := 3 } })] } }
/-- A data flit in its place, and one that was sent. -/
def flit : RxFlit := { seqNo := 0, ltag := 5, dest := 1 }
def sentFlit : SentFlit := { seqNo := 4, last := true, keysel := 0, ltag := 5, dest := 1, troupe := 0, segs := [], payload := [] }

/-- The plug-in at port 3 draws more than it may. -/
def darkPort (x : Port) : State := { port x with hw.plugs := [(3, 21)] }
theorem witness_PortTrainingResults : (port { st := .detect }).alive = true ∧ portUsed (port { st := .detect }) 3 = true ∧
    ((port { st := .detect }).port 3).st = .detect ∧ plugDark (port { st := .detect }) 3 = false ∧
    portUsed (darkPort { st := .detect }) 3 = true ∧ plugDark (darkPort { st := .detect }) 3 = true ∧
    ((port { st := .equalize }).port 3).st = .equalize ∧ plugDark (port { st := .equalize }) 3 = false ∧ 15 % 16 ≠ 0 ∧ 16 % 16 = 0 ∧
    ((port { st := .map, quarters := 1 }).port 3).st = .map ∧
    (List.range 4).foldl (fun n i => if bitOf 2 i then setBitTo n i false else n) 1 ≠ 0 ∧
    (List.range 4).foldl (fun n i => if bitOf 1 i then setBitTo n i false else n) 1 = 0 ∧
    ((port { st := .ident, quarters := 15 }).port 3).st = .ident ∧ (port { st := .ident, quarters := 15 }).boot = .ready ∧
    miswired (port { st := .ident, quarters := 15 }) ((port { st := .ident, quarters := 15 }).port 3) 0 0 2 = false ∧
    miswired (port { st := .ident, quarters := 15 }) ((port { st := .ident, quarters := 15 }).port 3) 0 0 1 = true ∧
    minLanes 0 ≤ widthOf 15 ∧ widthOf 3 < minLanes 2 ∧ ((port { st := .held }).port 3).st = .held ∧ ((port { st := .held }).port 3).fenced = false ∧
    ((port { st := .held, fenced := true }).port 3).fenced = true ∧
    ((port { st := .held }).port 3).tryAt + 2000 * cyclesMs ≤ (port { st := .held }).cue ∧
    (port { st := .held, tryAt := 1 }).cue < ((port { st := .held, tryAt := 1 }).port 3).tryAt + 2000 * cyclesMs ∧
    ((port { st := .up }).port 3).st = .up ∧ portUsed (port { st := .up }) 3 = true ∧
    ((port { st := .refused }).port 3).st = .refused ∧ portUsed (port { st := .refused }) 3 = true ∧
    ((port { st := .held, sent := [sentFlit] }).port 3).sent ≠ [] ∧ ((port { st := .held }).port 3).sent = [] ∧
    ((port { st := .held }).port 3).downAt + 250 * cyclesMs < (port { st := .held }).cue ∧
    (port { st := .held, downAt := 1750 * cyclesMs }).cue ≤ ((port { st := .held, downAt := 1750 * cyclesMs }).port 3).downAt + 250 * cyclesMs ∧
    portUsed (port { st := .off }) 3 = false ∧ portUsed live 3 = false := by decide

/-- A long-reach port with a key for tag 5 and one frame of it at the head of its landing; the exchange of markers gave 10. -/
def framed (fails : Nat) : State := longPort { st := .up, inord := [flit], keys := [(10, 7)], authFails := [(5, fails)], delays := [10] }
theorem witness_FabricLinkResults : (port { st := .up }).alive = true ∧ ((port { st := .up }).port 3).st = .up ∧ { flit with crcOk := false }.crcOk = false ∧
    flit.crcOk = true ∧ flit.kind = 0 ∧ seqBefore flit.seqNo ((port { st := .up, rxSeq := 1 }).port 3).rxSeq = true ∧
    ((port { st := .up, landing := [{ flit with seqNo := 2 }] }).port 3).landing.any (fun g => g.seqNo == 2) = true ∧
    seqBefore flit.seqNo ((port { st := .up }).port 3).rxSeq = false ∧
    ((port { st := .up }).port 3).landing.any (fun g => g.seqNo == flit.seqNo) = false ∧ flit.seqNo = ((port { st := .up }).port 3).rxSeq ∧
    { flit with seqNo := 2 }.seqNo ≠ ((port { st := .up }).port 3).rxSeq ∧
    { flit with kind := 2, control := some (5, true) }.kind = 2 ∧ { flit with kind := 3 }.kind = 3 ∧ { flit with kind := 5 }.kind = 5 ∧
    ((port { st := .up, sent := [sentFlit] }).port 3).sent.find? (fun f => f.seqNo == 4) = some sentFlit ∧
    (((port { st := .up, sent := [sentFlit] }).port 3).replays.filter (fun a => (port { st := .up }).cue < a + cyclesMs)).length < 1000 ∧
    ((port { st := .up, sent := [sentFlit] }).port 3).sent.find? (fun f => f.seqNo == 5) = none ∧ ((port { st := .map }).port 3).st ≠ .up ∧
    lrUp (framed 0) 17 = true ∧ lrUp (port { st := .up }) 3 = false ∧
    ((framed 0).port 17).inord.head? = some flit ∧ flit.ltag = 5 ∧ frameOf 5 ((framed 0).port 17).inord = some (flit :: []) ∧
    (true && (mapFind ((framed 0).port 17).keys (2 * 5 + flit.keysel)).isSome) = true ∧
    (false && (mapFind ((framed 0).port 17).keys (2 * 5 + flit.keysel)).isSome) = false ∧
    mapGet 0 ((framed 0).port 17).authFails 5 + 1 < 3 ∧ 3 ≤ mapGet 0 ((framed 2).port 17).authFails 5 + 1 ∧
    frameOf 6 ((framed 0).port 17).inord = none ∧ (longPort { st := .up }).cueRegs.master = false ∧ (longPort { st := .up }).cueRegs.parent ≠ 17 ∧
    { longPort { st := .up } with cueRegs := { parent := 17 } }.cueRegs.parent = 17 ∧ { longPort { st := .up } with cueRegs := { master := true } }.cueRegs.master = true ∧
    ((framed 0).port 17).delays.isEmpty = false ∧ decide (((framed 0).port 17).resultAt + ((framed 0).port 17).rangeS * 1000 * cyclesMs ≤ (framed 0).cue) = true ∧
    ((framed 0).port 17).refSet = false ∧ (({ framed 0 with fab.ports := [] }).port 17).delays.isEmpty = true ∧
    ((longPort { st := .up, delays := [2 ^ 30], refSet := true, refMm := 0 }).port 17).refSet = true ∧
    ((longPort { st := .up, delays := [2 ^ 30], refSet := true, shifted := true }).port 17).shifted = true ∧
    ((port { st := .up }).port 3).cfg.role ≠ 3 ∧ ((framed 0).port 17).cfg.role = 3 := by decide
theorem witness_FabricLinkResults_shift (ps gidx : Nat) : 100 < (if lenMm ps gidx % 2 ^ 32 < 2 ^ 40 then 2 ^ 40 - lenMm ps gidx % 2 ^ 32
    else lenMm ps gidx % 2 ^ 32 - 2 ^ 40) := by
  have h : lenMm ps gidx % 2 ^ 32 < 2 ^ 32 := Nat.mod_lt _ (by decide)
  split <;> omega

/-! ### Witnesses: the Cue -/

/-- A follower whose parent port 3 is UP. -/
def following (estimated : Bool) (cue : Nat) : State :=
  { port { st := .up } with cue := cue, cueRegs := { parent := 3, lock := true, estimated := estimated } }
theorem witness_CueFollowerResults : (following false 0).alive = true ∧ (following false 0).cueRegs.master = false ∧
    ((following false 0).port (following false 0).cueRegs.parent).st = .up ∧
    ((following false 0).port (following false 0).cueRegs.parent).cfg.role ≠ 3 ∧ withinCycles 2353 2 = false ∧ withinCycles (-588) 1 = true ∧
    63 ≤ { (following false 0).cueRegs with good := 63 }.good ∧ (following false 0).cueRegs.estimated = false ∧
    (following false 0).cueRegs.started = false ∧ (following true 5).cueRegs.estimated = true ∧
    (following true 5).cue < (following true 5).cueRegs.slewed + 1024 ∧ (following true 1024).cueRegs.slewed + 1024 ≤ (following true 1024).cue ∧
    offsetCycles 0 = 0 ∧ offsetCycles (-5000) < 0 ∧ 0 < offsetCycles 5000 ∧
    { following false 0 with cueRegs := { master := true } }.cueRegs.master = true ∧
    (following true cyclesMs).cueRegs.lastX + cyclesMs ≤ (following true cyclesMs).cue ∧ (following true cyclesMs).cueRegs.lock = true ∧
    (following true 849999).cue < (following true 849999).cueRegs.lastX + cyclesMs := by decide

/-- A troupe with barrier 2 on its tree of one rank. -/
def barred (x : BarState) (cue : Nat) : State :=
  { learnerWith {} with
    cue := cue
    fab := { (learnerWith {}).fab with barriers := [{ b := 2, troupe := 0, tree := 0, lead := 100, btimeout := 1 }], nodes := [(2, x)] } }
theorem witness_CueBarrierResults : (barred {} 0).alive = true ∧ ((barred {} 0).bar 0 2).kids.contains 1 = false ∧
    ((barred { kids := [1] } 0).bar 0 2).kids.contains 1 = true ∧
    barrierEnt (barred { sent := true } 0) 0 2 = some { b := 2, troupe := 0, tree := 0, lead := 100, btimeout := 1 } ∧
    (treeAt (barred { sent := true } 0) 0 0).isSome = true ∧ ((barred { sent := true } 0).bar 0 2).sent = true ∧
    ((barred {} 0).bar 0 2).sent = false ∧ barrierEnt live 0 2 = none ∧ treeAt (barred {} 0) 5 0 = none ∧
    ((barred { tRel := some 9 } 9).bar 0 2).tRel = some 9 ∧ cutBarrier (barred { tRel := some 9 } 9) 0 2 = false ∧ 9 ≤ (barred { tRel := some 9 } 9).cue ∧
    (barred { tRel := some 9 } 8).cue < 9 ∧
    cutBarrier { barred { tRel := some 9 } 9 with ckpt := { jobs := [(0, { plan := { job := 9, bar := 2 }, atCut := [0] })] } } 0 2 = true ∧
    ((barred {} 9).bar 0 2).tRel = none ∧ ((barred { arrived := true } cyclesMs).bar 0 2).arrived = true ∧
    ((barred { arrived := true } cyclesMs).bar 0 2).tRel.isNone = true ∧ ((barred { arrived := true } cyclesMs).bar 0 2).stalled = false ∧
    ((barred { arrived := true } cyclesMs).bar 0 2).arrivedAt + 1 * cyclesMs ≤ (barred { arrived := true } cyclesMs).cue ∧
    ((barred {} 0).bar 0 2).arrived = false := by decide

/-! ### Witnesses: troupes -/

/-- A troupe 0 in a state, with a context area; its translation table lies at 0 and is empty. -/
def trooping (st : TrpState) (area : Option CtxImage) : State :=
  { live with
    record := recordK640 1
    troupes := [(0, { regs := { state := st }, cfg := { queues := [(0x40, 4)] }, area := area })] }
/-- A context image that R341 accepts. -/
def image0 : CtxImage := { tenant := 0, role := 0, cores := [], sems := [], queues := [] }
/-- The same with a queue of `n` entries. -/
def pushing (n : Nat) : State :=
  { trooping .resident none with
    troupes := [(0, { regs := { state := .resident }, cfg := { queues := [(0x40, 4)] }, queues := [(0, { count := n })] })] }
/-- A valid, readable and writable entry of physical page 3. -/
def entry3 : Nat := 0xE000000000000000 + 3 * 2 ^ 21
/-- Troupe 0's page 0 is mapped to physical page 3; and a write to it waits for a snapshot. -/
def mapped : State := { trooping .resident none with mem := { bytes := [(2, 0x60), (7, 0xE0)] } }
def mappedBusy : State :=
  { mapped with mem := { mapped.mem with stalled := [{ key := 3, addr := 3 * 2 ^ 21, bytes := [1], owner := .none }] } }

theorem witness_TroupeCommandResults : accepted (trooping .resident none) toTroupe opTrpMap = true ∧ (trooping .resident none).hasTroupe 0 = true ∧
    0 < ((trooping .resident none).troupe 0).cfg.xlatPages ∧ bitsOf entry3 59 48 = 0 ∧ bitsOf entry3 20 0 = 0 ∧
    mapBreaks (trooping .resident none) 0 0 entry3 = false ∧ entryValid (xlatEntry (trooping .resident none) 0 0) = false ∧
    mapBreaks (trooping .resident none) 0 0 0xE000000000000000 = true ∧ bitsOf 0xE000000000000000 59 48 = 0 ∧
    accepted (pushing 3) toTroupe opTrpQpush = true ∧ 0 < ((pushing 3).troupe 0).cfg.queues.length ∧
    nth (0, 1) ((pushing 3).troupe 0).cfg.queues 0 = (0x40, 4) ∧ ((pushing 3).queue 0 0).count < 4 ∧ 4 ≤ ((pushing 4).queue 0 0).count ∧
    accepted (trooping .off (some image0)) toTroupe opTrpCtxPut = true ∧ (trooping .off (some image0)).hasTroupe 0 = true ∧
    ((trooping .off (some image0)).troupe 0).area = some image0 ∧ accepted (trooping .off (some image0)) toTroupe opTrpRestore = true ∧
    stateOf (trooping .off (some image0)) 0 = .off ∧ judgeImage (trooping .off (some image0)) 0 { image0 with magic := 0 } ≠ stOk ∧
    live.hasTroupe 0 = false ∧ accepted live toTroupe opTrpMap = true ∧ entryValid (xlatEntry mapped 0 0) = true ∧
    mapBreaks mapped 0 0 (entry3 + 2 ^ 21) = false ∧
    pageBusy (hubWrite mapped 0 (leBytes 8 (entry3 + 2 ^ 21))) 3 = false ∧
    pageBusy (hubWrite mappedBusy 0 (leBytes 8 (entry3 + 2 ^ 21))) 3 = true ∧ stateOf mapped 0 = .resident ∧ anyRunning mapped 0 = false ∧
    stateOf (trooping .saving none) 0 ≠ .off ∧ (stateOf (trooping .saving none) 0 == .resident && !anyRunning (trooping .saving none) 0) = false := by decide
theorem witness_TroupeCommandResults_image (st : TrpState) : judgeImage (trooping st none) 0 { image0 with digest := image0.sum } = stOk := by
  have h : ({ image0 with digest := image0.sum } : CtxImage).sum = image0.sum := by unfold CtxImage.sum; rfl
  unfold judgeImage
  rw [h]
  generalize image0.sum = d
  have h2 : (({ image0 with digest := d } : CtxImage).digest != d) = false := by simp
  rw [h2]
  cases st <;> rfl

/-- Troupe 0 in a state, with switches under way. -/
def switching (st : TrpState) (ws : List Switch) : State := { trooping st none with switches := ws }
/-- A switch of troupe 0 out. -/
def switchOut (drained : Bool) : Switch := { hdr := {}, out := some 0, inn := none, t0 := 0, drained := drained }
/-- Drained switches of troupe 0 in, and of troupe 0 out and troupe 1 in. -/
def switchIn : Switch := { hdr := {}, out := none, inn := some 0, t0 := 0, drained := true }
def switchBoth : Switch := { hdr := {}, out := some 0, inn := some 1, t0 := 0, drained := true }
/-- Core 0 of troupe 0 with a remote packet on its way. -/
def undrained : State :=
  { switching .saving [switchOut false] with
    cores := [(0, { regs := { troupe := 0, lcore := 0 }, descs := [{ id := 0, raw := [], stage := .sent }] })] }
theorem witness_SwitchAndTeardownResults : accepted (switching .saving [switchOut false]) {} opTrpSwitch = true ∧
    switchBusy (switching .saving [switchOut false]) { hdr := {}, out := some 0, inn := none, t0 := 0 } = true ∧
    switchBusy (switching .resident []) { hdr := {}, out := some 0, inn := none, t0 := 0 } = false ∧ (switching .resident []).waitSw = [] ∧
    judgeSwitch (switching .resident []) { hdr := {}, out := some 0, inn := none, t0 := 0 } = stOk ∧
    judgeSwitch (switching .off []) { hdr := {}, out := some 0, inn := none, t0 := 0 } ≠ stOk ∧
    switchOf (switching .saving [switchOut false]) 0 false = some (switchOut false) ∧
    switchDrained (switching .saving [switchOut false]) (switchOut false) = true ∧ switchOf undrained 0 false = some (switchOut false) ∧
    switchDrained undrained (switchOut false) = false ∧ switchOf (switching .saving [switchOut true]) 0 true = some (switchOut true) ∧
    (switchOut true).out = some 0 ∧ (switchOut true).inn = none ∧ switchOf (switching .restoring [switchIn]) 0 true = some switchIn ∧
    switchIn.out = none ∧ switchIn.inn = some 0 ∧ switchOf (switching .saving [switchBoth]) 0 true = some switchBoth ∧
    switchBoth.out = some 0 ∧ switchBoth.inn = some 1 ∧ switchOf (switching .resident []) 0 false = none ∧ switchOf (switching .resident []) 0 true = none ∧
    accepted (switching .resident []) toTroupe opTrpTeardown = true ∧ live.hasTroupe 0 = false ∧
    (switching .resident []).hasTroupe 0 = true ∧ stateOf (switching .teardown []) 0 = .teardown ∧ tearDrained (switching .teardown []) 0 = true ∧
    stateOf (switching .resident []) 0 ≠ .teardown := by
  decide

/-! ### Witnesses: checkpoints and substitution -/

/-- Job 9, local number 0, of troupe 0 and barrier 2. -/
def plan0 : JobPlan := { job := 9, bar := 2, troupes := [{ t := 0 }] }
/-- A module with that job in a state; its barrier has a tree of one rank held by LMID `root`. -/
def jobbed (x : Job) (root : Nat) : State :=
  { learnerWith {} with
    cue := 50
    fab := { groups := [(0, { group := 0, timeout := 1, gchk := 0, members := [(root, 0)] })]
             trees := [(0, { tree := 0, group := 0, n := 1, root := 0, tchk := 0, entries := [] })]
             barriers := [{ b := 2, troupe := 0, tree := 0, lead := 100, btimeout := 1 }]
             nodes := [(2, { tRel := some 50 })] }
    ckpt := { jobs := [(0, x)], watch := { ceRate := 10, holdUntil := some 50 } } }
/-- A write that waits for page 7, which is copied. -/
def stalled7 : Stalled := { key := 7, addr := 0xE00000, bytes := [1], owner := .none }

theorem witness_CheckpointEngineResults : accepted (jobbed { plan := plan0 } 1) {} opCkptTake = true ∧ jobIndex (jobbed { plan := plan0 } 1) 9 = some 0 ∧
    watchCrossed (jobbed { plan := plan0 } 1).ckpt.watch .ce 10 = true ∧ watchCrossed (jobbed { plan := plan0 } 1).ckpt.watch .ce 9 = false ∧
    (jobbed { plan := plan0 } 1).ckpt.watch.holdUntil = some 50 ∧ 50 ≤ (jobbed { plan := plan0 } 1).cue ∧
    { jobbed { plan := plan0 } 1 with cue := 49 }.cue < 50 ∧ (jobbed { plan := plan0 } 1).job? 0 = some { plan := plan0 } ∧
    coordinates (jobbed { plan := plan0 } 1) { plan := plan0 } = true ∧ coordinates (jobbed { plan := plan0 } 2) { plan := plan0 } = false ∧
    armedJob (jobbed { plan := plan0, st := .armed } 1) 0 = some (0, { plan := plan0, st := .armed }) ∧
    reachesCut (jobbed { plan := plan0, st := .armed } 1) 0 = true ∧
    (jobbed { plan := plan0, st := .armed } 2).job? 0 = some { plan := plan0, st := .armed } ∧
    coordinates (jobbed { plan := plan0, st := .armed } 1) { plan := plan0, st := .armed } = true ∧
    coordinates (jobbed { plan := plan0, st := .armed } 2) { plan := plan0, st := .armed } = false ∧
    ({ plan := plan0, st := .armed } : Job).st ≠ .paused ∧ cutRelease (jobbed { plan := plan0, st := .paused } 1) { plan := plan0, st := .paused } = some (50, none) ∧
    nextPage { live with mem := { pages := [7] } } 0 = some 7 ∧
    { live with mem := { stalled := [stalled7] } }.mem.stalled.find? (fun w => !({ stalled := [stalled7] } : Mem).pages.contains w.key) = some stalled7 ∧
    (jobbed { plan := plan0, st := .copying } 1).job? 0 = some { plan := plan0, st := .copying } ∧ ({ plan := plan0, st := .copying } : Job).pages = [] ∧
    ({ plan := plan0, st := .copying } : Job).bad = false ∧ ({ plan := plan0, st := .copying } : Job).image = none := by decide
theorem witness_CheckpointEngineResults_more : jobIndex (jobbed { plan := plan0 } 1) 8 = none ∧ live.ckpt.watch.holdUntil = none ∧
    ({ plan := plan0 } : Job).st = .idle ∧ armedJob (jobbed { plan := plan0 } 1) 0 = none ∧
    reachesCut { jobbed { plan := plan0, st := .armed } 1 with
      troupes := [(0, { regs := { state := .saving } })] } 0 = false ∧
    cutRelease { jobbed { plan := plan0, st := .paused } 1 with fab := {} } { plan := plan0, st := .paused } = none ∧
    (({ plan := plan0, st := .armed } : Job).st == .armed && (true || cutBroken live { plan := plan0, st := .armed })) = true ∧
    nextPage live 0 = none ∧ live.mem.stalled = [] ∧ ({ plan := plan0, st := .copying, bad := true } : Job).bad = true ∧
    ({ plan := plan0, st := .copying, image := some { job := 9, lmid := 1, no := 4, step := 0, tCut := 0, pieces := [] } } : Job).image.isSome = true := by decide

/-- A draining job with an empty image, and one whose image holds a piece. -/
def draining (bufs : List DrainBuf) : Job := { plan := plan0, st := .draining, no := 4, bufs := bufs }
def full : Job :=
  { draining [] with
    image := some { job := 9, lmid := 1, no := 4, step := 0, tCut := 0, pieces := [{ kind := 0, troupe := 0, val := .bytes [1] }] } }
theorem witness_CheckpointDrainResults : jobIndex (jobbed (draining []) 1) 9 = some 0 ∧ (jobbed (draining []) 1).job? 0 = some (draining []) ∧
    accepted (jobbed (draining []) 1) {} opCkptBuf = true ∧ 4096 % 4096 = 0 ∧ 4096 ≠ 0 ∧ (draining []).no = 4 ∧ (draining []).st = .draining ∧
    (draining [{ hdr := {}, addr := 0, len := 4096 }]).bufs = { hdr := {}, addr := 0, len := 4096 } :: [] ∧
    accepted (jobbed (draining []) 1) {} opCkptStored = true ∧
    (drainBytes (jobbed (draining []) 1) (draining [])).length ≤ (draining []).drained ∧ accepted (jobbed (draining []) 1) {} opCkptDiscard = true ∧
    accepted (jobbed (draining []) 1) {} opCkptCursor = true ∧ accepted (jobbed (draining []) 1) {} opCkptRestore = true ∧
    plan0.troupes.any (fun p => (troupeCores (jobbed (draining []) 1) p.t).any (fun c => ((jobbed (draining []) 1).core c).regs.state == .running)) = false ∧
    ([{ step := 0, lmid := 1, source := 1 }] : List CatEntry).all (fun e => e.layoutOk && e.source ≤ 1) = true ∧
    accepted { jobbed (draining []) 1 with troupes := [] } {} opRplCompare = true ∧
    learnersQuiet { jobbed (draining []) 1 with troupes := [] } (draining []) = true ∧
    learnersQuiet { jobbed (draining []) 1 with troupes := [(0, { regs := { state := .resident }, lrn := { cfg := { present := true }, midStep := true } })] }
      (draining []) = false ∧
    ownRepl { jobbed (draining []) 1 with troupes := [] } (draining []) = [] ∧ majority [] = none ∧
    ownMirrors { jobbed (draining []) 1 with troupes := [] } (draining []) = [] := by decide
theorem witness_CheckpointDrainResults_partial : (jobbed full 1).job? 0 = some full ∧ full.no = 4 ∧ full.st = .draining ∧
    full.drained < (drainBytes (jobbed full 1) full).length := by decide
theorem witness_CheckpointDrainResults_more : jobIndex (jobbed (draining []) 1) 8 = none ∧ 4095 % 4096 ≠ 0 ∧ (draining []).no ≠ 5 ∧
    (draining []).st ≠ .copying ∧ ({ plan := plan0 } : Job).st ≠ .draining ∧
    (({ plan := plan0, st := .paused } : Job).st == .paused && (cutRelease (jobbed { plan := plan0, st := .paused } 1) { plan := plan0, st := .paused }).isSome) = true ∧
    ([{ step := 0, lmid := 1, source := 2 }] : List CatEntry).all (fun e => e.layoutOk && e.source ≤ 1) = false := by decide

/-- A casting image without sections but those that every image has, of LMID `l`. -/
def castOf (l : Nat) : CastImage := { sig := { type := 7, signer := 1, bytes := 256 }, lmid := l }
/-- A module in READY with an owner record in force, whose owner lets unlisted firmware run. -/
def owned : State :=
  { live with record := recordK640 1, bt := { force := { owner := some { sig := { type := 6 }, override := true } }, regs := { pufOk := true } } }
/-- Module 7, the understudy of group 3 in slot 1; LMID 5 in slot 0 is in a state. -/
def standby (here st : Nat) (img : Option CastImage) : State :=
  { owned with
    lmid := 7
    thl := { ens := { standalone := false, mySlot := here, slots := 2,
                      table := [(0, { lmid := 5, state := st, role := 1, group := 3 }), (1, { lmid := 7, state := 4, role := 2, group := 3 })] } }
    ckpt := { sub := { staged := (img.toList.map (fun x => (5, x))) } } }
/-- An image of LMID 5 with a job that substitutes by itself. -/
def auto5 : CastImage := { castOf 5 with jobs := [{ job := 9, bar := 2, subAuto := true }], memory := { spare := [(0, 1)] } }

theorem witness_UnderstudyResults : accepted (standby 0 3 none) {} opUndStage = true ∧ isUnderstudy (standby 0 3 none) = false ∧
    isUnderstudy (standby 1 3 none) = true ∧ accepted (standby 1 3 none) {} opUndStage = true ∧
    judgeSub 5 (castOf 5) 0x10000 true (standby 1 3 none) = stOk ∧ accepted (standby 1 3 none) {} opEnsSubstitute = true ∧
    understudyOf (standby 0 3 none) 5 = some 1 ∧ lmidState (standby 0 3 none) 5 = 3 ∧
    mapFind (standby 1 3 (some auto5)).ckpt.sub.staged 5 = some auto5 ∧ subNone (standby 1 3 (some auto5)) 5 = false ∧
    lmidState (standby 1 3 (some auto5)) 5 = 3 ∧ auto5.jobs.any (fun j => j.subAuto) = true ∧
    judgeSub 5 auto5 (signedSize auto5.sig) true (standby 1 3 (some auto5)) = stOk ∧
    { standby 1 3 none with ckpt := { sub := { state := 3, waits := [0, 64] } } }.ckpt.sub.waits = [0, 64] ∧ 0 < 64 ∧
    ({ standby 1 3 none with ckpt := { sub := { state := 3, waits := [0, 64] } } }.lrn 0).cfg.present = false := by decide
/-- A substitution that waits for learner troupe 0, whose mirror is given. -/
def filling (mirror : Option (Nat × Nat)) : State :=
  { jobbed { plan := { job := 9, bar := 2, troupes := [{ t := 0, mirror := mirror }] } } 1 with
    thl := { ens := { standalone := false, table := [(3, { lmid := 8, state := 2 })] } }
    ckpt := { jobs := [(0, { plan := { job := 9, bar := 2, troupes := [{ t := 0, mirror := mirror }] } })], sub := { state := 3, waits := [0] } } }
theorem witness_UnderstudyResults_more : judgeSub 6 (castOf 5) 0x10000 true (standby 1 3 none) ≠ stOk ∧ subNone (standby 1 3 none) 9 = true ∧
    lmidState (standby 1 2 none) 5 ≠ 3 ∧ subNone (standby 1 2 none) 5 = false ∧ mapFind (standby 1 3 none).ckpt.sub.staged 5 = none ∧
    understudyOf live 5 = none ∧ isUnderstudy live = false ∧ lmidState (standby 0 2 none) 5 ≠ 3 ∧ understudyOf (standby 0 2 none) 5 = some 1 ∧
    live.ckpt.sub.state ≠ 3 ∧ (filling none).ckpt.sub.state = 3 ∧ (filling none).ckpt.sub.waits.contains 0 = true ∧
    ((filling none).lrn 0).cfg.present = true ∧ mirrorThere (filling none) 0 = false ∧ mirrorThere (filling (some (8, 0))) 0 = true := by decide

/-! ### Witnesses: the host link -/

/-- A lead in READY with ENABLE set, its link up, admin queues, command queue 1 of 16 entries, completion queue 1 and event queue 1. -/
def hosted : State :=
  { live with
    thl := { regs := { enable := true, link := 2, prsnt := true }
             cmdQs := [(1, { cqid := 1 })], cplQs := [(1, {})], evtQs := [(1, {})]
             cplWait := [{ hdr := { sq := 1 }, opcode := 1, status := 0, tDone := 0 }] } }
/-- A follower in slot 1. -/
def follower : State := { live with thl := { ens := { standalone := false, mySlot := 1, table := [(0, { state := 2 }), (1, { state := 2 })] } } }

theorem witness_HostQueueResults : live.alive = true ∧ live.thl.regs.enable = false ∧ 4 ≤ bitsOf 0x1004 4 0 ∧ bitsOf 0x1010 4 0 ≤ 16 ∧
    hosted.thl.regs.enable = true ∧ bitOf 1 0 = true ∧ accepted hosted {} opQueueCreate = true ∧ ({} : CmdHdr).sq = 0 ∧
    queueRecOk hosted { qid := 2, kind := 2 } = true ∧ isLead hosted = true ∧ accepted hosted {} opQueueDelete = true ∧ queueThere hosted 0 1 = true ∧
    queueBusy { hosted with thl := { hosted.thl with cplWait := [] } } 0 1 = false ∧
    queueThere { hosted with thl := { hosted.thl with cplWait := [] } } 0 1 = true ∧ accepted hosted {} opEvqBind = true ∧ 0 < slotCount hosted ∧
    mapFind hosted.thl.evtQs 1 = some {} ∧ bindBreaks hosted [] {} [0] 3 = false ∧ mapFind hosted.thl.cmdQs 1 = some { cqid := 1 } ∧
    bitsOf 15 15 0 < 2 ^ 4 ∧ 2 ^ 4 ≤ bitsOf 16 15 0 ∧ hosted.thl.regs.link = 2 ∧ follower.alive = true ∧ isLead follower = false ∧
    (writeCpl { hdr := { sq := 1 }, opcode := 1, status := 0, tDone := 0 } (dropFetched { sq := 1 } { hosted with thl := { hosted.thl with cplWait := [] } })).isSome
      = true := by decide
theorem witness_HostQueueResults_more : bitOf 0 0 = false ∧ ({ sq := 1 } : CmdHdr).sq ≠ 0 ∧ accepted hosted { sq := 1 } opQueueCreate = true ∧
    queueRecOk hosted { qid := 1, kind := 2 } = false ∧ queueRecOk hosted { qid := 2, kind := 0, weight := 1, cqid := 1 } = true ∧ queueRecOk hosted { qid := 2, kind := 1 } = true ∧
    ({ qid := 2, rsv := 1 } : QueueRec).rsv ≠ 0 ∧ queueThere hosted 0 7 = false ∧ queueBusy hosted 1 1 = true ∧ queueThere hosted 1 1 = true ∧
    queueBusy { hosted with thl := { hosted.thl with cmdQs := [], cplWait := [] } } 1 1 = false ∧
    queueThere hosted 2 1 = true ∧ queueBusy { hosted with thl := { hosted.thl with cplWait := [] } } 2 1 = false ∧ mapFind hosted.thl.evtQs 7 = none ∧
    bindBreaks hosted [] { tenant := 3 } [0] 3 = true ∧ mapFind hosted.thl.cplQs 1 = some {} ∧ passed (2 ^ 4) 0 0 ≤ 0 ∧ 0 < passed (2 ^ 4) 0 5 ∧
    (isLead hosted && hosted.thl.regs.enable && hosted.thl.regs.link == 2) = true ∧ (isLead live && live.thl.regs.enable && live.thl.regs.link == 2) = false ∧
    live.thl.cplWait = [] ∧ leadLost follower = false ∧ leadLost { follower with thl := { follower.thl with ens := { follower.thl.ens with table := [(0, { state := 3 })] } } } = true ∧
    (writeCpl { hdr := { sq := 1 }, opcode := 1, status := 0, tDone := 0 } live).isNone = true := by decide

theorem witness_EventAndLinkResults : evAssigned 0x50 = true ∧ evAssigned 0x0F = false ∧ { live with thl := { regs := { prsnt := true, link := 1 } } }.thl.regs.prsnt = true ∧ linksRun live = true ∧
    { live with thl := { regs := { prsnt := true, link := 1 } } }.thl.regs.link ≠ 2 ∧ 250 ≤ 250 ∧ hosted.thl.regs.link = 2 ∧ isBulk hosted = false ∧ 249 < 250 ∧
    mapFind { live with thl := { events := [(5, { count := 3, pend := true })] } }.thl.events 5 = some { count := 3, pend := true } ∧ isLead hosted = true ∧
    ([{ eq := 1, key := none, msg := { code := 1, slot := 0, troupe := 0, t := 0, count := 0, data := [] } }] : List Notice).find? (fun n => n.eq == 1) = some { eq := 1, key := none, msg := { code := 1, slot := 0, troupe := 0, t := 0, count := 0, data := [] } } ∧
    evtQueue? hosted 1 = some {} ∧ ({} : EvtQueue).unread < 2 ^ ({} : EvtQueue).log2n ∧
    { live with thl := { fetched := [{ hdr := {}, opcode := 7 }] } }.thl.fetched = [{ hdr := {}, opcode := 7 }] ∧ live.wt.loads = [] ∧ live.ckpt.jobs = [] := by
  decide
theorem witness_EventAndLinkResults_more : live.thl.regs.prsnt = false ∧ live.thl.regs.link ≠ 2 ∧ isLead follower = false ∧
    ({ code := 1, slot := 0, troupe := 0, t := 0, count := 0, data := [], notice := true } : EvMsg).notice = true ∧ mapFind live.thl.events 5 = none ∧
    evtQueue? hosted 7 = none ∧ 2 ^ ({ unread := 16 } : EvtQueue).log2n ≤ ({ unread := 16 } : EvtQueue).unread ∧ leadLost follower = false ∧
    { follower with thl := { follower.thl with atModule := [{ eq := 1, key := none, msg := { code := 1, slot := 0, troupe := 0, t := 0, count := 0, data := [] } }] } }.thl.atModule ≠ [] ∧
    (loading load64 true 1).wt.loads.find? (fun l => l.running && l.hdr == {}) = some { hdr := {}, record := load64, running := true } ∧
    (jobbed (draining [{ hdr := {}, addr := 0, len := 4096 }]) 1).ckpt.jobs.find? (fun e => e.2.bufs.any (fun b => b.hdr == {}))
      = some (0, draining [{ hdr := {}, addr := 0, len := 4096 }]) := by decide

/-- The lead of an ensemble of two slots; slot 1 holds LMID 8 in a state. -/
def leading (st cue : Nat) : State :=
  { live with
    cue := cue, lmid := 5
    thl := { ens := { standalone := false, mySlot := 0, slots := 2, hbTimeout := 1,
                      table := [(0, { lmid := 5, state := 2, role := 1 }), (1, { lmid := 8, state := st, role := 1, version := 3 })] } } }
theorem witness_MembershipResults : (leading 2 0).thl.ens.standalone = false ∧ (leading 2 0).thl.ens.mySlot = 0 ∧ slotOfLmid (leading 1 0) 8 = some 1 ∧
    (slotRow (leading 1 0) 1).state ≠ 3 ∧ (slotRow (leading 1 0) 1).state = 1 ∧
    (leading 1 (10000 * cyclesMs)).thl.ens.castAt + 10000 * cyclesMs ≤ (leading 1 (10000 * cyclesMs)).cue ∧
    (leading 1 0).cue < (leading 1 0).thl.ens.castAt + 10000 * cyclesMs ∧ (slotRow (leading 2 cyclesMs) 1).state = 2 ∧ 1 ≠ 0 ∧
    beatLost (leading 2 cyclesMs) 1 = true ∧ (leading 2 cyclesMs).tab.graceTo ≤ (leading 2 cyclesMs).cue ∧
    (slotRow (leading 2 0) 1).version < ({ lmid := 8, state := 3, version := 4 } : MemberMsg).version ∧
    ({ lmid := 8, state := 3, version := 3 } : MemberMsg).version ≤ (slotRow (leading 2 0) 1).version ∧
    accepted (leading 3 0) {} opEnsReadmit = true ∧ slotOfLmid (leading 3 0) 8 = some 1 ∧ (slotRow (leading 3 0) 1).state = 3 ∧
    beatLost (leading 3 0) 1 = false := by decide
theorem witness_MembershipResults_more : slotOfLmid (leading 1 0) 9 = none ∧ live.thl.ens.standalone = true ∧ (slotRow (leading 2 0) 7).state = 0 ∧
    follower.thl.ens.standalone = false ∧ follower.thl.ens.mySlot ≠ 0 ∧ (slotRow follower 0).state = 2 ∧ (slotRow (leading 3 cyclesMs) 1).state = 3 ∧
    beatLost (leading 3 cyclesMs) 1 = true ∧ beatLost { follower with cue := 5 } 0 = true ∧
    ({ lmid := 9, state := 3, version := 0 } : MemberMsg).version ≤ (mapGet (0, 0) (leading 1 0).thl.ens.others 9).2 ∧
    (mapGet (0, 0) (leading 1 0).thl.ens.others 9).2 < ({ lmid := 9, state := 3, version := 1 } : MemberMsg).version ∧
    accepted live {} opEnsReadmit = true := by decide

theorem witness_RegisterAccessResults : live.alive = true ∧ 0x63FF8 % 8 = 0 ∧ isTabReg 0x63FF8 = false ∧ isTabReg 0x64020 = false ∧ 0x64001 % 8 ≠ 0 ∧
    0 = live.thl.ens.mySlot ∧ live.boot ≠ .reset ∧ 1 ≠ live.thl.ens.mySlot ∧ isLead live = true ∧ (slotRow live 1).state ≠ 2 := by decide
theorem witness_RegisterAccessResults_more : isTabReg 0x64000 = true ∧ 0x64000 % 8 = 0 ∧ 1 ≠ (leading 2 0).thl.ens.mySlot ∧ isLead (leading 2 0) = true ∧
    (slotRow (leading 2 0) 1).state = 2 ∧ isLead follower = false ∧ 0 ≠ follower.thl.ens.mySlot := by decide

/-! ### Witnesses: boot, casting, firmware and resets -/

/-- The module as shipped with its rails up. -/
def poweredUp (ref : Bool) : State := { State.reset with hw := { present := true, phase := .good, cable := true, refOk := ref } }
theorem witness_BootResults : (poweredUp true).boot = .reset ∧ (poweredUp true).hw.phase = .good ∧ (poweredUp true).hw.refOk = true ∧
    (poweredUp false).hw.refOk = false ∧ { poweredUp false with boot := .rom, pwr := { waitRef := true } }.hw.cable = true ∧
    { poweredUp false with boot := .rom, pwr := { waitRef := true } }.pwr.waitRef = true ∧
    { live with boot := .rom, bt := { force := { hub := some { sig := svn3 } } } }.alive = true ∧
    { live with bt := { bcast := { on := true } } }.bt.bcast.on = true ∧ { live with bt := { bcast := { on := true } } }.bt.bcast.hdr = none ∧
    bootImage { live with boot := .hubfw, bt := { bcastDone := true }, mem := { zeroed := true } } = none ∧ live.bt.after = none ∧
    { live with hw := { cable := true } }.hw.cable = true ∧ live.boot ≠ .reset ∧ live.hw.cable = false := by decide
/-- A hub whose firmware has zeroed memory and started the cores, with a casting image in slot A. -/
def castable : State :=
  { owned with boot := .hubfw, bt := { owned.bt with bcastDone := true, flash := { cast := { a := some (castOf 5) } } }, mem := { zeroed := true } }
/-- A round of the broadcast of a cluster's firmware. -/
def rounding (round : Nat) (cl : Option Nat) : State :=
  { live with bt := { bcast := { on := true, round := round, cores := [3], missing := [3], hdr := cl.map (fun _ => {}), cluster := cl } } }
theorem witness_BootResults_more : State.reset.hw.phase ≠ .good ∧ State.reset.hw.phase ≠ .up ∧ { poweredUp false with boot := .rom }.pwr.waitRef = false ∧
    { live with boot := .rom, bt := { force := { hub := some { sig := svn3 } } } }.bt.force.hub.isSome = true ∧ live.bt.force.hub.isSome = false ∧
    live.bt.bcast.on = false ∧ ([3] : List Nat).filter (fun c => [3].contains c || [].contains c) ≠ [] ∧ (rounding 1 none).bt.bcast.round < 3 ∧
    (rounding 3 (some 0)).bt.bcast.hdr = some {} ∧ (rounding 3 (some 0)).bt.bcast.cluster = some 0 ∧ 3 ≤ (rounding 3 (some 0)).bt.bcast.round ∧
    (rounding 3 none).bt.bcast.cluster = none ∧ castable.boot = .hubfw ∧ castable.bt.bcastDone = true ∧ castable.mem.zeroed = true ∧
    (bootImage castable).isSome = true := by decide
/-- A module whose cluster 0 is planned and whose cores 3 and 4 hold numbers, core 4 one of a troupe that is resident. -/
def coreSet (cast : Option CastImage) : State :=
  { owned with
    cast := cast, cores := [(3, { regs := { lcore := 2 } }), (4, { regs := { lcore := 3, troupe := 0 } }), (40, { regs := { lcore := 4, troupe := 1 } })]
    troupes := [(0, { regs := { state := .resident } }), (1, { regs := { state := .saving }, cfg := { quads := 0x10 } })] }
def plan1 : ClusterPlan := { cluster := 0, cores := [], understudy := 3 }
theorem witness_ModuleResetLeavesTheNonvolatile : accepted owned {} opReset = true ∧ coreNamed owned 2 = none ∧ coreNamed (coreSet none) 2 = some 3 ∧
    inStates (coreSet none) ((coreSet none).core 3).regs.troupe [.saving, .restoring, .teardown] = false ∧ coreNamed (coreSet none) 4 = some 40 ∧
    inStates (coreSet none) ((coreSet none).core 40).regs.troupe [.saving, .restoring, .teardown] = true ∧ 16 ≤ 16 ∧ bitOf owned.record.clusterMask 0 = true ∧
    bitOf live.record.clusterMask 0 = false ∧ clusterBusy owned 0 = false ∧ clusterBusy (coreSet none) 1 = true ∧ bitOf (coreSet none).record.clusterMask 1 = true ∧
    (coreSet none).hasTroupe 0 = true ∧ (coreSet none).hasTroupe 5 = false ∧ 64 ≤ 64 ∧ 3 < 4 ∧ accepted owned {} opCoreRetire = true ∧
    coreNamed (coreSet none) 3 = some 4 ∧
    inStates (coreSet none) ((coreSet none).core 4).regs.troupe [.resident, .waitPort, .saving, .restoring, .teardown] = true ∧
    inStates (coreSet none) ((coreSet none).core 3).regs.troupe [.resident, .waitPort, .saving, .restoring, .teardown] = false ∧ (coreSet none).cast = none ∧
    ({ castOf 5 with cores := [plan1] } : CastImage).cores.find? (fun (p : ClusterPlan) => (clusterCores p.cluster).contains 3) = some plan1 ∧
    (castOf 5).cores.find? (fun (p : ClusterPlan) => (clusterCores p.cluster).contains 3) = none := by decide

/-- A module with session 1 at counter 5 and tag 5 of long-reach port 17. -/
def keyed : State :=
  { owned with
    fab := { ports := [(17, { cfg := { role := 3, tags := [{ ltag := 5, troupe := 64, credits := 1 }] } })] }
    bt := { owned.bt with sessions := [(1, { tenant := 0xFF, counter := 5 })] } }
theorem witness_CastingAndFirmwareResults : accepted owned {} opCastApply = true ∧ judgeCast (castOf 5) 0x10000 true owned = stOk ∧
    judgeCast (castOf 5) 0x100 true owned ≠ stOk ∧ accepted owned {} opCastStore = true ∧
    judgeObject (castOf 5) (min 0x10000 0x1000000) owned = stOk ∧ accepted owned {} opFwStage = true ∧ owned.boot ≠ .recovery ∧
    judgeStaged owned 1 0x10000 (.image { sig := { type := 1 } }) = stOk ∧ judgeStaged owned 4 0x10000 (.bundle { sig := { type := 4 }, entries := [(1, 1, 1, 1)] }) = stOk ∧
    accepted owned {} opFwSelect = true ∧ accepted owned {} opRecGet = true ∧ accepted owned {} opOwnInstall = true ∧
    judgeOwner owned (min 0x10000 0x10000) { sig := { type := 6 }, owner := 9 } = stOk ∧
    owned.bt.force.owner.map (·.owner) ≠ some ({ sig := { type := 6 }, owner := 9 } : OwnerRec).owner ∧
    owned.bt.force.owner.map (·.owner) = some ({ sig := { type := 6 }, owner := 0 } : OwnerRec).owner ∧ accepted owned {} opAttReport = true ∧
    owned.bt.regs.pufOk = true ∧ accepted owned {} opKeySession = true ∧ 63 ≤ 63 ∧ accepted keyed {} opLrKey = true ∧ 17 < 18 ∧ (keyed.port 17).cfg.role = 3 ∧
    (1 : Nat) ≤ 1 ∧ (5 : Nat) ≠ 0xFFF ∧ (keyed.port 17).tagEnt 5 = some { ltag := 5, troupe := 64, credits := 1 } ∧
    mapFind keyed.bt.sessions 1 = some { tenant := 0xFF, counter := 5 } ∧ sessionBars keyed 1 (tagTenant keyed { ltag := 5, troupe := 64, credits := 1 }) = false ∧
    accepted owned {} opRpfCommit = true ∧ accepted owned {} opReset = true ∧ accepted owned {} opCoreRetire = true ∧
    coreNamed { owned with cores := [(3, { regs := { lcore := 2 } })] } 2 = some 3 ∧
    inStates { owned with cores := [(3, { regs := { lcore := 2 } })] } 255 [.resident, .waitPort, .saving, .restoring, .teardown] = false ∧
    owned.cast = none := by decide
theorem witness_CastingAndFirmwareResults_more : judgeObject { castOf 5 with magic := 0 } 0x1000000 owned ≠ stOk ∧
    { live with boot := .recovery }.boot = .recovery ∧ accepted { live with boot := .recovery } {} opFwStage = true ∧ 4 < 5 ∧
    judgeStaged owned 1 0x10000 (.image { sig := { type := 2 } }) ≠ stOk ∧ judgeOwner owned 0x10000 { sig := { type := 6 }, nkeys := 0 } ≠ stOk ∧
    live.bt.regs.pufOk = false ∧ accepted live {} opAttReport = true ∧ accepted live {} opKeySession = true ∧ ¬ ((64 : Nat) ≤ 63) ∧
    (keyed.port 17).tagEnt 6 = none ∧ sessionBars keyed 2 (some 0) = true ∧ (5 : Nat) ≤ (mapGet { tenant := 0xFF } keyed.bt.sessions 1).counter ∧
    (mapGet { tenant := 0xFF } keyed.bt.sessions 1).counter < 6 := by decide
/-- The tag of its own encryption authenticates a wrapped secret, and the next number does not. -/
theorem witness_CastingAndFirmwareResults_wrap (key serial p ltag slot : Nat) (w : Wrapped) :
    (∃ v k, unwrapSecret key (wrapAad serial p ltag slot { w with tag := v }) { w with tag := v } = some k) ∧
    (∃ v, unwrapSecret key (wrapAad serial p ltag slot { w with tag := v }) { w with tag := v } = none) := by
  have aad : ∀ v, wrapAad serial p ltag slot { w with tag := v } = wrapAad serial p ltag slot w := fun _ => rfl
  simp only [aad, unwrapSecret]
  generalize gcmSeal _ _ _ (gcmSeal _ _ _ _).1 = g
  generalize gcmSeal _ _ _ _ = c
  refine ⟨⟨beNum g.2.reverse, beNum c.1.reverse, by simp⟩, ⟨beNum g.2.reverse + 1, ?_⟩⟩
  rw [if_neg]
  simp only [beq_iff_eq]
  omega
/-! ### Witnesses: power, clocks, temperature, the Tableau -/

/-- A module whose input controller is in a phase with some rails on. -/
def powered (ph : PwrPhase) (step : Nat) (on : List Nat) (retry : Option Nat) : State :=
  { State.reset with hw := { present := true, phase := ph, seqStep := step, railsOn := on, retryOf := retry, cable := true } }
theorem witness_PowerResults : State.reset.hw.phase = .off ∧ (powered .rising 7 (List.range 28) none).hw.phase = .rising ∧
    railStep 28 = (powered .rising 7 (List.range 28) none).hw.seqStep ∧ railStep 28 ≠ 0 ∧ 28 ∉ (powered .rising 7 (List.range 28) none).hw.railsOn ∧
    stepGood (List.range 28 ++ [28]) 7 = true ∧ railStep 0 = (powered .rising 1 [] none).hw.seqStep ∧ stepGood ([] ++ [0]) 1 = true ∧ (1 : Nat) ≠ 7 ∧
    railsUp (powered .up 0 [] none) = true ∧ (powered .up 0 [] none).hw.log.length < 16 ∧ railLive (powered .up 0 [] none) 28 = true ∧
    railLive (powered .rising 1 [] (some 0)) 0 = true ∧ railsUp (powered .rising 1 [] (some 0)) = true ∧ (powered .rising 1 [] (some 0)).hw.retryOf = some 0 ∧
    (powered .shortWait 0 [] (some 0)).hw.phase = .shortWait ∧ State.reset.hw.phase ≠ .shortWait ∧ live.alive = true ∧
    railLive { live with hw := { phase := .up } } 3 = true ∧ { live with hw := { phase := .up } }.hw.onLocal = [] ∧ live.hw.uvArmed = true ∧ live.hw.ovArmed = true ∧
    { live with hw := { uvArmed := false } }.hw.uvArmed = false ∧ { live with hw := { present := true } }.hw.present = true ∧
    4400 ≤ live.pwr.capW ∧ 65535 < 65536 ∧ 17 < 18 := by decide
theorem witness_PowerResults_more : stepGood ([] ++ [1]) 7 = false ∧ (powered .rising 7 [] none).hw.seqStep = 7 ∧ railsUp State.reset = false ∧
    (powered .faultStop 0 [] none).hw.phase = .faultStop ∧ railsUp (powered .faultStop 0 [] none) = false ∧ railLive State.reset 3 = false ∧
    16 ≤ { State.reset with hw := { log := List.replicate 16 { code := 1, num := 0, ups := 0 } } }.hw.log.length ∧
    { live with hw := { phase := .up, onLocal := [3] } }.hw.onLocal.contains 3 = true ∧ State.reset.alive = false ∧ railLive (powered .up 0 [] none) 3 = true ∧
    { live with hw := { ovArmed := false } }.hw.ovArmed = false ∧ decide (live.pwr.capW * [65535].length < [65535].sum) = true ∧
    decide (live.pwr.capW * [0].length < [0].sum) = false ∧ { live with pwr := { capping := true } }.pwr.capping = true ∧ live.hw.present = false ∧ (18 : Nat) ≤ 18 := by
  decide

/-- A live module with its reference and locked PLLs. -/
def clocked : State := { live with hw := { present := true, phase := .up, cable := true, refOk := true }, pwr := { locked := true } }
theorem witness_ClockAndThermalResults : clocked.alive = true ∧ clocked.hw.refOk = true ∧ clocked.pwr.locked = true ∧ clocked.hw.cable = true ∧
    (powered .clkWait 0 [] none).hw.phase = .clkWait ∧ clocked.pwr.terms = [] ∧ clocked.pwr.power = 0 ∧ clocked.pwr.capping = false ∧ 255 < 256 ∧
    clocked.hw.hotArmed = true ∧ { live with hw := { hotArmed := false } }.hw.hotArmed = false ∧ clocked.hw.flowArmed = true ∧ clocked.hw.present = true ∧
    (powered .faultStop 0 [] none).hw.phase = .faultStop ∧ (powered .faultStop 0 [] none).hw.present = true ∧ (powered .faultStop 0 [] none).hw.cable = true ∧
    live.hw.cable = false := by decide
theorem witness_ClockAndThermalResults_more : (live.hw.refOk && live.alive && live.pwr.locked) = false ∧ live.pwr.locked = false ∧ live.hw.phase ≠ .clkWait ∧
    leastMargin [(1, 20)] = some (1, 80) ∧ leastMargin [] = none ∧ (∃ n, n < 4 ∧ mapGet 0 [(0, 3)] n ≠ (0 : Nat)) ∧ nextTerm [(0, 101)] 0 0 ≠ 0 ∧
    { live with hw := { flowArmed := false } }.hw.flowArmed = false ∧ clocked.hw.phase ≠ .faultStop ∧
    (clocked.thl.regs.link == 0 && clocked.alive && linksRun clocked) = true ∧ (State.reset.thl.regs.link == 0 && State.reset.alive && linksRun State.reset) = false :=
  ⟨by decide, by decide, by decide, by decide, by decide, ⟨0, by decide, by decide⟩, by decide, by decide, by decide, by decide, by decide⟩

/-- A live module whose Tableau is in a state. -/
def tabled2 (st : TabState) (job : ReadOut) (up : List Nat) (cue : Nat) : State :=
  { clocked with tab := { state := st, tF := 64, job := job, upPorts := up, arm := true, enCue := true, cueAt := 64 }, cue := cue }
theorem witness_TableauResults : live.tab.state = .running ∧ live.boot = .ready ∧ (tabled2 .frozen .none [] 64).tab.state ≠ .running ∧
    { live with boot := .rom }.boot = .rom ∧ clocked.hw.cable = true ∧ clocked.boot ≠ .reset ∧ live.hw.cable = false ∧
    (tabled2 .running .none [] 64).alive = true ∧ (tabled2 .running .none [] 64).tab.arm = true ∧ (tabled2 .running .none [] 64).tab.enCue = true ∧
    (tabled2 .running .none [] 64).cue = (tabled2 .running .none [] 64).tab.cueAt ∧ ((port { st := .up }).port 3).st = .up ∧
    (tabled2 .freezing .none [] 64).tab.tF ≤ (tabled2 .freezing .none [] 64).cue ∧ (tabled2 .freezing .none [] 63).cue < (tabled2 .freezing .none [] 63).tab.tF ∧
    tabIdle (tabled2 .frozen .none [] 64) = true ∧ tabIdle (tabled2 .frozen .scan [] 64) = false ∧ (tabled2 .frozen .scan [] 64).tab.job = .scan ∧
    (tabled2 .frozen .scan [] 64).tab.wake = false ∧ (tabled2 .frozen .none [3] 64).tab.upPorts.contains 3 = true ∧
    (tabled2 .resuming .none [] 64).tab.state = .resuming ∧ (tabled2 .resuming .none [] 64).tab.upPorts = [] ∧ live.tab.state ≠ .resuming := by decide
theorem witness_TableauResults_more : (tabled2 .running .none [] 63).cue ≠ 64 ∧ (live.port 3).st ≠ .up ∧ State.reset.boot = .reset ∧
    live.tab.job = .none ∧ (tabled2 .frozen .jtag [] 64).tab.job = .jtag ∧ (tabled2 .frozen .pages [] 64).tab.job = .pages ∧
    { tabled2 .frozen .scan [] 64 with tab := { wake := true } }.tab.wake = true ∧ (tabled2 .frozen .scan [3] 64).tab.job ≠ .none ∧
    (tabled2 .frozen .none [] 64).tab.upPorts.contains 3 = false := by decide

end Sys2Proof.Tests
end

section
/-! Issue and refusal of a core instruction (R54), and CORE_PC (R83): first the facts about the operations, then the two statements. -/

namespace Sys2Proof.Machine

/-! ### The ND mark in CUE_ND_MAP -/

@[simp] theorem bitOf_setBitTo_true (w i : Nat) : bitOf (setBitTo w i true) i = true := by
  unfold setBitTo
  cases h : bitOf w i
  case true => simp [h]
  case false => simpa [bitOf, Nat.add_comm w, Nat.testBit_two_pow_add_eq] using h

theorem markNd_ndMap (c : Nat) (s : State) (ht : (s.core c).regs.troupe < 64) :
    (markNd c s).cueRegs.ndMap = setBitTo s.cueRegs.ndMap (s.core c).regs.troupe true := by
  simp only [markNd, if_pos ht]; rfl

/-- The mark of an issued instruction reaches CUE_ND_MAP (R305): moving CORE_PC leaves the core's troupe, whose bit the mark sets. -/
theorem issueState_ndMap_bit (c : Nat) (s : State) (ht : (s.core c).regs.troupe < 64) :
    bitOf (issueState c true s).cueRegs.ndMap (s.core c).regs.troupe = true := by
  have hk : ((s.modRegs c (fun r => { r with pc := r.pc + 16 })).core c).regs.troupe = (s.core c).regs.troupe := by simp
  rw [issueState_nd, markNd_ndMap _ _ (hk ▸ ht), hk, bitOf_setBitTo_true]

/-- `issueState_rest` leaves CUE_ND_MAP open; without a mark it stays too. -/
theorem issueState_plain_rest (c : Nat) (s : State) : { issueState c false s with cores := s.cores } = s := by
  rw [issueState_plain]; rfl

/-! ### What a refusal leaves -/

@[simp] theorem refuseCore_cueRegs (c code : Nat) (s : State) : (refuseCore c code s).cueRegs = s.cueRegs :=
  (refuseCore_spec c code s).cueRegs

theorem refuseCore_keeps_mark (c code : Nat) (s : State) :
    ((refuseCore c code s).core c).regs.ndSeen = (s.core c).regs.ndSeen ∧
      ((refuseCore c code s).core c).regs.ndCount = (s.core c).regs.ndCount ∧
      ((refuseCore c code s).core c).regs.pc = (s.core c).regs.pc ∧ (refuseCore c code s).cueRegs = s.cueRegs := by
  rw [refuseCore_core]; exact ⟨rfl, rfl, rfl, refuseCore_cueRegs c code s⟩

/-! ### CORE_PC -/

theorem readCore_corePc (k : Core) : readCore k 0x10 = k.regs.pc % 2 ^ 21 := by
  simp [readCore, word]

theorem regsFrame_modRegs (s : State) (c : Nat) (f : CoreRegs → CoreRegs) : RegsFrame c s (s.modRegs c f) :=
  ⟨fun _ h => State.core_modRegs_other s f h, by rw [State.core_modRegs_same], rfl⟩

/-- Core `c` discards a write of the offset `x` to CORE_PC: it is running, or `x` is not aligned or not inside the core store (R83). -/
def discardsPc (s : State) (c x : Nat) : Bool := (s.core c).regs.state == .running || x % 16 != 0 || storeBytes ≤ x

theorem discardsPc_iff (s : State) (c x : Nat) :
    discardsPc s c x = true ↔ (s.core c).regs.state = .running ∨ x % 16 ≠ 0 ∨ storeBytes ≤ x := by
  simp [discardsPc, or_assoc]

theorem exec_corePcWrite (c : Nat) (v : Word) (s : State) (ha : s.alive = true) :
    exec (.corePcWrite c v) s = .next (if discardsPc s c (v.toNat % 2 ^ 21) then s
      else s.modRegs c (fun r => { r with pc := v.toNat % 2 ^ 21 })) := by
  have harm : exec (.corePcWrite c v) s = execCorePcWrite c v s := rfl
  rw [harm, execCorePcWrite, regWrite_alive _ _ ha]; rfl

theorem exec_corePcWrite_discarded (c : Nat) (v : Word) (s : State) (ha : s.alive = true)
    (h : discardsPc s c (v.toNat % 2 ^ 21) = true) : exec (.corePcWrite c v) s = .next s := by
  rw [exec_corePcWrite c v s ha, if_pos h]

theorem exec_corePcWrite_taken (c : Nat) (v : Word) (s : State) (ha : s.alive = true)
    (h : ¬ discardsPc s c (v.toNat % 2 ^ 21) = true) :
    exec (.corePcWrite c v) s = .next (s.modRegs c (fun r => { r with pc := v.toNat % 2 ^ 21 })) := by
  rw [exec_corePcWrite c v s ha, if_neg h]

/-! ### The statements -/

/-- Settles O9: the issue is `issueState`, marked or not; a refusal is `refuseCore` in the state before the issue. -/
theorem issueMovesThePcAndRecordsTheMark : Obligations.IssueMovesThePcAndRecordsTheMark := by
  intro c s
  refine ⟨⟨?_, ?_, ?_⟩, ⟨?_, ?_, ?_, ?_⟩, fun nd body hi => ⟨fun t hb => ?_, fun code hb => ?_⟩⟩
  · exact issueState_core c false s
  · exact fun d hd => issueState_core_other c d false s hd
  · exact issueState_plain_rest c s
  · exact issueState_core c true s
  · exact fun d hd => issueState_core_other c d true s hd
  · exact issueState_ndMap_bit c s
  · exact issueState_rest c true s
  · exact coreIssue_ok c nd body s t hi hb
  · exact ⟨refuseCore c code s, coreIssue_refuse c nd body s code hi hb, refuseCore_keeps_mark c code s⟩

/-- Settles O22: a write that `discardsPc` bars leaves the state, and every other one reaches CORE_PC alone. -/
theorem corePcTakesAlignedWritesWhileStopped : Obligations.CorePcTakesAlignedWritesWhileStopped := by
  intro c v s ha
  refine ⟨readCore_corePc _, fun hrun => ?_, fun hbad => ?_, fun hstop haligned hinside => ?_⟩
  · exact exec_corePcWrite_discarded c v s ha ((discardsPc_iff ..).2 (.inl hrun))
  · exact exec_corePcWrite_discarded c v s ha ((discardsPc_iff ..).2 (.inr hbad))
  · have htaken : ¬ discardsPc s c (v.toNat % 2 ^ 21) = true := by
      intro h
      obtain hrun | hmis | hout := (discardsPc_iff ..).1 h
      · exact hstop hrun
      · exact hmis haligned
      · exact Nat.not_le.2 hinside hout
    exact ⟨_, exec_corePcWrite_taken c v s ha htaken, State.core_modRegs_same s c _, regsFrame_modRegs s c _⟩

end Sys2Proof.Machine
end

section
/-! How each row of the table is carried out, and the statements about every command: completion, the queue, the counters and the module record of
flash, and what a held module does. -/

namespace Sys2Proof.Machine

/-! ### The ways in which a row is carried out -/

/-- The meaning `m` answers a next state everywhere, and leaves a module that is not alive as it is. -/
def Acts (m : State → Host.Outcome State Fault Refusal) : Prop := (∀ s, ∃ t, m s = .next t) ∧ ∀ s, s.alive = false → m s = .next s

theorem acts_engine (f : State → State) : Acts (fun s => engine f s) :=
  ⟨fun s => by dsimp only [engine]; split <;> exact ⟨_, rfl⟩, fun s hs => engine_still f s hs⟩

theorem acts_regWrite (f : State → State) : Acts (fun s => regWrite f s) :=
  ⟨fun s => by dsimp only [regWrite]; split <;> exact ⟨_, rfl⟩, fun s hs => regWrite_still f s hs⟩

theorem acts_hostCmd (h : CmdHdr) (op : Nat) (f : State → State) : Acts (fun s => hostCmd h op f s) :=
  ⟨fun s => by dsimp only [hostCmd]; (repeat' split) <;> exact ⟨_, rfl⟩, fun s hs => hostCmd_still h op f s hs⟩

/-- A module that is not alive issues on no core. -/
theorem issues_still {s : State} (hs : s.alive = false) (c : Nat) : issues s c = false := by simp [issues, hs]

theorem acts_coreIssue (c : Nat) (nd : Bool) (body : State → Issue) : Acts (fun s => coreIssue c nd body s) :=
  ⟨fun s => by dsimp only [coreIssue]; (repeat' split) <;> exact ⟨_, rfl⟩, fun s hs => coreIssue_still c nd body s (issues_still hs c)⟩

/-- An OPTM row is a core instruction that may also be held at its sequencer (R182). -/
theorem acts_optm (o : OptOp) (c : Nat) (w : VecWord) : Acts (fun s => optm o c w s) := by
  have hc := acts_coreIssue c w.nd (optBody o c w)
  refine ⟨fun s => ?_, fun s hs => ?_⟩
  · dsimp only [optm]; split
    · exact ⟨_, rfl⟩
    · exact hc.1 s
  · simpa [optm, issues_still hs c] using hc.2 s hs

theorem acts_flintIssue (c : Nat) (w : VecWord) (n : Nat) (body : State → Core → Core) : Acts (fun s => flintIssue c w n body s) :=
  acts_coreIssue c w.nd _

theorem acts_sampIssue (c : Nat) (w : VecWord) (slot : Nat) (rows : List (Nat × Nat)) (body : Nat → GSlot → State → State) :
    Acts (fun s => sampIssue c w slot rows body s) :=
  acts_coreIssue c w.nd _

/-- Every row but those of the input controller, the rails, the clocks, the connectors and the Tableau. -/
theorem exec_acts (i : Instr) (ho : outside i = false) : Acts (fun s => exec i s) := by
  cases i with
  | nop | halt | branch | loop | scalarArith | tagLoad | tagStore | mfill | mmul | mmulx | mzero | vfma | veq | vlt | vle | visNan | visInf | rsum |
    rmax | rmin | ramax | gather | scatter | scataddO | scataddU | vmemLoad | vmemStore | func | funcd | fload | xpose | move | fenceL | fenceM |
    semSig | semWait | semTake | qpop | cueWait | fraw | fber | astep | amerge | kvput | vabs | vneg | vsqrt | vrsqrt | vadd | vsub | vmul | vmin |
    vmax | vintAdd | vintShift | vdiv => dsimp only [exec]; exact acts_coreIssue _ _ _
  | fstr | funi | fgum | fnrm | fdisc => dsimp only [exec]; exact acts_flintIssue _ _ _ _
  | sampMask | sampDraw | sampAccept => dsimp only [exec]; exact acts_sampIssue _ _ _ _ _
  | osgdm | oadam | olion | omom | oorth => dsimp only [exec]; exact acts_optm _ _ _
  | semWaitSatisfied | queueEntryAvailable | cueWaitRelease | clusterStart | moveCopy | moveCopyTag | moveConvert | remoteWrite | remoteRead |
    collective | descriptorComplete | noRoute | stepBoundary | admissionPassIdle | commit | shipArrival | reductionContribution | collectiveTimeout |
    verdictContribution | rootDecision | verdictApply | verdictLate | whetstoneComplete | flyInStart | flySourceReadDone | flyPieceArrival | flyResume
    | ringRecordWrite | scorerHand | ringPoll | consumerHand | memoryZeroing | patrolScrub | loadTurn | loadEnd | digestScrub | flitReceive |
    replayRequest | creditReturn | lrAckTimer | frameAuthenticate | rangingExchange | rangingResult | cueExchange | cueExchangeTimeout |
    barrierArrival | barrierTRelArrival | barrierRelease | cueStall | switchDrainDone | switchComplete | teardownDone | ckptRequest | holdoffExpiry |
    ckptArm | ckptCutPoint | ckptCut | ckptAbort | snapshotPageCopy | stalledWriteProceed | ckptS0Done | ckptBufferFilled | autoSubstitution |
    substitutionFill | thlTraining | thlLockLoss | hostFault | commandFetch | commandRelay | completionWrite | eventRaise | noticeBufferDrain |
    memberJoined | joinTimeout | heartbeatSend | heartbeatReceive | memberFailed | membershipChange | hubFirmwareStart | coreFwBroadcastRound |
    bootCastingApply | hubWatchdog | hubEcc | inputUv | inputOv | railOcWarn | regHot | thermalSample | coolantHot | coolantFlow | freezeCueTrigger |
    learnerStepCommand | portSignalDetect | portEqualizeDone | portMap | portIdent | portHeldRetry | portRetrainTrigger | portSignalLoss |
    portOutageTimeout | retrain | release => dsimp only [exec]; exact acts_engine _
  | coreStart | coreStop | ndClr | corePcWrite | faultClear | arithCntClr | kvEvtClr | flintLoad | flintCntClr | lrnEvtClr | optEvtClr | whetStatusClr
    | flyEvtClr | expEvtClr | stkEccClr | scrubEvtClr | accept | portClr | refMmWrite | cueEvtClr | trpEvtClr | wchEvtClr | wchCkptEvtClr | enable |
    adminQueueWrite | doorbell | pendClear | evtCntClr | thlEvtClr | rejectedAccess | accErrClr | pwrEvtClr | thermClr | freeze | tabIgnClr => dsimp only [exec]; exact acts_regWrite _
  | genSubmit | genCancel | genCurtain | lrnBind | lrnSkip | optGset | flyNow | roleSwitch | expSeal | wtLoad | wtReady | wtRelease | wtTable | lrKey
    | trpMap | trpQpush | trpSwitch | trpCtxPut | trpCtxGet | trpRestore | trpTeardown | ckptTake | ckptBuf | ckptStored | ckptDiscard | ckptCursor |
    ckptRestore | rplCompare | undStage | ensSubstitute | queueCreate | queueDelete | evqBind | ensReadmit | castApply | castStore | fwStage |
    fwSelect | recGet | attReport | keySession | ownInstall | reset | coreRetire | rpfCommit => dsimp only [exec]; exact acts_hostCmd _ _ _
  | hubResetRelease | resetPin | inputQualify | inputOvervoltageTrip | inputLost | inputReversed | powerMeasure | railPowerGood | railShort |
    railRestartTimer | senseOpen | clkRefLost | referenceReturn | clkFail | clkFailRestartTimer | thermTrip | smbReadStatus | smbReadLog | smbRestart
    | cableDetect | refclkQualify | thlPresent | pluginInsert | freezePin | freezeMarkerReceive | freezeStop | read | tabRead | memread |
    tabReadoutDone | resume | tabResume | wakeSignalReceive | dividerRestart | registerWrite | registerAccessRelay => exact Bool.noConfusion ho

/-- The rows of the input controller, the rails, the clocks, the connectors and the Tableau answer a next state too. -/
theorem exec_outside_next (i : Instr) (s : State) (ho : outside i = true) : ∃ t, exec i s = .next t := by
  cases i with
  | hubResetRelease | resetPin | inputQualify | inputOvervoltageTrip | inputLost | inputReversed | powerMeasure | railPowerGood | railShort |
    railRestartTimer | senseOpen | clkRefLost | referenceReturn | clkFail | clkFailRestartTimer | thermTrip | smbReadStatus | smbReadLog | smbRestart
    | cableDetect | refclkQualify | thlPresent | pluginInsert | freezePin | freezeMarkerReceive | freezeStop | read | tabRead | memread |
    tabReadoutDone | resume | tabResume | wakeSignalReceive | dividerRestart | registerAccessRelay => exact ⟨_, rfl⟩
  | registerWrite off v =>
    dsimp only [exec, execRegisterWrite, regWrite]; (repeat' split) <;> exact ⟨_, rfl⟩
  | _ => exact Bool.noConfusion ho

theorem exec_next (i : Instr) (s : State) : ∃ t, exec i s = .next t := by
  cases ho : outside i
  case false => exact (exec_acts i ho).1 s
  case true => exact exec_outside_next i s ho

/-! ### What no row but RPF_COMMIT touches -/

theorem exec_keep (i : Instr) (s : State) (hi : ∀ h ok, i ≠ .rpfCommit h ok) : Keeps s (stateAfter s (exec i s)) := by
  cases i with
  | rpfCommit h ok => exact absurd rfl (hi h ok)
  | _ => simp [exec, Keeps]

/-- RPF_COMMIT keeps the queue and the module record, and leaves the counters or raises them all. -/
theorem exec_rpfCommit_keeps (h : CmdHdr) (ok : Bool) (s : State) :
    let t := stateAfter s (exec (.rpfCommit h ok) s)
    t.pending = s.pending ∧ t.bt.flash.modRec = s.bt.flash.modRec ∧ (t.bt.counters = s.bt.counters ∨ t.bt.counters = committed s) := by
  dsimp only [exec, execRpfCommit]
  rcases stateAfter_hostCmd h opRpfCommit _ s with e | e | e <;> rw [e]
  · exact ⟨rfl, rfl, .inl rfl⟩
  · exact ⟨rfl, rfl, .inl rfl⟩
  · cases ok
    · exact ⟨rfl, rfl, .inl rfl⟩
    · exact ⟨rfl, rfl, .inr rfl⟩

/-- What a step does to the module record and the counters, by what stands at the front of the queue. -/
theorem step_counters {s t : State} (h : step s = .next t) :
    t.bt.flash.modRec = s.bt.flash.modRec ∧
      (t.bt.counters = s.bt.counters ∨ (∃ hd ok, s.pending.head? = some (.rpfCommit hd ok)) ∧ t.bt.counters = committed s) := by
  unfold step at h
  split at h
  · next i rest hp =>
    have ht : stateAfter { s with pending := rest } (exec i { s with pending := rest }) = t := by rw [h]; rfl
    by_cases hi : ∃ hd ok, i = .rpfCommit hd ok
    · obtain ⟨hd, ok, rfl⟩ := hi
      obtain ⟨-, hm, hc⟩ := exec_rpfCommit_keeps hd ok { s with pending := rest }
      rw [ht] at hm hc
      exact ⟨hm, hc.imp_right fun hc => ⟨⟨hd, ok, by rw [hp]; rfl⟩, hc⟩⟩
    · obtain ⟨-, hm, hc⟩ := exec_keep i { s with pending := rest } (fun hd ok he => hi ⟨hd, ok, he⟩)
      rw [ht] at hm hc
      exact ⟨hm, .inl hc⟩
  · cases h
    obtain ⟨-, hm, hc⟩ := tick_keep s
    exact ⟨hm, .inl hc⟩

theorem le_raiseTo (n : Nat) (x : Option Signed) : n ≤ raiseTo n x := by
  cases x with
  | none => exact Nat.le_refl n
  | some o => exact Nat.le_max_left n o.svn

theorem raiseTo_map {α : Type} (f : α → Signed) (n : Nat) {o : Option α} {x : α} (h : o = some x) :
    raiseTo n (o.map f) = max n (f x).svn := by rw [h]; rfl

/-! ### Host commands -/

theorem exec_hostOf {i : Instr} {h : CmdHdr} {op : Nat} (hi : hostOf i = some (h, op)) : ∃ f, ∀ s, exec i s = hostCmd h op f s := by
  cases i with
  | genSubmit | genCancel | genCurtain | lrnBind | lrnSkip | optGset | flyNow | roleSwitch | expSeal | wtLoad | wtReady | wtRelease | wtTable | lrKey
    | trpMap | trpQpush | trpSwitch | trpCtxPut | trpCtxGet | trpRestore | trpTeardown | ckptTake | ckptBuf | ckptStored | ckptDiscard | ckptCursor |
    ckptRestore | rplCompare | undStage | ensSubstitute | queueCreate | queueDelete | evqBind | ensReadmit | castApply | castStore | fwStage |
    fwSelect | recGet | attReport | keySession | ownInstall | reset | coreRetire | rpfCommit =>
    simp only [hostOf, Option.some.injEq, Prod.mk.injEq] at hi
    obtain ⟨rfl, rfl⟩ := hi
    dsimp only [exec]; exact ⟨_, fun _ => rfl⟩
  | _ => exact nomatch hi

theorem hostCmd_waits {h : CmdHdr} {op : Nat} {s : State} (f : State → State) (hw : hostWaits s h op = true) : hostCmd h op f s = .next s := by
  unfold hostCmd
  split
  · rfl
  · exact if_pos hw

/-- A command that the boot state does not accept completes with BOOT_STATE (R410). -/
theorem hostCmd_refused {h : CmdHdr} {op : Nat} {s : State} (f : State → State) (ha : s.alive = true) (hw : hostWaits s h op = false)
    (hb : bootAccepts s.boot op = false) : hostCmd h op f s = .next (complete h op stBootState s) := by
  simp only [hostWaits] at hw
  simp [hostCmd, nextS, ha, hw, hb]

/-! ### The statements -/

/-- Settles O5: only RPF_COMMIT changes the counters, and each of its new values is a maximum with the old one. -/
theorem countersRiseOnlyByCommit : Obligations.CountersRiseOnlyByCommit := by
  refine ⟨fun s t h => ?_, fun s h ha => ?_, fun s x type area hok hlt => ?_⟩
  · obtain ⟨-, hc⟩ := step_counters h
    refine ⟨fun hn => hc.elim id fun ⟨⟨hd, ok, hp⟩, _⟩ => absurd hp (hn hd ok), ?_⟩
    rcases hc with hc | ⟨-, hc⟩ <;> rw [hc]
    · simp
    · simp only [committed, le_raiseTo, and_self]
  · dsimp only [Gives, exec]
    exact ⟨_, hostCmd_accepted h opRpfCommit _ s ha, fun _ hx => raiseTo_map _ _ hx, fun _ hx => raiseTo_map _ _ hx,
      fun _ hx => raiseTo_map _ _ hx, fun _ hx => raiseTo_map _ _ hx, fun _ hx => raiseTo_map _ _ hx, fun _ hx => raiseTo_map _ _ hx,
      fun _ hx => raiseTo_map _ _ hx⟩
  · simp [judgeSigned, hok, hlt]

/-- Settles O6: every row keeps the module record, RPF_COMMIT and the idle cycle too. -/
theorem moduleRecordIsFixed : Obligations.ModuleRecordIsFixed := fun _ _ h => (step_counters h).1

/-- Settles O3. -/
theorem everyCommandCompletes : Obligations.EveryCommandCompletes := exec_next

/-- Settles O4. -/
theorem commandsLeaveTheQueue : Obligations.CommandsLeaveTheQueue := by
  intro i s t h
  have ht : stateAfter s (exec i s) = t := by rw [h]; rfl
  rw [← ht]
  by_cases hi : ∃ hd ok, i = .rpfCommit hd ok
  · obtain ⟨hd, ok, rfl⟩ := hi
    exact (exec_rpfCommit_keeps hd ok s).1
  · exact (exec_keep i s fun hd ok he => hi ⟨hd, ok, he⟩).1

/-- Settles O7: what a held module does follows from the way in which each row is carried out. -/
theorem heldModuleDoesNothing : Obligations.HeldModuleDoesNothing := by
  intro i s
  refine ⟨fun hs ho => (exec_acts i ho).2 s hs, fun h op ha hh => ?_⟩
  obtain ⟨f, hf⟩ := exec_hostOf hh
  exact ⟨fun hw => (hf s).trans (hostCmd_waits f hw), fun hw hb => (hf s).trans (hostCmd_refused f ha hw hb)⟩

end Sys2Proof.Machine
end

section
/-! Core instructions that compute in the core itself: how one issues or is refused, and the results of the CTRL, VEC, FUNC, VMEM, XPOSE and MAT classes. -/

namespace Sys2Proof.Machine

/-! ### Issue and refusal of a row -/

section
variable {m : Host.Outcome State Fault Refusal} {c : Nat} {nd : Bool} {body : State → Issue} {s t : State} {P : State → Prop}

/-- A row whose body answers has the body's effect. -/
theorem issue_gives (hm : m = coreIssue c nd body s) (hi : issues s c = true) (hb : body (issueState c nd s) = .ok t) (hP : P t) :
    ∃ u, m = .next u ∧ P u :=
  ⟨t, hm.trans (coreIssue_ok c nd body s t hi hb), hP⟩

theorem issue_next (hm : m = coreIssue c nd body s) (hi : issues s c = true) (hb : body (issueState c nd s) = .ok t) : m = .next t :=
  hm.trans (coreIssue_ok c nd body s t hi hb)

/-- A row whose body refuses halts its list (R84). -/
theorem refuse_gives {code : Nat} (hm : m = coreIssue c nd body s) (hi : issues s c = true) (hb : body (issueState c nd s) = .refuse code)
    (hP : P (refuseCore c code s)) : ∃ u, m = .next u ∧ P u :=
  ⟨_, hm.trans (coreIssue_refuse c nd body s code hi hb), hP⟩

end

/-- An issue changes no part of the core but its registers: what reads none of them reads the same. -/
theorem issueState_core_regs (c : Nat) (nd : Bool) (s : State) : ∃ r, (issueState c nd s).core c = { s.core c with regs := r } :=
  ⟨_, issueState_core c nd s⟩

@[simp] theorem issueState_fresh (c : Nat) (nd : Bool) (s : State) : (issueState c nd s).fresh = s.fresh := by
  have h := congrArg State.fresh (issueState_rest c nd s); exact h

@[simp] theorem issueState_coreKey (c : Nat) (nd : Bool) (s : State) : coreKey (issueState c nd s) c = coreKey s c := by
  simp [coreKey]

/-! ### Registers of a core after a write -/

theorem Core.sGet_sPut (k : Core) (r q : Nat) (x : Word) : (k.sPut r x).sGet q = if q = r then x else k.sGet q := mapGet_put _ _ _ _ _
theorem Core.tagGet_tagPut (k : Core) (r q : Nat) (x : Word) : (k.tagPut r x).tagGet q = if q = r then x else k.tagGet q :=
  mapGet_put _ _ _ _ _

/-- The other cores keep what they held when core `c` is written after its issue. -/
theorem core_other_setCore_issue (c : Nat) (nd : Bool) (s : State) (k : Core) (d : Nat) (h : d ≠ c) :
    ((issueState c nd s).setCore c k).core d = s.core d := by
  rw [State.core_setCore_other _ _ h, issueState_core_other c d nd s h]

/-! ### Refusal (R84) -/

/-- Settles O10: each of the three bodies refuses, and a refusal is `refuseCore`. -/
theorem refusalHaltsTheListAtTheInstruction : Obligations.RefusalHaltsTheListAtTheInstruction := by
  intro c w target sem count s hi
  have refused : ∀ code, let t := refuseCore c code s
      (t.core c).regs = { (s.core c).regs with
        state := .faulted, fault := true
        faultCode := (if (s.core c).regs.fault then (s.core c).regs.faultCode else code)
        faultPc := (if (s.core c).regs.fault then (s.core c).regs.faultPc else (s.core c).regs.pc) } ∧
      (t.core c).v = (s.core c).v ∧ (t.core c).store = (s.core c).store ∧ (t.core c).s = (s.core c).s ∧
      (∀ d, d ≠ c → t.core d = s.core d) ∧ t.sems = s.sems ∧ t.mem = s.mem := by
    intro code
    dsimp only
    rw [refuseCore_core]
    exact ⟨rfl, rfl, rfl, rfl, fun d hd => refuseCore_core_other c d code s hd, refuseCore_sems c code s, refuseCore_mem c code s⟩
  dsimp only [Gives, exec]
  refine ⟨fun hv => ?_, fun ht => ?_, ?_⟩
  · exact refuse_gives rfl hi (by simp [vecBody, hv]) (refused _)
  · exact refuse_gives rfl hi (if_pos ht) (refused _)
  · exact refuse_gives rfl hi rfl (refused _)

/-! ### The CTRL class (R52) -/

theorem branchTo_ok {c target : Nat} {s : State} (h1 : target % 16 = 0) (h2 : target < storeBytes) :
    branchTo c target s = .ok (s.modRegs c (fun r => { r with pc := target })) := by
  have h3 : ¬ storeBytes ≤ target := Nat.not_le.2 h2
  simp [branchTo, h1, h3]

/-- A sum that fits the width is the result (R52, R71). -/
theorem intResult_add {w a b : Nat} (i : Int) (h : a + b < 2 ^ w) : intResult w 0 a b ((a : Int) + b) i = a + b := by
  have hlt : ((a : Int) + b) < (2 : Int) ^ w := by exact_mod_cast h
  have hnn : (0 : Int) ≤ (a : Int) + b := by omega
  simp only [intResult, hlt, hnn, decide_true, Bool.and_self, Bool.true_or, if_true, toTwos]
  rw [Int.emod_eq_of_lt hnn hlt]
  omega

/-- Settles O11: each row of the class by what its body answers in the state of its issue. -/
theorem controlInstructionResults : Obligations.ControlInstructionResults := by
  intro c nd s hi
  dsimp only [Gives, exec]
  have other := core_other_setCore_issue c nd s
  refine ⟨?_, ?_, ?_, fun target h1 h2 => ?_, fun r target hv h1 h2 => ?_, fun r target hv => ?_, fun code rd ra rb => ?_,
    fun op rd ra rb v hv => ?_, fun rd ra rb hv => ?_, fun tag addr h => ?_, fun tag addr h => ?_⟩
  · exact issue_next rfl hi rfl
  · exact issue_next rfl hi rfl
  · refine issue_gives rfl hi rfl ⟨?_, fun d hd => ?_, ?_, ?_, ?_⟩
    · rw [checkBarriers_core, State.core_modRegs_same]
    · rw [checkBarriers_core]; exact other _ d hd
    · rw [checkBarriers_mem, State.modRegs_mem, issueState_mem]
    · rw [checkBarriers_sems, State.modRegs_sems, issueState_sems]
    · rw [checkBarriers_troupes, State.modRegs_troupes, issueState_troupes]
  · exact issue_gives rfl hi (branchTo_ok h1 h2) ⟨State.core_modRegs_same .., regsFrame_modRegs ..⟩
  · refine issue_gives rfl hi ((if_pos hv).trans (branchTo_ok h1 h2)) ?_
    simp only [State.core_modRegs_same, State.core_modCore_same]
    refine ⟨?_, trivial, fun q hq => ?_, rfl, fun d hd => ?_, rfl⟩
    · exact (Core.sGet_sPut ..).trans (if_pos rfl)
    · exact (Core.sGet_sPut ..).trans (if_neg hq)
    · rw [State.core_modRegs_other _ _ hd]; exact other _ d hd
  · refine issue_gives rfl hi (if_neg (Nat.not_lt.2 hv)) ?_
    simp only [State.core_modCore_same]
    refine ⟨?_, rfl, other _⟩
    rw [Core.sGet_sPut, if_pos rfl, Nat.sub_eq_zero_of_le hv]; rfl
  · refine refuse_gives rfl hi rfl ?_
    rw [refuseCore_core]
    exact ⟨rfl, rfl, rfl, fun hf => by simp [hf]⟩
  · refine issue_gives (t := (issueState c nd s).setCore c (((issueState c nd s).core c).sPut rd (BitVec.ofNat 64 v))) rfl hi (by simp only [hv]) ?_
    simp only [State.core_setCore_same]
    exact ⟨(Core.sGet_sPut ..).trans (if_pos rfl), fun q hq => (Core.sGet_sPut ..).trans (if_neg hq), rfl, other _, rfl⟩
  · refine issue_gives rfl hi rfl ?_
    rw [State.core_setCore_same, Core.sGet_sPut, if_pos rfl, intResult_add _ hv, BitVec.toNat_ofNat, Nat.mod_eq_of_lt hv]
  · refine issue_gives rfl hi (if_neg (Nat.not_lt.2 h)) ?_
    simp only [State.core_modCore_same]
    exact ⟨(Core.tagGet_tagPut ..).trans (if_pos rfl), fun q hq => (Core.tagGet_tagPut ..).trans (if_neg hq), rfl, other _, rfl⟩
  · refine issue_gives rfl hi (if_neg (Nat.not_lt.2 h)) ?_
    simp only [State.core_modCore_same]
    refine ⟨?_, fun a ha => Memory.read_writeN_outside _ _ _ _ (by simpa using ha), trivial, other _, rfl⟩
    rw [Memory.nat_putNat]
    exact Nat.mod_eq_of_lt (BitVec.isLt _)

/-! ### The VEC class (R69 to R71) -/

section
variable {m : Host.Outcome State Fault Refusal} {c lanes : Nat} {w : VecWord} {s : State}

/-- An elementwise row: its operation `f` reads the core as it stood, and no register of the core block. -/
theorem vec_gives {body : State → Issue} {f : Core → Nat → F32} {g : Nat → F32} (hm : m = coreIssue c w.nd body s)
    (hb : body (issueState c w.nd s) = vecBody c w lanes f (issueState c w.nd s)) (hi : issues s c = true) (hv : vlOk w = true)
    (hf : ∀ r, f { s.core c with regs := r } = g) : ∃ t, m = .next t ∧ Elementwise c w g (issueState c w.nd s) t := by
  have hk : f ((issueState c w.nd s).core c) = g := by rw [issueState_core]; exact hf _
  rw [← hk]
  exact issue_gives hm hi (hb.trans (by simp only [vecBody, hv]; rfl)) (elementwise_of c w _ _ _ hv)

theorem cmp_gives {f : F32 → F32 → Bool} (hm : m = coreIssue c w.nd (cmpBody c w f) s) (hi : issues s c = true) (hv : vlOk w = true) :
    ∃ t, m = .next t ∧ Compares c w (fun i => f ((s.core c).vGet w.va i) ((s.core c).vGet w.vb i)) (issueState c w.nd s) t := by
  have he := compares_of c w (fun i => f ((s.core c).vGet w.va i) ((s.core c).vGet w.vb i)) (ceilDiv w.vl 64) (issueState c w.nd s) hv
  exact issue_gives hm hi (by simp only [cmpBody, hv, issueState_vGet]; rfl) he

theorem reduce_gives {f : Core → F32} {x : F32} (hm : m = coreIssue c w.nd (reduceBody c w f) s) (hi : issues s c = true) (hv : vlOk w = true)
    (hf : ∀ r, f { s.core c with regs := r } = x) : ∃ t, m = .next t ∧ Reduces c w x (issueState c w.nd s) t := by
  have hk : f ((issueState c w.nd s).core c) = x := by rw [issueState_core]; exact hf _
  rw [← hk]
  exact issue_gives hm hi (by simp only [reduceBody, hv]; rfl) (reduces_of c w _ _ _)

end

/-- Settles O12: every row is an elementwise one, and its operation reads vector registers alone. -/
theorem vectorElementResults : Obligations.VectorElementResults := by
  refine ⟨fun a b h => ?_, fun c w s hi hv => ?_⟩
  · rw [vecIntAdd, intResult_add _ h, BitVec.toNat_ofNat, Nat.mod_eq_of_lt h]
  dsimp only [Gives, exec]
  refine ⟨?_, ?_, ?_, ?_, ?_, ?_, ?_, ?_, ?_, ?_, ?_, ?_, ?_, ?_⟩ <;> exact vec_gives rfl rfl hi hv fun _ => rfl

/-- Settles O13. -/
theorem compareResults : Obligations.CompareResults := by
  intro c w s hi hv
  dsimp only [Gives, exec]
  exact ⟨cmp_gives rfl hi hv, cmp_gives rfl hi hv, cmp_gives rfl hi hv, cmp_gives rfl hi hv, cmp_gives rfl hi hv⟩

/-- Settles O14. -/
theorem reductionResults : Obligations.ReductionResults := by
  intro c w s hi hv
  dsimp only [Gives, exec]
  refine ⟨?_, ?_, ?_, ?_⟩ <;> exact reduce_gives rfl hi hv fun _ => rfl

/-! ### Scatters (R71) -/

/-- The last element of a range that a test finds. -/
theorem find_reverse_range {p : Nat → Bool} {n i : Nat} (hn : i < n) (hp : p i = true) (hlast : ∀ j, i < j → j < n → p j = false) :
    (List.range n).reverse.find? p = some i := by
  induction n with
  | zero => omega
  | succ n ih =>
    rw [List.range_succ, List.reverse_append, List.reverse_singleton, List.singleton_append, List.find?_cons]
    by_cases he : i = n
    · rw [← he, hp]
    · rw [hlast n (by omega) (by omega)]
      exact ih (by omega) fun j h1 h2 => hlast j h1 (by omega)

theorem scatterVal_last {k : Core} {w : VecWord} {i : Nat} (hi : i < w.vl)
    (hlast : ∀ j, i < j → j < w.vl → permIndex (k.vGet w.vb j).toNat ≠ permIndex (k.vGet w.vb i).toNat) :
    scatterVal k w (permIndex (k.vGet w.vb i).toNat) = k.vGet w.va i := by
  rw [scatterVal, find_reverse_range hi (by simp) fun j h1 h2 => by simpa using hlast j h1 h2]

theorem scatterVal_unnamed {k : Core} {w : VecWord} {e : Nat} (h : ∀ i, i < w.vl → permIndex (k.vGet w.vb i).toNat ≠ e) :
    scatterVal k w e = k.vGet w.vd e := by
  have hn : (List.range w.vl).reverse.find? (fun i => permIndex (k.vGet w.vb i).toNat == e) = none := by
    rw [List.find?_eq_none]; intro i hi; simpa using h i (by simpa using hi)
  rw [scatterVal, hn]

/-- One addition of a scatter-add into the store of `k'`, with what `k` held when the instruction issued. -/
def scatAddStep (k : Core) (w : VecWord) (k' : Core) (i : Nat) : Core :=
  let a := scatAddr k w i
  { k' with store := k'.store.putNat a 4 (f32Add (BitVec.ofNat 32 (k'.store.nat a 4)) (k.vGet w.va i)).toNat }

theorem scatAddAll_eq (k : Core) (w : VecWord) (order : List Nat) : scatAddAll k w order = order.foldl (scatAddStep k w) k := rfl

/-- Adding changes the core's store alone, and reads no register of the core block. -/
theorem scatAddAll_regs (k : Core) (r : CoreRegs) (w : VecWord) (order : List Nat) :
    scatAddAll { k with regs := r } w order = { k with regs := r, store := (scatAddAll k w order).store } := by
  simp only [scatAddAll_eq]
  have key : ∀ k' : Core, { k' with store := k.store } = k → order.foldl (scatAddStep { k with regs := r } w) { k' with regs := r } =
      { k with regs := r, store := (order.foldl (scatAddStep k w) k').store } := by
    induction order with
    | nil => intro k' h; exact congrArg (fun x : Core => { x with regs := r, store := k'.store }) h
    | cons i order ih => exact fun k' h => ih (scatAddStep k w k' i) h
  exact key k rfl

theorem insertBy_perm (rank : Nat → Nat) (i : Nat) (xs : List Nat) : (insertBy rank i xs).Perm (i :: xs) := by
  induction xs with
  | nil => exact .refl _
  | cons j js ih =>
    rw [insertBy]; split
    · exact .refl _
    · exact (ih.cons j).trans (.swap i j js)

theorem arrivalOrder_perm (n : Nat) (xs : List Nat) : (arrivalOrder n xs).Perm xs := by
  induction xs with
  | nil => exact .refl _
  | cons i xs ih => exact (insertBy_perm _ i _).trans (ih.cons i)

theorem selected_issue (c : Nat) (nd : Bool) (s : State) (w : VecWord) : selected ((issueState c nd s).core c) w = selected (s.core c) w := by
  rw [issueState_core]; rfl

/-- A scatter-add whose words lie in the store adds its elements in the order given. -/
theorem scatAddBody_ok {c : Nat} {w : VecWord} {s : State} (t : State) (order : List Nat) (hv : vlOk w = true)
    (hin : ∀ i ∈ selected (s.core c) w, scatAddr (s.core c) w i + 4 ≤ storeBytes) :
    scatAddBody c w (issueState c w.nd s) order t = .ok (chargeVec c (ceilDiv w.vl 16) (t.setCore c
      { (issueState c w.nd s).core c with store := (scatAddAll (s.core c) w order).store })) := by
  have hsel : (selected ((issueState c w.nd s).core c) w).any
      (fun i => storeBytes < scatAddr ((issueState c w.nd s).core c) w i + 4) = false := by
    rw [selected_issue, List.any_eq_false]
    intro i hi
    have := hin i hi
    simpa [scatAddr] using this
  simp only [scatAddBody, hv, hsel]
  rw [issueState_core, scatAddAll_regs]; rfl

/-- Settles O15: the three scatters by their bodies, and the free order as a permutation. -/
theorem scatterResults : Obligations.ScatterResults := by
  intro c w s hi hv
  dsimp only [Gives, exec]
  refine ⟨vec_gives rfl rfl hi hv fun _ => rfl, fun i => scatterVal_last, fun e => scatterVal_unnamed, fun hin => ⟨?_, fun hnd => ?_⟩, fun hnd => ?_⟩
  · refine issue_gives rfl hi (scatAddBody_ok _ _ hv hin) ?_
    rw [selected_issue]
    exact stores_of ..
  · have hd : (issueState c w.nd s).draw.2 = { issueState c w.nd s with fresh := s.fresh + 1 } := by rw [State.draw, issueState_fresh]
    refine issue_gives rfl hi ((if_neg (by simp [hnd])).trans (scatAddBody_ok _ _ hv hin))
      ⟨arrivalOrder (issueState c w.nd s).fresh (selected ((issueState c w.nd s).core c) w), ?_, ?_⟩
    · exact (arrivalOrder_perm _ _).trans (.of_eq (selected_issue c w.nd s w))
    · rw [← hd]; exact stores_of ..
  · refine refuse_gives rfl hi (by simp [hnd]; rfl) ?_
    rw [refuseCore_core]
    exact ⟨rfl, rfl, fun hf => by simp [hf]⟩

end Sys2Proof.Machine
end

section
/-! The rows that read and write the core store: function tables, vector loads and stores, transposes, planes and matrix products. -/

namespace Sys2Proof.Machine

/-! ### Function tables (R73 to R75) -/

theorem slotHalf_issue (c : Nat) (nd : Bool) (s : State) (fs kind : Nat) :
    slotHalf ((issueState c nd s).core c) fs kind = mapFind (s.core c).slots (2 * fs + kind) := by
  rw [slotHalf, issueState_slots]

/-- Settles O16: a table that is there gives an elementwise row, an empty half a refusal. -/
theorem functionTableResults : Obligations.FunctionTableResults := by
  intro c fs w s hi hfs
  have hfs' : ¬ 8 ≤ fs := Nat.not_le.2 hfs
  have hf := slotHalf_issue c w.nd s fs
  dsimp only [Gives, exec]
  refine ⟨fun tab hv ht => ?_, fun tab hv ht => ?_, fun hv ht => ?_, fun nd addr kind tab h hp => ?_⟩
  · refine vec_gives (lanes := 64) (f := fun k i => tab.eval (k.vGet w.va i)) rfl ?_ hi hv fun _ => rfl
    simp [funcBody, hfs', hv, hf, ht]
  · refine vec_gives (lanes := 64) (f := fun k i => f32Mul (k.vGet w.vb i) (tab.eval (k.vGet w.va i))) rfl ?_ hi hv fun _ => rfl
    simp [funcdBody, hfs', hv, hf, ht]
  · refine refuse_gives rfl hi (by simp [funcBody, hfs', hv, hf, ht]; rfl) ?_
    rw [refuseCore_core]
    exact ⟨rfl, rfl, fun hn => by simp [hn]⟩
  · have hb : floadBody c fs addr (issueState c nd s) = .ok ((issueState c nd s).setCore c
        { (issueState c nd s).core c with slots := mapPut (s.core c).slots (2 * fs + kind) tab }) := by
      simp [floadBody, hfs', Nat.not_lt.2 h, hp]
    refine issue_gives rfl hi hb ?_
    simp only [State.core_setCore_same]
    exact ⟨mapFind_put_same .., fun j hj => mapFind_put_other _ _ hj, by simp only [← issueState_slots c nd s], core_other_setCore_issue c nd s _, rfl⟩

/-! ### Conditions of an instruction (R47, R48) -/

/-- CORE_ARITH after an instruction that raised `a`. -/
theorem noteArith_flags (c : Nat) (a : ArithRep) (s : State) :
    ∃ n, (noteArith c a s).core c = { s.core c with arith := n } ∧ n.nf = ((s.core c).arith.nf || a.nf) ∧
      n.convSat = ((s.core c).arith.convSat || a.sat) ∧ n.awLow = ((s.core c).arith.awLow || a.low) ∧
      n.awHigh = ((s.core c).arith.awHigh || a.high) := by
  unfold noteArith
  dsimp only
  refine ⟨{ (s.core c).arith with
    nf := (s.core c).arith.nf || a.nf, awLow := (s.core c).arith.awLow || a.low, awHigh := (s.core c).arith.awHigh || a.high
    convSat := (s.core c).arith.convSat || a.sat
    nfCount := (if a.nf then inc16 (s.core c).arith.nfCount else (s.core c).arith.nfCount)
    awCount := (if a.low || a.high then inc16 (s.core c).arith.awCount else (s.core c).arith.awCount)
    satCount := (if a.sat then inc16 (s.core c).arith.satCount else (s.core c).arith.satCount) }, ?_, rfl, rfl, rfl, rfl⟩
  (repeat' split) <;> simp only [raiseEvent_core, State.core_setCore_same]

/-- A saturated conversion raises no event: it changes the core alone. -/
theorem noteArith_sat (c : Nat) (b : Bool) (s : State) :
    ∃ n, noteArith c { sat := b } s = s.setCore c { s.core c with arith := n } ∧ n.convSat = ((s.core c).arith.convSat || b) := by
  unfold noteArith
  exact ⟨_, by simp; rfl, rfl⟩

theorem mapPut_put_same {α : Type} (m : Map α) (k : Nat) (v v' : α) : mapPut (mapPut m k v) k v' = mapPut m k v' := by
  induction m with
  | nil => simp [mapPut]
  | cons e m ih =>
    obtain ⟨j, w⟩ := e
    rcases Nat.lt_trichotomy k j with h | h | h
    · simp [mapPut, h]
    · simp [mapPut, h]
    · have h1 : ¬ k < j := by omega
      have h2 : ¬ j = k := by omega
      simp [mapPut, h1, h2, ih]

/-- Writing one core twice is writing it once. -/
theorem State.setCore_setCore (s : State) (c : Nat) (k k' : Core) : (s.setCore c k).setCore c k' = s.setCore c k' := by
  simp only [State.setCore, mapPut_put_same]

/-- What a core holds after its conditions are noted and its troupe is charged. -/
theorem noted_core_other (c d : Nat) (f : Acct → Acct) (a : ArithRep) (nd : Bool) (k : Core) (s : State) (h : d ≠ c) :
    (chargeTroupe c f (noteArith c a ((issueState c nd s).setCore c k))).core d = s.core d := by
  rw [chargeTroupe_core, noteArith_core_other c d _ _ h, core_other_setCore_issue c nd s k d h]

theorem chargeTroupe_mem (c : Nat) (f : Acct → Acct) (s : State) : (chargeTroupe c f s).mem = s.mem := by
  have h := congrArg State.mem (chargeTroupe_spec c f s).2; exact h

theorem chargeTroupe_sems (c : Nat) (f : Acct → Acct) (s : State) : (chargeTroupe c f s).sems = s.sems := by
  have h := congrArg State.sems (chargeTroupe_spec c f s).2; exact h

/-! ### Vector loads and stores (R71) -/

/-- Settles O17: what a core reads as it issues is what it held, so the load and the store work on `k`. -/
theorem vectorMemoryResults : Obligations.VectorMemoryResults := by
  intro c w s hi hv k s1 tg hti hin
  obtain ⟨r, hr⟩ := issueState_core_regs c w.nd s
  have hk : s1.core c = { k with regs := r } := hr
  have hvl : w.vl ≤ 256 := by
    simp only [vlOk, Bool.and_eq_true, decide_eq_true_eq] at hv; exact hv.2
  have htg : (s1.core c).tagGet w.tg = tg := issueState_tagGet c w.nd s w.tg
  dsimp only [Gives, exec]
  refine ⟨?_, fun hrnd => ?_⟩
  · let val := fun i => (widen tg (nth (0, 127) (vmemElems k tg w) i)).1
    let sat := (selected k w).any (fun i => (widen tg (nth (0, 127) (vmemElems k tg w) i)).2)
    have hb : vmemLoadBody c w s1 = .ok (chargeVec c (ceilDiv w.vl 64)
        (noteArith c { sat := sat } (s1.setCore c (vecWrite (s1.core c) w val)))) := by
      simp only [vmemLoadBody, hv, htg, hti, Nat.not_lt.2 hin]
      rw [hk]; rfl
    obtain ⟨n, hn, hsat⟩ := noteArith_sat c sat (s1.setCore c (vecWrite (s1.core c) w val))
    rw [State.setCore_setCore, State.core_setCore_same] at hn
    rw [State.core_setCore_same] at hsat
    rw [hn] at hb
    obtain ⟨h1, h2, h3⟩ := vecWrite_spec (s1.core c) w val hvl
    have harith : (vecWrite (s1.core c) w val).arith = k.arith := by
      have := congrArg Core.arith h3; rw [hk] at this; rw [hk]; exact this
    refine issue_gives rfl hi hb ?_
    have ht : (chargeVec c (ceilDiv w.vl 64) (s1.setCore c { vecWrite (s1.core c) w val with arith := n })).core c =
      { vecWrite (s1.core c) w val with arith := n } := by rw [chargeVec, chargeTroupe_core, State.core_setCore_same]
    rw [ht]
    refine ⟨fun i hi => ?_, fun q i hi hq => ?_, ?_, ?_, chargeTroupe_frame ..⟩
    · refine (h1 i hi).trans ?_
      rw [hk]; rfl
    · refine (h2 q i hi hq).trans ?_
      rw [hk]; rfl
    · rw [hsat, harith]
    · have h4 := congrArg (fun x : Core => { x with arith := k.arith }) h3
      rw [hk] at h4 ⊢
      exact h4
  · let o := vmemStored k w (coreKey s c)
    have hb : vmemStoreBody c w s1 = .ok (chargeVec c (ceilDiv w.vl 64) (noteArith c { nf := o.2.nf, sat := o.2.sat }
        (s1.setCore c ({ s1.core c with store := (s1.core c).store.writeN (w.addr * 128) o.1 }.tagPut w.tg (tagOr tg o.2.nf false))))) := by
      have hkey : coreKey s1 c = coreKey s c := issueState_coreKey c w.nd s
      simp only [vmemStoreBody, hv, htg, hti, Nat.not_lt.2 hin, hkey]
      rw [hk]
      simp [hrnd, o]; rfl
    refine issue_gives rfl hi hb ?_
    obtain ⟨n, hn, -⟩ := noteArith_flags c { nf := o.2.nf, sat := o.2.sat }
        (s1.setCore c ({ s1.core c with store := (s1.core c).store.writeN (w.addr * 128) o.1 }.tagPut w.tg (tagOr tg o.2.nf false)))
    rw [chargeVec, chargeTroupe_core, hn, State.core_setCore_same, chargeTroupe_mem, noteArith_mem, chargeTroupe_sems, noteArith_sems]
    refine ⟨?_, fun a ha => ?_, ?_, fun q hq => ?_, ?_, fun d hd => noted_core_other c d _ _ w.nd _ s hd, issueState_mem .., issueState_sems ..⟩
    · rw [hk]; rfl
    · rw [hk]; exact Memory.read_writeN_outside _ _ _ _ ha
    · exact (Core.tagGet_tagPut ..).trans (if_pos rfl)
    · refine (Core.tagGet_tagPut ..).trans ((if_neg hq).trans ?_)
      rw [hk]; rfl
    · rw [hk]; rfl

/-! ### Planes, the drain buffer and transposes (R61, R67, R68) -/

/-- The drain buffer without the rows that MZERO clears. -/
theorem mapGet_zeroRows (m : Map F32) (a b r j : Nat) (hj : j < 128) :
    mapGet 0 (m.filter (fun e => e.1 < 128 * a || 128 * (a + b + 1) ≤ e.1)) (128 * r + j) =
      if a ≤ r ∧ r ≤ a + b then 0 else mapGet 0 m (128 * r + j) := by
  have hf := mapFind_filter m (fun x => decide (x < 128 * a) || decide (128 * (a + b + 1) ≤ x)) (128 * r + j)
  simp only [mapGet, hf]
  by_cases h : a ≤ r ∧ r ≤ a + b
  · have h1 : ¬ 128 * r + j < 128 * a := by omega
    have h2 : ¬ 128 * (a + b + 1) ≤ 128 * r + j := by omega
    simp [h, h1, h2]
  · have h1 : 128 * r + j < 128 * a ∨ 128 * (a + b + 1) ≤ 128 * r + j := by omega
    simp [h, h1]

/-- Settles O18. -/
theorem planeDrainAndTransposeResults : Obligations.PlaneDrainAndTransposeResults := by
  intro c w x s hi k s1 pair n
  obtain ⟨r, hr⟩ := issueState_core_regs c w.nd s
  have hk : s1.core c = { k with regs := r } := hr
  dsimp only [Gives, exec]
  refine ⟨fun hbad hin => ?_, fun hd => ?_, fun hd hf => ?_, fun hx => ?_⟩
  · let p : Plane := { filled := true, pair := pair, data := k.store.readN (matBase k w w.bbase) n }
    have hb : mfillBody c w s1 = .ok (s1.setCore c (if w.pl then { s1.core c with planeB := p } else { s1.core c with planeA := p })) := by
      unfold mfillBody
      rw [hk]
      exact (if_neg (by rw [Bool.not_eq_true]; exact hbad)).trans (if_neg (Nat.not_lt.2 hin))
    refine issue_gives rfl hi hb ?_
    rw [State.core_setCore_same]
    refine ⟨?_, ?_, core_other_setCore_issue c w.nd s _, rfl⟩
    · cases w.pl <;> rfl
    · rw [hk]; cases w.pl <;> rfl
  · refine issue_gives rfl hi (if_neg (Nat.not_lt.2 hd)) ?_
    rw [State.core_modCore_same]
    refine ⟨fun q j hj => ?_, by rw [issueState_core], core_other_setCore_issue c w.nd s _, rfl⟩
    rw [issueState_drain]
    exact mapGet_zeroRows _ _ _ _ _ hj
  · refine refuse_gives rfl hi (if_pos hd) ?_
    rw [refuseCore_core]
    exact ⟨by simp [show (s.core c).regs.fault = false from hf], rfl⟩
  · have hb : xposeBody c x (issueState c x.nd s) = .ok ((issueState c x.nd s).modCore c (fun k => { k with store := xposeStore k x })) := by
      unfold xposeBody
      rw [show xposeRefusal ((issueState c x.nd s).core c) x = none by rw [issueState_core]; exact hx]
    refine issue_gives rfl hi hb ?_
    rw [State.core_modCore_same, issueState_core]
    exact ⟨rfl, rfl, core_other_setCore_issue c x.nd s _, rfl⟩

/-! ### Matrix products (R61) -/

/-- The fills of a product change the planes alone. -/
theorem planesAfter_frame (k : Core) (w : MatWord) (tb : Word) (pair : Bool) (base chunks : Nat) :
    { planesAfter k w tb pair base chunks with planeA := k.planeA, planeB := k.planeB } = k := by
  unfold planesAfter
  dsimp only
  refine List.foldlRecOn (motive := fun k' : Core => { k' with planeA := k.planeA, planeB := k.planeB } = k) _ _ rfl fun k' h g _ => ?_
  split
  · exact h
  · split <;> exact h

/-- The fills of a product read no register of the core block. -/
theorem planesAfter_regs (k : Core) (r : CoreRegs) (w : MatWord) (tb : Word) (pair : Bool) (base chunks : Nat) :
    planesAfter { k with regs := r } w tb pair base chunks = { planesAfter k w tb pair base chunks with regs := r } := by
  unfold planesAfter
  dsimp only
  refine List.foldl_hom (fun k' : Core => { k' with regs := r }) fun k' g => ?_
  split
  · rfl
  · split <;> rfl

/-- The core that a product leaves, before its conditions are noted. -/
def matCore (k : Core) (w : MatWord) (o : MatOut) : Core :=
  let k1 := planesAfter k w (k.tagGet w.tb) (pairForm (k.tagGet w.ta) (k.tagGet w.tb)) (matBase k w w.bbase) (w.nch + 1)
  { k1 with store := k1.store.writeN (matBase k w w.dbase) o.bytes, drain := drainPut k1.drain o.drain }.tagPut w.td
    (tagOr (k.tagGet w.td) o.rep.nf (o.acc.low || o.acc.high))

/-- A product reads no register of the core block. -/
theorem matOut_regs (k : Core) (r : CoreRegs) (w : MatWord) (xp : Bool) (key stream : Nat) :
    matOut { k with regs := r } w xp key stream = matOut k w xp key stream := rfl

theorem mmulBody_ok {c : Nat} {w : MatWord} {xp : Bool} {s : State} {o : MatOut} (h : mmulRefusal (s.core c) w xp = none)
    (ho : matOut (s.core c) w xp (coreKey s c) ((s.core c).fGet w.sri).toNat = o) :
    mmulBody c w xp s = .ok (chargeArray c ((w.mrows + 1) * ceilDiv (w.nch + 1) (if pairForm ((s.core c).tagGet w.ta) ((s.core c).tagGet w.tb) then 2 else 1))
      (noteArith c { nf := o.rep.nf, low := o.acc.low, high := o.acc.high, sat := o.rep.sat } (s.setCore c (matCore (s.core c) w o)))) := by
  subst ho
  simp only [mmulBody, h]; rfl

/-- The parts of the core that a product leaves, from those of the core that issued it. -/
theorem matCore_parts (k : Core) (r : CoreRegs) (w : MatWord) (o : MatOut) :
    let filled := planesAfter k w (k.tagGet w.tb) (pairForm (k.tagGet w.ta) (k.tagGet w.tb)) (matBase k w w.bbase) (w.nch + 1)
    matCore { k with regs := r } w o = { k with
      regs := r, planeA := filled.planeA, planeB := filled.planeB, store := k.store.writeN (matBase k w w.dbase) o.bytes
      drain := drainPut k.drain o.drain, tags := mapPut k.tags w.td (tagOr (k.tagGet w.td) o.rep.nf (o.acc.low || o.acc.high)) } := by
  intro filled
  have hf : planesAfter { k with regs := r } w (k.tagGet w.tb) (pairForm (k.tagGet w.ta) (k.tagGet w.tb)) (matBase k w w.bbase) (w.nch + 1) =
      { k with regs := r, planeA := filled.planeA, planeB := filled.planeB } := by
    rw [planesAfter_regs]
    exact congrArg (fun x : Core => { x with regs := r, planeA := filled.planeA, planeB := filled.planeB }) (planesAfter_frame k w _ _ _ _)
  exact congrArg (fun k1 : Core => { k1 with
    store := k1.store.writeN (matBase k w w.dbase) o.bytes, drain := drainPut k1.drain o.drain }.tagPut w.td
      (tagOr (k.tagGet w.td) o.rep.nf (o.acc.low || o.acc.high))) hf

/-- Settles O19: MMUL and MMULX share the body, which answers `matCore` or the refusal. -/
theorem matrixProductResults : Obligations.MatrixProductResults := by
  intro c w s hi k s1 after refused
  obtain ⟨r, hr⟩ := issueState_core_regs c w.nd s
  have hk : s1.core c = { k with regs := r } := hr
  have hafter : ∀ xp m, m = coreIssue c w.nd (mmulBody c w xp) s → mmulRefusal k w xp = none → ∃ t, m = .next t ∧ after xp t := by
    intro xp m hm hn
    have hn1 : mmulRefusal (s1.core c) w xp = none := by rw [hk]; exact hn
    have hkey : coreKey s1 c = coreKey s c := issueState_coreKey c w.nd s
    let o := matOut k w xp (coreKey s c) (k.fGet w.sri).toNat
    have ho : matOut (s1.core c) w xp (coreKey s1 c) ((s1.core c).fGet w.sri).toNat = o := by rw [hkey, hk]; exact matOut_regs ..
    have hb := mmulBody_ok hn1 ho
    rw [hk, matCore_parts] at hb
    obtain ⟨n, hn, hnf, hsat, hlow, hhigh⟩ := noteArith_flags c { nf := o.rep.nf, low := o.acc.low, high := o.acc.high, sat := o.rep.sat }
      (s1.setCore c (matCore { k with regs := r } w o))
    rw [State.core_setCore_same, matCore_parts] at hn hnf hsat hlow hhigh
    refine issue_gives hm hi hb ?_
    dsimp only [after]
    rw [chargeArray, chargeTroupe_core, chargeTroupe_mem, noteArith_mem, chargeTroupe_sems, noteArith_sems]
    refine ⟨congrArg Core.store hn, fun a ha => ?_, ?_, fun q hq => ?_, (congrArg Core.planeA hn :), (congrArg Core.planeB hn :), congrArg Core.drain hn,
      ?_, ?_, ?_, ?_, ?_, fun d hd => noted_core_other c d _ _ w.nd _ s hd, issueState_mem .., issueState_sems ..⟩
    · exact (congrArg (fun x : Core => x.store.read a) hn).trans (Memory.read_writeN_outside _ _ _ _ ha)
    · exact (congrArg (fun x : Core => x.tagGet w.td) hn).trans (mapGet_put_same ..)
    · exact (congrArg (fun x : Core => x.tagGet q) hn).trans (mapGet_put_other _ _ _ hq)
    · exact (congrArg (fun x : Core => x.arith.nf) hn).trans hnf
    · exact (congrArg (fun x : Core => x.arith.convSat) hn).trans hsat
    · exact (congrArg (fun x : Core => x.arith.awLow) hn).trans hlow
    · exact (congrArg (fun x : Core => x.arith.awHigh) hn).trans hhigh
    · rw [hk]
      exact congrArg (fun x : Core => { x with
        store := k.store, tags := k.tags, arith := k.arith, planeA := k.planeA, planeB := k.planeB, drain := k.drain }) hn
  have hrefused : ∀ xp code m, m = coreIssue c w.nd (mmulBody c w xp) s → mmulRefusal k w xp = some code → ∃ t, m = .next t ∧ refused code t := by
    intro xp code m hm hn
    have hb : mmulBody c w xp s1 = .refuse code := by
      have hn1 : mmulRefusal (s1.core c) w xp = some code := by rw [hk]; exact hn
      simp only [mmulBody, hn1]
    refine refuse_gives hm hi hb ?_
    dsimp only [refused]
    rw [refuseCore_core, refuseCore_mem]
    exact ⟨rfl, rfl, fun hf => by simp [show (s.core c).regs.fault = false from hf], rfl, rfl, rfl,
      fun d hd => refuseCore_core_other c d code s hd, rfl⟩
  dsimp only [Gives, exec]
  exact ⟨hafter false _ rfl, hafter true _ rfl, fun code => hrefused false code _ rfl, fun code => hrefused true code _ rfl⟩

end Sys2Proof.Machine
end

section
/-! The SYNC class, the ends of its waits, and the registers that start and stop a core. -/

namespace Sys2Proof.Machine

/-! ### The read of memory by a unit of the module -/

theorem FoundFrame.core {s t : State} (h : FoundFrame s t) (c : Nat) : t.core c = s.core c := State.core_congr h.cores c
theorem FoundFrame.troupe {s t : State} (h : FoundFrame s t) (u : Nat) : t.troupe u = s.troupe u := by simp only [State.troupe, h.troupes]

/-- Charging stack traffic changes the accounting of one troupe. -/
theorem chargeStacks_frame (u rd wr : Nat) (s : State) :
    { chargeStacks u rd wr s with troupes := s.troupes } = s ∧
      ∀ v, { (chargeStacks u rd wr s).troupe v with regs.acct := (s.troupe v).regs.acct } = s.troupe v := by
  unfold chargeStacks; split
  · refine ⟨rfl, fun v => ?_⟩
    by_cases h : v = u
    · subst h; rw [State.troupe_modTroupe_same]
    · rw [State.troupe_modTroupe_other _ _ h]
  · exact ⟨rfl, fun v => rfl⟩

@[simp] theorem chargeStacks_mem (u rd wr : Nat) (s : State) : (chargeStacks u rd wr s).mem = s.mem :=
  (congrArg State.mem (chargeStacks_frame u rd wr s).1 :)
@[simp] theorem chargeStacks_cores (u rd wr : Nat) (s : State) : (chargeStacks u rd wr s).cores = s.cores :=
  (congrArg State.cores (chargeStacks_frame u rd wr s).1 :)
@[simp] theorem chargeStacks_sems (u rd wr : Nat) (s : State) : (chargeStacks u rd wr s).sems = s.sems :=
  (congrArg State.sems (chargeStacks_frame u rd wr s).1 :)

theorem chargeReads_core (u : Nat) (rs : List (Nat × Nat)) (s : State) (c : Nat) : (chargeReads u rs s).core c = s.core c :=
  (State.core_congr (chargeStacks_cores ..) c).trans ((findErrors_frame _ s).core c)
theorem chargeReads_sems (u : Nat) (rs : List (Nat × Nat)) (s : State) : (chargeReads u rs s).sems = s.sems :=
  (chargeStacks_sems ..).trans (findErrors_frame _ s).sems
theorem chargeReads_bytes (u : Nat) (rs : List (Nat × Nat)) (s : State) : (chargeReads u rs s).mem.bytes = s.mem.bytes :=
  (congrArg Mem.bytes (chargeStacks_mem ..)).trans (findErrors_frame _ s).bytes
/-- A read changes of every troupe its accounting alone. -/
theorem chargeReads_troupe (u : Nat) (rs : List (Nat × Nat)) (s : State) (v : Nat) :
    { (chargeReads u rs s).troupe v with regs.acct := (s.troupe v).regs.acct } = s.troupe v := by
  rw [← (findErrors_frame (readTargets s u rs) s).troupe v]
  exact (chargeStacks_frame u _ 0 _).2 v
theorem chargeReads_queue (u : Nat) (rs : List (Nat × Nat)) (s : State) (v q : Nat) : (chargeReads u rs s).queue v q = s.queue v q := by
  have h : ((chargeReads u rs s).troupe v).queues = (s.troupe v).queues := (congrArg Troupe.queues (chargeReads_troupe u rs s v) :)
  simp only [State.queue, h]
/-- Without stored errors a read leaves memory as it was. -/
theorem chargeReads_mem (u : Nat) (rs : List (Nat × Nat)) (s : State) (h : s.mem.weak = []) : (chargeReads u rs s).mem = s.mem := by
  refine (chargeStacks_mem ..).trans ?_
  rw [findErrors_none _ _ (by simp [h])]

/-! ### The oldest entry of a queue (R328) -/

/-- Taking an entry puts its value in the register, moves the queue on, and changes no other queue, no byte and no semaphore. -/
theorem popQueue_spec (c q rd : Nat) (s : State) :
    let u := (s.core c).regs.troupe
    let t := popQueue c q rd s
    t.core c = (s.core c).sPut rd (BitVec.ofNat 64 (troupeNat s u ((nth (0, 1) (s.troupe u).cfg.queues q).1 + 8 * (s.queue u q).head) 8)) ∧
    (t.queue u q).count = (s.queue u q).count - 1 ∧ (∀ j, j ≠ q → t.queue u j = s.queue u j) ∧
    t.mem.bytes = s.mem.bytes ∧ (s.mem.weak = [] → t.mem = s.mem) := by
  intro u t
  have queue : ∀ j, t.queue u j = if j = q then _ else s.queue u j := fun j => by
    refine (chargeReads_queue u _ _ u j).trans ?_
    rw [State.queue, State.troupe_modTroupe_same]; exact mapGet_put ..
  refine ⟨?_, ?_, fun j hj => ?_, chargeReads_bytes .., fun hw => chargeReads_mem _ _ _ hw⟩
  · refine (State.core_modCore_same ..).trans ?_
    rw [show ∀ a n s', chargeRead (s.core c).regs.troupe a n s' = chargeReads (s.core c).regs.troupe [(a, n)] s' from fun _ _ _ => rfl,
      chargeReads_core]; rfl
  · rw [queue, if_pos rfl]
  · rw [queue, if_neg hj]

/-! ### Issue into a wait -/

section
variable {m : Host.Outcome State Fault Refusal} {c : Nat} {nd : Bool} {body : State → Issue} {s : State}

/-- A row whose body answers a wait leaves the core waiting, and nothing else but its issue. -/
theorem issue_waits {x : Wait} (hm : m = coreIssue c nd body s) (hi : issues s c = true)
    (hb : body (issueState c nd s) = .ok ((issueState c nd s).modRegs c (fun r => { r with wait := x }))) :
    ∃ t, m = .next t ∧ t.core c = { (issueState c nd s).core c with regs.wait := x } ∧ (∀ d, d ≠ c → t.core d = s.core d) ∧ t.sems = s.sems :=
  issue_gives hm hi hb ⟨State.core_modRegs_same .., core_other_setCore_issue _ _ _ _, issueState_sems ..⟩

/-- A row that names a semaphore the troupe does not have is refused with OP_INVALID (R78, R84). -/
theorem issue_refused (hm : m = coreIssue c nd body s) (hi : issues s c = true) (hb : body (issueState c nd s) = .refuse rfOpInvalid) :
    ∃ t, m = .next t ∧ (t.core c).regs.state = .faulted ∧ (t.core c).regs.pc = (s.core c).regs.pc ∧
      ((s.core c).regs.fault = false → (t.core c).regs.faultCode = rfOpInvalid) ∧ (∀ d, d ≠ c → t.core d = s.core d) ∧ t.sems = s.sems := by
  refine refuse_gives hm hi hb ?_
  rw [refuseCore_core]
  exact ⟨rfl, rfl, fun hf => if_neg (by simp [hf]), fun d hd => refuseCore_core_other c d _ s hd, refuseCore_sems ..⟩

end

@[simp] theorem issueState_fab (c : Nat) (nd : Bool) (s : State) : (issueState c nd s).fab = s.fab :=
  (congrArg State.fab (issueState_rest c nd s) :)

/-- Semaphores of a state that differs by an issue. -/
@[simp] theorem semGet_issue (c : Nat) (nd : Bool) (s : State) (u n : Nat) : semGet (issueState c nd s) u n = semGet s u n := by
  simp [semGet]
@[simp] theorem semNamed_issue (c : Nat) (nd : Bool) (s : State) (u n : Nat) : semNamed (issueState c nd s) u n = semNamed s u n := by
  simp [semNamed]
@[simp] theorem queue_issue (c : Nat) (nd : Bool) (s : State) (u q : Nat) : (issueState c nd s).queue u q = s.queue u q := by
  simp [State.queue]

theorem semAdd_fits {u n d : Nat} {s : State} (h : semGet s u n + d ≤ semMax) : semAdd u n d s = semSet u n (semGet s u n + d) s := if_pos h
theorem semAdd_saturates {u n d : Nat} {s : State} (h : semMax < semGet s u n + d) :
    semAdd u n d s = (semSet u n semMax s).modTroupe u (fun x => { x with regs.semSat := true }) := if_neg (Nat.not_le.2 h)

theorem semGet_modTroupe (s : State) (u n : Nat) (f : Troupe → Troupe) (h : (f (s.troupe u)).cfg = (s.troupe u).cfg) :
    semGet (s.modTroupe u f) u n = semGet s u n := by
  simp [semGet, h]

/-- Settles O20: each row by what its body answers in the state of its issue. -/
theorem synchronizationResults : Obligations.SynchronizationResults := by
  intro c nd s hi s1 u earlier refused waits
  dsimp only [Gives, exec]
  have hu : (s1.core c).regs.troupe = u := issueState_ofTroupe c nd s
  have hs1 : issueState c nd s = s1 := rfl
  have named : ∀ n, semNamed s1 u n = semNamed s u n := semNamed_issue c nd s u
  have get : ∀ n, semGet s1 u n = semGet s u n := semGet_issue c nd s u
  have sems : { s1 with sems := s.sems } = s1 := by rw [← issueState_sems c nd s]
  have ent : ∀ b, barrierEnt s1 u b = barrierEnt s u b := fun b => by simp only [barrierEnt, s1, issueState_fab]
  have bar : ∀ b, s1.bar u b = s.bar u b := fun b => by simp only [State.bar, s1, issueState_fab]
  have hcfg : (s1.troupe u).cfg = (s.troupe u).cfg := by rw [issueState_troupe]
  refine ⟨fun h => ?_, fun h => ?_, fun sem n hn hle => ?_, fun sem n hn hlt => ?_, fun sem n hn hle => ?_, fun sem n hn hlt => ?_,
    fun sem n hnd hn hle he => ?_, fun sem n hnd hn hw => ?_, fun sem n hn => ⟨?_, ?_, fun hnd => ?_⟩, fun q rd hnd hq hc => ?_,
    fun q rd hnd hq hc => ?_, fun w hw hm hle => ?_, fun w hw hm hlt => ?_, fun w e hw hm he hr => ?_, fun w e hw hm he hr => ?_⟩
  case refine_1 => exact issue_next rfl hi (if_pos (by simp [h]))
  case refine_2 => exact issue_waits rfl hi (if_neg (by simp [h]))
  case refine_3 =>
    refine issue_gives (t := semSet u sem (semGet s u sem + n) s1) rfl hi ?_ ⟨?_, fun j hj => ?_, rfl, ?_⟩
    · have hf : semGet s1 u sem + n ≤ semMax := by rw [semGet_issue]; exact hle
      have hadd := semAdd_fits hf
      rw [semGet_issue] at hadd
      simp only [hs1, hu, hadd, named, hn]; rfl
    · rw [semGet_semSet, if_pos rfl]
    · rw [semGet_semSet, if_neg hj, semGet_issue]
    · exact sems
  case refine_4 =>
    refine issue_gives (t := (semSet u sem semMax s1).modTroupe u (fun x => { x with regs.semSat := true })) rfl hi ?_ ⟨?_, ?_⟩
    · have hf : semMax < semGet s1 u sem + n := by rw [semGet_issue]; exact hlt
      simp only [hs1, hu, semAdd_saturates hf, named, hn]; rfl
    · rw [semGet_modTroupe _ _ _ _ rfl, semGet_semSet, if_pos rfl]
    · rw [State.troupe_modTroupe_same]
  case refine_5 =>
    refine issue_next rfl hi ?_
    simp only [hs1, hu, named, hn, get, hle]; rfl
  case refine_6 =>
    refine issue_waits rfl hi ?_
    simp only [hs1, hu, named, hn, get, Nat.not_le.2 hlt]; rfl
  case refine_7 =>
    subst hnd
    refine issue_gives (t := semSet u sem (semGet s u sem - n) s1) rfl hi ?_ ⟨?_, fun j hj => ?_, ?_⟩
    · have he' : earlierTaker s1 c ((s1.troupe u).cfg.semBase + sem) = false := by rw [hcfg]; exact he
      simp only [hs1, hu, named, hn, get, hle, he']; rfl
    · rw [semGet_semSet, if_pos rfl]
    · rw [semGet_semSet, if_neg hj, semGet_issue]
    · exact sems
  case refine_8 =>
    subst hnd
    refine issue_gives (t := { s1 with takers := s1.takers.filter (fun x => x != c) ++ [c] }.modRegs c
        (fun r => { r with wait := .sem sem n true })) rfl hi ?_ ⟨⟨State.core_modRegs_same .., ?_, issueState_sems ..⟩, ?_⟩
    · have hno : (decide (n ≤ semGet s u sem) && !earlierTaker s1 c ((s1.troupe u).cfg.semBase + sem)) = false := by
        rw [hcfg]; rcases hw with h | h
        · rw [decide_eq_false (Nat.not_le.2 h), Bool.false_and]
        · rw [show earlierTaker s1 c _ = true from h, Bool.not_true, Bool.and_false]
      simp only [hs1, hu, named, hn, get, hno]; rfl
    · exact core_other_setCore_issue _ _ _ _
    · simp
  case refine_9 => exact issue_refused rfl hi (by simp only [hs1, hu, named, hn]; rfl)
  case refine_10 => exact issue_refused rfl hi (by simp only [hs1, hu, named, hn]; rfl)
  case refine_11 =>
    subst hnd
    exact issue_refused rfl hi (by simp only [hs1, hu, named, hn]; rfl)
  case refine_12 =>
    subst hnd
    obtain ⟨hk, hn, ho, hb, hm⟩ := popQueue_spec c q rd s1
    rw [hu] at hk hn ho
    simp only [s1, queue_issue, issueState_troupe, issueState_mem] at hk hn ho hb hm
    refine issue_gives (t := popQueue c q rd s1) rfl hi ?_ ⟨?_, hn, ho, hb, hm⟩
    · simp only [hs1, hu, hcfg, Nat.not_le.2 hq, s1, queue_issue, hc, beq_iff_eq]; rfl
    · rw [hk, Core.sGet_sPut, if_pos rfl]
  case refine_13 =>
    subst hnd
    refine issue_waits rfl hi ?_
    simp only [hs1, hu, hcfg, Nat.not_le.2 hq, s1, queue_issue, hc]; rfl
  case refine_14 =>
    subst hw
    refine issue_next rfl hi ?_
    simp only [hm, issueState_sGet, issueState_cue, hle]; rfl
  case refine_15 =>
    subst hw
    refine issue_waits rfl hi ?_
    simp only [hm, issueState_sGet, issueState_cue, Nat.not_le.2 hlt]; rfl
  case refine_16 =>
    subst hw
    refine issue_next rfl hi ?_
    simp only [hs1, hm, hu, ent, he, hr]; rfl
  case refine_17 =>
    subst hw
    refine issue_next rfl hi ?_
    simp only [hs1, hm, hu, ent, he, hr, bar, if_true]

/-! ### Ends of waits -/

/-- The wait of a core whose STOP waited for it ends in a halt (R82). -/
theorem endWait_stopping (c : Nat) (s : State) (h1 : (s.core c).regs.stopping = true) (h2 : (s.core c).descs = []) :
    endWait c s = (s.modRegs c (fun (r : CoreRegs) => { r with wait := .none })).setCore c
      { s.core c with regs := { (s.core c).regs with wait := .none, stopping := false, state := .halted } } := by
  unfold endWait settleStop
  simp [h1, h2, waitOver]

/-- Settles O21: each event by the test that its meaning makes of the core's wait. -/
theorem waitsEndWhenSatisfied : Obligations.WaitsEndWhenSatisfied := by
  intro c s ha r u
  dsimp only [exec]
  have run : ∀ f : State → State, engine f s = .next (f s) := fun f => engine_alive f s ha
  refine ⟨fun n count hw => ⟨fun hle => ?_, fun hlt => ?_⟩, fun n count hw => ⟨fun hle he => ?_, fun h => ?_⟩,
    fun q rd hw => ⟨fun hc => ?_, fun hc => ?_⟩, fun target hw => ⟨fun hle => ?_, fun hlt => ?_⟩, fun h1 h2 => ?_, fun h1 h2 => ?_⟩
  case refine_1 => exact (run _).trans (by simp [semWaitDone, hw, r, u, Nat.not_lt.2 hle])
  case refine_2 => exact (run _).trans (by simp [semWaitDone, hw, r, u, hlt])
  case refine_3 =>
    refine ⟨?_, ?_, (run _).trans ?_⟩
    · exact (semGet_semSet ..).trans (if_pos rfl)
    · simp [semSet]
    · simp [semWaitDone, hw, r, u, Nat.not_lt.2 hle, he]
  case refine_4 =>
    refine (run _).trans (congrArg _ ?_)
    by_cases hlt : semGet s u n < count
    · simp [semWaitDone, hw, r, u, hlt]
    · simp [semWaitDone, hw, r, u, hlt, h.resolve_left hlt]
  case refine_5 =>
    obtain ⟨hk, hn, -⟩ := popQueue_spec c q rd s
    refine ⟨hn, (congrArg Core.regs hk :), ?_, (run _).trans ?_⟩
    · rw [hk, Core.sGet_sPut, if_pos rfl]
    · simp [qpopDone, hw, r, u, hc]
  case refine_6 => exact (run _).trans (by simp [qpopDone, hw, r, u, hc])
  case refine_7 => exact (run _).trans (by simp [cueWaitDone, hw, r, hle])
  case refine_8 => exact (run _).trans (by simp [cueWaitDone, hw, r, Nat.not_le.2 hlt])
  case refine_9 =>
    rw [endWait_plain c s h1 h2]
    exact ⟨State.core_modRegs_same .., fun d hd => State.core_modRegs_other _ _ hd, rfl⟩
  case refine_10 =>
    rw [endWait_stopping c s h1 h2]
    refine ⟨State.core_setCore_same .., fun d hd => ?_, rfl⟩
    rw [State.core_setCore_other _ _ hd, State.core_modRegs_other _ _ hd]

/-! ### Starting and stopping a core (R82) -/

theorem settleStop_halts {c : Nat} {s : State} (h1 : (s.core c).regs.stopping = true) (h2 : waitOver (s.core c).regs.wait = true)
    (h3 : (s.core c).descs = []) :
    settleStop c s = s.setCore c { s.core c with regs := { (s.core c).regs with stopping := false, state := .halted, wait := .none } } := by
  simp [settleStop, h1, h2, h3]

/-- A core that may not halt yet stays as it is when no reset waits. -/
theorem settleStop_still {c : Nat} {s : State} (h : ((s.core c).regs.stopping && waitOver (s.core c).regs.wait && (s.core c).descs.isEmpty) = false)
    (hb : s.bt.resets = []) : settleStop c s = s := by
  simp only [settleStop, h, hb]; rfl

/-- A core whose list has been started. -/
def Core.started (k : Core) : Core := { k with regs := { k.regs with state := .running, wait := .none, stopping := false, kept := none } }

theorem startCore_core (c : Nat) (s : State) (d : Nat) : (startCore c s).core d = if d = c then (s.core d).started else s.core d := by
  have h : (startCore c s).cores = (s.setCore c (s.core c).started).cores := by
    unfold startCore; dsimp only; split <;> rfl
  rw [State.core_congr h, State.core_setCore]
  split
  · next hd => rw [hd]
  · rfl

theorem startCore_notStarted (c : Nat) (s : State) : (startCore c s).notStarted = s.notStarted := by
  unfold startCore; dsimp only; split <;> rfl

/-- Starting the cores of a list starts each of them and leaves the others. -/
theorem startCores_core (l : List Nat) (s : State) (d : Nat) :
    (l.foldl (fun s c => startCore c s) s).core d = if d ∈ l then (s.core d).started else s.core d := by
  induction l generalizing s with
  | nil => rfl
  | cons x l ih =>
    rw [List.foldl_cons, ih, startCore_core]
    by_cases hx : d = x
    · subst hx; simp only [if_true, List.mem_cons, true_or]; split <;> rfl
    · simp [hx]

theorem startCores_notStarted (l : List Nat) (s : State) : (l.foldl (fun s c => startCore c s) s).notStarted = s.notStarted := by
  induction l generalizing s with
  | nil => rfl
  | cons x l ih => rw [List.foldl_cons, ih, startCore_notStarted]

/-- A CLUSTER_START whose good cores are of one troupe that may start starts those that are idle or halted (R80). -/
theorem clusterStart_next {s : State} {tile cluster mask u : Nat} {cs good : List Nat} (ha : s.alive = true)
    (hcs : (clusterMaskCores tile cluster mask).map (startTarget s (4 * tile + cluster)) = cs)
    (hgood : cs.filter (fun x => !startBarred s x) = good) (hne : good ≠ []) (hu : ∀ x ∈ good, (s.core x).regs.troupe = u)
    (ht : troupeStarts s u = true) :
    execClusterStart tile cluster mask s = .next ((good.filter (fun x => startable (s.core x))).foldl (fun s c => startCore c s)
      { s with notStarted := (cs.filter (startBarred s)).reverse ++ s.notStarted }) := by
  refine (engine_alive _ _ ha).trans (congrArg _ ?_)
  simp only [hcs, hgood]
  cases good with
  | nil => exact absurd rfl hne
  | cons x good =>
    have hx : (s.core x).regs.troupe = u := hu x (List.mem_cons_self ..)
    have hall : (x :: good).all (fun c => (s.core c).regs.troupe == u) = true := List.all_eq_true.2 fun y hy => by simp [hu y hy]
    simp only [hx, hall, ht]; rfl

/-- Settles O23. -/
theorem coreControlResults : Obligations.CoreControlResults := by
  intro c s ha k
  dsimp only [Gives, exec]
  have write : ∀ f : State → State, regWrite f s = .next (f s) := fun f => regWrite_alive f s ha
  have other : ∀ f d, d ≠ c → (s.modRegs c f).core d = s.core d := fun f d hd => State.core_modRegs_other s f hd
  refine ⟨fun hk ht => ⟨_, write _, ?_⟩, fun h => (write _).trans ?_, fun hr hw hd => ⟨_, write _, ?_⟩, fun hr hw hb => ⟨_, write _, ?_⟩,
    fun hr => (write _).trans ?_, ⟨_, write _, ?_⟩, ⟨_, write _, ?_⟩, ⟨_, write _, ?_⟩, fun tile cluster mask => ?_⟩
  case refine_1 =>
    rw [if_pos (by simp only [k] at hk ht; simp [hk, ht])]
    simp only [startCore_core, if_true]
    exact ⟨rfl, rfl, fun d hd => if_neg hd⟩
  case refine_2 =>
    rw [if_neg (by simp only [k] at h; rcases h with h | h <;> simp [h])]
  case refine_3 =>
    rw [if_pos (by simpa [k] using hr), settleStop_halts (by simp) (by simpa [k] using hw) (by simpa [k] using hd)]
    simp only [checkBarriers_core, State.core_setCore_same, State.core_modRegs_same]
    refine ⟨rfl, rfl, fun d hd => ?_⟩
    rw [State.core_setCore_other _ _ hd, other _ d hd]
  case refine_4 =>
    have hno : (waitOver k.regs.wait && k.descs.isEmpty) = false := by rcases hw with h | h <;> simp [h]
    rw [if_pos (by simpa [k] using hr), settleStop_still (s := s.modRegs c _) (by rw [State.core_modRegs_same]; simpa using hno) hb]
    simp only [checkBarriers_core, State.core_modRegs_same]
    exact ⟨rfl, other _⟩
  case refine_5 => rw [if_neg (by simpa [k] using hr)]
  case refine_6 => exact ⟨State.core_modRegs_same .., regsFrame_modRegs ..⟩
  case refine_7 => exact ⟨State.core_modCore_same .., fun d hd => State.core_modCore_other _ _ hd, rfl⟩
  case refine_8 =>
    have key : ∀ (b : Bool) (s1 : State) d, (if b then checkBarriers k.regs.troupe s1 else s1).core d = s1.core d := fun b s1 d => by
      split
      · rw [checkBarriers_core]
      · rfl
    simp only [show (s.core c) = k from rfl, key, State.core_modRegs_same]
    exact ⟨by simp, trivial, other _⟩
  case refine_9 =>
    generalize hcs : (clusterMaskCores tile cluster mask).map (startTarget s (4 * tile + cluster)) = cs
    generalize hg : cs.filter (fun x => !startBarred s x) = good
    intro hc hk ht hall
    refine ⟨_, clusterStart_next ha hcs hg (List.ne_nil_of_mem hc) hall ht, ?_⟩
    simp only [startCores_core, startCores_notStarted, List.mem_filter]
    refine ⟨?_, fun x hx hs => ?_, fun x hx => if_neg fun h => hx h.1, trivial⟩
    · rw [if_pos ⟨hc, hk⟩]; rfl
    · rw [if_pos ⟨hx, hs⟩]; rfl

/-! ### Descriptors (R76, R77) -/

/-- A posted descriptor of the row's OP whose turn it is is carried out. -/
theorem runDesc_turn {c id op : Nat} {body : Nat → Desc → State → State × Nat} {s : State} {p : Posted} (hp : descOf s c id = some p)
    (hs : p.stage = .posted) (ht : descStarts s c id (Desc.ofBytes p.raw) = true) (ho : (Desc.ofBytes p.raw).op = op) :
    runDesc c id op body s =
      setStage c id (.done (body (s.core c).regs.troupe (Desc.ofBytes p.raw) s).2) (body (s.core c).regs.troupe (Desc.ofBytes p.raw) s).1 := by
  simp [runDesc, hp, hs, ht, ho]

/-- A translation fault is recorded in its troupe and changes nothing else (R324). -/
theorem noteXlat_frame (u : Nat) (f : AccFault) (s : State) : { noteXlat u f s with troupes := s.troupes } = s := by
  unfold noteXlat; split <;> rfl

/-- Adding to a semaphore, or not, changes the semaphores and SEM_SAT alone. -/
theorem semAddIf_frame (b : Bool) (u n d : Nat) (s : State) :
    { (if b then semAdd u n d s else s) with sems := s.sems, troupes := s.troupes } = s := by
  split
  · unfold semAdd; dsimp only; split <;> rfl
  · rfl

/-- The state in which descriptor `id` of core `c` has left the engine with a status. -/
def descGone (c id st : Nat) (s : State) : State :=
  let s1 := s.modCore c (fun (k : Core) => { k with descs := k.descs.filter (fun q => q.id != id) })
  { s1 with out.descs := (c, id, st) :: s1.out.descs }

theorem descGone_core (c id st : Nat) (s : State) :
    (descGone c id st s).core c = { s.core c with descs := (s.core c).descs.filter (fun q => q.id != id) } :=
  (State.core_congr (t := descGone c id st s) rfl c).trans
    (State.core_modCore_same s c (fun k => { k with descs := k.descs.filter (fun q => q.id != id) }))

/-- The state after its semaphore, where it has one that rises. -/
def descRisen (c id st : Nat) (d : Desc) (s : State) : State :=
  let u := (s.core c).regs.troupe
  if d.sem != 0xFFFF && semNamed s u d.sem && semRises st then semAdd u d.sem 1 (descGone c id st s) else descGone c id st s

theorem descRisen_frame (c id st : Nat) (d : Desc) (s : State) :
    { descRisen c id st d s with sems := s.sems, troupes := s.troupes } = descGone c id st s := semAddIf_frame ..

theorem descRisen_core (c id st : Nat) (d : Desc) (s : State) : (descRisen c id st d s).core c = (descGone c id st s).core c :=
  State.core_congr (congrArg State.cores (descRisen_frame c id st d s) :) c

/-- The completion of a descriptor of a core that neither waits nor stops. -/
theorem finishDesc_plain {c id st : Nat} {s : State} {p : Posted} (hp : descOf s c id = some p) (hw : (s.core c).regs.wait = .none)
    (hst : (s.core c).regs.stopping = false) (hb : s.bt.resets = []) :
    finishDesc c id st s = checkBarriers (s.core c).regs.troupe (descRisen c id st (Desc.ofBytes p.raw) s) := by
  generalize hd : Desc.ofBytes p.raw = d
  have hk := (descRisen_core c id st d s).trans (descGone_core c id st s)
  have hwait : ((descRisen c id st d s).core c).regs.wait = .none := by rw [hk]; exact hw
  have hbt : (descRisen c id st d s).bt.resets = [] := (congrArg (fun x : State => x.bt.resets) (descRisen_frame c id st d s) :).trans hb
  have hno : (((descRisen c id st d s).core c).regs.stopping && waitOver ((descRisen c id st d s).core c).regs.wait &&
      ((descRisen c id st d s).core c).descs.isEmpty) = false := by rw [hk]; simp [hst]
  unfold finishDesc
  rw [hp]
  dsimp only
  rw [hd]
  change checkBarriers _ (settleStop c (match ((descRisen c id st d s).core c).regs.wait with
    | .move raw => endWait c ((descRisen c id st d s).modCore c (postDesc raw))
    | .fenceM => if ((descRisen c id st d s).core c).descs.isEmpty then endWait c (descRisen c id st d s) else descRisen c id st d s
    | _ => descRisen c id st d s)) = _
  rw [hwait]
  exact congrArg _ (settleStop_still hno hbt)

theorem checkBarriers_semGet (v : Nat) (s : State) (u n : Nat) : semGet (checkBarriers v s) u n = semGet s u n := by
  simp only [semGet, State.troupe, checkBarriers_sems, checkBarriers_troupes]

/-- Settles O24. -/
theorem descriptorResults : Obligations.DescriptorResults := by
  refine ⟨fun c s ha => ⟨fun nd addr hi hr hn => ?_, fun nd addr hi hr hn => ?_, fun id p hp hs ht => ⟨fun ho => ?_, fun ho => ?_, fun ho => ?_⟩,
    fun id p st hp hs he => ⟨fun hq => ?_, fun hq => ?_, fun hw hst hb => ?_⟩⟩, fun c id u kind d f s hf ht ht1 ht2 hr => ?_⟩
  case refine_1 =>
    dsimp only [Gives, exec]
    refine issue_gives (t := (issueState c nd s).modCore c (postDesc ((s.core c).store.readN addr 64))) rfl hi ?_
      ⟨State.core_modCore_same .., core_other_setCore_issue _ _ _ _, issueState_mem ..⟩
    simp only [issueState_store, issueState_descs, Nat.not_lt.2 hr, hn]; rfl
  case refine_2 =>
    dsimp only [Gives, exec]
    refine issue_gives (t := (issueState c nd s).modRegs c (fun r => { r with wait := .move ((s.core c).store.readN addr 64) })) rfl hi ?_ ?_
    · simp only [issueState_store, issueState_descs, Nat.not_lt.2 hr, Nat.not_lt.2 hn]; rfl
    · rw [State.core_modRegs_same]; exact ⟨rfl, issueState_descs ..⟩
  case refine_3 => exact (engine_alive _ _ ha).trans (congrArg _ (runDesc_turn hp hs ht ho))
  case refine_4 => exact (engine_alive _ _ ha).trans (congrArg _ (runDesc_turn hp hs ht ho))
  case refine_5 => exact (engine_alive _ _ ha).trans (congrArg _ (runDesc_turn hp hs ht ho))
  case refine_6 =>
    dsimp only [exec]
    refine (engine_alive _ _ ha).trans (congrArg _ ?_)
    obtain ⟨i, raw, stage⟩ := p
    dsimp only at hs; subst hs
    simp only [hp, hq, he]; rfl
  case refine_7 =>
    dsimp only [exec]
    refine (engine_alive _ _ ha).trans (congrArg _ ?_)
    obtain ⟨i, raw, stage⟩ := p
    dsimp only at hs; subst hs
    simp only [hp, hq, he]; rfl
  case refine_8 =>
    intro t d u
    have ht : t = checkBarriers u (descRisen c id st d s) := finishDesc_plain hp hw hst hb
    have hf := descRisen_frame c id st d s
    refine ⟨?_, ?_, ?_, fun hno => ?_, fun h1 h2 h3 h4 => ?_⟩
    · rw [ht, checkBarriers_core, descRisen_core, descGone_core]
    · rw [ht, checkBarriers_descs, (congrArg (fun x : State => x.out.descs) hf :)]; exact List.mem_cons_self ..
    · rw [ht, checkBarriers_mem]; exact (congrArg State.mem hf :)
    · have hb' : (d.sem != 0xFFFF && semNamed s u d.sem && semRises st) = false := by rcases hno with h | h <;> simp [h]
      rw [ht, checkBarriers_sems, show descRisen c id st d s = descGone c id st s from if_neg (by simpa using hb')]; rfl
    · have hb' : (d.sem != 0xFFFF && semNamed s u d.sem && semRises st) = true := by simp [h1, h2, h3]
      rw [ht, checkBarriers_semGet, show descRisen c id st d s = semAdd u d.sem 1 (descGone c id st s) from if_pos hb',
        semAdd_fits (s := descGone c id st s) h4, semGet_semSet, if_pos rfl]; rfl
  case refine_9 =>
    have hkind : kind ≠ .copy → (decide (64 ≤ d.stag) || decide (64 ≤ d.dtag)) = false := fun hk => by
      obtain ⟨h1, h2⟩ := ht hk; simp [Nat.not_le.2 h1, Nat.not_le.2 h2]
    have hbody : moveBody c id kind u d s = refuseAccess u f s := by
      cases kind with
      | copy => simp [moveBody, hf, hr]
      | copyTag => simp [moveBody, hf, hr, hkind, ht1]
      | convert => simp [moveBody, hf, hr, hkind, ht1, ht2]
    have hx := noteXlat_frame u f s
    rw [hbody]
    exact ⟨rfl, (congrArg State.mem hx :), (congrArg State.cores hx :)⟩

end Sys2Proof.Machine
end

section
/-! Remote descriptors and the FLINT class. -/

namespace Sys2Proof.Machine

/-! ### Remote descriptors (R285, R280) -/

theorem descOf_setStage (c id : Nat) (st : Stage) (s : State) :
    descOf (setStage c id st s) c id = (descOf s c id).map (fun p => { p with stage := st }) := by
  have hcore : ((setStage c id st s).core c).descs = (s.core c).descs.map (fun p => if p.id == id then { p with stage := st } else p) :=
    (congrArg Core.descs (State.core_modCore_same s c _) :)
  simp only [descOf, hcore, List.find?_map]
  have hp : ((fun p : Posted => p.id == id) ∘ fun p => if p.id == id then { p with stage := st } else p) = fun p => p.id == id := by
    funext p; simp only [Function.comp]; split <;> rfl
  rw [hp]
  cases hf : (s.core c).descs.find? (fun p => p.id == id) with
  | none => rfl
  | some p =>
    have hid : p.id == id := by have := List.find?_some hf; simpa using this
    simp only [Option.map_some, hid, if_true]

/-- A waiting packet of the descriptor that has waited ROUTE_TIMEOUT (R280). -/
def routeLate (s : State) (x : TxFlit) : Bool :=
  match x.since with
  | some a => a + s.fab.routeTimeout * cyclesMs ≤ s.cue
  | none => false

theorem noRoute_next {s : State} (ha : s.alive = true) (c id : Nat) :
    execNoRoute c id s = .next (if s.fab.tx.any (fun x => ownItem s c id x && routeLate s x) && isSent s c id then
      setStage c id (.done stNoRoute)
        { s with fab.tx := s.fab.tx.filter (fun x => !ownItem s c id x)
                 fab.runs := s.fab.runs.filter (fun r => !(r.core == c && r.desc == id)) }
    else s) := engine_alive _ _ ha

/-- Settles O25. -/
theorem remoteDescriptorResults : Obligations.RemoteDescriptorResults := by
  intro c id s ha
  dsimp only [Gives, exec]
  refine ⟨fun p src hp hf hta htd => ⟨fun hr hsrc => ?_, fun hr => ?_⟩, fun p g r hp hr hg hfind hrank hok => ?_, fun hlate hsent => ?_,
    fun hearly => ?_⟩
  case refine_1 =>
    refine (engine_alive _ _ ha).trans (congrArg _ ?_)
    simp only [runRemoteWrite, hp, hr, hf, hta, htd, hsrc]; rfl
  case refine_2 =>
    refine (engine_alive _ _ ha).trans (congrArg _ ?_)
    simp only [runRemoteRead, hp, hr, hf, hta, htd]; rfl
  case refine_3 =>
    refine (engine_alive _ _ ha).trans (congrArg _ ?_)
    simp only [runColl, hp, hr, Nat.not_lt.2 hg, hfind, hrank, hok]; rfl
  case refine_4 =>
    obtain ⟨x, hx, hown, a, hsince, ha'⟩ := hlate
    have hany : s.fab.tx.any (fun x => ownItem s c id x && routeLate s x) = true :=
      List.any_eq_true.2 ⟨x, hx, by simp [hown, routeLate, hsince, ha']⟩
    refine ⟨_, (noRoute_next ha c id).trans (congrArg _ (if_pos (by simp [hany, hsent]))), fun y hy => ?_, fun p hp => ?_, rfl, rfl⟩
    · have hy' := List.mem_filter.1 (show y ∈ s.fab.tx.filter (fun x => !ownItem s c id x) from hy)
      exact Bool.not_eq_true' _ ▸ hy'.2
    · rw [descOf_setStage] at hp
      obtain ⟨q, -, rfl⟩ := Option.map_eq_some_iff.1 hp
      rfl
  case refine_5 =>
    have hany : s.fab.tx.any (fun x => ownItem s c id x && routeLate s x) = false := by
      refine List.any_eq_false.2 fun x hx h => ?_
      obtain ⟨hown, hl⟩ := Bool.and_eq_true_iff.1 h
      cases hsince : x.since with
      | none => simp [routeLate, hsince] at hl
      | some a =>
        have := hearly x hx hown a hsince
        simp [routeLate, hsince] at hl; omega
    exact (noRoute_next ha c id).trans (congrArg _ (if_neg (by simp [hany])))

/-! ### The FLINT class (R152 to R159) -/

/-- A draw reads the troupe's key, the stream and the index register, which an issue leaves. -/
theorem drawn_issue (c : Nat) (w : VecWord) (nd : Bool) (s : State) (n e : Nat) :
    drawn (issueState c nd s) c w n e =
      flintField (coreKey s c) ((s.core c).fGet w.sri).toNat (((s.core c).sGet w.six).toNat + e) n := by
  simp [drawn]

/-- A FLINT row with a legal VL writes what its body gives. -/
theorem flintIssue_next {c cycles : Nat} {w : VecWord} {s : State} (body : State → Core → Core) (hi : issues s c = true) (hv : vlOk w = true) :
    flintIssue c w cycles body s = .next (chargeVec c cycles
      ((issueState c w.nd s).setCore c (body (issueState c w.nd s) ((issueState c w.nd s).core c)))) :=
  coreIssue_ok c w.nd _ s _ hi (if_neg (by simp [hv]))

theorem elementwise_congr {c cycles : Nat} {w : VecWord} {s : State} {f g : Nat → F32} (hv : vlOk w = true) (hf : ∀ e, f e = g e) :
    Elementwise c w g s (chargeVec c cycles (s.setCore c (vecWrite (s.core c) w f))) :=
  (funext hf : f = g) ▸ elementwise_of c w f cycles s hv

/-- Settles O26: each draw reads what an issue leaves, and the destination is written as by any vector instruction. -/
theorem flintInstructionResults : Obligations.FlintInstructionResults := by
  intro c w s hi hv s1 k field
  dsimp only [Gives, exec]
  have draw : ∀ n e, drawn s1 c w n e = field n e := fun n e => drawn_issue c w w.nd s n e
  refine ⟨?_, fun hc => ?_, ?_, fun himm => ?_, ?_, ?_, ?_⟩
  case refine_1 =>
    refine ⟨_, flintIssue_next _ hi hv, ?_⟩
    simp only [chargeVec, chargeTroupe_core, State.core_setCore_same]
    refine ⟨?_, fun q hq => ?_, ?_, chargeTroupe_frame ..⟩
    · exact (mapGet_put_same ..).trans (issueState_sGet ..)
    · exact (mapGet_put_other _ _ _ hq).trans (issueState_fGet ..)
    · rw [← issueState_f c w.nd s]
  case refine_2 => exact issue_gives rfl hi (if_neg (by simp [hv, hc])) (elementwise_congr hv fun e => by rw [draw])
  case refine_3 => exact ⟨_, flintIssue_next _ hi hv, elementwise_congr hv fun e => by rw [draw]⟩
  case refine_4 => exact issue_gives rfl hi (if_neg (by simp [hv, himm])) (elementwise_congr hv fun e => by rw [draw])
  case refine_5 => exact ⟨_, flintIssue_next _ hi hv, elementwise_congr hv fun e => by rw [draw]⟩
  case refine_6 => exact ⟨_, flintIssue_next _ hi hv, elementwise_congr hv fun e => by rw [draw]⟩
  case refine_7 =>
    refine ⟨_, flintIssue_next _ hi hv, ?_⟩
    simp only [chargeVec, chargeTroupe_core, State.core_setCore_same, selected_issue, issueState_vGet, issueState_sGet, issueState_fGet,
      issueState_coreKey]
    simp only [show s.core c = k from rfl]
    generalize discDraw _ _ = d
    have v0 : ∀ (k : Core) r i j x, i < 3 → j < 256 → (k.vPut w.vd i x).vGet r j = if r = w.vd ∧ j = i then x else k.vGet r j :=
      fun k r i j x hi hj => Core.vGet_vPut _ _ _ _ _ _ (by omega) hj
    refine ⟨?_, ?_, ?_, fun r i hi hr => ?_, ?_, chargeTroupe_frame ..⟩
    · simp [v0]
    · simp [v0]
    · simp [v0]
    · have hne : ∀ j, j < 3 → ¬ (r = w.vd ∧ i = j) := fun j hj h => by omega
      simp only [v0, hi, hne, if_false, issueState_vGet, Nat.reduceLT, k]
    · rw [← issueState_v c w.nd s]; rfl

/-! ### The seed (R160) -/

/-- Settles O27. -/
theorem flintLoadResults : Obligations.FlintLoadResults := by
  intro u s ha hu x
  dsimp only [Gives, exec]
  refine ⟨fun hr => ⟨_, regWrite_alive _ _ ha, ?_⟩, fun hr => ⟨_, regWrite_alive _ _ ha, ?_⟩, ⟨_, regWrite_alive _ _ ha, ?_⟩⟩
  · simp only [hu, hr, Bool.not_true, Bool.false_eq_true, if_false]
    exact ⟨State.troupe_modTroupe_same .., troupeFrame_modTroupe ..⟩
  · simp only [hu, hr, Bool.not_true, Bool.false_eq_true, if_false, if_true, raiseEvent_troupe, raiseEvent_cores, State.troupe_modTroupe_same]
    exact ⟨rfl, rfl, trivial, rfl, rfl⟩
  · simp only [hu, if_true]
    exact ⟨State.troupe_modTroupe_same .., troupeFrame_modTroupe ..⟩

end Sys2Proof.Machine
end

section
/-! The OPTM class. -/

namespace Sys2Proof.Machine

/-- A vector write reads no register of the core block. -/
theorem vecWrite_regs (k : Core) (r : CoreRegs) (w : VecWord) (f : Nat → F32) :
    vecWrite { k with regs := r } w f = { vecWrite k w f with regs := r } := by
  unfold vecWrite
  refine List.foldl_hom (fun k : Core => { k with regs := r }) fun x i => ?_
  change (if k.pGet w.pred i then _ else _) = _
  split
  · rfl
  · split <;> rfl

theorem optWrite_regs (o : OptOp) (k : Core) (r : CoreRegs) (l : Lrn) (w : VecWord) :
    optWrite o { k with regs := r } l w = { optWrite o k l w with regs := r } := by
  have one : ∀ (k' y : Core) (x : VecWord) (f : Nat → F32), k' = { y with regs := r } → vecWrite k' x f = { vecWrite y x f with regs := r } :=
    fun k' y x f hk => hk ▸ vecWrite_regs y r x f
  cases o with
  | sgdm | lion | omom => exact one _ _ _ _ (one _ _ _ _ rfl)
  | adam => exact one _ _ _ _ (one _ _ _ _ (one _ _ _ _ rfl))
  | oorth => exact one _ _ _ _ rfl

/-- An update writes vector registers alone. -/
theorem optWrite_frame (o : OptOp) (k : Core) (l : Lrn) (w : VecWord) (hv : w.vl ≤ 256) : { optWrite o k l w with v := k.v } = k := by
  have one : ∀ (k' : Core) (x : VecWord) (f : Nat → F32), x.vl ≤ 256 → { k' with v := k.v } = k → { vecWrite k' x f with v := k.v } = k :=
    fun k' x f hx hk => (congrArg (fun y : Core => { y with v := k.v }) (vecWrite_spec k' x f hx).2.2).trans hk
  cases o with
  | sgdm | lion | omom => exact one _ _ _ hv (one _ _ _ hv rfl)
  | adam => exact one _ _ _ hv (one _ _ _ hv (one _ _ _ hv rfl))
  | oorth => exact one _ _ _ hv rfl

@[simp] theorem issueState_lrn (c : Nat) (nd : Bool) (s : State) (u : Nat) : (issueState c nd s).lrn u = s.lrn u := by
  simp only [State.lrn, issueState_troupe]

theorem optRefusal_issue (c : Nat) (nd : Bool) (s : State) (o : OptOp) (w : VecWord) :
    optRefusal (issueState c nd s) c o w = optRefusal s c o w := by
  unfold optRefusal optStep; dsimp only
  rw [issueState_sGet, issueState_ofTroupe, issueState_lrn]

theorem optRefusal_zero_vl {s : State} {c : Nat} {o : OptOp} {w : VecWord} (h : optRefusal s c o w = 0) : w.vl ≤ 256 := by
  refine Decidable.by_contra fun hv => ?_
  have : vlOk w = false := by simp [vlOk, hv]
  simp [optRefusal, this, rfOpInvalid] at h

/-- Counting a fly-in's stall changes its troupe alone. -/
theorem countStall_frame (u who : Nat) (s : State) : { countStall u who s with troupes := s.troupes } = s := by
  unfold countStall; split <;> rfl

/-! ### What an issued row does (R193, R200, R201) -/

section
variable {o : OptOp} {c : Nat} {w : VecWord} {s : State} (h0 : optRefusal s c o w = 0)
include h0

theorem optBody_skip (hs : (s.lrn (s.core c).regs.troupe).regs.vSkip = true) :
    optBody o c w s = .ok (s.setCore c ((s.core c).sPut (optOres w) 2)) := by
  simp [optBody, h0, hs]

theorem optBody_frozen (hs : (s.lrn (s.core c).regs.troupe).regs.vSkip = false)
    (hf : GroupParam.frozen (nth {} (s.lrn (s.core c).regs.troupe).groups (optGroup w)) = true) :
    optBody o c w s = .ok ((s.setCore c ((s.core c).sPut (optOres w) 1)).modLregs (s.core c).regs.troupe (fun r =>
      { r with frozenOps := satInc 0xFFFFFFFF r.frozenOps, frozenCnt := inc16 r.frozenCnt, frozen := true })) := by
  simp [optBody, h0, hs, hf]

theorem optBody_updates (hs : (s.lrn (s.core c).regs.troupe).regs.vSkip = false)
    (hf : GroupParam.frozen (nth {} (s.lrn (s.core c).regs.troupe).groups (optGroup w)) = false) :
    optBody o c w s = .ok (chargeVec c (ceilDiv w.vl 64 * o.beat)
      ((s.setCore c ((optWrite o (s.core c) (s.lrn (s.core c).regs.troupe) w).sPut (optOres w) 0)).modLregs (s.core c).regs.troupe (fun r =>
        { r with updatedOps := satInc 0xFFFFFFFF r.updatedOps }))) := by
  simp [optBody, h0, hs, hf]

end

section
variable {o : OptOp} {c : Nat} {w : VecWord} {s : State} (hi : issues s c = true)
include hi

/-- R202: a refused row halts its list. -/
theorem optm_refused {code : Nat} (h : optRefusal s c o w = code) (h0 : code ≠ 0) : optm o c w s = .next (refuseCore c code s) := by
  have hb : optBlocked s c o w = false := by simp [optBlocked, h, h0]
  have hbody : optBody o c w (issueState c w.nd s) = .refuse code := by
    simp only [optBody, optRefusal_issue, h]; exact if_pos (bne_iff_ne.2 h0)
  simp only [optm, hb, Bool.and_false, Bool.false_eq_true, if_false]
  exact coreIssue_refuse c w.nd _ s code hi hbody

/-- R182, R234: a row that may not issue yet holds its sequencer. -/
theorem optm_blocked (h : optBlocked s c o w = true) : optm o c w s = .next (holdOptm o c w s) := by
  simp [optm, nextS, hi, h]

/-- A row that nothing refuses or holds issues. -/
theorem optm_issues {t : State} (h : optBlocked s c o w = false) (hbody : optBody o c w (issueState c w.nd s) = .ok t) :
    optm o c w s = .next t := by
  simp only [optm, h, Bool.and_false, Bool.false_eq_true, if_false]
  exact coreIssue_ok c w.nd _ s t hi hbody

end

/-- A held row leaves its core waiting, and counts a fly-in's stall at most. -/
theorem holdOptm_spec (o : OptOp) (c : Nat) (w : VecWord) (s : State) :
    { holdOptm o c w s with troupes := s.troupes } = s.modRegs c (fun r => { r with wait := .optm o.code w }) := by
  unfold holdOptm; dsimp only; split
  · rfl
  · exact countStall_frame _ _ (s.modRegs c _)

@[simp] theorem modLregs_core (s : State) (u : Nat) (f : LrnRegs → LrnRegs) (d : Nat) : (s.modLregs u f).core d = s.core d :=
  State.core_congr rfl d
@[simp] theorem modLregs_lrn (s : State) (u : Nat) (f : LrnRegs → LrnRegs) :
    (s.modLregs u f).lrn u = { s.lrn u with regs := f (s.lrn u).regs } := State.lrn_modLrn_same ..
@[simp] theorem lrn_setCore (s : State) (c u : Nat) (k : Core) : (s.setCore c k).lrn u = s.lrn u := rfl
/-- A charge leaves the learner's part of every troupe. -/
@[simp] theorem chargeTroupe_lrn (c : Nat) (f : Acct → Acct) (s : State) (u : Nat) : (chargeTroupe c f s).lrn u = s.lrn u :=
  (congrArg Troupe.lrn ((chargeTroupe_spec c f s).1 u) :)

/-- Settles O28: the five rows are one operation each. -/
theorem optimizerInstructionResults : Obligations.OptimizerInstructionResults := by
  intro c w s hi k l outcome
  have key : ∀ o i, exec i s = optm o c w s → outcome o i := by
    intro o i hm
    have hu : ((issueState c w.nd s).core c).regs.troupe = k.regs.troupe := issueState_ofTroupe c w.nd s
    obtain ⟨r, hk⟩ := issueState_core_regs c w.nd s
    have other := core_other_setCore_issue c w.nd s
    refine ⟨fun code h h0 => ⟨_, hm.trans (optm_refused hi h h0), ?_⟩, fun h => ⟨_, hm.trans (optm_blocked hi h), ?_⟩,
      fun h0 hb => ?_⟩
    case refine_1 =>
      dsimp only; rw [refuseCore_core]
      exact ⟨rfl, rfl, fun hf => if_neg (by simp [k] at hf; simp [hf]), rfl, rfl, fun d hd => refuseCore_core_other c d code s hd⟩
    case refine_2 =>
      have h := holdOptm_spec o c w s
      have hcore := State.core_congr (congrArg State.cores h :)
      exact ⟨(hcore c).trans (State.core_modRegs_same ..), fun d hd => (hcore d).trans (State.core_modRegs_other _ _ hd), (congrArg State.mem h :)⟩
    case refine_3 =>
      have h0' : optRefusal (issueState c w.nd s) c o w = 0 := (optRefusal_issue ..).trans h0
      have hl : (issueState c w.nd s).lrn ((issueState c w.nd s).core c).regs.troupe = l := by rw [hu, issueState_lrn]
      have ores : ∀ (k' : Core) x q, (k'.sPut (optOres w) x).sGet q = if q = optOres w then x else k'.sGet q := fun k' x q => Core.sGet_sPut ..
      refine ⟨fun hs => ⟨_, hm.trans (optm_issues hi hb (optBody_skip h0' (by rw [hl]; exact hs))), ?_⟩,
        fun hs hf => ⟨_, hm.trans (optm_issues hi hb (optBody_frozen h0' (by rw [hl]; exact hs) (by rw [hl]; exact hf))), ?_⟩,
        fun hs hf => ⟨_, hm.trans (optm_issues hi hb (optBody_updates h0' (by rw [hl]; exact hs) (by rw [hl]; exact hf))), ?_⟩⟩
      · dsimp only; rw [State.core_setCore_same]
        refine ⟨by simp [ores], fun q hq => by simp [ores, hq, k], issueState_v .., other _, issueState_troupes ..⟩
      · dsimp only; rw [hu, modLregs_core, State.core_setCore_same, modLregs_lrn, lrn_setCore, issueState_lrn]
        exact ⟨by simp [ores], fun q hq => by simp [ores, hq, k], issueState_v .., fun d hd => (modLregs_core ..).trans (other _ d hd), rfl, rfl, rfl⟩
      · have hv := optWrite_frame o k l w (optRefusal_zero_vl h0)
        dsimp only
        rw [hl, hu, hk, optWrite_regs]
        simp only [chargeVec, chargeTroupe_core, modLregs_core, State.core_setCore_same]
        refine ⟨rfl, by simp [ores], fun q hq => ?_, (congrArg Core.store hv :), other _, ?_⟩
        · rw [ores, if_neg hq]; exact (congrArg (fun x : Core => x.sGet q) hv :)
        · rw [chargeTroupe_lrn, modLregs_lrn, lrn_setCore, issueState_lrn]
  exact ⟨key .sgdm _ rfl, key .adam _ rfl, key .lion _ rfl, key .omom _ rfl, key .oorth _ rfl⟩

end Sys2Proof.Machine
end

section
/-! The ATTN class and the sampling rows. -/

namespace Sys2Proof.Machine

/-! ### What a write of memory leaves of the cores -/

/-- From `s` to `t` no core's registers of its core block changed. -/
def RegsKept (s t : State) : Prop := ∀ d, (t.core d).regs = (s.core d).regs

theorem RegsKept.refl (s : State) : RegsKept s s := fun _ => rfl
theorem RegsKept.trans {s t u : State} (h : RegsKept s t) (k : RegsKept t u) : RegsKept s u := fun d => (k d).trans (h d)
theorem RegsKept.ite {s t u : State} {p : Prop} [Decidable p] (h : RegsKept s t) (k : RegsKept s u) : RegsKept s (if p then t else u) := by
  split
  · exact h
  · exact k
theorem RegsKept.of_cores {s t : State} (h : t.cores = s.cores) : RegsKept s t := fun d => congrArg Core.regs (State.core_congr h d)

theorem writeMemPiece_cores (owner : Owner) (s : State) (a : Nat) (bs : List Byte) : (writeMemPiece owner s a bs).1.cores = s.cores := by
  unfold writeMemPiece; dsimp only; split <;> rfl

theorem writeMem_cores (owner : Owner) (s : State) (a : Nat) (bs : List Byte) : (writeMem owner s a bs).1.cores = s.cores := by
  unfold writeMem
  generalize memPieces _ a bs = ps
  have key : ∀ (ps : List (Nat × List Byte)) (x : State × Bool), (ps.foldl (fun (x : State × Bool) p =>
      let (s', bad) := writeMemPiece owner x.1 p.1 p.2; (s', x.2 || bad)) x).1.cores = x.1.cores := by
    intro ps
    induction ps with
    | nil => intro x; rfl
    | cons p ps ih => intro x; exact (ih _).trans (writeMemPiece_cores ..)
  exact key ps (s, false)

theorem writeLoc_regs (owner : Owner) (s : State) (l : Loc) (bs : List Byte) : RegsKept s (writeLoc owner s l bs).1 := by
  cases l with
  | mem a => exact .of_cores (writeMem_cores ..)
  | store c o =>
    intro d
    simp only [writeLoc]
    by_cases h : d = c
    · subst h; rw [State.core_modCore_same]
    · rw [State.core_modCore_other _ _ h]
  | tbuf ti o => exact .of_cores rfl

theorem writeLocs_regs (owner : Owner) (ls : List (Loc × Nat)) (s : State) (bs : List Byte) : RegsKept s (writeLocs owner s ls bs).1 := by
  induction ls generalizing s bs with
  | nil => exact .refl s
  | cons l ls ih => exact RegsKept.trans (writeLoc_regs _ _ _ _) (ih _ _)

theorem troupeWrite_regs (s : State) (u a : Nat) (bs : List Byte) : RegsKept s (troupeWrite s u a bs) := by
  unfold troupeWrite; split
  · exact RegsKept.trans (writeLocs_regs _ _ _ _) (.of_cores (chargeStacks_cores ..))
  · exact .refl s

/-! ### Rows of states and outputs (R124, R126) -/

/-- From `k` to `k'` the rows stand in the core store, as states or as outputs, and the vector and scalar registers are as they were. -/
def RowsStand (w : AttnWord) (hw : Nat) (rows : List RowState) (k k' : Core) : Prop :=
  (w.fin = false → k'.store = (k.store.writeN (attnBase k w w.obase) (rows.flatMap (fun r => f32Bytes r.a))).writeN (attnBase k w w.sbase)
      (rows.flatMap (fun r => f32Bytes [r.m, r.l])) ∧ k'.tags = k.tags) ∧
  (w.fin = true →
    let o := convertTensor (k.tagGet w.td) .rne hw ((rows.map finishRow).map (fun r => r.map (fun x => (x, 0))))
    k'.store = k.store.writeN (attnBase k w w.obase) (packRows (k.tagGet w.td) o.1 ++ o.2.1.map (fun x => BitVec.ofNat 8 x)) ∧
      (∀ q, q ≠ w.td → k'.tagGet q = k.tagGet q)) ∧
  k'.v = k.v ∧ k'.s = k.s

/-- Replacing one core and noting what its instruction raised. -/
theorem noteArith_setCore (c : Nat) (a : ArithRep) (s : State) (k : Core) :
    (∃ n, (noteArith c a (s.setCore c k)).core c = { k with arith := n }) ∧ (∀ d, d ≠ c → (noteArith c a (s.setCore c k)).core d = s.core d) ∧
      (noteArith c a (s.setCore c k)).mem = s.mem ∧ (noteArith c a (s.setCore c k)).troupes = s.troupes := by
  obtain ⟨n, hn, -⟩ := noteArith_core c a (s.setCore c k)
  refine ⟨⟨n, by rw [hn, State.core_setCore_same]⟩, fun d hd => ?_, noteArith_mem .., noteArith_troupes ..⟩
  rw [noteArith_core_other _ _ _ _ hd, State.core_setCore_other _ _ hd]

/-- Writing rows changes one core, and beside the cores only what events change. -/
theorem putRows_spec (c : Nat) (w : AttnWord) (hw : Nat) (sat : Bool) (fl : AccFlags) (rows : List RowState) (s : State) :
    RowsStand w hw rows (s.core c) ((putRows c w hw sat fl rows s).core c) ∧ (∀ d, d ≠ c → (putRows c w hw sat fl rows s).core d = s.core d) ∧
      (putRows c w hw sat fl rows s).mem = s.mem ∧ (putRows c w hw sat fl rows s).troupes = s.troupes := by
  cases hf : w.fin with
  | false =>
    obtain ⟨⟨n, hn⟩, hrest⟩ := noteArith_setCore c _ s _
    rw [show putRows c w hw sat fl rows s = putStates c w sat fl rows s from if_neg (by simp [hf])]
    refine ⟨?_, hrest⟩
    rw [show (putStates c w sat fl rows s).core c = _ from hn]
    exact ⟨fun _ => ⟨rfl, rfl⟩, fun h => by simp [hf] at h, rfl, rfl⟩
  | true =>
    obtain ⟨⟨n, hn⟩, hrest⟩ := noteArith_setCore c _ s _
    rw [show putRows c w hw sat fl rows s = putOutput c w hw sat fl rows s from if_pos hf]
    refine ⟨?_, hrest⟩
    rw [show (putOutput c w hw sat fl rows s).core c = _ from hn]
    exact ⟨fun h => by simp [hf] at h, fun _ => ⟨rfl, fun q hq => mapGet_put_other _ _ _ hq⟩, rfl, rfl⟩

section
variable (c : Nat) (w : AttnWord) (hw : Nat) (sat : Bool) (fl : AccFlags) (rows : List RowState) (s : State)
theorem putRows_core : RowsStand w hw rows (s.core c) ((putRows c w hw sat fl rows s).core c) := (putRows_spec c w hw sat fl rows s).1
theorem putRows_core_other {d : Nat} (h : d ≠ c) : (putRows c w hw sat fl rows s).core d = s.core d := (putRows_spec c w hw sat fl rows s).2.1 d h
theorem putRows_mem : (putRows c w hw sat fl rows s).mem = s.mem := (putRows_spec c w hw sat fl rows s).2.2.1
theorem putRows_gen (u : Nat) : (putRows c w hw sat fl rows s).gen u = s.gen u := by
  simp only [State.gen, State.troupe, (putRows_spec c w hw sat fl rows s).2.2.2]
end

theorem chargeReads_gen (u : Nat) (rs : List (Nat × Nat)) (s : State) (v : Nat) : (chargeReads u rs s).gen v = s.gen v :=
  (congrArg Troupe.gen (chargeReads_troupe u rs s v) :)

/-- From `s` to `t` core `c` wrote the rows, after reads of memory, and no other core and no byte of memory changed. -/
def RowsWritten (c : Nat) (w : AttnWord) (hw : Nat) (rows : List RowState) (s t : State) : Prop :=
  RowsStand w hw rows (s.core c) (t.core c) ∧ (∀ d, d ≠ c → t.core d = s.core d) ∧ t.mem.bytes = s.mem.bytes ∧ (s.mem.weak = [] → t.mem = s.mem)

theorem rowsWritten_reads (c : Nat) (w : AttnWord) (hw : Nat) (sat : Bool) (fl : AccFlags) (rows : List RowState) (u : Nat)
    (rs : List (Nat × Nat)) (s : State) : RowsWritten c w hw rows s (putRows c w hw sat fl rows (chargeReads u rs s)) := by
  have h := putRows_core c w hw sat fl rows (chargeReads u rs s)
  rw [chargeReads_core] at h
  refine ⟨h, fun d hd => ?_, ?_, fun hw => ?_⟩
  · rw [putRows_core_other _ _ _ _ _ _ _ hd, chargeReads_core]
  · rw [putRows_mem, chargeReads_bytes]
  · rw [putRows_mem, chargeReads_mem _ _ _ hw]

/-! ### Writing keys and values (R127) -/

theorem putHead_regs (u : Nat) (m : KvModel) (tag : Word) (addr part p h : Nat) (xs : List F32) (s : State) :
    RegsKept s (putHead u m tag addr part p h xs s).1 := by
  unfold putHead; dsimp only
  split
  · exact (troupeWrite_regs _ _ _ _).trans (troupeWrite_regs _ _ _ _)
  · exact troupeWrite_regs _ _ _ _

/-- A fold of steps that keep the registers keeps them. -/
theorem foldl_regs {α β : Type} (f : State × β → α → State × β) (hf : ∀ x a, RegsKept x.1 (f x a).1) (l : List α) (x : State × β) :
    RegsKept x.1 (l.foldl f x).1 := by
  induction l generalizing x with
  | nil => exact .refl _
  | cons a l ih => exact (hf x a).trans (ih _)

theorem putPosition_regs (u : Nat) (m : KvModel) (epoch addr p : Nat) (xs : List F32) (x : State × ConvFlags) :
    RegsKept x.1 (putPosition u m epoch addr p xs x).1 := by
  unfold putPosition; dsimp only
  split
  · exact .refl _
  · generalize hy : List.foldl _ x _ = y
    have hfold : RegsKept x.1 y.1 := by
      rw [← hy]
      refine foldl_regs _ (fun z i => ?_) _ x
      exact RegsKept.ite ((putHead_regs _ _ _ _ _ _ _ _ _).trans (troupeWrite_regs _ _ _ _)) (putHead_regs _ _ _ _ _ _ _ _ _)
    exact hfold.trans (RegsKept.ite ((troupeWrite_regs _ _ _ _).trans (troupeWrite_regs _ _ _ _)) (troupeWrite_regs _ _ _ _))

theorem noteArith_regs (c : Nat) (a : ArithRep) (s : State) : RegsKept s (noteArith c a s) := by
  intro d
  by_cases h : d = c
  · subst h
    obtain ⟨n, hn, -⟩ := noteArith_core d a s
    rw [hn]
  · rw [noteArith_core_other _ _ _ _ h]

/-- A KVPUT writes memory, and no register of a core block. -/
theorem kvputDo_regs (c : Nat) (w : AttnWord) (x : GSlot) (s : State) : RegsKept s (kvputDo c w x s) := by
  unfold kvputDo; dsimp only
  generalize hy : List.foldl _ (s, ({} : ConvFlags)) _ = y
  have hfold : RegsKept s y.1 := by
    rw [← hy]
    refine foldl_regs _ (fun z r => ?_) _ (s, ({} : ConvFlags))
    split
    · exact .refl _
    · exact putPosition_regs _ _ _ _ _ _ _
  exact hfold.trans (noteArith_regs _ _ _)

/-! ### The statement -/

/-- Marking a sequence changes its troupe's slots alone. -/
theorem slots_modSlot {s : State} {u i : Nat} {x : GSlot} (f : GSlot → GSlot) (h : mapFind (s.gen u).slots i = some x) :
    (s.modSlot u i f).gen u = { s.gen u with slots := mapPut (s.gen u).slots i (f x) } := by
  rw [State.modSlot, State.gen_modGen_same, h]

theorem attnSlot_some {s : State} {u i : Nat} {x : GSlot} (h : attnSlot s u i = some x) : mapFind (s.gen u).slots i = some x := by
  unfold attnSlot at h; dsimp only at h
  split at h
  · exact h
  · exact nomatch h

section
variable {c : Nat} {w : AttnWord} {x : GSlot} {s : State}

theorem astepBody_ok (hr : astepRefusal c w s = none) (hx : attnSlot s (s.core c).regs.troupe (attnSel (s.core c) w.srb).slot = some x) :
    astepBody c w s = .ok (astepDo c w x s) := by
  simp only [astepBody, hr, hx]

theorem kvputBody_ok (hr : kvputRefusal c w s = none) (hx : attnSlot s (s.core c).regs.troupe (attnSel (s.core c) w.srb).slot = some x) :
    kvputBody c w s = .ok (kvputDo c w x s) := by
  simp only [kvputBody, hr, hx]

/-- The pages of an ASTEP of the core, the sequence and the model that it names. -/
def stepPages (c : Nat) (w : AttnWord) (x : GSlot) (s : State) : List (Nat × Nat × List Byte) :=
  astepPages s (s.core c).regs.troupe (attnSel (s.core c) w.srb) x w
def stepModel (c : Nat) (w : AttnWord) (s : State) : KvModel := (s.gen (s.core c).regs.troupe).cfg.model (attnSel (s.core c) w.srb).model

/-- An ASTEP whose pages fit its mode writes its rows (R124, R126). -/
theorem astepDo_reads (h : (stepPages c w x s).any (fun g => pageRefused (stepModel c w s) w.mode g.2.2) = false) :
    astepDo c w x s = chargeArray c (2 * (w.mrows + 1) * (w.nb + 1)) (putRows c w (stepModel c w s).hw
      ((astepHeads (s.core c) s w (stepPages c w x s)).any (·.sat))
      ((astepRows (s.core c) s w (stepPages c w x s)).foldl (fun (f : AccFlags) r => f.or r.2) {})
      ((astepRows (s.core c) s w (stepPages c w x s)).map (·.1))
      (chargeReads (s.core c).regs.troupe ((stepPages c w x s).flatMap (fun g =>
        pageReads (stepModel c w s) (attnSel (s.core c) w.srb).kvh g.2.1 g.2.2)) s)) := if_neg (Bool.eq_false_iff.1 h)

/-- A sequence stopped by a page whose format does not fit: the stop is counted once (R130, R131). -/
def stopSequence (c : Nat) (w : AttnWord) (x : GSlot) (s : State) : State :=
  let u := (s.core c).regs.troupe
  (if x.kvStop then s else s.modKv u (fun (v : KvRegs) => { v with format := true, fmtStops := inc32 v.fmtStops 1 })).modSlot u
    (attnSel (s.core c) w.srb).slot (fun y => { y with kvStop := true })

/-- An ASTEP with a page that does not fit its mode stops the sequence and writes rows of zeros (R130, R131). -/
theorem astepDo_stops (h : (stepPages c w x s).any (fun g => pageRefused (stepModel c w s) w.mode g.2.2) = true) :
    astepDo c w x s = putRows c w (stepModel c w s).hw false {}
      (List.replicate (w.mrows + 1) { m := 0, l := 0, a := List.replicate (stepModel c w s).hw 0 })
      (chargeReads (s.core c).regs.troupe ((stepPages c w x s).map (fun g => (g.2.1, 256))) (stopSequence c w x s)) := if_pos h

theorem stopSequence_frame : { stopSequence c w x s with troupes := s.troupes } = s := by
  unfold stopSequence; dsimp only; split <;> rfl

theorem stopSequence_gen (hx : mapFind (s.gen (s.core c).regs.troupe).slots (attnSel (s.core c) w.srb).slot = some x) :
    let u := (s.core c).regs.troupe
    (x.kvStop = false → ((stopSequence c w x s).gen u).kv.format = true ∧
      ((stopSequence c w x s).gen u).kv.fmtStops = inc32 (s.gen u).kv.fmtStops 1) ∧
    ∃ y, mapFind ((stopSequence c w x s).gen u).slots (attnSel (s.core c) w.srb).slot = some y ∧ y.kvStop = true := by
  intro u
  unfold stopSequence; dsimp only
  cases hk : x.kvStop with
  | true =>
    simp only [if_true]
    rw [slots_modSlot _ hx]
    exact ⟨fun h => (nomatch h), _, mapFind_put_same .., rfl⟩
  | false =>
    have hk' : ((s.modKv u (fun v => { v with format := true, fmtStops := inc32 v.fmtStops 1 })).gen u) =
        { s.gen u with kv := { (s.gen u).kv with format := true, fmtStops := inc32 (s.gen u).kv.fmtStops 1 } } := State.gen_modGen_same ..
    simp only [Bool.false_eq_true, if_false]
    rw [slots_modSlot (x := x) _ (by rw [hk']; exact hx), hk']
    exact ⟨fun _ => ⟨rfl, rfl⟩, _, mapFind_put_same .., rfl⟩

theorem astepDo_reads_rows (h : (stepPages c w x s).any (fun g => pageRefused (stepModel c w s) w.mode g.2.2) = false) :
    RowsWritten c w (stepModel c w s).hw ((astepRows (s.core c) s w (stepPages c w x s)).map (·.1)) s (astepDo c w x s) := by
  rw [astepDo_reads h]
  obtain ⟨h1, h2, h3, h4⟩ := rowsWritten_reads c w (stepModel c w s).hw ((astepHeads (s.core c) s w (stepPages c w x s)).any (·.sat))
    ((astepRows (s.core c) s w (stepPages c w x s)).foldl (fun (f : AccFlags) r => f.or r.2) {})
    ((astepRows (s.core c) s w (stepPages c w x s)).map (·.1)) (s.core c).regs.troupe ((stepPages c w x s).flatMap (fun g =>
      pageReads (stepModel c w s) (attnSel (s.core c) w.srb).kvh g.2.1 g.2.2)) s
  simp only [RowsWritten, chargeArray, chargeTroupe_core, chargeTroupe_mem]
  exact ⟨h1, h2, h3, h4⟩

theorem astepDo_stops_rows (h : (stepPages c w x s).any (fun g => pageRefused (stepModel c w s) w.mode g.2.2) = true)
    (hx : mapFind (s.gen (s.core c).regs.troupe).slots (attnSel (s.core c) w.srb).slot = some x) :
    let u := (s.core c).regs.troupe
    let t := astepDo c w x s
    RowsWritten c w (stepModel c w s).hw (List.replicate (w.mrows + 1) { m := 0, l := 0, a := List.replicate (stepModel c w s).hw 0 }) s t ∧
      (x.kvStop = false → (t.gen u).kv.format = true ∧ (t.gen u).kv.fmtStops = inc32 (s.gen u).kv.fmtStops 1) ∧
      ∃ y, mapFind (t.gen u).slots (attnSel (s.core c) w.srb).slot = some y ∧ y.kvStop = true := by
  intro u t
  have hf : { stopSequence c w x s with troupes := s.troupes } = s := stopSequence_frame
  have hcores : (stopSequence c w x s).cores = s.cores := (congrArg State.cores hf :)
  have hcore := State.core_congr hcores
  have hmem : (stopSequence c w x s).mem = s.mem := (congrArg State.mem hf :)
  have hw := rowsWritten_reads c w (stepModel c w s).hw false {}
    (List.replicate (w.mrows + 1) { m := 0, l := 0, a := List.replicate (stepModel c w s).hw 0 }) u
    ((stepPages c w x s).map (fun g => (g.2.1, 256))) (stopSequence c w x s)
  rw [← astepDo_stops h] at hw
  have hgen : t.gen u = (stopSequence c w x s).gen u := by
    rw [show t = _ from astepDo_stops h, putRows_gen, chargeReads_gen]
  simp only [RowsWritten, hcore, hmem] at hw
  rw [hgen]
  exact ⟨hw, stopSequence_gen hx⟩

end

/-- Settles O29. -/
theorem attentionInstructionResults : Obligations.AttentionInstructionResults := by
  intro c w s hi s1 k u e n ob qb sb td refused holds
  dsimp only [Gives, exec]
  have other : ∀ d, d ≠ c → s1.core d = s.core d := fun d hd => issueState_core_other c d w.nd s hd
  have mem : s1.mem = s.mem := issueState_mem c w.nd s
  have gen : s1.gen u = s.gen u := by simp only [State.gen, s1, issueState_troupe]
  have stands : ∀ hw rows (t : State), RowsStand w hw rows k (t.core c) → (∀ d, d ≠ c → t.core d = s1.core d) → t.mem.bytes = s.mem.bytes →
      (s.mem.weak = [] → t.mem = s.mem) → holds hw rows t := by
    intro hw rows t ⟨h1, h2, hv, hs⟩ h3 h4 h5
    exact ⟨h1, h2, hv, hs, fun d hd => (h3 d hd).trans (other d hd), h4, h5⟩
  have refuse : ∀ {m : Host.Outcome State Fault Refusal} {body code}, m = coreIssue c w.nd body s → body s1 = .refuse code →
      ∃ t, m = .next t ∧ refused code t := by
    intro m body code hm hb
    refine refuse_gives hm hi hb ?_
    dsimp only [refused]; rw [refuseCore_core]
    exact ⟨rfl, rfl, fun hf => if_neg (by simp [hf]), (issueState_store c w.nd s).symm, fun d hd => refuseCore_core_other c d code s hd, refuseCore_mem ..⟩
  rw [← gen]
  refine ⟨?_, fun hf ht => ?_, fun x hr hx => ⟨fun hp => ?_, fun hp => ?_⟩, fun code hr => ?_, fun x hr hx => ⟨?_, ?_⟩, fun code hr => ?_⟩
  case refine_1 =>
    intro ht hq ho ho' hs
    refine issue_gives rfl hi ?_ (stands _ _ _ (putRows_core c w _ false {} _ s1) (fun d hd => putRows_core_other _ _ _ _ _ _ _ hd)
      (by rw [putRows_mem, mem]) fun _ => (putRows_mem ..).trans mem)
    have htag : ¬ (w.fin && tagInvalid td) = true := by simpa using ht
    have hroom : ¬ (decide (storeBytes < qb + n * (s1.gen u).cfg.policy.hw * 4 + 8 * n) ||
        decide (storeBytes < ob + n * (s1.gen u).cfg.policy.hw * 4) ||
        decide (storeBytes < ob + outBytes w td (s1.gen u).cfg.policy.hw) || decide (storeBytes < sb + 8 * n)) = true := by
      simp [Nat.not_lt.2 hq, Nat.not_lt.2 ho, Nat.not_lt.2 ho', Nat.not_lt.2 hs]
    exact (if_neg htag).trans (if_neg hroom)
  case refine_2 => exact refuse rfl (if_pos (by simp only [hf, Bool.true_and]; exact ht))
  case refine_3 =>
    obtain ⟨h1, h2, h3, h4⟩ := astepDo_reads_rows hp
    rw [mem] at h3 h4
    exact issue_gives rfl hi (astepBody_ok hr hx) (stands _ _ _ h1 h2 h3 h4)
  case refine_4 =>
    obtain ⟨⟨h1, h2, h3, h4⟩, hgen⟩ := astepDo_stops_rows hp (attnSlot_some hx)
    rw [mem] at h3 h4
    exact issue_gives rfl hi (astepBody_ok hr hx) ⟨stands _ _ _ h1 h2 h3 h4, hgen⟩
  case refine_5 => 
    refine refuse rfl ?_
    simp only [astepBody, hr]
  case refine_6 =>
    refine issue_next rfl hi ?_
    exact kvputBody_ok hr hx
  case refine_7 => exact kvputDo_regs c w x s1 c
  case refine_8 =>
    refine refuse rfl ?_
    simp only [kvputBody, hr]

end Sys2Proof.Machine
end

section
/-! The sampling rows (R103 to R109). -/

namespace Sys2Proof.Machine

theorem isGen_issue (c : Nat) (nd : Bool) (s : State) (u : Nat) : isGen (issueState c nd s) u = isGen s u := by
  simp [isGen, State.hasTroupe, State.gen]
@[simp] theorem issueState_gen (c : Nat) (nd : Bool) (s : State) (u : Nat) : (issueState c nd s).gen u = s.gen u := by
  simp only [State.gen, issueState_troupe]

/-- The slot lies in the range of the core's troupe, which generates (R468). -/
def SlotNamed (s : State) (c slot : Nat) : Prop :=
  let u := (s.core c).regs.troupe
  isGen s u = true ∧ (s.gen u).cfg.slotBase ≤ slot ∧ slot < (s.gen u).cfg.slotBase + (s.gen u).cfg.slotCount

section
variable {c slot : Nat} {w : VecWord} {rows : List (Nat × Nat)} {s : State} (body : Nat → GSlot → State → State)
  (hi : issues s c = true) (hv : vlOk w = true)
include hi

/-- A row that names a slot outside the troupe's range is refused. -/
theorem sampIssue_refused (h : ¬ SlotNamed s c slot) : sampIssue c w slot rows body s = .next (refuseCore c rfOpInvalid s) := by
  refine coreIssue_refuse c w.nd _ s _ hi (if_pos ?_)
  rw [issueState_ofTroupe, isGen_issue, issueState_gen]
  simp only [SlotNamed, not_and, Nat.not_lt] at h
  cases hg : isGen s (s.core c).regs.troupe with
  | false => simp
  | true =>
    by_cases hb : (s.gen (s.core c).regs.troupe).cfg.slotBase ≤ slot
    · simp [h hg hb]
    · simp [Nat.not_le.1 hb]

include hv

/-- A slot without a sequence is left alone. -/
theorem sampIssue_none (hn : SlotNamed s c slot) (hr : rows.any (fun r => storeBytes < r.1 + r.2) = false)
    (h : mapFind (s.gen (s.core c).regs.troupe).slots slot = none) : sampIssue c w slot rows body s = .next (issueState c w.nd s) := by
  obtain ⟨h1, h2, h3⟩ := hn
  refine coreIssue_ok c w.nd _ s _ hi ?_
  simp only [issueState_ofTroupe, isGen_issue, issueState_gen, h, h1, hr, hv, Nat.not_lt.2 h2, Nat.not_le.2 h3]; rfl

theorem sampIssue_some {x : GSlot} (hn : SlotNamed s c slot) (hr : rows.any (fun r => storeBytes < r.1 + r.2) = false)
    (h : mapFind (s.gen (s.core c).regs.troupe).slots slot = some x) :
    sampIssue c w slot rows body s = .next (body (s.core c).regs.troupe x (issueState c w.nd s)) := by
  obtain ⟨h1, h2, h3⟩ := hn
  refine coreIssue_ok c w.nd _ s _ hi ?_
  simp only [issueState_ofTroupe, isGen_issue, issueState_gen, h, h1, hr, hv, Nat.not_lt.2 h2, Nat.not_le.2 h3]; rfl

end

theorem chargeTroupe_cores (c : Nat) (f : Acct → Acct) (s : State) : (chargeTroupe c f s).cores = s.cores :=
  (congrArg State.cores (chargeTroupe_spec c f s).2 :)
theorem chargeTroupe_gen (c : Nat) (f : Acct → Acct) (s : State) (u : Nat) : (chargeTroupe c f s).gen u = s.gen u :=
  (congrArg Troupe.gen ((chargeTroupe_spec c f s).1 u) :)

theorem chargeVec_cores (c n : Nat) (s : State) : (chargeVec c n s).cores = s.cores := chargeTroupe_cores ..
theorem chargeVec_gen (c n : Nat) (s : State) (u : Nat) : (chargeVec c n s).gen u = s.gen u := chargeTroupe_gen ..

/-- Changing the slot of a sequence, charged or not. -/
theorem slot_modSlot {s t : State} {u i : Nat} {x : GSlot} (f : GSlot → GSlot) (h : mapFind (s.gen u).slots i = some x)
    (hg : t.gen u = s.gen u) (hc : t.cores = s.cores) :
    mapFind ((t.modSlot u i f).gen u).slots i = some (f x) ∧ (t.modSlot u i f).cores = s.cores := by
  rw [slots_modSlot f (by rw [hg]; exact h)]
  exact ⟨mapFind_put_same .., hc⟩

theorem rowAt_issue (c : Nat) (nd : Bool) (s : State) (a n : Nat) : rowAt ((issueState c nd s).core c) a n = rowAt (s.core c) a n := by
  simp [rowAt]

/-- Settles O30. -/
theorem samplingResults : Obligations.SamplingResults := by
  intro c w slot n a b s hi hv k u s1 named refused slotIn
  dsimp only [Gives, exec]
  have refuse : ∀ {rows body}, ¬ named → ∃ t, sampIssue c w slot rows body s = .next t ∧ refused t := fun h => by
    refine ⟨_, sampIssue_refused _ hi h, ?_⟩
    dsimp only [refused]; rw [refuseCore_core]
    exact ⟨rfl, rfl, fun hf => if_neg (by simp only [k] at hf; simp [hf])⟩
  have room : a + 4 * n ≤ storeBytes → b + 4 * n ≤ storeBytes →
      [(a, 4 * n), (b, 4 * n)].any (fun r => storeBytes < r.1 + r.2) = false := fun h1 h2 => by simp [Nat.not_lt.2 h1, Nat.not_lt.2 h2]
  have row : ∀ p m, rowAt (s1.core c) p m = rowAt k p m := fun p m => rowAt_issue ..
  have key : coreKey s1 c = coreKey s c := issueState_coreKey ..
  have gen : s1.gen u = s.gen u := issueState_gen ..
  refine ⟨fun h => ⟨refuse h, fun _ => refuse h, refuse h⟩, fun h hx h1 h2 => ⟨sampIssue_none _ hi hv h (room h1 h2) hx,
      fun _ => sampIssue_none _ hi hv h (room h1 h2) hx⟩, fun h hx => sampIssue_none _ hi hv h rfl hx, fun x h hx h1 h2 => ?_, fun x h hx => ?_⟩
  case refine_1 =>
    have hx1 : mapFind (s1.gen u).slots slot = some x := by rw [gen]; exact hx
    have slotIs : ∀ (t : State) (f : GSlot → GSlot), t.gen u = s1.gen u → t.cores = s1.cores →
        mapFind ((t.modSlot u slot f).gen u).slots slot = some (f x) ∧ (t.modSlot u slot f).cores = s1.cores :=
      fun t f hg hc => slot_modSlot f hx1 hg hc
    have some : ∀ body, sampIssue c w slot [(a, 4 * n), (b, 4 * n)] body s = .next (body u x s1) :=
      fun body => sampIssue_some body hi hv h (room h1 h2) hx
    refine ⟨fun hb => ⟨_, some _, ?_⟩, fun hb => ⟨_, some _, ?_⟩, fun hnf hb => ⟨fun hp => ⟨_, some _, ?_⟩, fun hd => ⟨_, some _, ?_⟩⟩,
      fun hnf hb => ⟨fun hp => ⟨_, some _, ?_⟩, fun hd => ⟨_, some _, ?_⟩⟩, fun hd => (some _).trans ?_, fun hd => (some _).trans ?_⟩
    case refine_1 =>
      simp only [row, hb, Bool.false_eq_true, if_false]
      refine ⟨?_, chargeTroupe_frame ..⟩
      rw [chargeVec, chargeTroupe_core, State.core_modCore_same, issueState_store c w.nd s]
    case refine_2 =>
      simp only [row, hb, if_true, slotIn, chargeVec_gen]
      refine ⟨hx1, (List.range n).map (Config.maskBeyond s1.draw.1), by simp, ?_⟩
      rw [chargeVec, chargeTroupe_core, State.core_modCore_same, show (s1.draw.2).core c = s1.core c from rfl, issueState_store c w.nd s]
    case refine_3 =>
      rw [if_neg (by simp [hnf, hp]), row, if_neg (by simp [hb])]
      simp only [if_true, row, key]
      exact slotIs _ _ (chargeVec_gen ..) (chargeVec_cores ..)
    case refine_4 =>
      rw [if_neg (by simp [hnf, hd]), row, if_neg (by simp [hb])]
      simp only [Bool.false_eq_true, if_false, row, key]
      refine ⟨(slotIs _ _ (chargeVec_gen ..) (chargeVec_cores ..)).1.trans ?_, (slotIs _ _ (chargeVec_gen ..) (chargeVec_cores ..)).2⟩
      simp only [hd, List.nil_append, List.length_nil, Nat.add_zero, k]
    case refine_5 =>
      rw [if_neg (by simp [hnf, hp]), row, if_pos hb]
      exact slotIs _ _ rfl rfl
    case refine_6 =>
      rw [if_neg (by simp [hnf, hd]), row, if_pos hb]
      exact slotIs _ _ rfl rfl
    case refine_7 => rw [if_pos (by rcases hd with h | h <;> simp [h])]
    case refine_8 => rw [if_pos (by rcases hd with h | h <;> simp [h])]
  case refine_2 =>
    have hx1 : mapFind (s1.gen u).slots slot = some x := by rw [gen]; exact hx
    refine ⟨fun hnf => ⟨_, sampIssue_some _ hi hv h rfl hx, ?_⟩, fun hnf => (sampIssue_some _ hi hv h rfl hx).trans ?_⟩
    · rw [if_neg (by simp [hnf])]
      simp only [show issueState c w.nd s = s1 from rfl, row, key]
      generalize specRun _ _ _ _ _ _ _ = o
      cases o.bad with
      | true => exact (slot_modSlot _ hx1 (chargeVec_gen ..) (chargeVec_cores ..)).symm
      | false => exact (slot_modSlot _ hx1 (chargeVec_gen ..) (chargeVec_cores ..)).symm
    · rw [if_pos hnf]

end Sys2Proof.Machine
end

section
/-! Commands of the generation service, the patrol of memory, the follower of the Cue, and events. -/

namespace Sys2Proof.Machine

/-! ### The wrappers with a result -/

theorem engine_next {f : State → State} {s t : State} (ha : s.alive = true) (h : f s = t) : engine f s = .next t :=
  (engine_alive f s ha).trans (congrArg _ h)
theorem regWrite_next {f : State → State} {s t : State} (ha : s.alive = true) (h : f s = t) : regWrite f s = .next t :=
  (regWrite_alive f s ha).trans (congrArg _ h)
theorem hostCmd_next {h : CmdHdr} {op : Nat} {f : State → State} {s t : State} (ha : accepted s h op = true) (hf : f s = t) :
    hostCmd h op f s = .next t := (hostCmd_accepted h op f s ha).trans (congrArg _ hf)

/-! ### Generation commands -/

/-- Messages to other modules change the messages sent alone. -/
theorem foldl_sendFab_frame {α : Type} (m : α → FabMsg) (l : List α) (s : State) :
    { l.foldl (fun s x => sendFab (m x) s) s with out.fabric := s.out.fabric } = s := by
  induction l generalizing s with
  | nil => rfl
  | cons x l ih =>
    exact congrArg (fun y : State => { y with out.fabric := s.out.fabric }) (ih (sendFab (m x) s))

theorem askRuns_gen (u v : Nat) (r : ReqRecord) (s : State) : (askRuns u r s).gen v = s.gen v := by
  unfold askRuns; split
  · exact (congrArg (fun y : State => y.gen v)
      (foldl_sendFab_frame (fun m : Nat × Nat => { kind := "head_ask", dest := m.1, vals := [m.2], data := reqBytes r }) (otherMembers s u) s) :)
  · rfl

theorem countLooks_gen (u looks hits : Nat) (s : State) :
    (countLooks u looks hits s).gen u =
      { s.gen u with kv := { (s.gen u).kv with lookups := inc32 (s.gen u).kv.lookups looks, hits := inc32 (s.gen u).kv.hits hits } } :=
  State.gen_modGen_same ..

/-- Settles O31. -/
theorem generationCommandResults : Obligations.GenerationCommandResults := by
  intro h body s u r
  dsimp only [Gives, exec]
  refine ⟨fun ha hg => ?_, fun ha hg hr => ?_, fun d looks hits ha hg hr hd => ⟨fun code hc => ?_, fun hc hq => ?_, fun hc hq => ⟨?_, ?_⟩⟩,
    fun id ha => ⟨fun hg => ?_, fun hg hw => ?_, fun hg hw => ⟨fun q hq => ?_, fun hq e he => ?_, fun hq he => ?_⟩⟩,
    fun epoch ha => ⟨fun hn => ?_, fun hg hr => ?_⟩, fun v ha => ⟨fun hv => ?_, fun hv => ?_⟩⟩
  case refine_1 => exact hostCmd_next ha (if_pos (by simpa [u] using hg))
  case refine_2 => exact hostCmd_next ha ((if_neg (by simpa [u] using hg)).trans (if_pos (by simpa [u, r] using hr)))
  case refine_3 =>
    refine hostCmd_next ha ?_
    simp only [u, r] at hg hr hd
    simp only [hg, hr, hd, hc]; rfl
  case refine_4 =>
    refine hostCmd_next ha ?_
    simp only [u, r] at hg hr hd hq
    simp only [hg, hr, hd, countLooks_gen, hq]
    cases d with
    | refuse code => exact absurd rfl (hc code)
    | _ => rfl
  case refine_5 => rw [askRuns_gen, State.gen_modGen_same, countLooks_gen]
  case refine_6 =>
    refine hostCmd_next ha ?_
    simp only [u, r] at hg hr hd hq
    simp only [hg, hr, hd, countLooks_gen, Nat.not_le.2 hq]
    cases d with
    | refuse code => exact absurd rfl (hc code)
    | _ => rfl
  case refine_7 => exact hostCmd_next ha (if_pos (by simpa [u] using hg))
  case refine_8 =>
    refine ⟨_, hostCmd_next ha ((if_neg (by simpa [u] using hg)).trans (if_pos hw)), ?_, troupeFrame_modGen ..⟩
    rw [State.gen_modGen_same]
  case refine_9 =>
    refine hostCmd_next ha ((if_neg (by simpa [u] using hg)).trans ((if_neg (by simpa [u] using hw)).trans ?_))
    simp only [registerCancel, show h.troupe = u from rfl, hq]
  case refine_10 =>
    refine hostCmd_next ha ((if_neg (by simpa [u] using hg)).trans ((if_neg (by simpa [u] using hw)).trans ?_))
    simp only [registerCancel, show h.troupe = u from rfl, hq, he]
  case refine_11 =>
    refine hostCmd_next ha ((if_neg (by simpa [u] using hg)).trans ((if_neg (by simpa [u] using hw)).trans ?_))
    simp only [registerCancel, show h.troupe = u from rfl, hq, he]
    split
    · rfl
    · split <;> rfl
  case refine_12 =>
    refine hostCmd_next ha (if_pos ?_)
    simp only [u] at hn
    rcases hn with h | h <;> simp [h]
  case refine_13 =>
    refine hostCmd_next ha (if_neg ?_)
    simp only [u] at hg hr
    simp [hg, hr]
  case refine_14 =>
    refine ⟨_, regWrite_next ha (if_pos hv), ?_, troupeFrame_modGen ..⟩
    rw [State.modKv, State.gen_modGen_same]
  case refine_15 => exact regWrite_next ha (if_neg (by simp [hv]))

end Sys2Proof.Machine
end

section
/-! Zeroing, the patrol and the digest scrub of memory. -/

namespace Sys2Proof.Machine

/-! ### Zeroing (R248, R432) -/

theorem Memory.read_filter (m : Memory) (p : Nat → Bool) (a : Nat) : Memory.read (m.filter (fun c => p c.1)) a = if p a then m.read a else 0 := by
  have h := mapFind_filter m p a
  simp only [Memory.read, mapGet, h]
  by_cases hp : p a = true
  · simp [hp]
  · simp [hp, Memory.unlisted]

theorem memoryZeroing_all {s : State} (ha : s.alive = true) (hz : s.mem.zeroed = false) (hsp : s.bt.flash.resetBlk = none) :
    execMemoryZeroing s = .next { s with mem.bytes := [], mem.poison := [], mem.weak := [], mem.zeroed := true } :=
  engine_next ha (by simp only [hz, hsp]; rfl)

theorem memoryZeroing_spares {s : State} {sp : List (Nat × Nat)} (ha : s.alive = true) (hz : s.mem.zeroed = false)
    (hsp : s.bt.flash.resetBlk = some sp) :
    execMemoryZeroing s = .next { s with
      mem.bytes := s.mem.bytes.filter (fun c => inSpare s sp c.1), mem.poison := s.mem.poison.filter (fun u => inSpare s sp u)
      mem.weak := s.mem.weak.filter (fun e => inSpare s sp e.1), mem.zeroed := true } :=
  engine_next ha (by simp only [hz, hsp]; rfl)

/-- Settles O39. -/
theorem zeroingLeavesMemoryZero : Obligations.ZeroingLeavesMemoryZero := by
  intro s ha kept
  dsimp only [Gives, exec]
  refine ⟨fun hz => ?_, fun hz => engine_next ha (if_pos hz)⟩
  cases hsp : s.bt.flash.resetBlk with
  | none =>
    have none : ∀ a, kept a = false := fun a => by simp only [kept, hsp]
    refine ⟨_, memoryZeroing_all ha hz hsp, fun a => ?_, fun a => ?_, fun e => ?_, rfl, rfl⟩
    · rw [none]; rfl
    · simp [none]
    · simp [none]
  | some sp =>
    have some : ∀ a, kept a = inSpare s sp a := fun a => by simp only [kept, hsp]
    refine ⟨_, memoryZeroing_spares ha hz hsp, fun a => ?_, fun a => ?_, fun e => ?_, rfl, rfl⟩
    · rw [some]; exact Memory.read_filter s.mem.bytes (inSpare s sp) a
    · simp [some]
    · simp [some]

/-! ### Stored errors (R249) -/

@[simp] theorem stackOf_weak (s : State) (m : Map Bool) (a : Nat) : stackOf { s with mem.weak := m } a = stackOf s a := rfl

/-- A correctable unit: its stack counts it, and beside the stack only the watch's counts change. -/
theorem unitWeak_spec (a : Nat) (s : State) :
    (unitWeak a s).stack (stackOf s a).1 =
      { s.stack (stackOf s a).1 with ce := true, ceCnt := satInc 0xFFFFFFFF (s.stack (stackOf s a).1).ceCnt } ∧
    { unitWeak a s with mem.stks := s.mem.stks, ckpt := s.ckpt } = s :=
  ⟨State.stack_modStack_same (countWatch .ce (stackOf s a).1 s) (stackOf s a).1
    (fun k => { k with ce := true, ceCnt := satInc 0xFFFFFFFF k.ceCnt }), rfl⟩

/-- The state of an uncorrectable unit before its event is raised. -/
def unitMarked (a : Nat) (s : State) : State :=
  let u := a / 64 * 64
  let s1 := s.modStack (stackOf s a).1 (fun (k : Stack) => { k with ue := true, ueCnt := inc16 k.ueCnt, eccValid := true, eccAddr := u })
  { s1 with mem.poison := (if s1.mem.poison.contains u then s1.mem.poison else u :: s1.mem.poison) }

theorem unitBad_eq (a : Nat) (s : State) :
    unitBad a s = raiseEvent evMemUe (pageOwner s a)
      (leBytes 1 (stackOf s a).1 ++ leBytes 8 (a / 64 * 64) ++ leBytes 1 (pageOwner s a)) (unitMarked a s) := rfl

/-- An uncorrectable unit: it is poisoned, counted, recorded and reported. -/
theorem unitBad_spec (a : Nat) (s : State) :
    (unitBad a s).stack (stackOf s a).1 = { s.stack (stackOf s a).1 with
      ue := true, ueCnt := inc16 (s.stack (stackOf s a).1).ueCnt, eccValid := true, eccAddr := a / 64 * 64 } ∧
    (∀ v, v ∈ (unitBad a s).mem.poison ↔ v = a / 64 * 64 ∨ v ∈ s.mem.poison) ∧ (unitBad a s).mem.weak = s.mem.weak ∧
    (unitBad a s).mem.bytes = s.mem.bytes ∧ ((unitBad a s).occ evMemUe).pend = true ∧ (unitBad a s).cores = s.cores := by
  have hm : (unitBad a s).mem = (unitMarked a s).mem := raiseEvent_mem ..
  refine ⟨?_, fun v => ?_, by rw [hm]; rfl, by rw [hm]; rfl, by rw [unitBad_eq, raiseEvent_occ], raiseEvent_cores ..⟩
  · simp only [State.stack, hm]
    exact State.stack_modStack_same s (stackOf s a).1 (fun k => { k with ue := true, ueCnt := inc16 k.ueCnt, eccValid := true, eccAddr := a / 64 * 64 })
  · rw [hm]
    show v ∈ (if s.mem.poison.contains (a / 64 * 64) then s.mem.poison else a / 64 * 64 :: s.mem.poison) ↔ _
    split
    · next h =>
      have hmem : a / 64 * 64 ∈ s.mem.poison := by simpa using h
      exact ⟨.inr, fun hv => hv.elim (fun e => e ▸ hmem) id⟩
    · exact List.mem_cons

theorem FoundFrame.readLocs {s t : State} (h : FoundFrame s t) (ls : List (Loc × Nat)) : readLocs t ls = readLocs s ls := by
  have hloc : ∀ l n, readLoc t l n = readLoc s l n := fun l n => by cases l <;> simp only [readLoc, h.bytes, h.core, h.tbuf]
  simp only [Sys2Proof.Machine.readLocs, hloc]

/-- A read of a memory with one stored error. -/
theorem findErrors_one {s : State} {e : Nat × Bool} (ls : List (Loc × Nat)) (h : s.mem.weak = [e]) :
    findErrors ls s = if readsUnit ls e.1 then findUnit s e else s := by
  unfold findErrors
  rw [h, List.filter_cons]
  split <;> rfl

theorem flagsOf_congr {s t : State} (h : ∀ v, unitLost t v = unitLost s v) (ls : List (Loc × Nat)) : flagsOf t ls = flagsOf s ls := by
  have hl : ∀ l n, poisonFlags t l n = poisonFlags s l n := fun l n => by cases l <;> simp only [poisonFlags, h]
  simp only [flagsOf, hl]

theorem mapFind_filter_keeps {α : Type} {m : Map α} {p : Nat × α → Bool} {x : Nat} (h : ∀ e ∈ m, e.1 = x → p e = true) :
    mapFind (m.filter p) x = mapFind m x := by
  induction m with
  | nil => rfl
  | cons e m ih =>
    have ih' := ih fun e' he => h e' (List.mem_cons_of_mem _ he)
    obtain ⟨j, v⟩ := e
    rw [List.filter_cons, mapFind_cons]
    by_cases hj : j = x
    · rw [if_pos (h _ (List.mem_cons_self ..) hj), mapFind_cons, if_pos hj, if_pos hj]
    · rw [if_neg hj, ← ih']
      split
      · rw [mapFind_cons, if_neg hj]
      · rfl

theorem mapFind_filter_drops {α : Type} {m : Map α} {p : Nat × α → Bool} {x : Nat} (h : ∀ e ∈ m, e.1 = x → p e = false) :
    mapFind (m.filter p) x = none := by
  induction m with
  | nil => rfl
  | cons e m ih =>
    have ih' := ih fun e' he => h e' (List.mem_cons_of_mem _ he)
    obtain ⟨j, v⟩ := e
    rw [List.filter_cons]
    by_cases hj : j = x
    · rw [if_neg (by simp [h (j, v) (List.mem_cons_self ..) hj]), ih']
    · split
      · rw [mapFind_cons, if_neg hj, ih']
      · exact ih'

/-- The patrol's read of a unit of memory, by what it finds there. -/
theorem patrol_next {s : State} (ha : s.alive = true) {a f : Nat} (pe : Bool) (h1 : a < 0x7800000000) (h2 : stackEnabled s (stackOf s a).1 = true) :
    let s0 := { s with mem.weak := mapDel s.mem.weak (a / 64 * 64) }
    let s1 := if patrolFinds s a f == 0 then s0 else if patrolFinds s a f == 1 then unitWeak a s0 else unitBad a s0
    execPatrolScrub a f pe s = .next (if pe then s1.modStack (stackOf s a).1 (fun (k : Stack) => { k with patrolDone := true }) else s1) :=
  engine_next ha (if_neg (by simp [Nat.not_le.2 h1, h2]))

/-- The end of a pass sets PATROL_DONE, and no other field of memory. -/
theorem passEnd_spec (pe : Bool) (n : Nat) (s : State) :
    let t := if pe then s.modStack n (fun (k : Stack) => { k with patrolDone := true }) else s
    t.stack n = { s.stack n with patrolDone := pe || (s.stack n).patrolDone } ∧ { t with mem.stks := s.mem.stks } = s := by
  cases pe with
  | false => exact ⟨rfl, rfl⟩
  | true => exact ⟨(State.stack_modStack_same s n (fun k => { k with patrolDone := true })).trans rfl, rfl⟩

/-- The end of a digest scrub's pass sets ROUND alone. -/
def roundIf (pe : Bool) (s : State) : State := if pe then { s with wt.round := true } else s

theorem roundIf_wt (pe : Bool) (s : State) : (roundIf pe s).wt = { s.wt with round := pe || s.wt.round } := by cases pe <;> rfl
theorem roundIf_rest (pe : Bool) (s : State) (w : Wt) : { roundIf pe s with wt := w } = { s with wt := w } := by cases pe <;> rfl

section
variable {i : Nat} {x : Shard} {s : State} (ha : s.alive = true) (pe : Bool) (hx : mapFind s.wt.shards i = some x)
include ha hx

/-- A good shard stays good, with the count of its check (R266). -/
theorem digestScrub_good {bs : List Byte} (hd : shardData s x = some bs) (hg : shardDigest bs = x.digest) :
    execDigestScrub i pe s = .next (roundIf pe { findErrors (shardReads s x) s with
      wt.shards := mapPut (findErrors (shardReads s x) s).wt.shards i { x with tCheck := (findErrors (shardReads s x) s).cue } }) :=
  engine_next ha (by simp only [hx, hd, hg, beq_self_eq_true, if_true]; rfl)

/-- The state in which a damaged shard is marked and counted. -/
def shardMarked (i : Nat) (x : Shard) (s : State) : State :=
  { s with wt.shards := mapPut s.wt.shards i { x with damaged := true }, wt.failCnt := inc16 s.wt.failCnt, wt.fail := true }

/-- A damaged shard is marked, counted and reported, and its troupe held (R266). -/
theorem digestScrub_damaged (hd : ∀ bs, shardData s x = some bs → shardDigest bs ≠ x.digest) :
    execDigestScrub i pe s = .next (roundIf pe (settleHold x.troupe (raiseEvent evShardDigest x.troupe (leBytes 4 i)
      (shardMarked i x (findErrors (shardReads s x) s))))) := by
  refine engine_next ha ?_
  cases hs : shardData s x with
  | none => simp only [hx, hs]; rfl
  | some bs => simp only [hx, hs, beq_eq_false_iff_ne.2 (hd bs hs)]; rfl

end

/-- Settling the hold of a troupe changes HELD of that troupe alone. -/
theorem settleHold_spec (u : Nat) (s : State) :
    { settleHold u s with troupes := s.troupes } = s ∧
    ((settleHold u s).troupe u).regs.held = (s.wt.damageHold && s.wt.shards.any (fun e => e.2.troupe == u && e.2.damaged)) := by
  unfold settleHold; dsimp only
  split
  · next h => exact ⟨rfl, by simpa using h⟩
  · exact ⟨rfl, by rw [State.troupe_modTroupe_same]⟩

theorem mem_of_mapFind {α : Type} {m : Map α} {k : Nat} {v : α} (h : mapFind m k = some v) : (k, v) ∈ m := by
  induction m with
  | nil => exact nomatch h
  | cons e m ih =>
    obtain ⟨j, w⟩ := e
    rw [mapFind_cons] at h
    split at h
    · next hj => cases h; exact hj ▸ List.mem_cons_self ..
    · exact List.mem_cons_of_mem _ (ih h)

/-- A read that comes upon a correctable error counts it and leaves the copy in memory as it is (R249). -/
theorem findErrors_weak {u : Nat} {s : State} {ls : List (Loc × Nat)} (hw : s.mem.weak = [(u, false)]) (hr : readsUnit ls u = true) :
    (findErrors ls s).stack (stackOf s u).1 = { s.stack (stackOf s u).1 with ce := true, ceCnt := satInc 0xFFFFFFFF (s.stack (stackOf s u).1).ceCnt } ∧
    (findErrors ls s).mem.weak = s.mem.weak ∧ (findErrors ls s).mem.poison = s.mem.poison ∧ flagsOf (findErrors ls s) ls = flagsOf s ls := by
  rw [findErrors_one ls hw, if_pos hr]
  obtain ⟨hk, hf⟩ := unitWeak_spec u s
  have hweak : (findUnit s (u, false)).mem.weak = s.mem.weak := (congrArg (fun x : State => x.mem.weak) hf :)
  have hpoison : (findUnit s (u, false)).mem.poison = s.mem.poison := (congrArg (fun x : State => x.mem.poison) hf :)
  exact ⟨hk, hweak, hpoison, flagsOf_congr (fun v => by simp only [unitLost, hweak, hpoison]) ls⟩

/-- A read that comes upon an uncorrectable error poisons the unit, whose flags stay as they were (R249). -/
theorem findErrors_lost {u : Nat} {s : State} {ls : List (Loc × Nat)} (huu : u / 64 * 64 = u) (hw : s.mem.weak = [(u, true)])
    (hr : readsUnit ls u = true) :
    (findErrors ls s).stack (stackOf s u).1 = { s.stack (stackOf s u).1 with
      ue := true, ueCnt := inc16 (s.stack (stackOf s u).1).ueCnt, eccValid := true, eccAddr := u } ∧
    (findErrors ls s).mem.weak = [] ∧ u ∈ (findErrors ls s).mem.poison ∧ ((findErrors ls s).occ evMemUe).pend = true ∧
    flagsOf (findErrors ls s) ls = flagsOf s ls := by
  rw [findErrors_one ls hw, if_pos hr]
  obtain ⟨hk, hp, hweak, -, ho, -⟩ := unitBad_spec u { s with mem.weak := mapDel s.mem.weak u }
  rw [huu] at hk hp
  have hdel : mapDel s.mem.weak u = [] := by rw [hw]; simp [mapDel]
  have hwk : (findUnit s (u, true)).mem.weak = [] := hweak.trans hdel
  refine ⟨hk, hwk, (hp u).2 (.inl rfl), ho, flagsOf_congr (fun v => ?_) ls⟩
  have hpf : ∀ v, v ∈ (findUnit s (u, true)).mem.poison ↔ v = u ∨ v ∈ s.mem.poison := hp
  have hpv : (findUnit s (u, true)).mem.poison.contains v = (v == u || s.mem.poison.contains v) := by
    rw [Bool.eq_iff_iff, List.contains_iff_mem]; simpa using hpf v
  simp only [unitLost, hpv, hwk, hw, mapGet, mapFind_cons, mapFind_nil]
  by_cases hv : u = v
  · simp [hv]
  · simp [hv, Ne.symm hv]

/-- The state after a damaged shard is marked, reported and its troupe held (R266). -/
def shardHeld (i : Nat) (x : Shard) (s : State) : State :=
  settleHold x.troupe (raiseEvent evShardDigest x.troupe (leBytes 4 i) (shardMarked i x s))

theorem shardHeld_spec (i : Nat) (x : Shard) (s : State) :
    (shardHeld i x s).wt = (shardMarked i x s).wt ∧ ((shardHeld i x s).occ evShardDigest).pend = true ∧ (shardHeld i x s).mem = s.mem ∧
    ((shardHeld i x s).troupe x.troupe).regs.held = s.wt.damageHold := by
  obtain ⟨hrest, hheld⟩ := settleHold_spec x.troupe (raiseEvent evShardDigest x.troupe (leBytes 4 i) (shardMarked i x s))
  refine ⟨(congrArg State.wt hrest :).trans (raiseEvent_wt ..),
    (congrArg (fun y : State => (y.occ evShardDigest).pend) hrest :).trans (by rw [raiseEvent_occ]),
    (congrArg State.mem hrest :).trans (raiseEvent_mem ..), ?_⟩
  have hany : (shardMarked i x s).wt.shards.any (fun e => e.2.troupe == x.troupe && e.2.damaged) = true :=
    List.any_eq_true.2 ⟨(i, { x with damaged := true }), mem_of_mapFind (mapFind_put_same ..), by simp⟩
  rw [shardHeld, hheld, raiseEvent_wt, hany, Bool.and_true]; rfl

/-- Settles O40. -/
theorem patrolResults : Obligations.PatrolResults := by
  intro a i pe s ha n k u
  dsimp only [Gives, exec]
  refine ⟨fun f h1 h2 => ⟨fun hf => ?_, fun hf => ?_, fun hf => ?_⟩, fun ls bad hw => ?_, fun m bs x bad hx hall => ?_, fun f h => ?_,
    fun hi => ?_, fun x hx => ⟨fun bs hd hg => ?_, fun hd => ?_⟩⟩
  case refine_1 =>
    refine ⟨_, patrol_next ha pe h1 h2, ?_⟩
    simp only [hf, beq_self_eq_true, if_true]
    obtain ⟨hk, hrest⟩ := passEnd_spec pe n { s with mem.weak := mapDel s.mem.weak u }
    exact ⟨hk, (congrArg (fun x : State => x.mem.bytes) hrest :), (congrArg (fun x : State => x.mem.poison) hrest :),
      (congrArg (fun x : State => { x with mem := s.mem }) hrest :)⟩
  case refine_2 =>
    refine ⟨_, patrol_next ha pe h1 h2, ?_⟩
    simp only [hf]
    obtain ⟨hk, hrest⟩ := passEnd_spec pe n (unitWeak a { s with mem.weak := mapDel s.mem.weak u })
    obtain ⟨hw, hframe⟩ := unitWeak_spec a { s with mem.weak := mapDel s.mem.weak u }
    rw [show (unitWeak a { s with mem.weak := mapDel s.mem.weak u }).stack n = _ from hw] at hk
    have hframe' := congrArg (fun x : State => { x with mem.stks := s.mem.stks, ckpt := s.ckpt }) hrest
    refine ⟨hk, ?_, (congrArg (fun x : State => x.mem.bytes) hframe' :), (congrArg (fun x : State => x.mem.poison) hframe' :),
      (congrArg (fun x : State => { x with mem := s.mem }) hframe' :)⟩
    refine (congrArg (fun x : State => mapFind x.mem.weak u) hframe' :).trans ?_
    exact (mapFind_del _ _ _).trans (if_pos rfl)
  case refine_3 =>
    have hne : ∀ j, j < 2 → (patrolFinds s a f == j) = false := fun j hj => beq_eq_false_iff_ne.2 (by omega)
    refine ⟨_, patrol_next ha pe h1 h2, ?_⟩
    simp only [hne 0 (by omega), hne 1 (by omega), Bool.false_eq_true, if_false]
    obtain ⟨hk, hrest⟩ := passEnd_spec pe n (unitBad a { s with mem.weak := mapDel s.mem.weak u })
    obtain ⟨hw, hp, hwk, hb, ho, hc⟩ := unitBad_spec a { s with mem.weak := mapDel s.mem.weak u }
    rw [show (unitBad a { s with mem.weak := mapDel s.mem.weak u }).stack n = _ from hw] at hk
    refine ⟨hk, ?_, ?_, (congrArg (fun x : State => (x.occ evMemUe).pend) hrest :).trans ho, (congrArg (fun x : State => x.mem.bytes) hrest :).trans hb,
      (congrArg State.cores hrest :).trans hc⟩
    · refine (congrArg (fun x : State => mapFind x.mem.weak u) hrest :).trans ?_
      rw [hwk]; exact (mapFind_del _ _ _).trans (if_pos rfl)
    · exact (congrArg (fun x : State => u ∈ x.mem.poison) hrest :).mpr ((hp u).2 (.inl rfl))
  case refine_4 =>
    have huu : u / 64 * 64 = u := by simp only [u]; omega
    refine ⟨(findErrors_frame ls s).readLocs ls, fun hr => ?_, fun hr hb => findErrors_weak (hb ▸ hw) hr,
      fun hr hb => findErrors_lost huu (hb ▸ hw) hr⟩
    rw [findErrors_one ls hw, if_neg (by simp [hr])]
  case refine_5 =>
    have hweak : (storeUnits m a bs).1.weak = weakAfter m.weak a bs.length := rfl
    rw [hweak]
    refine ⟨fun h1 h2 => mapFind_filter_drops fun e he hk => ?_, fun h1 h2 hb => mapFind_filter_drops fun e he hk => ?_,
      fun h => (mapFind_filter_keeps fun e he hk => ?_).trans hx⟩
    · have hl : a < x + 64 := by omega
      have hr : x < a + bs.length := by omega
      simp [hk, h1, h2, hl, hr]
    · simp [hk, h1, h2, hall e he hk, hb]
    · rcases h with h | h
      · simp [hk, Nat.not_lt.2 h]
      · simp [hk, Nat.not_lt.2 h]
  case refine_6 =>
    refine engine_next ha (if_pos ?_)
    rcases h with h | h
    · simp [h]
    · simp [show stackEnabled s (stackOf s a).1 = false from h]
  case refine_7 => exact engine_next ha (by simp only [hi])
  case refine_8 =>
    refine ⟨_, digestScrub_good ha pe hx hd hg, ?_⟩
    have hframe := findErrors_frame (shardReads s x) s
    have hwt := hframe.wt
    have hcue := hframe.cue
    generalize findErrors (shardReads s x) s = s1 at hwt hcue
    refine ⟨?_, ?_, ?_⟩
    · rw [roundIf_wt, hcue]; exact mapFind_put_same ..
    · rw [roundIf_wt, ← hwt]
    · rw [roundIf_rest, ← hwt]
  case refine_9 =>
    refine ⟨_, digestScrub_damaged ha pe hx hd, ?_⟩
    have hwt := (findErrors_frame (shardReads s x) s).wt
    generalize findErrors (shardReads s x) s = s1 at hwt
    obtain ⟨hwt2, hocc, hmem, hhold⟩ := shardHeld_spec i x s1
    rw [← shardHeld]
    generalize shardHeld i x s1 = s2 at hwt2 hocc hmem hhold
    have hr := roundIf_rest pe s2 s2.wt
    refine ⟨?_, ?_, ?_, (congrArg (fun y : State => (y.occ evShardDigest).pend) hr :).trans hocc,
      (congrArg (fun y : State => (y.troupe x.troupe).regs.held) hr :).trans (hhold.trans (by rw [hwt])), ?_,
      (congrArg State.mem hr :).trans hmem⟩
    · rw [roundIf_wt, hwt2]; exact mapFind_put_same ..
    · rw [roundIf_wt, hwt2, ← hwt]; rfl
    · rw [roundIf_wt, hwt2]; rfl
    · rw [roundIf_wt, hwt2, ← hwt]; rfl

end Sys2Proof.Machine
end

section
/-! The follower of the Cue, the host link and events. -/

namespace Sys2Proof.Machine

/-! ### The follower of the Cue (R312) -/

/-- Losing LOCK changes the follower's lock registers, and beside them only what an event changes. -/
theorem unlockCue_spec (s : State) :
    (unlockCue s).cue = s.cue ∧ (unlockCue s).cores = s.cores ∧ (unlockCue s).mem = s.mem ∧
    { (unlockCue s).cueRegs with good := s.cueRegs.good, lock := s.cueRegs.lock, unlock := s.cueRegs.unlock, unlockCnt := s.cueRegs.unlockCnt } =
      s.cueRegs ∧
    (s.cueRegs.master = false → (unlockCue s).cueRegs.lock = false) := by
  unfold unlockCue
  split
  · next h => exact ⟨rfl, rfl, rfl, rfl, fun hm => by simpa [hm] using h⟩
  · simp only [raiseModule, raiseEvent_cue, raiseEvent_cores, raiseEvent_mem, raiseEvent_cueRegs]
    exact ⟨trivial, trivial, trivial, trivial, fun _ => trivial⟩

/-- Judging an estimate changes the lock registers; an offset beyond 2 cycles unlocks, and the 64th in a row within 1 locks. -/
theorem judgeLock_spec (ps : Int) (s : State) :
    (judgeLock ps s).cue = s.cue ∧ (judgeLock ps s).cores = s.cores ∧ (judgeLock ps s).mem = s.mem ∧
    { (judgeLock ps s).cueRegs with good := s.cueRegs.good, lock := s.cueRegs.lock, unlock := s.cueRegs.unlock, unlockCnt := s.cueRegs.unlockCnt } =
      s.cueRegs ∧
    (withinCycles ps 2 = false → s.cueRegs.master = false → (judgeLock ps s).cueRegs.lock = false) ∧
    (withinCycles ps 1 = true → 63 ≤ s.cueRegs.good → (judgeLock ps s).cueRegs.lock = true) := by
  have h12 : withinCycles ps 1 = true → withinCycles ps 2 = true := by simp only [withinCycles, decide_eq_true_eq]; omega
  obtain ⟨u1, u2, u3, u4, u5⟩ := unlockCue_spec s
  unfold judgeLock
  cases h2 : withinCycles ps 2 with
  | false => exact ⟨u1, u2, u3, u4, fun _ => u5, fun h => absurd (h12 h) (by simp [h2])⟩
  | true =>
    cases h1 : withinCycles ps 1 with
    | false => exact ⟨rfl, rfl, rfl, rfl, fun h => (nomatch h), fun h => (nomatch h)⟩
    | true =>
      refine ⟨rfl, rfl, rfl, rfl, fun h => (nomatch h), fun _ hg => ?_⟩
      have hgood : (if s.cueRegs.good < 64 then s.cueRegs.good + 1 else 64) = 64 := by split <;> omega
      simp [hgood]

/-- The correction of the count by an estimate, and what it leaves. -/
theorem correctCue_spec (ps : Int) (s : State) :
    { correctCue ps s with cue := s.cue, cueRegs.withhold := s.cueRegs.withhold, cueRegs.slewed := s.cueRegs.slewed } = s ∧
    (s.cueRegs.estimated = false → s.cueRegs.started = false → (correctCue ps s).cue = (((s.cue : Int) - offsetCycles ps) % (2 ^ 64 : Int)).toNat) ∧
    (s.cueRegs.estimated = true ∨ s.cueRegs.started = true →
      (offsetCycles ps = 0 ∨ s.cue < s.cueRegs.slewed + 1024 → correctCue ps s = s) ∧
      (offsetCycles ps < 0 → s.cueRegs.slewed + 1024 ≤ s.cue →
        correctCue ps s = { s with cue := (s.cue + 1) % 2 ^ 64, cueRegs.slewed := (s.cue + 1) % 2 ^ 64 }) ∧
      (0 < offsetCycles ps → s.cueRegs.slewed + 1024 ≤ s.cue → correctCue ps s = { s with cueRegs.withhold := true, cueRegs.slewed := s.cue })) := by
  unfold correctCue; dsimp only
  refine ⟨?_, fun he hs => by simp [he, hs], fun h => ?_⟩
  · split
    · rfl
    · split
      · rfl
      · split <;> rfl
  · have hno : (!s.cueRegs.estimated && !s.cueRegs.started) = false := by rcases h with h | h <;> simp [h]
    rw [hno]
    refine ⟨fun h => ?_, fun hn hc => ?_, fun hn hc => ?_⟩
    · rw [if_neg (by simp), if_pos (by rcases h with h | h <;> simp [h])]
    · rw [if_neg (by simp), if_neg (by simp [Nat.not_lt.2 hc]; omega), if_pos hn]
    · rw [if_neg (by simp), if_neg (by simp [Nat.not_lt.2 hc]; omega), if_neg (by omega)]

/-- Settles O44. -/
theorem cueFollowerResults : Obligations.CueFollowerResults := by
  intro t1 t2 t3 t4 s ha c y ps
  dsimp only [Gives, exec]
  refine ⟨fun hm hy hr => ⟨_, engine_next ha (if_neg ?_), ?_⟩, fun h => engine_next ha (if_pos ?_), fun hc hm hl => ⟨_, engine_next ha (if_pos hc), ?_⟩,
    fun hc h => engine_next ha ((if_pos hc).trans ?_), fun hc => engine_next ha (if_neg (Nat.not_le.2 hc))⟩
  case refine_1 =>
    simp only [c, y] at hm hy hr; simp [hm, hy, hr]
  case refine_2 =>
    rw [show cueOffset s.cueRegs.parent t1 t2 t3 t4 = ps from rfl]
    obtain ⟨kf, k1, k2⟩ := correctCue_spec ps { s with cueRegs.offsetPs := ps }
    have ke : takeEstimate ps s = { judgeLock ps (correctCue ps { s with cueRegs.offsetPs := ps }) with
      cueRegs.lastX := (judgeLock ps (correctCue ps { s with cueRegs.offsetPs := ps })).cue, cueRegs.estimated := true } := rfl
    rw [ke]
    generalize correctCue ps { s with cueRegs.offsetPs := ps } = s1 at kf k1 k2
    obtain ⟨j1, j2, j3, j4, j5, j6⟩ := judgeLock_spec ps s1
    generalize judgeLock ps s1 = s2 at j1 j2 j3 j4 j5 j6
    have regs : s1.cueRegs.offsetPs = ps ∧ s1.cueRegs.master = false ∧ s1.cueRegs.good = c.good :=
      ⟨(congrArg (fun x : State => x.cueRegs.offsetPs) kf :), (congrArg (fun x : State => x.cueRegs.master) kf :).trans hm,
        (congrArg (fun x : State => x.cueRegs.good) kf :)⟩
    have hold : s2.cueRegs.withhold = s1.cueRegs.withhold := (congrArg CueRegs.withhold j4 :)
    obtain ⟨r1, r2, r3⟩ := regs
    refine ⟨(congrArg CueRegs.offsetPs j4 :).trans r1, rfl, rfl, fun h => j5 h r2, fun h hg => j6 h (r3 ▸ hg), fun he hst => j1.trans (k1 he hst),
      fun he => ⟨fun h => ?_, fun h hc => ?_, fun h hc => ?_⟩, j2.trans (congrArg State.cores kf :), j3.trans (congrArg State.mem kf :)⟩
    · have := (k2 he).1 h
      exact ⟨j1.trans (by rw [this]), hold.trans (by rw [this])⟩
    · have := (k2 he).2.1 h hc
      exact ⟨j1.trans (by rw [this]), hold.trans (by rw [this])⟩
    · have := (k2 he).2.2 h hc
      exact ⟨j1.trans (by rw [this]), hold.trans (by rw [this])⟩
  case refine_3 =>
    simp only [c, y] at h; rcases h with h | h | h <;> simp [h]
  case refine_4 =>
    rw [unlockCue, if_neg (by simp only [c] at hm hl; simp [hm, hl])]
    simp only [raiseModule, raiseEvent_cue, raiseEvent_cores, raiseEvent_cueRegs, raiseEvent_occ]
    exact ⟨trivial, trivial, rfl, trivial, trivial, trivial⟩
  case refine_5 => exact if_pos (by simp only [c] at h; rcases h with h | h <;> simp [h])

/-! ### The host link and events (R374, R375, R386 to R388) -/

/-- Replacing an event's entry changes that entry alone. -/
theorem occ_put (code : Nat) (o : EvOcc) (s : State) :
    ({ s with thl.events := mapPut s.thl.events code o } : State).occ code = o ∧
    ∀ d, d ≠ code → ({ s with thl.events := mapPut s.thl.events code o } : State).occ d = s.occ d :=
  ⟨mapGet_put_same _ _ _ _, fun _ h => mapGet_put_other _ _ _ h⟩

/-- Settles O52. -/
theorem eventAndLinkResults : Obligations.EventAndLinkResults := by
  intro s ha
  dsimp only [Gives, exec]
  refine ⟨fun lo hi => ⟨fun hp hl hn => ?_, fun h => ?_⟩, fun ms => ⟨fun h1 h2 => ?_, fun h => ?_⟩,
    fun code u data hc => ?_, fun code u data hc => ?_, fun m key => ⟨fun hl => ?_, fun hl hm => ?_, fun hl hm hk => ?_, fun hl hm hk => ?_⟩,
    fun code o ho => ⟨?_, ?_⟩, fun code hn => ⟨?_, ?_⟩, ?_, fun q hl => ⟨fun n e hn he => ⟨fun hk hr => ?_, fun h => ?_⟩, fun h => ?_⟩,
    fun q hl => ⟨fun n ns hlost hw => ?_, fun h => ?_⟩, fun h op => ⟨fun l hload => ?_, fun e hload hjob => ?_, fun hload hjob hf => ?_, fun hload hjob hf => ?_⟩⟩
  case refine_1 =>
    have hgo : ¬ (!s.thl.regs.prsnt || !linksRun s || s.thl.regs.link == 2) = true := by simp [hp, hl, hn]
    refine ⟨fun h1 h2 => engine_next ha ((if_neg hgo).trans ?_), fun h => engine_next ha ((if_neg hgo).trans ?_),
      fun h1 h2 => engine_next ha ((if_neg hgo).trans ?_)⟩
    · simp [h1, h2]
    · cases lo <;> cases hi <;> simp_all
    · simp [h1, h2]
  case refine_2 => exact engine_next ha (if_pos (by rcases h with h | h | h <;> simp [h]))
  case refine_3 => exact engine_next ha (if_neg (by simp [h1, h2]))
  case refine_4 => exact engine_next ha (if_pos (by rcases h with h | h <;> simp [h]))
  case refine_5 =>
    refine ⟨_, engine_next ha (if_pos hc), ?_⟩
    simp only [raiseEvent_occ, raiseEvent_cores, raiseEvent_mem, raiseEvent_troupes]
    exact ⟨trivial, trivial, trivial, raiseEvent_occ_other code u data s, trivial, trivial, trivial⟩
  case refine_6 => exact engine_next ha (if_neg (by simp [hc]))
  case refine_7 => exact engine_next ha (if_pos (by simp [hl]))
  case refine_8 => exact engine_next ha (by simp [hl, hm])
  case refine_9 => exact engine_next ha (by simp [hl, hm, hk])
  case refine_10 => exact engine_next ha (by simp [hl, hm, hk])
  case refine_11 =>
    refine ⟨_, regWrite_next ha (by rw [ho]), ?_⟩
    obtain ⟨hs, hd⟩ := occ_put code { o with pend := false } s
    exact ⟨hs, hd, rfl⟩
  case refine_12 =>
    refine ⟨_, regWrite_next ha (by rw [ho]), ?_⟩
    obtain ⟨hs, hd⟩ := occ_put code { o with count := 0 } s
    exact ⟨hs, hd, rfl, by rw [raiseEvent_occ, hs]; rfl⟩
  case refine_13 => exact regWrite_next ha (by rw [hn])
  case refine_14 => exact regWrite_next ha (by rw [hn])
  case refine_15 => exact regWrite_next ha rfl
  case refine_16 => exact engine_next ha (by simp [hl, hn, he, hk, hr])
  case refine_17 =>
    have hstay : ¬ (s.thl.regs.link == 2 && decide (e.unread < 2 ^ e.log2n)) = true := by
      rcases h with h | h
      · simp [h]
      · simp [Nat.not_lt.2 h]
    refine engine_next ha ((if_pos hl).trans ?_)
    rw [hn, he]
    exact if_neg hstay
  case refine_18 =>
    refine engine_next ha ((if_pos hl).trans ?_)
    split
    · next hn he => rcases h with h | h <;> simp_all
    · rfl
  case refine_19 => exact engine_next ha (by simp [hl, hlost, hw])
  case refine_20 =>
    refine engine_next ha ((if_neg (by simp [hl])).trans ?_)
    rcases h with h | h <;> simp [h]
  case refine_21 => exact engine_next ha (by simp only [hload])
  case refine_22 => exact engine_next ha (by simp only [hload, hjob])
  case refine_23 => exact engine_next ha (by simp only [hload, hjob]; exact if_pos hf)
  case refine_24 => exact engine_next ha (by simp only [hload, hjob]; exact if_neg (by simp [hf]))

end Sys2Proof.Machine
end

section
/-! The step of the machine as a whole. -/

namespace Sys2Proof.Machine

/-- Settles O1. -/
theorem stepRunsTheFrontCommand : Obligations.StepRunsTheFrontCommand := by
  intro c rest s h
  rw [step, h]

/-- Settles O8. -/
theorem resetLeavesTheModuleAsShipped : Obligations.ResetLeavesTheModuleAsShipped :=
  ⟨rfl, rfl, rfl, rfl, rfl, rfl, rfl, rfl, rfl, rfl, rfl, rfl, rfl, rfl, rfl⟩

/-! ### What leaves the Cue alone -/

/-- From `s` to `t` the Cue count and its registers stay. -/
def CueKept (s t : State) : Prop := t.cue = s.cue ∧ t.cueRegs = s.cueRegs

theorem CueKept.refl (s : State) : CueKept s s := ⟨rfl, rfl⟩
theorem CueKept.trans {s t u : State} (h : CueKept s t) (k : CueKept t u) : CueKept s u := ⟨k.1.trans h.1, k.2.trans h.2⟩
theorem CueKept.foldl {α : Type} {f : State → α → State} (h : ∀ s x, CueKept s (f s x)) (l : List α) (s : State) : CueKept s (l.foldl f s) := by
  induction l generalizing s with
  | nil => exact .refl s
  | cons x l ih => exact (h s x).trans (ih _)

/-! ### What a write to memory or to a target leaves alone, part by part -/

section
variable {β : Type} (g : State → β)

/-- What every step of a fold keeps, the fold keeps. -/
theorem foldl_same {α : Type} {f : State → α → State} (h : ∀ s x, g (f s x) = g s) (l : List α) (s : State) : g (l.foldl f s) = g s := by
  induction l generalizing s with
  | nil => rfl
  | cons x l ih => exact (ih _).trans (h s x)

/-- What a write within a page keeps, a write to memory keeps. -/
theorem writeMem_same (h : ∀ owner s a bs, g (writeMemPiece owner s a bs).1 = g s) (owner : Owner) (s : State) (a : Nat) (bs : List Byte) :
    g (writeMem owner s a bs).1 = g s := by
  unfold writeMem
  generalize memPieces _ a bs = l
  generalize hx : ((s, false) : State × Bool) = x
  rw [show s = x.1 by rw [← hx]]
  clear hx
  induction l generalizing x with
  | nil => rfl
  | cons p l ih => exact (ih _).trans (h owner x.1 p.1 p.2)

/-- What a write within a page, to a core store and to a tile buffer keeps, a write over targets keeps. -/
theorem writeLocs_same (h : ∀ owner s a bs, g (writeMemPiece owner s a bs).1 = g s)
    (hc : ∀ (s : State) c o bs, g (s.modCore c (fun (k : Core) => { k with store := k.store.writeN o bs })) = g s)
    (ht : ∀ (s : State) a bs, g ({ s with mem.tbuf := s.mem.tbuf.writeN a bs } : State) = g s)
    (owner : Owner) (ls : List (Loc × Nat)) (s : State) (bs : List Byte) : g (writeLocs owner s ls bs).1 = g s := by
  induction ls generalizing s bs with
  | nil => rfl
  | cons x ls ih =>
    obtain ⟨l, n⟩ := x
    refine (ih _ _).trans ?_
    cases l with
    | mem a => exact writeMem_same g h owner s a _
    | store c o => exact hc s c o _
    | tbuf i o => exact ht s (i * 0x2000000 + o) _
end

theorem writeMemPiece_cue (owner : Owner) (s : State) (a : Nat) (bs : List Byte) :
    ((writeMemPiece owner s a bs).1.cue, (writeMemPiece owner s a bs).1.cueRegs) = (s.cue, s.cueRegs) := by
  unfold writeMemPiece; dsimp only; split <;> rfl

theorem writeLocs_cueKept (owner : Owner) (ls : List (Loc × Nat)) (s : State) (bs : List Byte) : CueKept s (writeLocs owner s ls bs).1 :=
  Prod.ext_iff.1 (writeLocs_same (fun s => (s.cue, s.cueRegs)) writeMemPiece_cue (fun _ _ _ _ => rfl) (fun _ _ _ => rfl) owner ls s bs)

theorem troupeWrite_cueKept (s : State) (u a : Nat) (bs : List Byte) : CueKept s (troupeWrite s u a bs) := by
  unfold troupeWrite
  split
  · next ls _ =>
    have h := (chargeStacks_frame u 0 (stackBytesOf ls) (writeLocs .none s ls bs).1).1
    exact (writeLocs_cueKept .none ls s bs).trans ⟨(congrArg State.cue h :), (congrArg State.cueRegs h :)⟩
  · exact .refl s

/-! ### A cancel leaves the Cue alone (R94, R96) -/

theorem dropRef_cueKept (u : Nat) (s : State) (f : Nat) : CueKept s (dropRef u s f) := by
  unfold dropRef; dsimp only
  have h := troupeWrite_cueKept s u (frameAddr (s.gen u).cfg f + 0x10) (leBytes 2 (frameRef s u f - 1))
  split
  · exact h.trans ⟨rfl, rfl⟩
  · exact h

theorem dropRow_cueKept (u m r : Nat) (s : State) : CueKept s (dropRow u m r s) := by
  unfold dropRow; dsimp only; split <;> exact ⟨rfl, rfl⟩

theorem releaseTable_cueKept (u m : Nat) (tab : Map Nat) (s : State) : CueKept s (releaseTable u m tab s) := by
  unfold releaseTable
  refine CueKept.foldl (fun s e => ?_) tab s
  have h : CueKept s ((rowFrames s u m e.2).foldl (dropRef u) s) := CueKept.foldl (dropRef_cueKept u) _ s
  exact CueKept.trans h (dropRow_cueKept u m e.2 _)

theorem releaseSeq_cueKept (u i : Nat) (s : State) : CueKept s (releaseSeq u i s) := by
  unfold releaseSeq
  split
  · exact .refl s
  · next x _ =>
    split
    · exact .refl s
    · have h0 := releaseTable_cueKept u 0 x.pol s
      have h1 := releaseTable_cueKept u 1 x.dra (releaseTable u 0 x.pol s)
      exact (h0.trans h1).trans ⟨rfl, rfl⟩

theorem dropClient_cueKept (r : Nat) (cl : Nat × Nat × Nat) (s : State) : CueKept s (dropClient r cl s).1 := by
  unfold dropClient; dsimp only
  generalize hs1 : s.modGen r _ = s1
  have h1 : CueKept s s1 := by rw [← hs1]; exact ⟨rfl, rfl⟩
  split
  · exact h1
  · next k y _ =>
    split
    · exact h1.trans ⟨rfl, rfl⟩
    · split
      · exact h1
      · exact (h1.trans (releaseSeq_cueKept r k s1)).trans ⟨rfl, rfl⟩

theorem stopPrefill_cueKept (u i : Nat) (s : State) : CueKept s (stopPrefill u i s).1 := by
  unfold stopPrefill
  split
  · split
    · exact dropClient_cueKept _ _ s
    · exact ⟨rfl, rfl⟩
  · exact .refl s

theorem finishReq_cueKept (u : Nat) (h : CmdHdr) (r : ReqRecord) (x : Option (Nat × GSlot)) (status : Nat) (s : State) :
    CueKept s (finishReq u h r x status s) := ⟨rfl, rfl⟩

theorem clearSlot_cueKept (u i : Nat) (s : State) : CueKept s (clearSlot u i s) := ⟨rfl, rfl⟩

theorem cancelSlot_cueKept (u i : Nat) (s : State) : CueKept s (cancelSlot u i s) := by
  unfold cancelSlot
  split
  · exact .refl s
  · next x _ =>
    have h1 : CueKept s (if x.st == .await then stopPrefill u i s else (s, [], 0)).1 := by
      split
      · exact stopPrefill_cueKept u i s
      · exact .refl s
    generalize (if x.st == .await then stopPrefill u i s else (s, [], 0)) = p at h1
    obtain ⟨s1, fs, tf⟩ := p
    have freed (f : Gen → Gen) : CueKept s (clearSlot u i (releaseSeq u i (s1.modGen u f))) :=
      ((h1.trans (u := s1.modGen u f) ⟨rfl, rfl⟩).trans (releaseSeq_cueKept u i _)).trans (clearSlot_cueKept u i _)
    dsimp only
    split
    · split
      · exact h1.trans ⟨rfl, rfl⟩
      · split
        · exact h1.trans ⟨rfl, rfl⟩
        · exact (freed _).trans (finishReq_cueKept ..)
    · split
      · exact h1.trans ⟨rfl, rfl⟩
      · split
        · exact h1.trans ⟨rfl, rfl⟩
        · exact (freed _).trans (finishReq_cueKept ..)

theorem registerCancel_cueKept (u : Nat) (s : State) (q : CmdHdr × Nat) : CueKept s (registerCancel u s q) := by
  unfold registerCancel; dsimp only
  split
  · exact ⟨rfl, rfl⟩
  · split
    · next e _ => exact (cancelSlot_cueKept u e.1 s).trans ⟨rfl, rfl⟩
    · split
      · exact ⟨rfl, rfl⟩
      · split <;> exact ⟨rfl, rfl⟩

theorem settleCancels_cueKept (u : Nat) (s : State) : CueKept s (settleCancels u s) :=
  CueKept.trans ⟨rfl, rfl⟩ (CueKept.foldl (registerCancel_cueKept u) _ _)

theorem endCount_cueKept (s : State) : CueKept s (endCount s) := CueKept.foldl (fun s u => settleCancels_cueKept u s) _ s

theorem endCount_none (s : State) (h : ∀ e ∈ s.troupes, e.2.gen.cancels = []) : endCount s = s := by
  have : s.troupes.filter (fun e => !e.2.gen.cancels.isEmpty) = [] := List.filter_eq_nil_iff.2 (fun e he => by simp [h e he])
  rw [endCount, this]; rfl

/-! ### One core cycle (R52, R310, R312, R332) -/

/-- The state of a core cycle in which the Cue has counted, or the follower's withheld count is taken, and an error may have come about. -/
def counted (s : State) : State :=
  let s1 := { s with mem.weak := struck s (Config.strike s.fresh), fresh := s.fresh + 1 }
  if s1.cueRegs.withhold then { s1 with cueRegs.withhold := false } else { s1 with cue := (s1.cue + 1) % 2 ^ 64 }

/-- The CORE counter of troupe `u`, one higher (R332). -/
def chargeCore (s : State) (u : Nat) : State :=
  s.modTroupe u (fun (x : Troupe) => { x with regs.acct.core := (x.regs.acct.core + 1) % 2 ^ 64 })

theorem tick_alive (s : State) (ha : s.alive = true) :
    tick s = refuseUndefined ((busyCores (endCount s)).foldl chargeCore (counted (endCount s))) := if_neg (by simp [ha])

theorem counted_spec (s : State) :
    (s.cueRegs.withhold = false → (counted s).cue = (s.cue + 1) % 2 ^ 64) ∧ (s.cueRegs.withhold = true → (counted s).cue = s.cue) ∧
    (counted s).cueRegs = { s.cueRegs with withhold := false } ∧
    { counted s with cue := s.cue, cueRegs := s.cueRegs, mem := s.mem, fresh := s.fresh } = s ∧
    { (counted s).mem with weak := s.mem.weak } = s.mem := by
  unfold counted; dsimp only
  cases h : s.cueRegs.withhold with
  | true => exact ⟨fun h => (nomatch h), fun _ => rfl, rfl, rfl, rfl⟩
  | false => exact ⟨fun _ => rfl, fun h => (nomatch h), by show s.cueRegs = _; rw [← h], rfl, rfl⟩

/-- Charging cores changes the CORE counters of troupes alone. -/
theorem foldl_chargeCore_frame (l : List Nat) (s : State) :
    { l.foldl chargeCore s with troupes := s.troupes } = s ∧
    ∀ u, { (l.foldl chargeCore s).troupe u with regs.acct.core := (s.troupe u).regs.acct.core } = s.troupe u := by
  induction l generalizing s with
  | nil => exact ⟨rfl, fun _ => rfl⟩
  | cons v l ih =>
    obtain ⟨hs, ht⟩ := ih (chargeCore s v)
    refine ⟨(congrArg (fun x : State => { x with troupes := s.troupes }) hs :), fun u => ?_⟩
    refine (congrArg (fun x : Troupe => { x with regs.acct.core := (s.troupe u).regs.acct.core }) (ht u) :).trans ?_
    by_cases hu : u = v
    · subst hu
      rw [show (chargeCore s u).troupe u = _ from State.troupe_modTroupe_same ..]
    · rw [show (chargeCore s v).troupe u = s.troupe u from State.troupe_modTroupe_other _ _ hu]

theorem refuseUndefined_cueKept (s : State) : CueKept s (refuseUndefined s) :=
  CueKept.foldl (fun s c => ⟨(refuseCore_spec c rfOpInvalid s).cue, (refuseCore_spec c rfOpInvalid s).cueRegs⟩) _ s

theorem refuseUndefined_none (s : State) (h : ∀ c, c < physCores → undefinedWord (nextWord s c) = false) : refuseUndefined s = s := by
  have : undefinedAt s = [] := List.filter_eq_nil_iff.2 (fun c _ => by
    by_cases hc : c < physCores
    · simp [h c hc]
    · simp [hc])
  rw [refuseUndefined, this]; rfl

/-- Settles O2. -/
theorem idleStepIsOneCoreCycle : Obligations.IdleStepIsOneCoreCycle := by
  intro s hp
  have hstep : step s = .next (tick s) := by rw [step, hp]
  refine ⟨fun ha => hstep.trans (congrArg _ (if_pos (by simp [ha]))), fun ha => ⟨_, hstep, ?_⟩⟩
  rw [tick_alive s ha]
  obtain ⟨e1, e2⟩ := endCount_cueKept s
  obtain ⟨c1, c2, c3, c4, c5⟩ := counted_spec (endCount s)
  obtain ⟨f1, f2⟩ := foldl_chargeCore_frame (busyCores (endCount s)) (counted (endCount s))
  generalize hcharged : (busyCores (endCount s)).foldl chargeCore (counted (endCount s)) = s2 at f1 f2
  obtain ⟨r1, r2⟩ := refuseUndefined_cueKept s2
  have hcue : (refuseUndefined s2).cue = (counted (endCount s)).cue := r1.trans (congrArg State.cue f1 :)
  have hregs : s2.cueRegs = (counted (endCount s)).cueRegs := (congrArg State.cueRegs f1 :)
  refine ⟨fun hw => ?_, fun hw => ?_, ?_, fun hc hu => ?_⟩
  · rw [hcue, c1 (e2 ▸ hw), e1]
  · rw [hcue, c2 (e2 ▸ hw), e1]
  · rw [r2, hregs, c3]
  · rw [endCount_none s hc] at c3 c4 c5 f1 f2 hregs
    have hcores : s2.cores = s.cores := (congrArg State.cores f1 :).trans (congrArg State.cores c4 :)
    have hmem : s2.mem = (counted s).mem := (congrArg State.mem f1 :)
    have htr : (counted s).troupes = s.troupes := (congrArg State.troupes c4 :)
    have hword (c : Nat) : nextWord s2 c = nextWord s c := by rw [nextWord, nextWord, State.core_congr hcores]
    rw [refuseUndefined_none s2 (fun c h => by rw [hword]; exact hu c h)]
    refine ⟨hregs.trans c3, ?_, by rw [hmem]; exact c5, fun u => ?_⟩
    · have := (congrArg (fun x : State => { x with cue := s.cue, cueRegs := s.cueRegs, troupes := s.troupes, mem := s.mem, fresh := s.fresh }) f1 :)
      exact this.trans ((congrArg (fun x : State => { x with troupes := s.troupes }) c4 :))
    · have := f2 u
      rwa [show (counted s).troupe u = s.troupe u by rw [State.troupe, htr]; rfl] at this

end Sys2Proof.Machine
end

section
/-! The generation step, the learner, its verdict, the Whetstones and fly-ins. -/

namespace Sys2Proof.Machine

/-- Settles O35. -/
theorem counterClears : Obligations.CounterClears := by
  intro n s ha
  dsimp only [Gives, exec]
  refine ⟨fun ht => ⟨⟨_, regWrite_next ha (if_pos ht), ?_, troupeFrame_modLrn ..⟩, ⟨_, regWrite_next ha (if_pos ht), ?_, troupeFrame_modLrn ..⟩,
      ⟨_, regWrite_next ha (if_pos ht), ?_, ?_, troupeFrame_modTroupe ..⟩, ⟨_, regWrite_next ha (if_pos ht), ?_, troupeFrame_modGen ..⟩⟩,
    fun ht => ?_, fun hk => ⟨⟨_, regWrite_next ha (if_pos hk), State.stack_modStack_same .., rfl⟩,
      ⟨_, regWrite_next ha (if_pos hk), State.stack_modStack_same .., rfl⟩⟩,
    fun hk => ?_, regWrite_next ha rfl, regWrite_next ha rfl,
    fun hp => ⟨_, regWrite_next ha (if_pos hp), State.port_modPort_same .., rfl⟩, fun hp => regWrite_next ha (if_neg (by simp [hp]))⟩
  · rw [modLregs_lrn]
  · rw [modLregs_lrn]
  · simp only [State.gen, State.troupe_modTroupe_same]
  · simp only [State.lrn, State.troupe_modTroupe_same]
  · simp only [State.modRing, State.gen_modGen_same]
  · have hno : ¬ s.hasTroupe n = true := by simp [ht]
    exact ⟨regWrite_next ha (if_neg hno), regWrite_next ha (if_neg hno), regWrite_next ha (if_neg hno), regWrite_next ha (if_neg hno)⟩
  · have hno : ¬ stackEnabled s n = true := by simp [hk]
    exact ⟨regWrite_next ha (if_neg hno), regWrite_next ha (if_neg hno)⟩

/-! ### The generation step (R91 to R97, R112, R141) -/

/-- A part of a shipment that brings no blocks and ends nothing reaches a slot in AWAIT without a token: its token is the slot's, and the last
part moves the slot to DECODE (R112, R93). -/
theorem arriveShip_slot {s : State} {u i : Nat} {x : GSlot} {d : ShipData} (h : mapFind (s.gen u).slots i = some x) (hst : x.st = .await)
    (hb : d.blocks = []) (he : d.ended = none) (hx : isExp (s.gen u).cfg x.record = false) (ht : x.toks = []) :
    ∃ y, mapFind ((arriveShip u i d s).gen u).slots i = some y ∧ y.toks = d.first.toList ∧ y.record = x.record ∧
      (d.first.isSome = true → y.tFirst = d.tFirst) ∧ (d.last = true → y.st = .decode) ∧ (d.last = false → y.st = .await) := by
  have put (s : State) (f : GSlot → GSlot) (y : GSlot) (h : mapFind (s.gen u).slots i = some y) :
      mapFind ((s.modSlot u i f).gen u).slots i = some (f y) := (slot_modSlot f h rfl rfl).1
  unfold arriveShip
  simp only [hb, List.foldl_nil, h, he, ht, List.isEmpty_nil]
  cases hf : d.first with
  | none =>
    have hput := put s (fun _ => x) x h
    cases hl : d.last with
    | true => exact ⟨_, put _ _ _ hput, ht, rfl, fun h => (nomatch h), fun _ => rfl, fun h => (nomatch h)⟩
    | false => exact ⟨x, hput, ht, rfl, fun h => (nomatch h), fun h => (nomatch h), fun _ => hst⟩
  | some k =>
    simp only [List.isEmpty_cons, Bool.not_false, Bool.true_and, if_true, hx, Bool.false_eq_true, if_false]
    have hput := put s (fun _ => { x with toks := [k], tFirst := d.tFirst }) x h
    cases hl : d.last with
    | true => exact ⟨_, put _ _ _ hput, rfl, rfl, fun _ => rfl, fun _ => rfl, fun h => (nomatch h)⟩
    | false => exact ⟨_, hput, rfl, rfl, fun _ => rfl, fun h => (nomatch h), fun _ => hst⟩

/-- Settles O32. -/
theorem generationStepResults : Obligations.GenerationStepResults := by
  intro u s ha
  dsimp only [Gives, exec]
  refine ⟨fun m hg hb => ⟨engine_next ha (if_pos (by simp [hg, hb])), fun hi => engine_next ha (if_pos (by simp [hg, hb, hi])),
      fun hi => engine_next ha (if_neg (by simp [hi]))⟩,
    fun m h => ⟨engine_next ha (if_neg ?_), engine_next ha (if_neg ?_)⟩, fun st hst hc => ⟨fun hs => ?_, fun hs => ?_⟩, fun st hst hc => ?_,
    fun hst => engine_next ha (by rw [hst]), fun slot x d hx => ⟨fun hst hp => ?_, fun pt k y hst hp hk hy => ?_, fun hst hs => ?_, fun h1 h2 => ?_,
      fun hst hb he hexp ht => arriveShip_slot hx hst hb he hexp ht⟩⟩
  · rcases h with h | h <;> simp [h]
  · rcases h with h | h <;> simp [h]
  · refine engine_next ha ?_
    rw [hst]; exact if_neg (by simp [hc, hs])
  · refine engine_next ha ?_
    rw [hst]; exact if_pos (by simp [hs])
  · refine engine_next ha ?_
    rw [hst]; exact if_pos (by simp [hc])
  · refine engine_next ha ?_
    simp only [hx, hst, hp]; rfl
  · refine engine_next ha ?_
    simp only [hx, hst, hp, hk, hy]; rfl
  · refine engine_next ha ?_
    rw [hx]; exact (if_pos (by simp [hst])).trans (if_pos hs)
  · refine engine_next ha ?_
    rw [hx]; exact (if_neg (by simp [h1])).trans (if_pos (by simp [h2]))

/-! ### The learner's commands (R167, R177, R180, R189) -/

/-- Settles O33. -/
theorem learnerCommandResults : Obligations.LearnerCommandResults := by
  intro h s u l
  dsimp only [Gives, exec]
  refine ⟨fun r ha => ⟨fun hl => hostCmd_next ha ?_, fun hl hj => hostCmd_next ha ?_, fun hl hj hr => hostCmd_next ha ?_, fun hl hj hr => hostCmd_next ha ?_⟩,
    fun job n ha => ⟨fun h => hostCmd_next ha ?_, fun tr g r hl hv => ⟨fun hr hc => ⟨s.modLrn (jobLearner s h job)
        (fun (l : Lrn) => { l with skips := l.skips ++ [(h, n)] }), hostCmd_next ha ?_, by rw [State.lrn_modLrn_same], troupeFrame_modLrn ..⟩, fun hr hc => hostCmd_next ha ?_, fun hr => hostCmd_next ha ?_⟩⟩,
    fun g n r ha => ⟨fun hj => ⟨_, hostCmd_next ha (if_pos (by simpa [u] using hj)), by rw [State.lrn_modLrn_same], troupeFrame_modLrn ..⟩,
      fun hj => hostCmd_next ha ?_, fun h1 h2 => hostCmd_next ha ?_⟩,
    fun v n ha => ⟨fun hm => ⟨_, engine_next ha (if_pos hm), State.lrn_modLrn_same .., troupeFrame_modLrn ..⟩,
      fun hm => engine_next ha (if_neg (by simp [hm]))⟩⟩
  · simp only [u] at hl
    simp only [hl]; rfl
  · simp only [u, l] at hl hj
    simp only [hl]
    exact (if_neg (by simp [hj])).trans (if_neg (by simp [hj]))
  · simp only [u, l] at hl hj hr
    simp only [hl]
    exact if_pos (by simp [hj, hr])
  · simp only [u, l] at hl hj hr
    simp only [hl]
    exact (if_neg (by simp [hr])).trans (if_pos (by simp [hj]))
  · rcases h with h | h
    · exact if_pos (by simp [h])
    · dsimp only
      rw [h]
      exact ite_self _
  · refine (if_neg (by simp [hl])).trans ?_
    simp only [hv]
    exact (if_pos (by simp [hr])).trans (if_neg (by simp [hc]))
  · refine (if_neg (by simp [hl])).trans ?_
    simp only [hv]
    exact (if_pos (by simp [hr])).trans (if_pos hc)
  · refine (if_neg (by simp [hl])).trans ?_
    simp only [hv]
    exact if_neg (by simp [hr])
  · simp only [u] at hj
    exact (if_neg (by rw [hj]; decide)).trans (by rw [hj]; rfl)
  · simp only [u] at h1 h2
    exact (if_neg (by simp [h1])).trans (by rw [if_neg (by simp [h2])])

/-! ### The verdict (R177 to R183) -/

/-- Settles O34. -/
theorem verdictResults : Obligations.VerdictResults := by
  intro u s ha l
  dsimp only [Gives, exec]
  refine ⟨fun q => ⟨fun hl => engine_next ha (if_pos (by simp [hl])), fun hl hp => engine_next ha ?_,
      fun hl hp => ⟨s.modLrn u (fun (m : Lrn) => { m with heldPost := m.heldPost ++ [shardContrib l q] }), engine_next ha ?_, by rw [State.lrn_modLrn_same], troupeFrame_modLrn ..⟩⟩,
    engine_next ha rfl, fun v => ⟨fun d hd => engine_next ha (by rw [hd]), fun hd => engine_next ha (by rw [hd])⟩,
    fun n at_ hp => ⟨fun h1 h2 => ⟨raiseEvent evVerdictLate u (leBytes 8 n)
        (s.modLrn u (fun (m : Lrn) => { m with lateSent := true, regs := { m.regs with verdictLate := true } })), engine_next ha ?_, ?_⟩,
      fun h => engine_next ha ?_⟩, fun hp => engine_next ha ?_,
    fun child tchk v => engine_next ha rfl, fun tree inst child tchk present count data => engine_next ha rfl,
    fun tree inst => ⟨fun hp hd hf ht => engine_next ha (if_pos ?_), fun h => engine_next ha (if_neg ?_)⟩⟩
  · refine (if_neg (by simp [hl])).trans (if_neg ?_)
    simp only [l] at hp; simp [hp]
  · refine (if_neg (by simp [hl])).trans (if_pos ?_)
    simp only [l] at hp; exact Option.isSome_iff_ne_none.2 hp
  · simp only [l] at hp h1 h2
    simp only [hp]
    exact if_pos (by simp [h1, h2])
  · simp only [State.lrn, raiseEvent_troupe, raiseEvent_occ, raiseEvent_cores, raiseEvent_mem]
    simp only [State.modLrn, State.troupe_modTroupe_same]
    exact ⟨trivial, trivial, hp, trivial, rfl, rfl⟩
  · simp only [l] at hp h
    simp only [hp]
    refine if_neg ?_
    rcases h with h | h
    · simp [h]
    · simp [Nat.not_le.2 h]
  · simp only [l] at hp
    simp only [hp]
  · simp [hp, hd, hf, ht]
  · rcases h with h | h | h | h <;> simp [h]

/-! ### The Whetstones (R208 to R212, R234) -/

/-- Settles O36. -/
theorem whetstoneResults : Obligations.WhetstoneResults := by
  intro u j s ha
  dsimp only [Gives, exec]
  refine ⟨fun r k rest hr hk => ⟨fun he => engine_next ha ?_, fun he hf => engine_next ha ?_, fun he hf hrd => engine_next ha ?_,
      fun he hf hrd => engine_next ha ?_⟩, fun hn => engine_next ha (by simp only [hn]), fun r hr hk => engine_next ha (by simp only [hr, hk])⟩
  · simp only [hr, hk]; exact if_pos he
  · simp only [hr, hk]
    refine (if_neg (by simp [he])).trans ((if_neg (by simp [hf])).trans ?_)
    exact if_pos hf
  · simp only [hr, hk]
    exact (if_neg (by simp [he])).trans (if_pos (by rw [hrd, hf]; rfl))
  · simp only [hr, hk]
    exact (if_neg (by simp [he])).trans (if_neg (by rw [hrd]; simp))

/-! ### Fly-ins (R233 to R236, R240) -/

/-- An epoch greater than those held, for which no version slot is FREE, waits (R236). -/
theorem takePiece_waits {s : State} {u e : Nat} (src : FlySrc) (nf : Bool) (data : List (Nat × Nat × Nat)) (hk : fillingSlot (s.gen u) e = none)
    (ho : epochOld (s.gen u) e = false) (hf : freeVslot (s.gen u) = none) :
    takePiece u e src nf data s = (raiseEvent evFlyWait u (leBytes 4 e) (s.modGen u (fun (g : Gen) =>
      { g with flyWaits := g.flyWaits ++ [e], vr := { g.vr with flyWait := true, waitCnt := inc16 g.vr.waitCnt } })), false) := by
  simp only [takePiece, hk, ho, hf]; rfl

/-- Settles O37. -/
theorem flyInResults : Obligations.FlyInResults := by
  intro u s l g
  dsimp only [Gives, exec]
  refine ⟨fun h ha => ⟨fun hl => ⟨_, hostCmd_next ha (if_pos hl), by rw [State.lrn_modLrn_same], troupeFrame_modLrn ..⟩,
      fun hl => hostCmd_next ha (if_neg (by simp [hl]))⟩,
    fun ha hr => engine_next ha (if_pos hr), fun ha hr => engine_next ha (if_neg (by simp [hr])),
    fun away ha => ⟨fun e he hw => engine_next ha ?_, fun e he hw => engine_next ha ?_, fun he => engine_next ha ?_⟩,
    fun epoch nf m data ha hp hw => ?_, fun epoch ha hp hw => ⟨fun x hx => ⟨fun ht => engine_next ha ?_, fun ht => engine_next ha ?_⟩,
      fun hx => engine_next ha ?_⟩,
    fun epoch away ha h => engine_next ha (if_pos ?_), fun ha => ⟨fun e rest k hw hf => ⟨fun ho => engine_next ha ?_, fun ho => engine_next ha ?_⟩,
      fun h => engine_next ha ?_⟩,
    fun h ha => ⟨fun h => hostCmd_next ha (if_pos ?_), fun h1 h2 h3 => hostCmd_next ha ?_, fun h1 h2 h3 => hostCmd_next ha ?_⟩⟩
  case refine_1 => simp only [l] at he; simp only [he]; exact if_neg (by simp [hw])
  case refine_2 => simp only [l] at he; simp only [he]; exact if_pos hw
  case refine_3 => simp only [l] at he; simp only [he]
  case refine_4 =>
    simp only [g] at hp hw
    have hgo : ¬ (!(s.gen u).cfg.present || (s.gen u).flyWaits.contains epoch) = true := by rw [hp, hw]; decide
    refine ⟨fun k hk => engine_next ha ((if_neg hgo).trans ?_), fun hk ho => engine_next ha ((if_neg hgo).trans ?_),
      fun k hk ho hf => engine_next ha ((if_neg hgo).trans ?_),
      fun hk ho hf => ⟨_, engine_next ha ((if_neg hgo).trans (congrArg Prod.fst (takePiece_waits (.lmid m) nf data hk ho hf))), ?_⟩⟩
    · simp only [g] at hk
      simp only [takePiece, hk]
    · simp only [g] at hk ho
      simp only [takePiece, hk, ho]; rfl
    · simp only [g] at hk ho hf
      simp only [takePiece, hk, ho, hf]; rfl
    · simp only [State.gen, raiseEvent_troupe, raiseEvent_occ, raiseEvent_cores, raiseEvent_mem]
      simp only [State.modGen, State.troupe_modTroupe_same]
      exact ⟨rfl, trivial, rfl, trivial, rfl, rfl⟩
  case refine_5 =>
    simp only [g] at hp hw hx
    refine (if_neg (by rw [hp, hw]; decide)).trans ?_
    simp only [hx]; exact if_pos ht
  case refine_6 =>
    simp only [g] at hp hw hx
    refine (if_neg (by rw [hp, hw]; decide)).trans ?_
    simp only [hx]; exact if_neg (by simp [ht])
  case refine_7 =>
    simp only [g] at hp hw hx
    refine (if_neg (by rw [hp, hw]; decide)).trans ?_
    simp only [hx]
  case refine_8 =>
    simp only [g] at h
    rcases h with h | h <;> rw [h] <;> simp
  case refine_9 =>
    simp only [g] at hw hf ho
    simp only [hw, hf]; exact if_neg (by simp [ho])
  case refine_10 =>
    simp only [g] at hw hf ho
    simp only [hw, hf]; exact if_pos ho
  case refine_11 =>
    simp only [g] at h
    rcases h with h | h
    · simp only [h]
    · simp only [h]
      cases (s.gen u).flyWaits <;> rfl
  case refine_12 => rcases h with h | h <;> simp [h]
  case refine_13 => exact (if_neg (by simp [h1, h2])).trans (if_pos (by simp [h3]))
  case refine_14 => exact (if_neg (by simp [h1, h2])).trans (if_neg (by simp [h3]))

end Sys2Proof.Machine
end

section
/-! Weight commands, Cue barriers, the training of ports, flits and ranging. -/

namespace Sys2Proof.Machine

/-! ### Weight commands (R254 to R258, R264, R482) -/

theorem vslot_modVslot (g : Gen) (k : Nat) (f : VSlot → VSlot) : (g.modVslot k f).vslot k = f (g.vslot k) := mapGet_put_same ..

/-- Completing a command leaves what the troupes hold of generation. -/
theorem complete_gen (h : CmdHdr) (op st : Nat) (s : State) (u : Nat) : (complete h op st s).gen u = s.gen u := rfl

/-- Settles O41. -/
theorem weightCommandResults : Obligations.WeightCommandResults := by
  intro h s
  dsimp only [Gives, exec]
  refine ⟨fun r ha => ⟨fun hf => hostCmd_next ha (if_pos (by simp [hf])), fun hf hl => hostCmd_next ha ((if_neg (by simp [hf])).trans (if_pos hl)),
      fun hf hl => hostCmd_next ha ((if_neg (by simp [hf])).trans (if_neg (Nat.not_le.2 hl)))⟩,
    fun l rest sc ha hl hrun => ⟨fun hj => engine_next ha ?_, fun hj hv => engine_next ha ?_, fun hj hv => engine_next ha ?_⟩,
    fun l rest src ha hl hrun hsrc => ⟨fun e he => engine_next ha ?_, fun ps hps => ⟨fun hb => engine_next ha ?_, fun hb => engine_next ha ?_⟩⟩,
    fun sc src ha => ⟨fun hl => ⟨engine_next ha (by simp only [hl]), engine_next ha (by simp only [hl])⟩,
      fun l rest hl => ⟨fun hrun => engine_next ha ?_, fun hno => engine_next ha ?_⟩⟩,
    fun k ha => ⟨fun hj => hostCmd_next ha (if_pos (by simp [hj])),
      fun hj hk => ⟨_, hostCmd_next ha ((if_neg (by simp [hj])).trans (if_pos (by simp [hk]))), ?_, rfl, rfl⟩,
      fun hj hk => ⟨_, hostCmd_next ha ((if_neg (by simp [hj])).trans (if_neg (by simp [hk]))), ?_, rfl⟩⟩,
    fun k ha => ⟨fun hj => hostCmd_next ha ((if_neg (by simp)).trans (if_pos (by simp [hj]))),
      fun hj => ⟨_, hostCmd_next ha ((if_neg (by simp)).trans (if_neg (by simp [hj]))), ?_, ?_, rfl⟩,
      fun hx => hostCmd_next ha ((if_pos rfl).trans (by simp only [hx])), fun x hx => hostCmd_next ha ((if_pos rfl).trans (by simp only [hx]))⟩,
    fun addr ha => ⟨_, hostCmd_next ha rfl, _, rfl, rfl, rfl, rfl⟩⟩
  case refine_1 =>
    simp only [hl]
    exact (if_neg (by simp [hrun])).trans (if_pos (by simp [hj]))
  case refine_2 =>
    simp only [hl]
    exact (if_neg (by simp [hrun])).trans ((if_neg (by simp [hj])).trans (if_neg (by simp [hv])))
  case refine_3 =>
    simp only [hl]
    exact (if_neg (by simp [hrun])).trans ((if_neg (by simp [hj])).trans (if_pos hv))
  case refine_4 =>
    simp only [hl]
    refine (if_neg (by simp [hrun, hsrc])).trans ?_
    simp only [he]
  case refine_5 =>
    simp only [hl]
    refine (if_neg (by simp [hrun, hsrc])).trans ?_
    simp only [hps]
    exact if_pos hb
  case refine_6 =>
    simp only [hl]
    refine (if_neg (by simp [hrun, hsrc])).trans ?_
    simp only [hps]
    exact if_neg (Bool.eq_false_iff.1 hb)
  case refine_7 => simp only [hl]; exact if_pos hrun
  case refine_8 =>
    simp only [hl]; refine if_pos ?_
    rcases hno with hno | hno <;> simp [hno]
  case refine_9 => exact congrArg (fun x : Troupe => x.regs.opened) (State.troupe_modTroupe_same s h.troupe (fun (x : Troupe) => { x with regs.opened := true }))
  case refine_10 => rw [complete_gen, State.gen_modGen_same, vslot_modVslot]
  case refine_11 =>
    rw [complete_gen, State.gen_modGen_same]
    exact congrArg VSlot.st (vslot_modVslot (s.gen h.troupe) (k - 1) (fun _ => {}))
  case refine_12 => rw [complete_gen, State.gen_modGen_same]

/-! ### Cue barriers (R315 to R318) -/

/-- Settles O45. -/
theorem cueBarrierResults : Obligations.CueBarrierResults := by
  intro u b s ha x
  dsimp only [Gives, exec]
  refine ⟨fun child steps hk => engine_next ha (if_neg (by simpa [x] using hk)),
    fun child steps hk => ⟨_, engine_next ha (if_pos hk), State.bar_setBar_same .., rfl⟩,
    fun rel steps e tr g r he ht => ⟨fun hs => engine_next ha ?_, fun hs => engine_next ha ?_⟩, fun rel steps h => engine_next ha ?_,
    fun r hr => ⟨fun hc hb => engine_next ha ?_, fun h => engine_next ha ?_⟩, fun hr => engine_next ha ?_,
    fun e he => ⟨fun hd => ?_, fun hd => engine_next ha ?_⟩, fun he => engine_next ha (by simp only [he])⟩
  case refine_1 =>
    simp only [x] at hs
    simp only [he, ht, hs]; rfl
  case refine_2 =>
    simp only [x] at hs
    simp only [he, ht, hs]; rfl
  case refine_3 =>
    rcases h with h | ⟨e, he, ht⟩
    · simp only [h]
    · simp only [he, ht]
  case refine_4 =>
    simp only [x] at hr
    simp only [hr]; exact if_pos (by simp [hc, hb])
  case refine_5 =>
    simp only [x] at hr
    simp only [hr]; refine if_neg ?_
    rcases h with h | h
    · simp [Nat.not_le.2 h]
    · simp [h]
  case refine_6 =>
    simp only [x] at hr
    simp only [hr]
  case refine_7 =>
    have heq := (if_pos hd : (if _ then
      raiseEvent evCueStall u (leBytes 1 b ++ (missingKids s u b).flatMap (fun l => leBytes 2 l))
        { s.setBar u b { s.bar u b with stalled := true } with cueRegs.stall := true, cueRegs.stallCnt := inc16 s.cueRegs.stallCnt } else s) = _)
    refine ⟨_, engine_next ha (Eq.trans (by simp only [he]; rfl) heq), ?_, ?_, ?_, ?_, ?_⟩
    · rw [State.bar, raiseEvent_fab]
      exact congrArg BarState.stalled (State.bar_setBar_same s u b _)
    · rw [raiseEvent_cueRegs]
    · rw [raiseEvent_cueRegs]
    · rw [raiseEvent_occ]
    · rw [raiseEvent_cores]; rfl
  case refine_8 => simp only [he]; exact if_neg (by simpa [x] using hd)

end Sys2Proof.Machine
end

section
/-! The training of ports, flits and ranging. -/

namespace Sys2Proof.Machine

/-! ### What leaves the states of the ports alone -/

theorem writeMemPiece_fab (owner : Owner) (s : State) (a : Nat) (bs : List Byte) : (writeMemPiece owner s a bs).1.fab = s.fab := by
  unfold writeMemPiece; dsimp only; split <;> rfl

theorem writeMem_fab (owner : Owner) (s : State) (a : Nat) (bs : List Byte) : (writeMem owner s a bs).1.fab = s.fab :=
  writeMem_same State.fab writeMemPiece_fab owner s a bs

theorem keepSlot_fab (p : Nat) (landing : Bool) (i : Nat) (bs : List Byte) (s : State) : (keepSlot p landing i bs s).fab = s.fab := by
  unfold keepSlot; split
  · exact writeMem_fab .none s _ bs
  · rfl

theorem resendFlit_fab (p : Nat) (s : State) (f : SentFlit) : (resendFlit p s f).fab = s.fab := keepSlot_fab p false f.seqNo _ (sendFab _ s)

theorem foldl_resendFlit_fab (p : Nat) (l : List SentFlit) (s : State) : (l.foldl (resendFlit p) s).fab = s.fab :=
  foldl_same State.fab (resendFlit_fab p) l s

theorem State.port_congr {s t : State} (h : t.fab.ports = s.fab.ports) (p : Nat) : t.port p = s.port p := by rw [State.port, h]; rfl

/-- From `s` to `t` every port keeps its state (R272). -/
def PortsStay (s t : State) : Prop := ∀ p, (t.port p).st = (s.port p).st

theorem PortsStay.refl (s : State) : PortsStay s s := fun _ => rfl
theorem PortsStay.trans {s t u : State} (h : PortsStay s t) (k : PortsStay t u) : PortsStay s u := fun p => (k p).trans (h p)
theorem PortsStay.of_ports {s t : State} (h : t.fab.ports = s.fab.ports) : PortsStay s t := fun p => by rw [State.port_congr h p]
theorem PortsStay.modPort (s : State) (q : Nat) {f : Port → Port} (h : ∀ x, (f x).st = x.st) : PortsStay s (s.modPort q f) := fun p => by
  by_cases hp : p = q
  · subst hp; rw [State.port_modPort_same, h]
  · rw [State.port_modPort_other s f hp]
theorem PortsStay.foldl {α : Type} {f : State → α → State} (h : ∀ s x, PortsStay s (f s x)) (l : List α) (s : State) : PortsStay s (l.foldl f s) := by
  induction l generalizing s with
  | nil => exact .refl s
  | cons x l ih => exact (h s x).trans (ih _)

theorem placeItem_portsStay (x : TxFlit) (s : State) : PortsStay s (placeItem x s).2 := by
  unfold placeItem; dsimp only
  split
  · exact .refl s
  · exact .refl s
  · exact .modPort s _ (fun _ => rfl)

theorem placeAll_portsStay (xs : List TxFlit) (s : State) : PortsStay s (placeAll xs s).2 := by
  induction xs generalizing s with
  | nil => exact .refl s
  | cons x xs ih => exact (placeItem_portsStay x s).trans (ih _)

theorem sendFlit_portsStay (p : Nat) (s : State) (f : SentFlit) : PortsStay s (sendFlit p s f) := by
  have h (m : FabMsg) : (keepSlot p false f.seqNo m.data (sendFab m s)).fab = s.fab := keepSlot_fab p false f.seqNo m.data (sendFab m s)
  unfold sendFlit chargeTx; dsimp only
  split <;> exact .of_ports (congrArg Fab.ports (h _))

theorem sendFrame_portsStay (p ltag : Nat) (s : State) : PortsStay s (sendFrame p ltag s) := by
  unfold sendFrame; dsimp only
  generalize planFrame _ 32 _ _ = fr
  obtain ⟨fs, rest⟩ := fr
  refine PortsStay.trans ?_ (PortsStay.foldl (fun s q => .of_ports (t := returnCredit q ltag s) rfl) _ _)
  refine PortsStay.trans ?_ (PortsStay.foldl (sendFlit_portsStay p) _ _)
  generalize hs1 : ({ s with fab.tx := _ } : State) = s1
  exact PortsStay.trans (t := s1) (.of_ports (by rw [← hs1])) (.modPort _ p (fun _ => rfl))

theorem pumpPort_portsStay (p n : Nat) (s : State) : PortsStay s (pumpPort p n s) := by
  induction n generalizing s with
  | zero => exact .refl s
  | succ n ih =>
    unfold pumpPort
    split
    · exact .refl s
    · exact (sendFrame_portsStay p _ s).trans (ih _)

theorem settleRun_portsStay (s : State) (r : CollRun) : PortsStay s (settleRun s r) := by
  unfold settleRun; split <;> exact .of_ports rfl

theorem pump_portsStay (s : State) : PortsStay s (pump s) := by
  unfold pump; dsimp only
  have h1 := placeAll_portsStay s.fab.tx s
  generalize placeAll s.fab.tx s = w at h1
  obtain ⟨xs, s1⟩ := w
  generalize hs2 : ({ s1 with fab.tx := xs } : State) = s2
  have h2 : PortsStay s1 s2 := .of_ports (by rw [← hs2])
  generalize xs.length + _ = fuel
  have h3 : PortsStay s2 ((List.range 18).foldl (fun s p => pumpPort p fuel s) s2) := .foldl (fun s p => pumpPort_portsStay p fuel s) _ _
  unfold settleRuns
  exact ((h1.trans h2).trans h3).trans (.foldl settleRun_portsStay _ _)

theorem requeue_portsStay (p : Nat) (s : State) : PortsStay s (requeue p s) :=
  PortsStay.trans (t := s.modPort p (fun x => { x with sent := [] })) (.modPort s p (fun _ => rfl)) (.of_ports rfl)

theorem raiseModule_portsStay (code : Nat) (data : List Byte) (s : State) : PortsStay s (raiseModule code data s) :=
  .of_ports (by rw [raiseModule, raiseEvent_fab])

theorem measureRtt_portsStay (p rtt : Nat) (s : State) : PortsStay s (measureRtt p rtt s) := by
  unfold measureRtt; dsimp only
  generalize hs1 : s.modPort p _ = s1
  have h1 : PortsStay s s1 := by rw [← hs1]; exact .modPort s p (fun _ => rfl)
  generalize hs2 : s1.modPort p _ = s2
  have h2 : PortsStay s1 s2 := by rw [← hs2]; exact .modPort s1 p (fun _ => rfl)
  split
  · exact .refl s
  · split
    · exact (h1.trans h2).trans (raiseModule_portsStay _ _ s2)
    · exact h1

/-! ### An event of a port (R272) -/

variable {p : Nat} {f : State → State} {s t : State}

/-- An event that moves a port in use between states; what depends on ports settles. -/
theorem portStep_moves (ha : s.alive = true) (hu : portUsed s p = true) (hf : f s = t) (hst : (t.port p).st ≠ (s.port p).st) :
    portStep p f s = .next (portChanged t) :=
  engine_next ha ((if_neg (by simp [hu])).trans (by subst hf; exact if_neg (by simpa using hst)))

/-- An event that leaves a port in use in its state. -/
theorem portStep_stays (ha : s.alive = true) (hu : portUsed s p = true) (hf : f s = t) (hst : (t.port p).st = (s.port p).st) :
    portStep p f s = .next t :=
  engine_next ha ((if_neg (by simp [hu])).trans (by subst hf; exact if_pos (by simpa using hst)))

/-- An event of a port that is not in use changes nothing, nor does one whose effect is none. -/
theorem portStep_idle (ha : s.alive = true) (h : portUsed s p = false ∨ f s = s) : portStep p f s = .next s := by
  cases hu : portUsed s p with
  | false => exact engine_next ha (if_pos (by simp [hu]))
  | true =>
    have hf := h.resolve_left (by simp [hu])
    exact portStep_stays ha hu hf rfl

theorem st_modPort (s : State) (p : Nat) (f : Port → Port) : ((s.modPort p f).port p).st = (f (s.port p)).st := by
  rw [State.port_modPort_same]

theorem st_holdPort (p : Nat) (s : State) : ((holdPort p s).port p).st = .held := st_modPort ..

theorem raisePort_st (p : Nat) (s : State) : ((raisePort p s).port p).st = .up := by
  unfold raisePort; dsimp only
  rw [State.port_congr (congrArg Fab.ports (foldl_resendFlit_fab p _ _)), st_modPort]

/-- A port in UP that retrains: EQUALIZE, and the retraining counted (R277). -/
theorem retrainPort_port (h : (s.port p).st = .up) :
    ((retrainPort p s).port p).st = .equalize ∧ ((retrainPort p s).port p).retrainCnt = inc16 (s.port p).retrainCnt := by
  have hl : (countWatch .retrain p (leaveUp p .equalize s)).port p =
      { s.port p with st := .equalize, down := true, downAt := s.cue, width := 0 } :=
    State.port_modPort_same s p (fun x => { x with st := .equalize, down := true, downAt := s.cue, width := 0 })
  rw [retrainPort, if_pos (by simp [h]), State.port_modPort_same, hl]
  exact ⟨rfl, rfl⟩

/-- Settles O42. -/
theorem portTrainingResults : Obligations.PortTrainingResults := by
  intro p s ha x
  dsimp only [Gives, exec]
  refine ⟨fun hu hst hp => ?_, fun hu hst hp => ?_, fun q hu hst => ⟨fun hq => ?_, fun hq => ?_⟩,
    fun rev cr pol bad hu hst => ⟨fun hq => ?_, fun hq => ?_⟩, fun lmid port serial rtt hu hst hb => ⟨fun hm => ?_, fun hm hw => ?_, fun hm hw => ?_⟩,
    fun hu hst hfen htry => ?_, fun hu hst => ⟨?_, ?_, ?_, ?_, ?_⟩, fun hu hst => ⟨?_, ?_⟩, fun hu hst => ?_, fun hu hst hsent hdown => ?_,
    fun q rev cr pol bad lmid port serial rtt => ⟨fun h => ?_, fun h => ?_, fun h => ?_, fun h => ?_, fun h => ?_, fun h => ?_, fun h => ?_,
      fun h => ?_, fun h => ?_⟩⟩
  all_goals simp only [x] at *
  case refine_1 => exact portStep_moves ha hu ((if_neg (by simp [hst])).trans (if_neg (by simp [hp]))) (by rw [st_modPort, hst]; exact nofun)
  case refine_2 => exact portStep_moves ha hu ((if_neg (by simp [hst])).trans (if_pos hp)) (by rw [st_holdPort, hst]; exact nofun)
  case refine_3 => exact portStep_moves ha hu ((if_pos (by simp [hst])).trans (if_neg (by simpa using hq))) (by rw [st_modPort, hst]; exact nofun)
  case refine_4 => exact portStep_moves ha hu ((if_pos (by simp [hst])).trans (if_pos (by simpa using hq))) (by rw [st_holdPort, hst]; exact nofun)
  case refine_5 =>
    refine portStep_moves ha hu ((if_pos (by simp [hst])).trans (if_neg (by simpa using hq))) ?_
    rw [State.port_congr (congrArg Fab.ports (sendFab_fab _ _)), st_modPort, hst]; exact nofun
  case refine_6 => exact portStep_moves ha hu ((if_pos (by simp [hst])).trans (if_pos (by simpa using hq))) (by rw [st_holdPort, hst]; exact nofun)
  case refine_7 =>
    refine portStep_moves ha hu ((if_pos (by simp [hst, hb])).trans (if_pos hm)) ?_
    rw [raiseModule_portsStay, st_modPort, hst]; exact nofun
  case refine_8 => exact portStep_moves ha hu ((if_pos (by simp [hst, hb])).trans ((if_neg (Bool.eq_false_iff.1 hm)).trans (if_pos hw))) (by rw [st_holdPort, hst]; exact nofun)
  case refine_9 =>
    exact portStep_moves ha hu ((if_pos (by simp [hst, hb])).trans ((if_neg (Bool.eq_false_iff.1 hm)).trans (if_neg (Nat.not_lt.2 hw))))
      (by rw [raisePort_st, hst]; exact nofun)
  case refine_10 => exact portStep_moves ha hu (if_pos (by simp [hst, hfen, htry])) (by rw [st_modPort, hst]; exact nofun)
  case refine_11 => exact portStep_moves ha hu rfl (by rw [(retrainPort_port hst).1, hst]; exact nofun)
  case refine_12 => exact portStep_moves ha hu rfl (by rw [(retrainPort_port hst).1, hst]; exact nofun)
  case refine_13 => exact (retrainPort_port hst).1
  case refine_14 => exact (retrainPort_port hst).2
  case refine_15 =>
    refine portStep_moves ha hu (by rw [hst]) ?_
    rw [State.port_modPort_same, leaveUp, State.port_modPort_same, hst]; exact nofun
  case refine_16 => exact portStep_moves ha hu (by rw [hst]) (by rw [st_modPort, hst]; exact nofun)
  case refine_17 => exact portStep_moves ha hu (if_pos (by simp [hst])) (by rw [st_modPort, hst]; exact nofun)
  case refine_18 =>
    rcases hst with hst | hst | hst <;> exact portStep_moves ha hu (by rw [hst]) (by rw [st_holdPort, hst]; exact nofun)
  case refine_19 =>
    exact portStep_stays ha hu (if_pos (by simp [hst, hsent, hdown])) (((requeue_portsStay p s).trans (pump_portsStay _)) p)
  case refine_20 => exact portStep_idle ha (h.imp_right fun h => if_pos (by simp [h]))
  case refine_21 => exact portStep_idle ha (h.imp_right fun h => if_neg (by simp [h]))
  case refine_22 => exact portStep_idle ha (h.imp_right fun h => if_neg (by simp [h]))
  case refine_23 => exact portStep_idle ha (h.imp_right fun h => if_neg (by rcases h with h | h <;> simp [h]))
  case refine_24 =>
    refine portStep_idle ha (h.imp_right fun h => if_neg ?_)
    rcases h with h | h | h
    · simp [h]
    · simp [h]
    · simp [Nat.not_le.2 h]
  case refine_25 =>
    have hno := h.imp_right fun (h : (s.port p).st ≠ .up) => (if_neg (by simp [h]) : retrainPort p s = s)
    exact ⟨portStep_idle ha hno, portStep_idle ha hno⟩
  case refine_26 => exact portStep_idle ha (h.imp_right fun h => by rcases h with h | h <;> rw [h])
  case refine_27 => exact portStep_idle ha (h.imp_right fun h => if_neg (by simp [h]))
  case refine_28 =>
    refine portStep_idle ha (h.imp_right fun h => if_neg ?_)
    rcases h with h | h | h
    · simp [h]
    · simp [h]
    · simp [Nat.not_lt.2 h]

end Sys2Proof.Machine
end

section
/-! Flits, frames and ranging. -/

namespace Sys2Proof.Machine

/-! ### What a heard flit's ACK and credits leave (R271, R283) -/

/-- The state in which the ACK and the credits of flit `f` on port `p` have counted, and a correction of its code. -/
def heard (p : Nat) (f : RxFlit) (s : State) : State :=
  creditBack p f.crTag f.crCount (ackUpTo p f.ack (if f.corrected then s.modPort p (fun x => { x with fecCorr := inc32 x.fecCorr 1 }) else s))

theorem ackUpTo_port (p a : Nat) (s : State) : { (ackUpTo p a s).port p with sent := (s.port p).sent } = s.port p := by
  rw [ackUpTo, State.port_modPort_same]

theorem creditBack_port (p ltag n : Nat) (s : State) : { (creditBack p ltag n s).port p with credits := (s.port p).credits } = s.port p := by
  rw [creditBack, State.port_modPort_same]; split <;> rfl

/-- The ACK and the credits of a flit change what the port has sent, its credits and its corrections alone. -/
theorem heard_port (p : Nat) (f : RxFlit) (s : State) :
    { (heard p f s).port p with credits := (s.port p).credits, sent := (s.port p).sent, fecCorr := (s.port p).fecCorr } = s.port p := by
  unfold heard
  generalize hs1 : (if f.corrected then s.modPort p (fun x => { x with fecCorr := inc32 x.fecCorr 1 }) else s) = s1
  have h1 : { s1.port p with fecCorr := (s.port p).fecCorr } = s.port p := by
    rw [← hs1]; split
    · rw [State.port_modPort_same]
    · rfl
  have h2 := ackUpTo_port p f.ack s1
  have h3 := creditBack_port p f.crTag f.crCount (ackUpTo p f.ack s1)
  have h23 := (congrArg (fun x : Port => { x with sent := (s.port p).sent, fecCorr := (s.port p).fecCorr, credits := (s.port p).credits }) h3 :)
  have h12 := (congrArg (fun x : Port => { x with sent := (s.port p).sent, fecCorr := (s.port p).fecCorr, credits := (s.port p).credits }) h2 :)
  have h01 := (congrArg (fun x : Port => { x with sent := (s.port p).sent, credits := (s.port p).credits }) h1 :)
  exact h23.trans (h12.trans h01)

theorem newGaps_congr {x y : Port} (hl : y.landing = x.landing) (hr : y.rxSeq = x.rxSeq) (q : Nat) : newGaps y q = newGaps x q := by
  unfold newGaps furthest; rw [hl, hr]

/-! ### A replay (R271, R277, R289) -/

/-- The state in which one more replay of port `p` has been counted. -/
def replayCounted (p : Nat) (s : State) : State :=
  (countWatch .retry p s).modPort p (fun x =>
    { x with replayFlits := inc32 x.replayFlits 1, replays := s.cue :: x.replays.filter (fun a => s.cue < a + cyclesMs) })

/-- The named flit is sent again, and the port goes on, while fewer than 1,000 replays fell within 1 ms. -/
theorem replayFlit_found {p n : Nat} {s : State} {f : SentFlit} (hf : (s.port p).sent.find? (fun f => f.seqNo == n) = some f)
    (hn : ((s.port p).replays.filter (fun a => s.cue < a + cyclesMs)).length < 1000) :
    replayFlit p n s = resendFlit p (replayCounted p s) f := by
  have hp : (resendFlit p (replayCounted p s) f).port p = (replayCounted p s).port p :=
    State.port_congr (congrArg Fab.ports (resendFlit_fab p _ f)) p
  have hr : ((replayCounted p s).port p).replays = s.cue :: (s.port p).replays.filter (fun a => s.cue < a + cyclesMs) := by
    rw [replayCounted, State.port_modPort_same]; rfl
  unfold replayFlit
  rw [hf]
  refine if_neg (show ¬ 1000 < ((resendFlit p (replayCounted p s) f).port p).replays.length from ?_)
  rw [hp, hr, List.length_cons]
  omega

theorem replayFlit_none {p n : Nat} {s : State} (hf : (s.port p).sent.find? (fun f => f.seqNo == n) = none) : replayFlit p n s = s := by
  unfold replayFlit; rw [hf]

/-! ### Ranging (R294, R295) -/

/-- The state in which port `p` has the result of its exchanges: the delay and the length. -/
def ranged (p ps len : Nat) (s : State) : State := s.modPort p (fun x => { x with delayPs := ps, lenMm := len, resultAt := s.cue })

theorem ranged_port (p ps len : Nat) (s : State) : (ranged p ps len s).port p = { s.port p with delayPs := ps, lenMm := len, resultAt := s.cue } :=
  State.port_modPort_same s p (fun x => { x with delayPs := ps, lenMm := len, resultAt := s.cue })

/-! ### A data flit (R271, R289) -/

/-- A copy of an earlier flit is dropped. -/
theorem takeFlit_copy {p : Nat} {f : RxFlit} {s : State} {x : Port} (hk : f.kind = 0) (hr : (s.port p).rxSeq = x.rxSeq)
    (hl : (s.port p).landing = x.landing) (h : seqBefore f.seqNo x.rxSeq = true ∨ x.landing.any (fun g => g.seqNo == f.seqNo) = true) :
    takeFlit p f s = s := by
  have hcopy : (seqBefore f.seqNo (s.port p).rxSeq || (s.port p).landing.any (fun g => g.seqNo == f.seqNo)) = true := by
    rw [hr, hl]; rcases h with h | h <;> simp [h]
  exact (if_pos (by simp [hk])).trans (if_pos hcopy)

/-- A new flit is kept in the landing; the next one leaves it in order, and one after a gap shows what is missing. -/
theorem takeFlit_new {p : Nat} {f : RxFlit} {s : State} {x : Port} (hk : f.kind = 0) (hr : (s.port p).rxSeq = x.rxSeq)
    (hl : (s.port p).landing = x.landing) (h1 : seqBefore f.seqNo x.rxSeq = false) (h2 : x.landing.any (fun g => g.seqNo == f.seqNo) = false) :
    takeFlit p f s =
      let head := flitHead f.seqNo f.ack f.ltag f.kind f.dest (b2n f.last + 2 * f.keysel) f.crTag f.crCount
      let s1 := keepSlot p true f.seqNo (head ++ f.raw) (s.modPort p (fun x => { x with landing := x.landing ++ [f] }))
      if f.seqNo == x.rxSeq then takeInOrder p (x.landing.length + 1) s1 else (newGaps x f.seqNo).foldl (fun s q => askAgain p q s) s1 := by
  have hnew : ¬ (seqBefore f.seqNo (s.port p).rxSeq || (s.port p).landing.any (fun g => g.seqNo == f.seqNo)) = true := by
    rw [hr, hl]; simp only [h1, h2]; decide
  refine (if_pos (by simp [hk])).trans ((if_neg hnew).trans ?_)
  rw [hr, hl, newGaps_congr hl hr]

/-- Settles O43. -/
theorem fabricLinkResults : Obligations.FabricLinkResults := by
  intro p s ha
  dsimp only [Gives, exec]
  refine ⟨fun f hu hc => engine_next ha ?_, fun f hu hc => ⟨engine_next ha ?_, fun hk h => ?_, fun hk h1 h2 => ?_, fun ltag ok hk hctl => ?_, fun hk hl => ?_,
      fun hk => ?_⟩,
    fun n hu => engine_next ha (if_neg ?_), fun n f hf hn => replayFlit_found hf hn, fun n hf => replayFlit_none hf,
    fun a ltag n hu => ⟨engine_next ha (if_neg ?_), engine_next ha (if_neg ?_)⟩,
    fun f n ltag a hu => ⟨engine_next ha (if_pos ?_), engine_next ha (if_pos ?_), engine_next ha (if_pos ?_)⟩,
    fun hl => engine_next ha (if_pos hl), fun ltag h fr ok hh hlt hfr => ⟨fun hg => engine_next ha ?_, fun hg hn => engine_next ha ?_, fun hg hn => engine_next ha ?_⟩,
    fun ltag ok h => engine_next ha ?_, fun t1 t2 t3 t4 hl => ⟨fun h => engine_next ha ?_, fun hm hp => engine_next ha ?_⟩,
    fun t1 t2 t3 t4 hl => ⟨engine_next ha (if_neg ?_), engine_next ha (if_neg ?_)⟩, ⟨fun hd hr => ?_, fun hd hr h => ?_, fun hd hr h1 h2 => ?_, fun hd => ?_⟩,
    fun hr => ?_, fun hr => regWrite_next ha (if_neg ?_), fun v hp => ?_, fun v h1 h2 => regWrite_next ha (if_neg ?_)⟩
  case refine_1 => exact (if_neg (by simp [hu])).trans (if_pos (by simp [hc]))
  case refine_2 => exact (if_neg (by simp [hu])).trans (if_neg (by simp [hc]))
  case refine_3 =>
    have hx := heard_port p f s
    exact takeFlit_copy hk (congrArg Port.rxSeq hx :) (congrArg Port.landing hx :) h
  case refine_4 =>
    have hx := heard_port p f s
    exact takeFlit_new hk (congrArg Port.rxSeq hx :) (congrArg Port.landing hx :) h1 h2
  case refine_5 =>
    refine (if_neg (by simp [hk])).trans ((if_pos (by simp [hk])).trans ?_)
    simp only [hctl]
  case refine_6 =>
    have hx := heard_port p f s
    have hup : lrUp (heard p f s) p = true := by
      rw [lrUp, show ((heard p f s).port p).st = _ from (congrArg Port.st hx :), show ((heard p f s).port p).cfg = _ from (congrArg Port.cfg hx :)]
      exact hl
    exact (if_neg (by simp [hk])).trans ((if_neg (by simp [hk])).trans ((if_pos (by simp [hk])).trans (if_pos hup)))
  case refine_7 =>
    exact (if_neg (by simp [hk])).trans ((if_neg (by simp [hk])).trans ((if_neg (by simp [hk])).trans (if_pos (by simp [hk]))))
  case refine_8 => simp [hu]
  case refine_9 => simp [hu]
  case refine_10 => simp [hu]
  case refine_11 => simp [hu]
  case refine_12 => simp [hu]
  case refine_13 => simp [hu]
  case refine_14 =>
    simp only [hh, hfr]
    exact (if_neg (by simp [hlt])).trans (if_pos hg)
  case refine_15 =>
    simp only [hh, hfr]
    exact (if_neg (by simp [hlt])).trans ((if_neg (Bool.eq_false_iff.1 hg)).trans (if_pos hn))
  case refine_16 =>
    simp only [hh, hfr]
    exact (if_neg (by simp [hlt])).trans ((if_neg (Bool.eq_false_iff.1 hg)).trans (if_neg (Nat.not_lt.2 hn)))
  case refine_17 =>
    dsimp only
    split
    · next h0 fr hh hfr =>
      refine if_pos ?_
      rcases h with h | h | ⟨h1, hh1, hne⟩
      · simp [h] at hh
      · simp [h] at hfr
      · rw [hh, Option.some.injEq] at hh1
        simp [hh1, hne]
    · rfl
  case refine_18 =>
    refine (if_pos hl).trans (if_neg ?_)
    rcases h with h | h <;> simp [h]
  case refine_19 => exact (if_pos hl).trans (if_pos (by simp [hm, hp]))
  case refine_20 => simp [hl]
  case refine_21 => simp [hl]
  case refine_22 =>
    refine ⟨_, engine_next ha ((if_pos hd).trans (if_pos (by simp [hr]))), ?_, rfl⟩
    rw [State.port_modPort_same, State.port_modPort_same]
  case refine_23 =>
    refine ⟨_, engine_next ha ((if_pos hd).trans ((if_neg (by simp [hr])).trans (if_neg ?_))), State.port_modPort_same .., rfl⟩
    intro hc
    obtain ⟨hlt, hns⟩ := Bool.and_eq_true_iff.1 hc
    rcases h with h | h
    · exact absurd (of_decide_eq_true hlt) (Nat.not_lt.2 h)
    · rw [h] at hns; exact nomatch hns
  case refine_24 =>
    refine ⟨_, engine_next ha ((if_pos hd).trans ((if_neg (by simp [hr])).trans (if_pos (Bool.and_eq_true_iff.2 ⟨decide_eq_true h1, by rw [h2]; rfl⟩)))), ?_, ?_, ?_, ?_⟩
    · refine (State.port_congr (congrArg Fab.ports (raiseEvent_fab ..)) p).trans ?_
      rw [State.port_modPort_same, State.port_modPort_same]
    · rw [raiseModule, raiseEvent_occ]
    · rw [raiseModule, raiseEvent_cores]; rfl
    · rw [raiseModule, raiseEvent_mem]; rfl
  case refine_25 => exact engine_next ha (if_neg (by simp [hd]))
  case refine_26 => exact ⟨_, regWrite_next ha (if_pos (by simp [hr])), State.port_modPort_same .., rfl⟩
  case refine_27 => simp [hr]
  case refine_28 => exact ⟨_, regWrite_next ha (if_pos (by simpa using hp)), State.port_modPort_same .., rfl⟩
  case refine_29 => simp [h1, h2]

end Sys2Proof.Machine
end

section
/-! The commands of troupes: mappings, queues, context images, switches and teardown. -/

namespace Sys2Proof.Machine

/-! ### What a write to memory leaves of the troupes -/

theorem writeMemPiece_troupes (owner : Owner) (s : State) (a : Nat) (bs : List Byte) : (writeMemPiece owner s a bs).1.troupes = s.troupes := by
  unfold writeMemPiece; dsimp only; split <;> rfl

theorem writeLocs_troupes (owner : Owner) (ls : List (Loc × Nat)) (s : State) (bs : List Byte) :
    (writeLocs owner s ls bs).1.troupes = s.troupes :=
  writeLocs_same State.troupes writeMemPiece_troupes (fun _ _ _ _ => rfl) (fun _ _ _ => rfl) owner ls s bs

theorem troupePut_troupes (s : State) (u a : Nat) (bs : List Byte) : (troupePut s u a bs).troupes = s.troupes := by
  unfold troupePut; split
  · exact writeLocs_troupes _ _ _ _
  · rfl

/-! ### Mappings, queues and context images (R326, R328, R339, R341) -/

/-- A change of an entry waits while an access through the old one remains. -/
theorem settleMap_waits {u p : Nat} {s : State} {h : CmdHdr} (hb : pageBusy s p = true) :
    settleMap u s { hdr := h, page := some p } = s.modTroupe u (fun (x : Troupe) => { x with maps := x.maps ++ [{ hdr := h, page := some p }] }) :=
  if_pos hb

theorem settleMap_done {u p : Nat} {s : State} {h : CmdHdr} (hb : pageBusy s p = false) :
    settleMap u s { hdr := h, page := some p } =
      complete h opTrpMap stMapDone (if mappedByAny s p then s else zeroMem (p * pageBytes) pageBytes s) :=
  if_neg (by simp [hb])

/-- The state in which an entry has entered queue `q` of troupe `u`. -/
def pushed (u q a v : Nat) (s : State) : State :=
  (troupePut s u a (leBytes 8 v)).modTroupe u (fun (y : Troupe) =>
    { y with queues := mapPut y.queues q { s.queue u q with count := (s.queue u q).count + 1 }, scrubbed := false })

theorem pushed_queue (u q a v : Nat) (s : State) :
    (pushed u q a v s).queue u q = { s.queue u q with count := (s.queue u q).count + 1 } ∧
    ∀ j, j ≠ q → (pushed u q a v s).queue u j = s.queue u j := by
  have hq : ((pushed u q a v s).troupe u).queues = mapPut (s.troupe u).queues q { s.queue u q with count := (s.queue u q).count + 1 } := by
    have h : (troupePut s u a (leBytes 8 v)).troupe u = s.troupe u := by rw [State.troupe, troupePut_troupes]; rfl
    rw [pushed, State.troupe_modTroupe_same, h]
  rw [State.queue, hq]
  refine ⟨mapGet_put_same .., fun j hj => ?_⟩
  rw [State.queue, hq]
  exact mapGet_put_other _ _ _ hj

theorem complete_queue (h : CmdHdr) (op st : Nat) (s : State) (u q : Nat) : (complete h op st s).queue u q = s.queue u q := rfl

/-- The state in which the image `i` waits for the next switch in of troupe `u`. -/
def restoreHeld (u : Nat) (i : CtxImage) (s : State) : State :=
  (s.modTroupe u (fun (x : Troupe) => { x with regs.stopped := false })).modTroupe u (fun (x : Troupe) => { x with toRestore := some i, scrubbed := false })

theorem restoreHeld_troupe (u : Nat) (i : CtxImage) (s : State) :
    (restoreHeld u i s).troupe u = { s.troupe u with regs.stopped := false, toRestore := some i, scrubbed := false } := by
  rw [restoreHeld, State.troupe_modTroupe_same, State.troupe_modTroupe_same]

/-- Settles O46. -/
theorem troupeCommandResults : Obligations.TroupeCommandResults := by
  intro h s
  dsimp only [Gives, exec]
  refine ⟨fun page e ha => ⟨fun hb => hostCmd_next ha (if_pos hb), fun hb hm => hostCmd_next ha ((if_neg (Bool.eq_false_iff.1 hb)).trans (if_pos hm)),
      fun hb hm ho => hostCmd_next ha ((if_neg (Bool.eq_false_iff.1 hb)).trans ((if_neg (Bool.eq_false_iff.1 hm)).trans ?_)), fun hb hm ho => ?_⟩,
    fun q v ha => ⟨fun h => hostCmd_next ha (if_pos ?_), fun ht hq hl => hostCmd_next ha ((if_neg ?_).trans (if_pos hl)), fun ht hq hl => ?_⟩,
    fun img ha => ⟨fun ht => hostCmd_next ha (if_neg (by simp [ht])), fun ht => hostCmd_next ha (if_pos (by simp [ht]))⟩,
    fun addr ha => ⟨fun img ht hi => hostCmd_next ha ((if_neg (by simp [ht])).trans (by simp only [hi])),
      fun ht hi => hostCmd_next ha ((if_neg (by simp [ht])).trans (by simp only [hi])), fun ht => hostCmd_next ha (if_pos (by simp [ht]))⟩,
    fun ha => ⟨fun hst hi => hostCmd_next ha (if_pos ?_), fun hgo hi => hostCmd_next ha ((if_neg ?_).trans (by simp only [hi])), fun img hgo hi => ?_⟩,
    fun v ha => ⟨fun ht => ⟨_, regWrite_next ha (if_pos ht), State.troupe_modTroupe_same .., troupeFrame_modTroupe ..⟩,
      fun ht => regWrite_next ha (if_neg (by simp [ht]))⟩⟩
  case refine_1 => dsimp only; rw [ho]; rfl
  case refine_2 =>
    have hset : execTrpMap h page e s = .next (settleMap h.troupe (hubWrite s ((s.troupe h.troupe).cfg.xlatBase + 8 * page) (leBytes 8 e))
        { hdr := h, page := some (entryPage (xlatEntry s h.troupe page)) }) :=
      hostCmd_next ha ((if_neg (Bool.eq_false_iff.1 hb)).trans ((if_neg (Bool.eq_false_iff.1 hm)).trans (by dsimp only; rw [ho]; rfl)))
    refine ⟨fun hbusy => ⟨_, hset.trans (congrArg _ (settleMap_waits hbusy)), ?_, troupeFrame_modTroupe ..⟩, fun hbusy => hset.trans (congrArg _ (settleMap_done hbusy))⟩
    rw [State.troupe_modTroupe_same]
  case refine_3 => rcases h with h | h <;> simp [h]
  case refine_4 => simp [ht, Nat.not_le.2 hq]
  case refine_5 =>
    have hno : ¬ (!s.hasTroupe h.troupe || decide ((s.troupe h.troupe).cfg.queues.length ≤ q)) = true := by simp [ht, Nat.not_le.2 hq]
    have hpush : execTrpQpush h q v s = .next (complete h opTrpQpush stOk (pushed h.troupe q _ v s)) :=
      hostCmd_next ha ((if_neg hno).trans (if_neg (Nat.not_le.2 hl)))
    obtain ⟨h1, h2⟩ := pushed_queue h.troupe q _ v s
    exact ⟨hpush, _, hpush, by rw [complete_queue, h1], by rw [complete_queue, h1], h2⟩
  case refine_6 => simp [hst, hi]
  case refine_7 => rcases hgo with hgo | hgo <;> simp [hgo]
  case refine_8 =>
    have hno : ¬ (!(stateOf s h.troupe == .off || stateOf s h.troupe == .resident && !anyRunning s h.troupe)) = true := by
      rcases hgo with hgo | hgo <;> simp [hgo]
    refine ⟨fun hj => hostCmd_next ha ((if_neg hno).trans ?_), fun hj hoff => hostCmd_next ha ((if_neg hno).trans ?_), fun hj hoff => ?_⟩
    · simp only [hi]; exact if_pos (by simp [hj])
    · simp only [hi]
      exact (if_neg (by simp [hj])).trans (congrArg _ (if_neg (by simp [hoff])))
    · refine ⟨complete h opTrpRestore stRestoreDone (restoreHeld h.troupe img s), hostCmd_next ha ((if_neg hno).trans ?_), ?_, ?_, rfl, rfl⟩
      · simp only [hi]
        exact (if_neg (by simp [hj])).trans (congrArg _ (if_pos (by simp [hoff])))
      · exact (congrArg Troupe.toRestore (restoreHeld_troupe h.troupe img s) :)
      · exact (congrArg (fun x : Troupe => x.regs.stopped) (restoreHeld_troupe h.troupe img s) :)

/-! ### Switches and teardown (R335, R336, R342, R343) -/

/-- Settles O47. -/
theorem switchAndTeardownResults : Obligations.SwitchAndTeardownResults := by
  intro h u s
  dsimp only [Gives, exec]
  refine ⟨fun out inn ha => ⟨fun hw => ⟨_, hostCmd_next ha (if_pos hw), rfl, rfl⟩, fun hw hj => hostCmd_next ha ((if_neg (Bool.eq_false_iff.1 hw)).trans (if_pos ?_)),
      fun hw hj => hostCmd_next ha ((if_neg (Bool.eq_false_iff.1 hw)).trans (if_neg ?_))⟩,
    fun ha => ⟨fun w hw => ⟨fun hd => engine_next ha ?_, fun hd => engine_next ha ?_⟩, fun hw => engine_next ha (by simp only [hw]),
      fun w hw => ⟨fun o ho hi => engine_next ha ?_, fun i ho hi => engine_next ha ?_, fun o i ho hi => engine_next ha ?_, fun ho hi => engine_next ha ?_⟩,
      fun hw => engine_next ha (by simp only [hw])⟩,
    fun ha => ⟨fun ht => hostCmd_next ha (if_neg (by simp [ht])), fun ht => hostCmd_next ha (if_pos (by simp [ht]))⟩,
    fun ha => ⟨fun hst hd => engine_next ha (if_pos (by simp [hst, hd])), fun h => engine_next ha (if_neg ?_)⟩⟩
  case refine_1 => rw [hj]; rfl
  case refine_2 => simp [hj]
  case refine_3 => simp only [hw]; exact if_pos hd
  case refine_4 => simp only [hw]; exact if_neg (by simp [hd])
  case refine_5 => simp only [hw, ho, hi, Option.toList_some, Option.toList_none, List.append_nil, List.foldl_cons, List.foldl_nil]
  case refine_6 => simp only [hw, ho, hi, Option.toList_some, Option.toList_none, List.nil_append, List.foldl_cons, List.foldl_nil]
  case refine_7 => simp only [hw, ho, hi, Option.toList_some, List.cons_append, List.nil_append, List.foldl_cons, List.foldl_nil]
  case refine_8 => simp only [hw, ho, hi, Option.toList_none, List.append_nil, List.foldl_nil]
  case refine_9 => rcases h with h | h <;> simp [h]

end Sys2Proof.Machine
end

section
/-! Checkpoints: arming, the cut, the copy, the drain, restore and replica comparison. -/

namespace Sys2Proof.Machine

/-! ### Jobs -/

theorem modJob_some {s : State} {j : Nat} {x : Job} (h : s.job? j = some x) (f : Job → Job) :
    s.modJob j f = { s with ckpt.jobs := mapPut s.ckpt.jobs j (f x) } := by rw [State.modJob, h]

theorem job_modJob {s : State} {j : Nat} {x : Job} (h : s.job? j = some x) (f : Job → Job) : (s.modJob j f).job? j = some (f x) := by
  rw [modJob_some h]; exact mapFind_put_same ..

theorem modJob_congr {s : State} {j : Nat} {x : Job} (h : s.job? j = some x) {f g : Job → Job} (hfg : f x = g x) : s.modJob j f = s.modJob j g := by
  rw [modJob_some h, modJob_some h, hfg]

/-- Changing a job changes the jobs alone. -/
theorem modJob_frame (s : State) (j : Nat) (f : Job → Job) : { s.modJob j f with ckpt := s.ckpt } = s := by
  unfold State.modJob; split <;> rfl

theorem modJob_mem (s : State) (j : Nat) (f : Job → Job) : (s.modJob j f).mem = s.mem := (congrArg State.mem (modJob_frame s j f) :)

/-! ### The pending pages, and jobs under a write of the module (R356, R357) -/

theorem writeMemPiece_pages (owner : Owner) (s : State) (a : Nat) (bs : List Byte) : (writeMemPiece owner s a bs).1.mem.pages = s.mem.pages := by
  unfold writeMemPiece; dsimp only; split <;> rfl

theorem hubWrite_pages (s : State) (a : Nat) (bs : List Byte) : (hubWrite s a bs).mem.pages = s.mem.pages :=
  writeMem_same (fun s => s.mem.pages) writeMemPiece_pages .none s a bs

/-- A change of some values of a map keeps its keys. -/
theorem mapFind_map_isSome {α : Type} (c : Nat × α → Bool) (f : α → α) (m : Map α) (j : Nat) :
    (mapFind (m.map (fun e => if c e then (e.1, f e.2) else e)) j).isSome = (mapFind m j).isSome := by
  induction m with
  | nil => rfl
  | cons e m ih =>
    obtain ⟨k, v⟩ := e
    cases hc : c (k, v) with
    | true =>
      simp only [List.map_cons, hc, if_true, mapFind]
      split
      · rfl
      · exact ih
    | false =>
      simp only [List.map_cons, hc, Bool.false_eq_true, if_false, mapFind]
      split
      · rfl
      · exact ih

theorem writeMemPiece_job (owner : Owner) (s : State) (a : Nat) (bs : List Byte) (j : Nat) :
    ((writeMemPiece owner s a bs).1.job? j).isSome = (s.job? j).isSome := by
  unfold writeMemPiece; dsimp only; split
  · exact mapFind_map_isSome (fun e => e.2.pages.contains (stackPage s a)) (fun x => { x with stallCnt := inc16 x.stallCnt }) s.ckpt.jobs j
  · rfl

theorem hubWrite_job (s : State) (a : Nat) (bs : List Byte) (j : Nat) : ((hubWrite s a bs).job? j).isSome = (s.job? j).isSome :=
  writeMem_same (fun s => (s.job? j).isSome) (fun owner s a bs => writeMemPiece_job owner s a bs j) .none s a bs

theorem FoundFrame.pages {s t : State} (h : FoundFrame s t) : t.mem.pages = s.mem.pages := (congrArg Mem.pages h.2 :)

theorem copyPage_pages (j key : Nat) (i : CkptImage) (s : State) : (copyPage j key i s).mem.pages = s.mem.pages := by
  have chunk (x : State × Nat) (e : Nat × List Byte) : (copyChunk s j (key / 12288) x e).1.mem.pages = x.1.mem.pages := by
    unfold copyChunk; dsimp only; split
    · rfl
    · exact hubWrite_pages _ _ _
  unfold copyPage; dsimp only
  generalize ((imageGrains s i).filter _).filter (fun e => e.1 % stackBytes / pageBytes == key % 12288) = l
  generalize hx : ((s, _) : State × Nat) = x
  rw [show s.mem.pages = x.1.mem.pages by rw [← hx]]
  clear hx
  induction l generalizing x with
  | nil => rfl
  | cons e l ih => exact (ih _).trans (chunk x e)

theorem copyFor_pages (key : Nat) (s : State) (e : Nat × Job) : (copyFor key s e).mem.pages = s.mem.pages := by
  unfold copyFor; dsimp only; split
  · refine (foldl_same (fun s => s.mem.pages) (fun s u => congrArg Mem.pages (chargeStacks_mem (pageOwner s u) 64 0 s)) _ _).trans ?_
    split
    · exact (copyPage_pages _ _ _ _).trans (congrArg Mem.pages (modJob_mem ..))
    · exact congrArg Mem.pages (modJob_mem ..)
  · rfl

end Sys2Proof.Machine
end

section
/-! The statements of the checkpoint engine and its drain. -/

namespace Sys2Proof.Machine

/-! ### The cut (R355, R356) -/

/-- Stack `n` is marked busy where a page of the cut lies in it. -/
def snapMarked (pages : List Nat) (s : State) (n : Nat) : State :=
  if pages.any (fun p => p / 12288 == n) then s.modStack n (fun (k : Stack) => { k with snapBusy := true }) else s

/-- The job `y` of the cut of `x` at count `rel`. -/
def cutJob (x : Job) (rel : Nat) (steps : Option (Nat × Nat)) (s : State) (y : Job) : Job :=
  { y with
    cursor := y.later.getD y.cursor, later := none, st := .copying, step := (cutImage s x rel steps).step, tCut := rel, cut := true, atCut := []
    pages := savePages s x, bad := false, image := some (cutImage s x rel steps), drained := 0
    waitDrain := (if coordinates s x then jobLmids s x else []) }

/-- The state after the register pieces of a cut are written. -/
def cutWritten (j : Nat) (x : Job) (rel : Nat) (steps : Option (Nat × Nat)) (s : State) : State :=
  putMeta j (512 + 128 * (cutImage s x rel steps).pieces.length) (regBytes (cutImage s x rel steps)) (passBarrier x s)

/-- The state after a cut: its job is copying, and the pages that it saves are pending. -/
def cutState (j : Nat) (x : Job) (rel : Nat) (steps : Option (Nat × Nat)) (s : State) : State :=
  let s2 := (cutWritten j x rel steps s).modJob j (cutJob x rel steps s)
  (List.range 20).foldl (snapMarked (savePages s x))
    { s2 with mem.pages := s2.mem.pages ++ (savePages s x).filter (fun p => !s2.mem.pages.contains p) }

theorem passBarrier_ckpt (x : Job) (s : State) : (passBarrier x s).ckpt = s.ckpt :=
  foldl_same State.ckpt (f := fun (s : State) (p : JobTrp) => s.setBar p.t x.plan.bar (nextInstance (s.bar p.t x.plan.bar))) (fun _ _ => rfl) _ s

theorem snapMarked_ckpt (pages : List Nat) (s : State) (n : Nat) : (snapMarked pages s n).ckpt = s.ckpt := by unfold snapMarked; split <;> rfl
theorem snapMarked_pages (pages : List Nat) (s : State) (n : Nat) : (snapMarked pages s n).mem.pages = s.mem.pages := by
  unfold snapMarked; split <;> rfl

/-- The job stands in the state in which the cut's register pieces are written. -/
theorem cutWritten_job {j : Nat} {x : Job} {s : State} (hj : s.job? j = some x) (rel : Nat) (steps : Option (Nat × Nat)) :
    ∃ z, (cutWritten j x rel steps s).job? j = some z := by
  refine Option.isSome_iff_exists.1 ?_
  rw [cutWritten, putMeta, hubWrite_job, State.job?, passBarrier_ckpt]
  exact Option.isSome_iff_exists.2 ⟨x, hj⟩

/-- The job after its cut, and the pages that the cut saves. -/
theorem cutState_spec {j : Nat} {x : Job} {s : State} (hj : s.job? j = some x) (rel : Nat) (steps : Option (Nat × Nat)) :
    (∃ z, (cutState j x rel steps s).job? j = some (cutJob x rel steps s z)) ∧ ∀ p ∈ savePages s x, p ∈ (cutState j x rel steps s).mem.pages := by
  obtain ⟨z, hz⟩ := cutWritten_job hj rel steps
  unfold cutState; dsimp only
  generalize hs2 : (cutWritten j x rel steps s).modJob j (cutJob x rel steps s) = s2
  have hjob : s2.job? j = some (cutJob x rel steps s z) := by rw [← hs2]; exact job_modJob hz _
  refine ⟨⟨z, ?_⟩, fun p hp => ?_⟩
  · rw [State.job?, foldl_same State.ckpt (snapMarked_ckpt _)]
    exact hjob
  · rw [foldl_same (fun s => s.mem.pages) (snapMarked_pages _)]
    by_cases hin : p ∈ s2.mem.pages
    · exact List.mem_append_left _ hin
    · exact List.mem_append_right _ (List.mem_filter.2 ⟨hp, by simpa using hin⟩)

/-! ### The copy (R356) -/

/-- A page whose bit clears is no longer pending once every job has copied it. -/
theorem copied_not_pending (key : Nat) (ls : List (Loc × Nat)) (js : List (Nat × Job)) (s : State) :
    key ∉ (js.foldl (copyFor key) (findErrors ls { s with mem.pages := s.mem.pages.filter (fun p => p != key) })).mem.pages := by
  rw [foldl_same (fun s => s.mem.pages) (copyFor_pages key), (findErrors_frame ls _).pages]
  simp

/-- Settles O48. -/
theorem checkpointEngineResults : Obligations.CheckpointEngineResults := by
  intro j s
  dsimp only [Gives, exec]
  refine ⟨fun h job ha => ⟨fun k hk => hostCmd_next ha (by simp only [hk]), fun hk => hostCmd_next ha (by simp only [hk])⟩,
    fun c ha => ⟨fun hc => engine_next ha (if_pos hc), fun hc => engine_next ha (if_neg (Bool.eq_false_iff.1 hc))⟩,
    fun ha => ⟨fun a hu => ⟨fun hc => engine_next ha ?_, fun hc => engine_next ha ?_⟩, fun hu => engine_next ha (by simp only [hu])⟩,
    fun x n l ha hj => ⟨fun hc => ⟨engine_next ha ?_, engine_next ha ?_, engine_next ha ?_⟩, fun hc => ⟨engine_next ha ?_, engine_next ha ?_⟩,
      fun hc hst => ⟨s.modJob j (fun y => { y with st := .armed, no := n % 2 ^ 32 }), engine_next ha ?_, ?_, ?_, ?_⟩, fun hc hst => engine_next ha ?_⟩,
    fun u ha => ⟨fun k x hk => ⟨fun hr => engine_next ha ?_, fun hr => engine_next ha ?_⟩, fun hk => engine_next ha (by simp only [hk])⟩,
    fun x ha hj => ⟨fun h => engine_next ha ?_, fun rel steps hst hr => ?_⟩,
    fun x ordered ha hj => ⟨fun hc => engine_next ha ?_, fun hc hco => engine_next ha ?_, fun hc hco ho => engine_next ha ?_, fun hc hco ho => engine_next ha ?_⟩,
    fun ha => ⟨fun key hk => ?_, fun hk => engine_next ha (by simp only [hk])⟩,
    fun ha => ⟨fun w hw => engine_next ha (by simp only [hw]), fun hw => engine_next ha (by simp only [hw])⟩,
    fun x ha hj => ⟨fun h => engine_next ha ?_, fun hst hp hb => engine_next ha ?_, fun hst hp hb => ⟨fun hi => engine_next ha ?_, fun i hi => engine_next ha ?_⟩⟩,
    fun ha => regWrite_next ha rfl, fun ha => regWrite_next ha rfl⟩
  case refine_1 => simp only [hu]; exact if_pos hc
  case refine_2 => simp only [hu]; exact if_neg (Nat.not_le.2 hc)
  case refine_3 => simp only [hj]; exact if_pos hc
  case refine_4 => simp only [hj]; exact if_pos hc
  case refine_5 => simp only [hj]; exact if_pos (by simp [hc])
  case refine_6 => simp only [hj]; exact if_neg (Bool.eq_false_iff.1 hc)
  case refine_7 => simp only [hj]; exact if_neg (Bool.eq_false_iff.1 hc)
  case refine_8 => simp only [hj]; exact if_neg (by simp [hc, hst])
  case refine_9 => exact job_modJob hj _
  case refine_10 => exact modJob_mem ..
  case refine_11 => exact (congrArg State.cores (modJob_frame s j _) :)
  case refine_12 => simp only [hj]; exact if_pos (by simp [hst])
  case refine_13 => simp only [hk]; exact if_neg (by simp [hr])
  case refine_14 => simp only [hk]; exact if_pos (by simp [hr])
  case refine_15 =>
    simp only [hj]
    rcases h with h | h
    · exact if_pos (by simp [h])
    · rw [h]; exact ite_self _
  case refine_16 =>
    obtain ⟨⟨z, hz⟩, hpages⟩ := cutState_spec hj rel steps
    refine ⟨cutState j x rel steps s, engine_next ha ?_, cutJob x rel steps s z, hz, rfl, rfl, rfl, rfl, rfl, hpages⟩
    simp only [hj]
    refine (if_neg (by simp [hst])).trans ?_
    simp only [hr]; rfl
  case refine_17 => simp only [hj]; exact if_neg (Bool.eq_false_iff.1 hc)
  case refine_18 => simp only [hj]; exact (if_pos hc).trans (if_pos hco)
  case refine_19 => simp only [hj]; exact (if_pos hc).trans ((if_neg (Bool.eq_false_iff.1 hco)).trans (if_pos ho))
  case refine_20 => simp only [hj]; exact (if_pos hc).trans ((if_neg (Bool.eq_false_iff.1 hco)).trans (if_neg (Bool.eq_false_iff.1 ho)))
  case refine_21 =>
    have hgone := copied_not_pending key (copyReads s key) s.ckpt.jobs s
    refine ⟨engine_next ha (by simp only [hk]), _, engine_next ha (by simp only [hk]; rfl), ?_⟩
    split
    · exact hgone
    · exact hgone
  case refine_22 =>
    simp only [hj]
    rcases h with h | h
    · exact if_pos (by simp [h])
    · exact if_pos (by simp [h])
  case refine_23 =>
    simp only [hj]
    exact (if_neg (by simp [hst, hp])).trans (if_pos hb)
  case refine_24 =>
    simp only [hj]
    refine (if_neg (by simp [hst, hp])).trans ((if_neg (Bool.eq_false_iff.1 hb)).trans ?_)
    simp only [hi]
  case refine_25 =>
    simp only [hj]
    refine (if_neg (by simp [hst, hp])).trans ((if_neg (Bool.eq_false_iff.1 hb)).trans ?_)
    simp only [hi]

/-! ### The drain, restore and replica comparison (R361 to R368) -/

/-- Without digests and mirror pairs that differ, the replicas match. -/
theorem compareJob_match {x : Job} {h : CmdHdr} {others : List ReplDigest} {s : State} (hm : majority (ownRepl s x ++ others) = none)
    (ho : ownMirrors s x = []) :
    compareJob x { hdr := h, others := others, pairs := [] } s = complete h opRplCompare stReplicaMatch s := by
  unfold compareJob; dsimp only
  rw [hm, ho]; rfl

/-- Settles O49. -/
theorem checkpointDrainResults : Obligations.CheckpointDrainResults := by
  intro h job j no s
  dsimp only [Gives, exec]
  refine ⟨fun x hi hj => ⟨fun addr len ha => ⟨fun hb => hostCmd_next ha ?_, fun hb => hostCmd_next ha ?_⟩,
      fun ha => ⟨fun h => hostCmd_next ha ?_, fun hn ho hall => hostCmd_next ha ?_, fun hn ho hall => hostCmd_next ha ?_⟩,
      fun ha => ⟨fun hn hst => hostCmd_next ha ?_, fun h => hostCmd_next ha ?_⟩,
      fun bytes ha => ⟨fun hl => hostCmd_next ha ?_, fun hl => hostCmd_next ha ?_⟩,
      fun cat busy ha => ⟨fun hr => hostCmd_next ha ?_, fun hr hc => hostCmd_next ha ?_, fun hr hc => hostCmd_next ha ?_⟩,
      fun others pairs ha => ⟨fun hq => hostCmd_next ha ?_, fun hq =>
        ⟨s.modJob j (fun y => { y with cmp := y.cmp ++ [{ hdr := h, others := others, pairs := pairs }], cmpAt := (y.plan.troupes.map (·.t)).filter (cmpStands s) }),
          hostCmd_next ha ?_, modJob_mem .., (congrArg State.cores (modJob_frame s j _) :), job_modJob hj _⟩⟩,
      fun others hm ho => compareJob_match hm ho⟩,
    fun addr len bytes cat busy others pairs hi => ⟨fun ha => hostCmd_next ha (by simp only [hi]), fun ha => hostCmd_next ha (by simp only [hi]),
      fun ha => hostCmd_next ha (by simp only [hi]), fun ha => hostCmd_next ha (by simp only [hi]), fun ha => hostCmd_next ha (by simp only [hi]),
      fun ha => hostCmd_next ha (by simp only [hi])⟩,
    fun x ha hj => ⟨fun b bs hb hst => engine_next ha ?_, fun h => engine_next ha ?_⟩⟩
  case refine_1 => simp only [hi, hj]; exact if_neg (Bool.eq_false_iff.1 hb)
  case refine_2 => simp only [hi, hj]; exact if_pos hb
  case refine_3 =>
    simp only [hi, hj]
    rcases h with h | h
    · exact if_pos (by simp [h])
    · exact if_pos (by rw [h]; simp)
  case refine_4 =>
    have hpart : (x.st == .copying || decide (x.drained < (drainBytes s x).length)) = true := by
      cases hc : x.st == .copying with
      | true => rfl
      | false =>
        rw [hc, Bool.false_or] at ho
        rw [ho, Bool.true_and, decide_eq_false_iff_not] at hall
        exact decide_eq_true (Nat.not_le.1 hall)
    simp only [hi, hj]
    exact (if_neg (by rw [ho]; simp [hn])).trans (if_pos hpart)
  case refine_5 =>
    obtain ⟨hdrain, hlen⟩ := Bool.and_eq_true_iff.1 hall
    have hst : x.st = .draining := eq_of_beq hdrain
    simp only [hi, hj]
    exact (if_neg (by simp [hst, hn])).trans (if_neg (by simpa [hst] using of_decide_eq_true hlen))
  case refine_6 =>
    simp only [hi, hj]
    exact if_neg (by simp [hn, hst])
  case refine_7 =>
    simp only [hi, hj]
    rcases h with h | h <;> exact if_pos (by simp [h])
  case refine_8 =>
    simp only [hi]
    exact congrArg _ (modJob_congr hj (if_neg (Bool.eq_false_iff.1 hl)))
  case refine_9 =>
    simp only [hi]
    exact congrArg _ (modJob_congr hj (if_pos hl))
  case refine_10 => simp only [hi, hj]; exact if_pos hr
  case refine_11 =>
    simp only [hi, hj]
    exact (if_neg (Bool.eq_false_iff.1 hr)).trans (if_pos (by rw [hc]; rfl))
  case refine_12 =>
    simp only [hi, hj]
    exact (if_neg (Bool.eq_false_iff.1 hr)).trans (if_neg (by rw [hc]; decide))
  case refine_13 => simp only [hi, hj]; exact if_pos hq
  case refine_14 => simp only [hi, hj]; exact if_neg (Bool.eq_false_iff.1 hq)
  case refine_15 =>
    simp only [hj, hb]
    exact if_neg (by simp [hst])
  case refine_16 =>
    simp only [hj]
    split
    · rfl
    · next b bs hb =>
      refine if_pos ?_
      rcases h with h | h
      · simp [h] at hb
      · simp [h]

end Sys2Proof.Machine
end

section
/-! The statements of the understudies, the host queues and the membership of an ensemble. -/

namespace Sys2Proof.Machine

/-! ### Understudies (R369 to R372) -/

/-- The image that a substitution applies: that of the command, else the staged one (R370). -/
def givenImage (image : Option (Nat × CastImage)) (l : Nat) (s : State) : Option (Nat × CastImage) :=
  match image with
  | some x => some x
  | none => (mapFind s.ckpt.sub.staged l).map (fun x => (signedSize x.sig, x))

theorem substituteHere_none {l : Nat} {s : State} (h : CmdHdr) (image : Option (Nat × CastImage)) (agree : Bool) (hn : subNone s l = true) :
    substituteHere h l image agree s = complete h opEnsSubstitute stSubNone s := if_pos hn

theorem substituteHere_state {l : Nat} {s : State} (h : CmdHdr) (image : Option (Nat × CastImage)) (agree : Bool) (hn : subNone s l = false)
    (hs : lmidState s l ≠ 3) : substituteHere h l image agree s = complete h opEnsSubstitute stSubState s :=
  (if_neg (Bool.eq_false_iff.1 hn)).trans (if_pos (by simpa using hs))

theorem substituteHere_failed {l : Nat} {s : State} (h : CmdHdr) (image : Option (Nat × CastImage)) (agree : Bool) (hn : subNone s l = false)
    (hs : lmidState s l = 3) :
    substituteHere h l image agree s = match givenImage image l s with
      | none => complete h opEnsSubstitute stSubImage s
      | some (len, img) =>
        if judgeSub l img len agree s != stOk then complete h opEnsSubstitute (judgeSub l img len agree s) s
        else complete h opEnsSubstitute stOk (takeOver l img s) :=
  (if_neg (Bool.eq_false_iff.1 hn)).trans (if_neg (by simpa using hs))

/-- Settles O50. -/
theorem understudyResults : Obligations.UnderstudyResults := by
  intro h l s
  dsimp only [exec]
  refine ⟨fun len img agree ha => ⟨fun hu => hostCmd_next ha ?_, fun hu hj => hostCmd_next ha ?_, fun hu hj => hostCmd_next ha ?_⟩,
    fun image agree ha => ⟨fun hu hn => hostCmd_next ha ?_, fun hu hn hs => hostCmd_next ha ?_, fun hu hn hs hg => hostCmd_next ha ?_,
      fun len img hu hn hs hg => ⟨fun hj => hostCmd_next ha ?_, fun hj => hostCmd_next ha ?_⟩, fun hu ho => hostCmd_next ha ?_,
      fun n hu ho => ⟨fun hs => hostCmd_next ha ?_, fun hs => hostCmd_next ha ?_⟩⟩,
    fun ha => ⟨fun img hi => ⟨fun hk => engine_next ha ?_, fun hk => engine_next ha ?_⟩, fun hi => engine_next ha (by simp only [hi])⟩,
    fun pieces bars ha => ⟨fun hc => engine_next ha ?_, fun hx hw hp => engine_next ha ?_, fun hx hw hp hm hne => engine_next ha ?_,
      fun hx hw hp hm => engine_next ha ?_⟩⟩
  case refine_1 => exact if_pos (by simp [hu])
  case refine_2 => exact (if_neg (by simp [hu])).trans (if_pos (by simpa using hj))
  case refine_3 => exact (if_neg (by simp [hu])).trans (if_neg (by simpa using hj))
  case refine_4 => exact (if_pos hu).trans (substituteHere_none h image agree hn)
  case refine_5 => exact (if_pos hu).trans (substituteHere_state h image agree hn hs)
  case refine_6 =>
    refine ((if_pos hu).trans (substituteHere_failed h image agree hn hs)).trans ?_
    rw [show givenImage image l s = none from hg]
  case refine_7 =>
    refine ((if_pos hu).trans (substituteHere_failed h image agree hn hs)).trans ?_
    rw [show givenImage image l s = some (len, img) from hg]
    exact if_pos (by simpa using hj)
  case refine_8 =>
    refine ((if_pos hu).trans (substituteHere_failed h image agree hn hs)).trans ?_
    rw [show givenImage image l s = some (len, img) from hg]
    exact if_neg (by simpa using hj)
  case refine_9 => exact (if_neg (Bool.eq_false_iff.1 hu)).trans (by simp only [ho])
  case refine_10 => exact (if_neg (Bool.eq_false_iff.1 hu)).trans (by simp only [ho]; exact if_pos (by simpa using hs))
  case refine_11 => exact (if_neg (Bool.eq_false_iff.1 hu)).trans (by simp only [ho]; exact if_neg (by simpa using hs))
  case refine_12 => simp only [hi]; exact if_pos hk
  case refine_13 => simp only [hi]; exact if_neg (Bool.eq_false_iff.1 hk)
  case refine_14 =>
    refine if_pos ?_
    rcases hc with hc | hc
    · simp [hc]
    · rw [hc]; simp
  case refine_15 =>
    refine (if_neg (by simp only [hx, hw]; decide)).trans ?_
    simp only [hp, Bool.not_false, if_true]
  case refine_16 =>
    refine (if_neg (by simp only [hx, hw]; decide)).trans ?_
    have hsome : (!pieces.isEmpty) = true := by simpa using hne
    simp only [hp, hm, hsome, Bool.not_true, Bool.false_eq_true, if_false, Bool.and_self, if_true]
  case refine_17 =>
    refine (if_neg (by simp only [hx, hw]; decide)).trans ?_
    have hnone : (mirrorThere s l && !pieces.isEmpty) = false := by
      rcases hm with hm | hm
      · simp [hm]
      · simp [hm]
    simp only [hp, hnone, Bool.not_true, Bool.false_eq_true, if_false]

/-! ### Host queues (R377 to R385, R389, R395) -/

theorem mapGet_of_find {α : Type} {d v : α} {m : Map α} {k : Nat} (h : mapFind m k = some v) : mapGet d m k = v := by rw [mapGet, h]

/-- The completion and event queues of the admin queue take the vectors of a write of THL_CTRL (R377). -/
def vectorsSet (v : Nat) (s : State) : State :=
  let s1 := { s with thl.regs.enable := bitOf v 0, thl.regs.cq0Vec := bitsOf v 26 16, thl.regs.eq0Vec := bitsOf v 42 32 }
  let s2 := match mapFind s1.thl.cplQs 0 with
    | some p => { s1 with thl.cplQs := mapPut s1.thl.cplQs 0 { p with vector := bitsOf v 26 16 } }
    | none => s1
  match mapFind s2.thl.evtQs 0 with
  | some e => { s2 with thl.evtQs := mapPut s2.thl.evtQs 0 { e with vector := bitsOf v 42 32 } }
  | none => s2

/-- What a write of the vectors leaves in the queues, and all else. -/
theorem vectorsSet_spec (v : Nat) (s : State) :
    (vectorsSet v s).thl.regs = { s.thl.regs with enable := bitOf v 0, cq0Vec := bitsOf v 26 16, eq0Vec := bitsOf v 42 32 } ∧
    (vectorsSet v s).thl.cmdQs = s.thl.cmdQs ∧
    (∀ p, mapFind s.thl.cplQs 0 = some p → mapFind (vectorsSet v s).thl.cplQs 0 = some { p with vector := bitsOf v 26 16 }) ∧
    (∀ e, mapFind s.thl.evtQs 0 = some e → mapFind (vectorsSet v s).thl.evtQs 0 = some { e with vector := bitsOf v 42 32 }) ∧
    (∀ q, q ≠ 0 → mapFind (vectorsSet v s).thl.cplQs q = mapFind s.thl.cplQs q ∧ mapFind (vectorsSet v s).thl.evtQs q = mapFind s.thl.evtQs q) ∧
    { vectorsSet v s with thl := s.thl } = s := by
  unfold vectorsSet
  dsimp only
  cases hc : mapFind s.thl.cplQs 0 with
  | none =>
    dsimp only
    cases he : mapFind s.thl.evtQs 0 with
    | none => exact ⟨rfl, rfl, nofun, nofun, fun _ _ => ⟨rfl, rfl⟩, rfl⟩
    | some e =>
      exact ⟨rfl, rfl, nofun, fun e' h => by cases h; exact mapFind_put_same .., fun q hq => ⟨rfl, mapFind_put_other _ _ hq⟩, rfl⟩
  | some p =>
    dsimp only
    cases he : mapFind s.thl.evtQs 0 with
    | none =>
      exact ⟨rfl, rfl, fun p' h => by cases h; exact mapFind_put_same .., nofun, fun q hq => ⟨mapFind_put_other _ _ hq, rfl⟩, rfl⟩
    | some e =>
      exact ⟨rfl, rfl, fun p' h => by cases h; exact mapFind_put_same .., fun e' h => by cases h; exact mapFind_put_same ..,
        fun q hq => ⟨mapFind_put_other _ _ hq, mapFind_put_other _ _ hq⟩, rfl⟩

theorem queueRecOk_kind {s : State} {r : QueueRec} (h : queueRecOk s r = true) : r.kind ≤ 2 := by
  simp only [queueRecOk, Bool.and_eq_true, decide_eq_true_eq] at h
  omega

/-! A doorbell of a queue that is there (R379). -/

theorem doorbell_tail {q v : Nat} {c : CmdQueue} {s : State} (ha : s.alive = true) (hf : mapFind s.thl.cmdQs q = some c)
    (ht : queueThere s 0 q = true) (hi : bitsOf v 15 0 < 2 ^ c.log2n) :
    execDoorbell 0 q v s = .next { s with thl.cmdQs := mapPut s.thl.cmdQs q { c with tail := bitsOf v 15 0 } } := by
  refine regWrite_next ha ((if_neg (by simp [ht])).trans ((if_pos rfl).trans ?_))
  rw [mapGet_of_find hf]
  exact if_neg (Nat.not_le.2 hi)

theorem doorbell_tail_bad {q v : Nat} {c : CmdQueue} {s : State} (ha : s.alive = true) (hf : mapFind s.thl.cmdQs q = some c)
    (ht : queueThere s 0 q = true) (hi : 2 ^ c.log2n ≤ bitsOf v 15 0) : execDoorbell 0 q v s = .next (badDoorbell s) := by
  refine regWrite_next ha ((if_neg (by simp [ht])).trans ((if_pos rfl).trans ?_))
  rw [mapGet_of_find hf]
  exact if_pos hi

/-- The head of a completion queue passes entries that were unread. -/
theorem doorbell_cpl {q v : Nat} {p : CplQueue} {s : State} (ha : s.alive = true) (hf : mapFind s.thl.cplQs q = some p)
    (ht : queueThere s 1 q = true) :
    execDoorbell 1 q v s = .next (if 2 ^ p.log2n ≤ bitsOf v 15 0 ∨ p.unread < passed (2 ^ p.log2n) p.head (bitsOf v 15 0) then badDoorbell s
      else { s with thl.cplQs := mapPut s.thl.cplQs q { p with
        head := bitsOf v 15 0, unread := p.unread - passed (2 ^ p.log2n) p.head (bitsOf v 15 0), armed := p.armed || bitOf v 63 } }) := by
  refine regWrite_next ha ((if_neg (by simp [ht])).trans ((if_neg (by decide)).trans ((if_pos rfl).trans ?_)))
  rw [mapGet_of_find hf]
  simp only [Bool.or_eq_true, decide_eq_true_eq]

/-- The head of an event queue passes entries that were unread. -/
theorem doorbell_evt {q v : Nat} {e : EvtQueue} {s : State} (ha : s.alive = true) (hf : mapFind s.thl.evtQs q = some e)
    (ht : queueThere s 2 q = true) :
    execDoorbell 2 q v s = .next (if 2 ^ e.log2n ≤ bitsOf v 15 0 ∨ e.unread < passed (2 ^ e.log2n) e.head (bitsOf v 15 0) then badDoorbell s
      else { s with thl.evtQs := mapPut s.thl.evtQs q { e with
        head := bitsOf v 15 0, unread := e.unread - passed (2 ^ e.log2n) e.head (bitsOf v 15 0), armed := e.armed || bitOf v 63 } }) := by
  refine regWrite_next ha ((if_neg (by simp [ht])).trans ((if_neg (by decide)).trans ((if_neg (by decide)).trans ?_)))
  rw [mapGet_of_find hf]
  simp only [Bool.or_eq_true, decide_eq_true_eq]

/-- A creation or deletion that is right in its form and names what it may (R378). -/
theorem queueCreate_made {h : CmdHdr} {r : QueueRec} {s : State} (ha : accepted s h opQueueCreate = true) (hr : h.sq = 0 ∧ r.rsv = 0)
    (hok : queueRecOk s r = true) (hl : isLead s = true) :
    execQueueCreate h r s = .next (complete h opQueueCreate stOk
      (if r.kind == 0 then { s with
        thl.cmdQs := mapPut s.thl.cmdQs r.qid { tenant := r.tenant, log2n := r.log2n, weight := r.weight, cqid := r.cqid, base := r.addr } }
      else if r.kind == 1 then { s with
        thl.cplQs := mapPut s.thl.cplQs r.qid { tenant := r.tenant, log2n := r.log2n, base := r.addr, vector := r.vector } }
      else { s with
        thl.evtQs := mapPut s.thl.evtQs r.qid { tenant := r.tenant, log2n := r.log2n, base := r.addr, vector := r.vector } })) :=
  hostCmd_next ha ((if_neg (by simp [hr])).trans (if_neg (by simp [hok, hl])))

theorem queueDelete_gone {h : CmdHdr} {qid kind : Nat} {s : State} (ha : accepted s h opQueueDelete = true) (hq : h.sq = 0)
    (ht : qid ≠ 0 ∧ kind ≤ 2 ∧ queueThere s kind qid = true) (hb : queueBusy s kind qid = false) :
    execQueueDelete h qid kind s = .next (complete h opQueueDelete stOk
      (if kind == 0 then { s with thl.cmdQs := mapDel s.thl.cmdQs qid }
      else if kind == 1 then { s with thl.cplQs := mapDel s.thl.cplQs qid }
      else { s with thl.evtQs := mapDel s.thl.evtQs qid })) := by
  obtain ⟨h0, h1, h2⟩ := ht
  exact hostCmd_next ha ((if_neg (by simp [hq])).trans ((if_neg (by simp [h0, h1, h2])).trans (if_neg (Bool.eq_false_iff.1 hb))))

/-- Settles O51. -/
theorem hostQueueResults : Obligations.HostQueueResults := by
  intro h s
  dsimp only [Gives, exec]
  refine ⟨fun which v ha => ⟨fun ⟨he, hlo, hhi⟩ => ⟨regWrite_next ha ?_, regWrite_next ha ?_, regWrite_next ha ?_⟩, fun hc => regWrite_next ha ?_⟩,
    fun v ha => ⟨fun ho he => regWrite_next ha ?_, fun hc => ⟨vectorsSet v s, regWrite_next ha ?_, vectorsSet_spec v s⟩⟩,
    fun r ha => ⟨fun hr => hostCmd_next ha ?_, fun ⟨hq, hv⟩ hc => hostCmd_next ha ?_,
      fun hr hok hl => ⟨fun hk => (queueCreate_made ha hr hok hl).trans (by rw [hk]; rfl), fun hk => (queueCreate_made ha hr hok hl).trans (by rw [hk]; rfl),
        fun hk => (queueCreate_made ha hr hok hl).trans (by rw [hk]; rfl), queueRecOk_kind hok⟩⟩,
    fun qid kind ha => ⟨fun hq => hostCmd_next ha ?_, fun hq ht => hostCmd_next ha ?_, fun hq ht hb => hostCmd_next ha ?_,
      fun hq ht hb => ⟨fun hk => (queueDelete_gone ha hq ht hb).trans (by rw [hk]; rfl), fun hk => (queueDelete_gone ha hq ht hb).trans (by rw [hk]; rfl),
        fun hk => (queueDelete_gone ha hq ht hb).trans (by rw [hk]; rfl)⟩⟩,
    fun slot troupe q tenants ha => ⟨fun hr => hostCmd_next ha ?_, fun hr hq => hostCmd_next ha ?_,
      fun e hr hq => ⟨fun hc => hostCmd_next ha ?_, fun hl hb => hostCmd_next ha ?_⟩⟩,
    fun kind q v ha => ⟨fun ht => regWrite_next ha (if_pos (by simp [ht])),
      fun c hf ht => ⟨doorbell_tail ha hf ht, doorbell_tail_bad ha hf ht⟩,
      fun p hf ht => ⟨fun hi hn => (doorbell_cpl ha hf ht).trans (congrArg _ (if_neg (by omega))),
        fun hi => (doorbell_cpl ha hf ht).trans (congrArg _ (if_pos hi))⟩,
      fun e hf ht => ⟨fun hi hn => (doorbell_evt ha hf ht).trans (congrArg _ (if_neg (by omega))),
        fun hi => (doorbell_evt ha hf ht).trans (congrArg _ (if_pos hi))⟩⟩,
    fun mem tenants ha => ⟨fun hf => engine_next ha (if_pos hf), fun hf => engine_next ha (if_neg (Bool.eq_false_iff.1 hf))⟩,
    fun opcode fence ha => ⟨fun hl => engine_next ha (if_neg hl), fun hl => engine_next ha (if_pos hl)⟩,
    fun c ha => ⟨fun hl => engine_next ha (if_pos hl), fun hl => engine_next ha (if_neg hl)⟩,
    fun ha hw => engine_next ha (by simp only [hw]),
    fun x xs ha hw => ⟨fun s2 hl hk hc => engine_next ha ?_, fun hl hc => engine_next ha ?_, fun hl hlost => engine_next ha ?_, fun hl hlost => ?_⟩⟩
  case refine_1 => exact (if_neg (by simp [he]; omega)).trans rfl
  case refine_2 => exact (if_neg (by simp [he]; omega)).trans rfl
  case refine_3 => exact (if_neg (by simp [he]; omega)).trans rfl
  case refine_4 =>
    rcases hc with hc | hw
    · refine if_pos ?_
      simp only [Bool.or_eq_true, decide_eq_true_eq]
      cases he : s.thl.regs.enable with
      | true => exact .inl (.inl rfl)
      | false => have hb : ¬ (4 ≤ bitsOf v 4 0 ∧ bitsOf v 4 0 ≤ 16) := fun hn => hc ⟨he, hn⟩; omega
    · have hn : ∀ k, k ≤ 2 → ¬ (which == k) = true := fun k hk => by simp; omega
      exact (congrArg _ ((if_neg (hn 0 (by omega))).trans ((if_neg (hn 1 (by omega))).trans (if_neg (hn 2 (by omega)))))).trans (ite_self s)
  case refine_5 => exact if_pos (by simp [ho, he])
  case refine_6 =>
    refine if_neg ?_
    rcases hc with hc | hc
    · simp [hc]
    · simp [hc]
  case refine_7 =>
    refine if_pos ?_
    simp only [Bool.or_eq_true, bne_iff_ne]
    omega
  case refine_8 =>
    refine (if_neg (by simp [hq, hv])).trans (if_pos ?_)
    rcases hc with hc | hc
    · simp [hc]
    · simp [hc]
  case refine_9 => exact if_pos (by simpa using hq)
  case refine_10 =>
    refine (if_neg (by simp [hq])).trans (if_pos ?_)
    simp only [Bool.or_eq_true, beq_iff_eq, decide_eq_true_eq, Bool.not_eq_true']
    by_cases h0 : qid = 0
    · exact .inl (.inl h0)
    · by_cases h1 : 2 < kind
      · exact .inl (.inr h1)
      · exact .inr (Bool.eq_false_iff.2 fun h2 => ht ⟨h0, Nat.not_lt.1 h1, h2⟩)
  case refine_11 =>
    obtain ⟨h0, h1, h2⟩ := ht
    exact (if_neg (by simp [hq])).trans ((if_neg (by simp [h0, h1, h2])).trans (if_pos hb))
  case refine_12 =>
    refine if_pos ?_
    simp only [Bool.or_eq_true, Bool.and_eq_true, bne_iff_ne, decide_eq_true_eq]
    omega
  case refine_13 =>
    refine (if_neg ?_).trans (by simp only [hq])
    simp only [Bool.or_eq_true, Bool.and_eq_true, bne_iff_ne, decide_eq_true_eq]
    omega
  case refine_14 =>
    refine (if_neg ?_).trans ?_
    · simp only [Bool.or_eq_true, Bool.and_eq_true, bne_iff_ne, decide_eq_true_eq]
      omega
    · simp only [hq]
      refine if_pos ?_
      rcases hc with hc | hc
      · simp [hc]
      · exact Bool.or_eq_true_iff.2 (.inr hc)
  case refine_15 =>
    refine (if_neg ?_).trans ?_
    · simp only [Bool.or_eq_true, Bool.and_eq_true, bne_iff_ne, decide_eq_true_eq]
      omega
    · simp only [hq]
      exact if_neg (by rw [hb]; simp [hl])
  case refine_16 => simp only [hw]; exact (if_pos hl).trans ((if_pos (by simpa using hk)).trans (by simp only [hc]))
  case refine_17 =>
    simp only [hw]
    refine (if_pos hl).trans ?_
    rcases hc with hc | hc
    · exact if_neg (by simpa using hc)
    · rw [hc]; exact ite_self s
  case refine_18 => simp only [hw]; exact (if_neg hl).trans (if_pos hlost)
  case refine_19 =>
    refine ⟨_, engine_next ha (by simp only [hw]; exact (if_neg hl).trans (if_neg (Bool.eq_false_iff.1 hlost))), rfl, _, rfl, rfl, rfl, rfl, rfl⟩

end Sys2Proof.Machine
end

section
/-! The statement of the membership of an ensemble: what a change settles leaves the module's view of the ensemble. -/

namespace Sys2Proof.Machine

/-! ### What keeps this module's membership table and slot -/

/-- A fold that carries a value beside the state keeps what each step keeps. -/
theorem foldl_fst_same {α β γ : Type} (g : State → γ) {f : State × β → α → State × β} (h : ∀ x a, g (f x a).1 = g x.1) (l : List α)
    (x : State × β) : g (l.foldl f x).1 = g x.1 := by
  induction l generalizing x with
  | nil => rfl
  | cons a l ih => exact (ih _).trans (h x a)

theorem writeEvent_ens (s : State) (q : Nat) (e : EvtQueue) (m : EvMsg) : (writeEvent s q e m).thl.ens = s.thl.ens := by
  unfold writeEvent; dsimp only; split <;> rfl

theorem dropEvent_ens (s : State) (q : Nat) : (dropEvent s q).thl.ens = s.thl.ens := by unfold dropEvent; dsimp only; split <;> rfl

theorem postAtLead_ens (s : State) (m : EvMsg) : (postAtLead s m).thl.ens = s.thl.ens := by
  unfold postAtLead; dsimp only
  split
  · exact dropEvent_ens ..
  · split
    · exact writeEvent_ens ..
    · exact dropEvent_ens ..

theorem postEvent_ens (s : State) (m : EvMsg) : (postEvent s m).thl.ens = s.thl.ens := by
  unfold postEvent
  split
  · split
    · exact postAtLead_ens ..
    · rfl
  · dsimp only; split
    · exact dropEvent_ens ..
    · rfl

/-- Raising an event changes the host link's events, queues and counters, and not the membership. -/
@[simp] theorem raiseEvent_ens (code troupe : Nat) (data : List Byte) (s : State) : (raiseEvent code troupe data s).thl.ens = s.thl.ens := by
  unfold raiseEvent; dsimp only
  generalize hs1 : ({ s with thl.events := mapPut s.thl.events code _ } : State) = s1
  have h1 : s1.thl.ens = s.thl.ens := by rw [← hs1]
  generalize hs2 : (if (s.occ code).mask then s1 else postEvent s1 _) = s2
  have h2 : s2.thl.ens = s1.thl.ens := by
    rw [← hs2]; split
    · rfl
    · exact postEvent_ens ..
  split
  · rw [freezeTrigger_thl, h2, h1]
  · rw [h2, h1]

@[simp] theorem raiseModule_ens (code : Nat) (data : List Byte) (s : State) : (raiseModule code data s).thl.ens = s.thl.ens := raiseEvent_ens ..

@[simp] theorem unlockCue_ens (s : State) : (unlockCue s).thl.ens = s.thl.ens := by
  unfold unlockCue; split
  · rfl
  · exact raiseModule_ens ..

theorem writeMemPiece_ens (owner : Owner) (s : State) (a : Nat) (bs : List Byte) : (writeMemPiece owner s a bs).1.thl.ens = s.thl.ens := by
  unfold writeMemPiece; dsimp only; split <;> rfl

theorem writeMem_ens (owner : Owner) (s : State) (a : Nat) (bs : List Byte) : (writeMem owner s a bs).1.thl.ens = s.thl.ens :=
  writeMem_same (fun s => s.thl.ens) writeMemPiece_ens owner s a bs

theorem writeLoc_ens (owner : Owner) (s : State) (l : Loc) (bs : List Byte) : (writeLoc owner s l bs).1.thl.ens = s.thl.ens := by
  cases l with
  | mem a => exact writeMem_ens ..
  | store c o => rfl
  | tbuf i o => rfl

theorem writeFlagged_ens (owner : Owner) (s : State) (l : Loc) (bs : List Byte) (fs : List Bool) :
    (writeFlagged owner s l bs fs).1.thl.ens = s.thl.ens := by
  unfold writeFlagged
  split
  · exact writeLoc_ens ..
  · cases l with
    | mem a =>
      refine foldl_fst_same (fun s => s.thl.ens) (fun x p => ?_) _ _
      split
      · dsimp only; split <;> rfl
      · exact writeMem_ens ..
    | store c o =>
      refine foldl_fst_same (fun s => s.thl.ens) (fun x p => ?_) _ _
      split
      · rfl
      · exact writeLoc_ens ..
    | tbuf i o =>
      refine foldl_fst_same (fun s => s.thl.ens) (fun x p => ?_) _ _
      split
      · rfl
      · exact writeLoc_ens ..

@[simp] theorem writeAllFlagged_ens (owner : Owner) (s : State) (ls : List (Loc × Nat)) (bs : List Byte) (fs : List Bool) :
    (writeAllFlagged owner s ls bs fs).1.thl.ens = s.thl.ens := by
  induction ls generalizing s bs fs with
  | nil => rfl
  | cons l ls ih => exact (ih ..).trans (writeFlagged_ens ..)

@[simp] theorem chargeStacks_ens (u rd wr : Nat) (s : State) : (chargeStacks u rd wr s).thl.ens = s.thl.ens := by
  unfold chargeStacks; split <;> rfl

@[simp] theorem noteXlat_ens (u : Nat) (f : AccFault) (s : State) : (noteXlat u f s).thl.ens = s.thl.ens := by
  unfold noteXlat; split <;> rfl

theorem noteArith_ens (c : Nat) (a : ArithRep) (s : State) : (noteArith c a s).thl.ens = s.thl.ens := by
  unfold noteArith; dsimp only
  split <;> split <;> simp only [raiseEvent_ens, State.setCore_thl]

/-! ### Ports and parts that wait to be sent -/

theorem placeItem_ens (x : TxFlit) (s : State) : (placeItem x s).2.thl.ens = s.thl.ens := by
  unfold placeItem; dsimp only; split <;> rfl

theorem placeAll_ens (xs : List TxFlit) (s : State) : (placeAll xs s).2.thl.ens = s.thl.ens := by
  induction xs generalizing s with
  | nil => rfl
  | cons x xs ih => exact (ih _).trans (placeItem_ens ..)

theorem keepSlot_ens (p : Nat) (landing : Bool) (i : Nat) (bs : List Byte) (s : State) : (keepSlot p landing i bs s).thl.ens = s.thl.ens := by
  unfold keepSlot; split
  · exact writeMem_ens ..
  · rfl

theorem chargeTx_ens (t n : Nat) (s : State) : (chargeTx t n s).thl.ens = s.thl.ens := by unfold chargeTx; split <;> rfl

theorem sendFlit_ens (p : Nat) (s : State) (f : SentFlit) : (sendFlit p s f).thl.ens = s.thl.ens :=
  (chargeTx_ens ..).trans (keepSlot_ens ..)

theorem sendFrame_ens (p ltag : Nat) (s : State) : (sendFrame p ltag s).thl.ens = s.thl.ens :=
  (foldl_same (fun s => s.thl.ens) (f := fun s q => returnCredit q ltag s) (fun _ _ => rfl) _ _).trans
    (foldl_same (fun s => s.thl.ens) (sendFlit_ens p) _ _)

theorem pumpPort_ens (p n : Nat) (s : State) : (pumpPort p n s).thl.ens = s.thl.ens := by
  induction n generalizing s with
  | zero => rfl
  | succ n ih =>
    unfold pumpPort; split
    · rfl
    · exact (ih _).trans (sendFrame_ens ..)

theorem settleRun_ens (s : State) (r : CollRun) : (settleRun s r).thl.ens = s.thl.ens := by unfold settleRun; split <;> rfl

@[simp] theorem pump_ens (s : State) : (pump s).thl.ens = s.thl.ens :=
  (foldl_same (fun s => s.thl.ens) settleRun_ens _ _).trans
    ((foldl_same (fun s => s.thl.ens) (f := fun s p => pumpPort p _ s) (fun s p => pumpPort_ens p _ s) _ _).trans (placeAll_ens ..))

theorem settlePort_ens (s : State) (t : Nat) : (settlePort s t).thl.ens = s.thl.ens := by
  unfold settlePort; dsimp only
  split
  · exact raiseEvent_ens ..
  · split <;> rfl

@[simp] theorem portChanged_ens (s : State) : (portChanged s).thl.ens = s.thl.ens := by
  have h : (pump (resetLoads ((s.troupes.map (·.1)).foldl settlePort s))).thl.ens = s.thl.ens :=
    (pump_ens _).trans (foldl_same (fun s => s.thl.ens) settlePort_ens _ _)
  unfold portChanged; dsimp only
  split
  · exact (unlockCue_ens _).trans h
  · exact h

theorem leaveUp_ens (p : Nat) (st : PortSt) (s : State) : (leaveUp p st s).thl.ens = s.thl.ens := rfl

/-! ### Collectives within the module -/

theorem sendRank_ens (t : Nat) (g : GroupRec) (r : Nat) (base : Packet) (bs : List Byte) (fs : List Bool) (s : State) :
    (sendRank t g r base bs fs s).thl.ens = s.thl.ens := by
  unfold sendRank; dsimp only; split
  · rfl
  · exact pump_ens _

theorem flood_ens (t tree inst : Nat) (g : GroupRec) (c id r : Nat) (dests : List Nat) (count : Nat) (bs : List Byte) (fs : List Bool) (s : State) :
    (flood t tree inst g c id r dests count bs fs s).thl.ens = s.thl.ens :=
  foldl_same (fun s => s.thl.ens) (f := fun s k => sendRank t g k _ bs fs s) (fun s _ => sendRank_ens t g _ _ bs fs s) _ _

theorem putOut_ens (c id : Nat) (outs : List (Nat × List Byte × List Bool)) (s : State) : (putOut c id outs s).1.thl.ens = s.thl.ens := by
  unfold putOut; dsimp only; split
  · exact noteXlat_ens ..
  · exact (chargeStacks_ens ..).trans (writeAllFlagged_ens ..)

theorem noteShard_ens (t : Nat) (d : CollDesc) (count : Nat) (nf : Bool) (s : State) : (noteShard t d count nf s).thl.ens = s.thl.ens := by
  unfold noteShard; split <;> rfl

theorem putResult_ens (c id : Nat) (d : CollDesc) (td : Word) (bs : List Byte) (fs : List Bool) (count : Nat) (s : State) :
    (putResult c id d td bs fs count s).1.thl.ens = s.thl.ens := by
  unfold putResult
  extract_lets counts
  have h := putOut_ens c id ((d.dst, bs, fs) :: counts) s
  generalize putOut c id _ s = o at h ⊢
  dsimp only; split
  · exact (noteShard_ens ..).trans ((noteArith_ens ..).trans h)
  · exact h

theorem partDone_ens (c id tok status : Nat) (s : State) : (partDone c id tok status s).thl.ens = s.thl.ens := by
  unfold partDone; split
  · rfl
  · dsimp only; split
    · rfl
    · exact settleRun_ens ..

theorem tryNode_ens (k : Nat × Nat × Nat) (s : State) : (tryNode k s).thl.ens = s.thl.ens := by
  unfold tryNode; dsimp only
  split
  · rfl
  · split
    · rfl
    · split
      · rfl
      · split
        · refine (partDone_ens ..).trans ?_
          split
          · exact (flood_ens ..).trans (putResult_ens ..)
          · exact putResult_ens ..
        · split
          · exact sendRank_ens ..
          · exact (partDone_ens ..).trans (sendRank_ens ..)

theorem contribute_ens (t tree inst child tchk : Nat) (present : Bool) (v : RedIn) (s : State) :
    (contribute t tree inst child tchk present v s).thl.ens = s.thl.ens := by
  unfold contribute; dsimp only
  split
  · rfl
  · split
    · rfl
    · split
      · rfl
      · split
        · split
          · exact (partDone_ens ..).trans (raiseModule_ens ..)
          · exact raiseModule_ens ..
        · split
          · exact tryNode_ens ..
          · exact tryNode_ens ..

theorem arriveDown_ens (t tree inst from_ count : Nat) (bs : List Byte) (fs : List Bool) (s : State) :
    (arriveDown t tree inst from_ count bs fs s).thl.ens = s.thl.ens := by
  unfold arriveDown; dsimp only
  split
  · rfl
  · split
    · rfl
    · split
      · split
        · exact (partDone_ens ..).trans ((flood_ens ..).trans (putResult_ens ..))
        · exact (partDone_ens ..).trans ((flood_ens ..).trans (putOut_ens ..))
      · rfl

theorem arriveBlock_ens (t inst src : Nat) (bs : List Byte) (fs : List Bool) (s : State) : (arriveBlock t inst src bs fs s).thl.ens = s.thl.ens := by
  unfold arriveBlock; dsimp only
  split
  · rfl
  · split
    · rfl
    · exact (partDone_ens ..).trans (putOut_ens ..)

theorem landColl_ens (k : Packet) (bs : List Byte) (fs : List Bool) (s : State) : (landColl k bs fs s).thl.ens = s.thl.ens := by
  unfold landColl; dsimp only
  split
  · exact contribute_ens ..
  · split
    · exact arriveBlock_ens ..
    · exact arriveDown_ens ..
  · rfl

theorem drainLocal_ens (n : Nat) (s : State) : (drainLocal n s).thl.ens = s.thl.ens := by
  induction n generalizing s with
  | zero => rfl
  | succ n ih =>
    unfold drainLocal; split
    · rfl
    · dsimp only
      refine (ih _).trans ?_
      split
      · rfl
      · exact landColl_ens ..

@[simp] theorem afterChange_ens (s : State) : (afterChange s).thl.ens = s.thl.ens :=
  (drainLocal_ens ..).trans (foldl_same (fun s => s.thl.ens) (f := fun s (e : (Nat × Nat × Nat) × CollNode) => tryNode e.1 s)
    (fun s e => tryNode_ens e.1 s) _ _)

/-! ### What a change brings (R352, R371) -/

theorem takeArm_ens (j : Nat) (s : State) : (takeArm j s).thl.ens = s.thl.ens := by
  unfold takeArm; split
  · rfl
  · refine (foldl_same (fun s => s.thl.ens) (f := fun s l => sendFab _ s) (fun _ _ => rfl) _ _).trans ?_
    exact (congrArg (fun s : State => s.thl.ens) (modJob_frame s j _) :)

theorem releaseAllHeld_ens (s : State) : (releaseAllHeld s).thl.ens = s.thl.ens := by
  refine foldl_same (fun s => s.thl.ens) (fun s e => ?_) _ _
  split
  · exact takeArm_ens ..
  · rfl

theorem fencePorts_ens (l : Nat) (s : State) : (fencePorts l s).thl.ens = s.thl.ens := by
  refine (portChanged_ens _).trans (foldl_same (fun s => s.thl.ens) (fun s p => ?_) _ _)
  dsimp only; split
  · split <;> rfl
  · rfl

theorem subBegins_ens (l : Nat) (s : State) : (subBegins l s).thl.ens = s.thl.ens := by
  unfold subBegins; dsimp only; split
  · split
    · exact fencePorts_ens ..
    · exact fencePorts_ens ..
  · exact fencePorts_ens ..

/-- The routes after a change: those to a substituted LMID use its substitution hops (R371). -/
def substRoutes (l : Nat) (s : State) : State :=
  match s.cast with
  | some img =>
    (match img.routes.subs.find? (fun e => e.1 == l) with
      | some e => { s with fab.routes := mapPut s.fab.routes l e.2 }
      | none => s)
  | none => s

theorem substRoutes_ens (l : Nat) (s : State) : (substRoutes l s).thl.ens = s.thl.ens := by
  unfold substRoutes; split
  · split <;> rfl
  · rfl

theorem rerouteLmid_eq (l : Nat) (s : State) :
    rerouteLmid l s =
      let groupOf := fun (m : Nat) => (s.thl.ens.table.find? (fun e => e.2.lmid == m)).map (·.2.group)
      if groupOf l == groupOf s.lmid && (groupOf l).isSome then
        ((substRoutes l s).fab.ports.map (·.1)).foldl (fun s p =>
          if (s.port p).cfg.role == 2 then s.modPort p (fun x => { x with subLmid := some l }) else s) (pump (substRoutes l s))
      else pump (substRoutes l s) := rfl

theorem rerouteLmid_ens (l : Nat) (s : State) : (rerouteLmid l s).thl.ens = s.thl.ens := by
  have h := (pump_ens _).trans (substRoutes_ens l s)
  rw [rerouteLmid_eq]; dsimp only
  split
  · refine (foldl_same (fun s => s.thl.ens) (fun s p => ?_) _ _).trans h
    split <;> rfl
  · exact h

@[simp] theorem subChange_ens (m : MemberMsg) (s : State) : (subChange m s).thl.ens = s.thl.ens := by
  unfold subChange; split
  · split
    · exact subBegins_ens ..
    · exact rerouteLmid_ens ..
  · split
    · exact releaseAllHeld_ens _
    · rfl

/-! ### Membership (R391 to R394, R397, R458) -/

/-- A module that does not lead is standalone, or holds another slot than the first. -/
theorem lead_false {s : State} (h : ¬ (s.thl.ens.standalone = false ∧ s.thl.ens.mySlot = 0)) :
    s.thl.ens.standalone = true ∨ s.thl.ens.mySlot ≠ 0 :=
  (Decidable.not_and_iff_or_not.1 h).imp_left (Bool.not_eq_false _).mp

/-- Heartbeats carry the slot that this module holds before it sends the first. -/
theorem foldl_heartbeat (m : Nat) (ds : List Nat) (s : State) (h : s.thl.ens.mySlot = m) :
    ds.foldl (fun s d => sendFab { kind := "heartbeat", dest := d, vals := [s.thl.ens.mySlot] } s) s =
      ds.foldl (fun s d => sendFab { kind := "heartbeat", dest := d, vals := [m] } s) s := by
  induction ds generalizing s with
  | nil => rfl
  | cons d ds ih => rw [List.foldl_cons, List.foldl_cons, h]; exact ih _ h

/-- When the heartbeat of a slot is lost, and not in the time after a resume (R393, R458). -/
theorem notLost_iff (n : Nat) (s : State) :
    (s.thl.ens.standalone || n == s.thl.ens.mySlot || !((slotRow s n).state == 2 || (slotRow s n).state == 4) || !beatLost s n ||
      decide (s.cue < s.tab.graceTo)) = false ↔
    s.thl.ens.standalone = false ∧ n ≠ s.thl.ens.mySlot ∧ ((slotRow s n).state = 2 ∨ (slotRow s n).state = 4) ∧ beatLost s n = true ∧
      s.tab.graceTo ≤ s.cue := by
  simp only [Bool.or_eq_false_iff, beq_eq_false_iff_ne, Bool.not_eq_false', Bool.or_eq_true, beq_iff_eq, decide_eq_false_iff_not, Nat.not_lt,
    and_assoc, ne_eq]

/-- What a change of a slotless LMID settles leaves this module's ensemble but that LMID's state. -/
theorem changed_ens (m : MemberMsg) (s : State) :
    (afterChange (subChange m s)).thl.ens = s.thl.ens := (afterChange_ens _).trans (subChange_ens m s)

/-- Settles O53. -/
theorem membershipResults : Obligations.MembershipResults := by
  intro n lmid serial s
  dsimp only [exec]
  refine ⟨fun ha => ⟨fun hn hl hs => engine_next ha ?_, fun hn hc => engine_next ha ?_, fun hn => engine_next ha (by simp only [hn])⟩,
    fun ha => ⟨fun ⟨hsa, hm⟩ he ht => engine_next ha ?_, fun hc => engine_next ha ?_⟩,
    fun ha => ⟨fun ⟨hsa, hm⟩ => engine_next ha ?_, fun hsa hm => engine_next ha ?_, fun hsa => engine_next ha (if_pos hsa)⟩,
    fun stop ha => ⟨fun hc => engine_next ha ?_, fun ⟨hsa, hm⟩ he hb => engine_next ha ?_, fun ⟨hsa, hm⟩ he hb => engine_next ha ?_,
      fun hsa hm he => engine_next ha ?_⟩,
    fun ha => ⟨fun hlost hm => engine_next ha ?_, fun hlost hm hn => engine_next ha ?_, fun hc => engine_next ha ?_⟩,
    fun m ha => ⟨fun hn hv => engine_next ha ?_, fun hn hv => engine_next ha ?_, fun hn => ⟨fun hv => engine_next ha ?_,
      fun hv hc => engine_next ha ?_, fun hv hsa hm => engine_next ha ?_⟩⟩,
    fun h ha => ⟨fun hn ⟨hsa, hm⟩ he hb => hostCmd_next ha ?_, fun hn hc => hostCmd_next ha ?_, fun hn => hostCmd_next ha (by simp only [hn])⟩⟩
  case refine_1 =>
    simp only [hn]
    exact if_neg (by simp [hl, hs])
  case refine_2 =>
    simp only [hn]
    refine if_pos ?_
    simp only [Bool.or_eq_true, bne_iff_ne, beq_iff_eq]
    rcases hc with hc | hc
    · exact .inl ((lead_false hc).imp id id)
    · exact .inr hc
  case refine_3 => exact if_pos (by simp [hsa, hm, he, ht])
  case refine_4 =>
    refine if_neg ?_
    simp only [Bool.and_eq_true, Bool.not_eq_true', beq_iff_eq, decide_eq_true_eq]
    rintro ⟨⟨⟨hsa, hm⟩, he⟩, ht⟩
    rcases hc with hc | hc | hc
    · exact hc ⟨hsa, hm⟩
    · exact hc he
    · omega
  case refine_5 =>
    refine (if_neg (by simp [hsa])).trans (Eq.trans ?_ (foldl_heartbeat _ _ s rfl))
    rw [if_pos (by simp [hm])]
  case refine_6 =>
    refine (if_neg (by simp [hsa])).trans ?_
    rw [if_neg (by simpa using hm)]
    rfl
  case refine_7 =>
    refine if_pos ?_
    rcases hc with hc | hc
    · simp [hc]
    · simp [hc]
  case refine_8 => exact (if_neg (by simp [hsa, he])).trans ((if_pos (by simpa using hm)).trans (if_pos (by simp [he, hb])))
  case refine_9 =>
    refine (if_neg (by simp [hsa, he])).trans ((if_pos (by simpa using hm)).trans (if_neg ?_))
    rcases hb with hb | hb
    · simp [hb]
    · simp [hb]
  case refine_10 =>
    refine (if_neg (by simp [hsa, he])).trans ((if_neg (by simpa using hm)).trans ?_)
    rfl
  case refine_11 => exact (if_neg (Bool.eq_false_iff.1 ((notLost_iff n s).2 hlost))).trans (if_pos (by simpa using hm))
  case refine_12 =>
    exact (if_neg (Bool.eq_false_iff.1 ((notLost_iff n s).2 hlost))).trans ((if_neg (by simpa using hm)).trans (if_pos (by simpa using hn)))
  case refine_13 =>
    rcases hc with hc | ⟨hm, hn⟩
    · exact if_pos ((Bool.not_eq_false _).mp (fun h => hc ((notLost_iff n s).1 h)))
    · exact (congrArg _ ((if_neg (by simpa using hm)).trans (if_neg (by simpa using hn)))).trans (ite_self s)
  case refine_14 => simp only [hn]; exact if_neg (Nat.not_le.2 hv)
  case refine_15 => simp only [hn]; exact if_pos hv
  case refine_16 => simp only [hn]; exact if_pos hv
  case refine_17 =>
    simp only [hn]
    rw [changed_ens] at hc
    refine (if_neg (Nat.not_le.2 hv)).trans (if_pos ?_)
    simpa using hc
  case refine_18 =>
    simp only [hn]
    rw [changed_ens] at hsa hm
    rw [changed_ens]
    exact (if_neg (Nat.not_le.2 hv)).trans (if_neg (by simp [show s.thl.ens.standalone = false from hsa, show s.thl.ens.mySlot = 0 from hm]))
  case refine_19 => simp only [hn]; exact if_neg (by simp [hsa, hm, he, hb])
  case refine_20 =>
    simp only [hn]
    refine if_pos ?_
    simp only [Bool.or_eq_true, bne_iff_ne]
    rcases hc with hc | hc | hc
    · exact .inl (.inl (lead_false hc))
    · exact .inl (.inr hc)
    · exact .inr hc

end Sys2Proof.Machine
end

section
/-! The statements of register accesses, boot and resets. -/

namespace Sys2Proof.Machine

/-! ### Register accesses (R8, R9, R398, R454, R462) -/

/-- A module that runs is out of hub reset. -/
theorem boot_of_alive {s : State} (ha : s.alive = true) : ¬ (s.boot == .reset) = true := by
  simp only [State.alive, Bool.and_eq_true, bne_iff_ne] at ha
  simpa using ha.1.1

theorem hostReadReg_alive {s : State} (off : Nat) (ha : s.alive = true) : hostReadReg off s = some (regRead s off) := if_pos (by simp [ha])

theorem nextS_next {s t : State} (h : s = t) : nextS s = .next t := congrArg _ h

theorem registerWrite_misaligned {off : Nat} (v : Nat) (s : State) (h : off % 8 ≠ 0) :
    execRegisterWrite off v s = execRejectedAccess off true s := if_pos (by simpa using h)

theorem registerWrite_aligned {off : Nat} (v : Nat) (s : State) (h : off % 8 = 0) :
    execRegisterWrite off v s = nextS (hostWriteReg off v s) := if_neg (by simp [h])

/-- An access to the slot of a module that runs: rejected where it is not aligned, else served (R398, R462). -/
def ownAccess (off : Nat) (wr : Option Nat) (s : State) : State :=
  if off % 8 != 0 then rejectAccess off wr.isSome s
  else match wr with
    | some v => hostWriteReg off v s
    | none => answerRead [regRead s off] s

/-- An access through the lead to another slot: relayed to a PRESENT follower, else failed (R398). -/
def otherAccess (n off : Nat) (wr answer : Option Nat) (s : State) : State :=
  if (slotRow s n).state != 2 then (if wr.isSome then relayFails s else answerRead [allOnes] (relayFails s))
  else match wr, answer with
    | some v, _ => sendFab { kind := "reg_write", dest := (slotRow s n).lmid, vals := [off, v] } s
    | none, some a => answerRead [a] s
    | none, none => answerRead [allOnes] (relayFails s)

theorem relay_own {n off : Nat} {wr : Option Nat} {s t : State} (answer : Option Nat) (ha : s.alive = true) (hn : n = s.thl.ens.mySlot)
    (h : ownAccess off wr s = t) : execRegisterAccessRelay n off wr answer s = .next t := by
  refine nextS_next ((if_pos (by simp [hn])).trans ((if_neg (boot_of_alive ha)).trans (Eq.trans ?_ h)))
  rw [if_pos ha, hostReadReg_alive off ha]; rfl

theorem relay_other {n off : Nat} {wr answer : Option Nat} {s t : State} (ha : s.alive = true) (hn : n ≠ s.thl.ens.mySlot) (hl : isLead s = true)
    (h : otherAccess n off wr answer s = t) : execRegisterAccessRelay n off wr answer s = .next t :=
  nextS_next ((if_neg (by simpa using hn)).trans ((if_neg (by simp [ha, hl])).trans h))

/-- Settles O54. -/
theorem registerAccessResults : Obligations.RegisterAccessResults := by
  intro off v n s ha
  dsimp only [Gives, exec]
  refine ⟨regWrite_next ha rfl, ⟨_, regWrite_next ha rfl, rfl, rfl, rfl, rfl⟩, regWrite_next ha rfl,
    fun h8 ht => (registerWrite_aligned v s h8).trans (nextS_next ?_), fun h8 ht => (registerWrite_aligned v s h8).trans (nextS_next ?_),
    registerWrite_misaligned v s, fun hn => ⟨fun h8 a => ⟨relay_own _ ha hn ?_, (relay_own _ ha hn ?_).trans (registerWrite_aligned v s h8).symm⟩,
      fun h8 => ⟨fun a => (relay_own _ ha hn ?_).trans (regWrite_next ha rfl).symm, fun a => (relay_own _ ha hn ?_).trans (regWrite_next ha rfl).symm⟩⟩,
    fun hn hl hst a => ⟨relay_other ha hn hl ?_, relay_other ha hn hl ?_⟩,
    fun hn hl hst => ⟨fun a => relay_other ha hn hl ?_, fun a => relay_other ha hn hl ?_, relay_other ha hn hl ?_⟩, fun w a hn hl => nextS_next ?_⟩
  case refine_1 => exact (if_neg (by simp [ht])).trans (if_pos ha)
  case refine_2 => exact (if_pos ht).trans (if_neg (boot_of_alive ha))
  case refine_3 => exact if_neg (by simp [h8])
  case refine_4 => exact if_neg (by simp [h8])
  case refine_5 => exact if_pos (by simpa using h8)
  case refine_6 => exact if_pos (by simpa using h8)
  case refine_7 => exact if_pos (by simpa using hst)
  case refine_8 => exact if_pos (by simpa using hst)
  case refine_9 => exact if_neg (by simp [hst])
  case refine_10 => exact if_neg (by simp [hst])
  case refine_11 => exact if_neg (by simp [hst])
  case refine_12 => exact (if_neg (by simpa using hn)).trans (if_pos (by simp [hl]))

/-! ### Boot (R411, R413, R417, R431, R454, R472, R473) -/

/-- The broadcast is over when no core lacks a chunk, and after round 3 (R417). -/
theorem lackDone {lack : List Nat} {round : Nat} (h : lack = [] ∨ 3 ≤ round) : ¬ (!lack.isEmpty && decide (round < 3)) = true := by
  rcases h with h | h
  · simp [h]
  · simp [Nat.not_lt.2 h]

/-- Settles O55. -/
theorem bootResults : Obligations.BootResults := by
  intro s
  dsimp only [exec]
  refine ⟨fun hb hp => ⟨fun hr => nextS_next ?_, fun hr => nextS_next ?_⟩, fun hc => nextS_next ?_,
    fun hca => ⟨fun hb hw => nextS_next ?_, fun hc => nextS_next ?_⟩, fun hca => nextS_next (if_pos (by simp [hca])),
    fun ok ha => ⟨fun hb hh => engine_next ha ?_, fun hc => engine_next ha ?_⟩,
    fun missing silent bad ha => ⟨fun ho => engine_next ha (if_pos (by simp [ho])), fun ho hl hr => engine_next ha ?_,
      fun h cl ho hl hh hcl => engine_next ha ?_, fun ho hl hn => engine_next ha ?_⟩,
    fun ha => ⟨fun hnow hi => engine_next ha ?_, fun img b fb hnow hi => engine_next ha ?_, fun hnow => engine_next ha ?_⟩,
    fun ha => ⟨engine_next ha rfl, engine_next ha rfl⟩, fun hca hb => nextS_next (if_pos (by simp [hca, hb])), fun hc => nextS_next (if_neg ?_)⟩
  case refine_1 => exact (if_pos (by simpa [hb] using hp)).trans (if_pos hr)
  case refine_2 => exact (if_pos (by simpa [hb] using hp)).trans (if_neg (by simp [hr]))
  case refine_3 =>
    refine if_neg ?_
    simp only [Bool.and_eq_true, Bool.or_eq_true, beq_iff_eq]
    rintro ⟨hb, hp⟩
    rcases hc with hc | ⟨hg, hu⟩
    · exact hc hb
    · exact hp.elim hg hu
  case refine_4 => exact (if_neg (by simp [hca])).trans (if_pos (by simp [hb, hw]))
  case refine_5 =>
    refine (if_neg (by simp [hca])).trans (if_neg ?_)
    rcases hc with hc | hc
    · simp [hc]
    · simp [hc]
  case refine_6 => exact if_pos (by simp [hb, hh])
  case refine_7 =>
    refine if_neg ?_
    rcases hc with hc | hc
    · simp [hc]
    · simp [hc]
  case refine_8 =>
    refine (if_neg (by simp [ho])).trans (if_pos ?_)
    rw [Bool.and_eq_true, decide_eq_true_eq]
    exact ⟨by simpa only [Bool.not_eq_true', List.isEmpty_eq_false_iff] using hl, hr⟩
  case refine_9 =>
    refine (if_neg (by simp [ho])).trans ((if_neg (lackDone hl)).trans ?_)
    rw [hh, hcl]
  case refine_10 =>
    refine (if_neg (by simp [ho])).trans ((if_neg (lackDone hl)).trans ?_)
    rcases hn with hn | hn
    · rw [hn]
    · rw [hn]; cases s.bt.bcast.hdr <;> rfl
  case refine_11 =>
    obtain ⟨hb, hd, hz⟩ := hnow
    exact (if_pos (by simp [hb, hd, hz])).trans (by simp only [hi])
  case refine_12 =>
    obtain ⟨hb, hd, hz⟩ := hnow
    exact (if_pos (by simp [hb, hd, hz])).trans (by simp only [hi])
  case refine_13 => exact if_neg (by simpa [and_assoc] using hnow)
  case refine_14 =>
    rcases hc with hc | hc
    · simp [hc]
    · simp [hc]

/-! ### Module resets (R421, R431, R432) -/

/-- What a module reset clears, and what it leaves. -/
theorem moduleReset_spec (cause : Nat) (keep : Bool) (s : State) :
    let t := moduleReset cause keep s
    t.boot = .reset ∧ t.alive = false ∧ t.cores = [] ∧ t.troupes = [] ∧ t.sems = [] ∧ t.cast = none ∧ t.cue = 0 ∧ t.bt.sessions = [] ∧
    { t.bt.flash with resetBlk := s.bt.flash.resetBlk } = s.bt.flash ∧ t.bt.counters = s.bt.counters ∧ t.hw = s.hw ∧ t.pending = s.pending ∧
    t.bt.regs.lastReset = cause ∧ t.bt.regs.spareKept = keep ∧ (keep = false → t.ckpt.jobs = []) :=
  ⟨rfl, rfl, rfl, rfl, rfl, rfl, rfl, rfl, rfl, rfl, rfl, rfl, rfl, rfl, fun hk => if_neg (by simp [hk])⟩

/-- Writing a completion changes the completion queues and the outside alone. -/
theorem writeCpl_bt {c : Cpl} {s t : State} (h : writeCpl c s = some t) : t.bt = s.bt := by
  unfold writeCpl at h
  dsimp only at h
  split at h
  · cases h
  · split at h
    · cases h
    · cases h; split <;> rfl

/-- The module after a reset of the module by command: its completion was written or sent first (R432). -/
theorem resetModule_spec (h : CmdHdr) (keep : Bool) (s : State) :
    let t := resetModule h keep s
    t.boot = .reset ∧ t.cores = [] ∧ t.troupes = [] ∧ t.bt.counters = s.bt.counters ∧ t.bt.regs.lastReset = 2 ∧ t.bt.regs.spareKept = keep := by
  refine ⟨rfl, rfl, rfl, ?_, rfl, rfl⟩
  unfold resetModule; dsimp only
  split
  · split
    · next hw => exact (congrArg Boot.counters (writeCpl_bt hw) :)
    · rfl
  · rfl

/-- Settles O56. -/
theorem moduleResetLeavesTheNonvolatile : Obligations.ModuleResetLeavesTheNonvolatile := by
  intro h s
  dsimp only [Gives, exec]
  refine ⟨fun cause keep => moduleReset_spec cause keep s, fun ha level target keep => ?_, fun l ha => ?_⟩
  · refine ⟨fun hv hn => hostCmd_next ha ?_, fun c hv hn hi => hostCmd_next ha ?_, fun c hv hn hi => hostCmd_next ha ?_,
      fun hv ht => hostCmd_next ha ?_, fun hv ht hm hb => hostCmd_next ha ?_, fun hv ht hm hb => hostCmd_next ha ?_,
      fun hv ht => hostCmd_next ha ?_, fun hv ht hh => hostCmd_next ha ?_, fun hv => ⟨_, hostCmd_next ha ?_, resetModule_spec h keep s⟩,
      fun hv => hostCmd_next ha ?_⟩
    case refine_1 => subst hv; exact (if_pos rfl).trans (by simp only [resetOneCore, hn])
    case refine_2 => subst hv; exact (if_pos rfl).trans (by simp only [resetOneCore, hn]; exact if_pos hi)
    case refine_3 => subst hv; exact (if_pos rfl).trans (by simp only [resetOneCore, hn]; exact if_neg (Bool.eq_false_iff.1 hi))
    case refine_4 =>
      subst hv
      refine ((if_neg nofun).trans (if_pos rfl)).trans (if_pos ?_)
      rcases ht with ht | ht
      · simp [ht]
      · simp [ht]
    case refine_5 =>
      subst hv
      exact ((if_neg nofun).trans (if_pos rfl)).trans ((if_neg (by simp [hm, Nat.not_le.2 ht])).trans (if_pos hb))
    case refine_6 => subst hv; exact (if_neg nofun).trans (if_pos rfl)
    case refine_7 =>
      subst hv
      refine ((if_neg nofun).trans ((if_neg nofun).trans (if_pos rfl))).trans (if_pos ?_)
      rcases ht with ht | ht
      · simp [ht]
      · simp [ht]
    case refine_8 =>
      subst hv
      exact ((if_neg nofun).trans ((if_neg nofun).trans (if_pos rfl))).trans (if_neg (by simp [hh, Nat.not_le.2 ht]))
    case refine_9 => subst hv; exact (if_neg nofun).trans ((if_neg nofun).trans ((if_neg nofun).trans (if_pos rfl)))
    case refine_10 =>
      have hn : ∀ k ≤ 3, ¬ (level == k) = true := fun k hk => by simp; omega
      exact (if_neg (hn 0 (by omega))).trans ((if_neg (hn 1 (by omega))).trans ((if_neg (hn 2 (by omega))).trans (if_neg (hn 3 (by omega)))))
  · refine ⟨fun hn => hostCmd_next ha (by simp only [hn]), fun c hn => ⟨fun hh => hostCmd_next ha ?_, fun hh hc => hostCmd_next ha ?_,
      fun img p hh hc hp => hostCmd_next ha ?_, fun img hh hc hp => hostCmd_next ha ?_⟩⟩
    case refine_1 => simp only [hn]; exact if_pos hh
    case refine_2 => simp only [hn]; exact (if_neg (Bool.eq_false_iff.1 hh)).trans (by simp only [hc])
    case refine_3 => simp only [hn]; exact (if_neg (Bool.eq_false_iff.1 hh)).trans (by simp only [hc, hp])
    case refine_4 => simp only [hn]; exact (if_neg (Bool.eq_false_iff.1 hh)).trans (by simp only [hc, hp])

end Sys2Proof.Machine
end

section
/-! The statement of casting, firmware, records, sessions and long-reach keys. -/

namespace Sys2Proof.Machine

/-! ### Banks of flash (R404) -/

@[simp] theorem Bank.at_put_same {α : Type} (b : Bank α) (x : Bool) (v : Option α) : (b.put x v).at x = v := by cases x <;> rfl
@[simp] theorem Bank.at_put_not {α : Type} (b : Bank α) (x : Bool) (v : Option α) : (b.put (!x) v).at x = b.at x := by cases x <;> rfl
@[simp] theorem Bank.sel_put {α : Type} (b : Bank α) (x : Bool) (v : Option α) : (b.put x v).sel = b.sel := by cases x <;> rfl

/-- Which bank is selected does not change what the banks hold. -/
theorem Bank.at_sel {α : Type} (b : Bank α) (x y : Bool) : ({ b with sel := y } : Bank α).at x = b.at x := by cases x <;> rfl

/-- A failed flash write leaves the old object, the new one, or none that is accepted. -/
theorem tornBank_spec {α : Type} (old new : Option α) (s : State) :
    ((tornBank old new s).1 = old ∨ (tornBank old new s).1 = new ∨ (tornBank old new s).1 = none) ∧
    (tornBank old new s).2 = { s with fresh := s.fresh + 1 } := by
  unfold tornBank; dsimp only [State.draw]
  refine ⟨?_, rfl⟩
  split
  · exact .inl rfl
  · exact .inr (.inl rfl)
  · exact .inr (.inr rfl)

/-! ### The flash writes of commands (R407, R427) -/

/-- CAST_STORE of an accepted image, where the flash write succeeds. -/
theorem castStore_stored {h : CmdHdr} {len : Nat} {img : CastImage} {s : State} (ha : accepted s h opCastStore = true)
    (hj : judgeObject img (min len 0x1000000) s = stOk) :
    execCastStore h len img true s = .next (complete h opCastStore stCastStored
      { s with bt.flash.cast := { s.bt.flash.cast.put (!s.bt.flash.cast.sel) (some img) with sel := !s.bt.flash.cast.sel } }) :=
  hostCmd_next ha ((if_neg (by simp [hj])).trans (if_neg (by simp)))

/-- CAST_STORE of an accepted image, where the flash write fails. -/
theorem castStore_torn {h : CmdHdr} {len : Nat} {img : CastImage} {s : State} (ha : accepted s h opCastStore = true)
    (hj : judgeObject img (min len 0x1000000) s = stOk) :
    ∃ v, execCastStore h len img false s = .next (complete h opCastStore stFlashFail
      { s with fresh := s.fresh + 1, bt.flash.cast := s.bt.flash.cast.put (!s.bt.flash.cast.sel) v }) :=
  ⟨_, hostCmd_next ha ((if_neg (by simp [hj])).trans (if_pos rfl))⟩

/-- Does the owner record in force name the owner of another record (R407)? -/
def sameOwner (s : State) (x : OwnerRec) : Bool :=
  match s.bt.force.owner with
  | some o => o.owner == x.owner
  | none => false

theorem sameOwner_iff (s : State) (x : OwnerRec) : sameOwner s x = true ↔ s.bt.force.owner.map (·.owner) = some x.owner := by
  unfold sameOwner
  cases s.bt.force.owner with
  | none => simp
  | some o => simp

/-- OWN_INSTALL of an accepted record, where the flash write succeeds. -/
theorem ownInstall_stored {h : CmdHdr} {len : Nat} {x : OwnerRec} {s : State} (ha : accepted s h opOwnInstall = true)
    (hj : judgeOwner s (min len 0x10000) x = stOk) :
    execOwnInstall h len x true s = .next (complete h opOwnInstall stOwnStaged
      { s with
        bt.flash.owner := some x
        bt.flash.cast := (if sameOwner s x then s.bt.flash.cast else { s.bt.flash.cast with a := none, b := none }) }) :=
  hostCmd_next ha ((if_neg (by simp [hj])).trans (if_neg (by simp)))

/-- OWN_INSTALL of an accepted record, where the flash write fails. -/
theorem ownInstall_torn {h : CmdHdr} {len : Nat} {x : OwnerRec} {s : State} (ha : accepted s h opOwnInstall = true)
    (hj : judgeOwner s (min len 0x10000) x = stOk) :
    execOwnInstall h len x false s = .next (complete h opOwnInstall stFlashFail
      { s with fresh := s.fresh + 1, bt.flash.owner := (tornBank s.bt.flash.owner (some x) s).1 }) :=
  hostCmd_next ha ((if_neg (by simp [hj])).trans (if_pos rfl))

/-- ATT_REPORT under an identity: the report and a signature of 3,309 bytes go to host memory (R428). -/
theorem attReport_signed {h : CmdHdr} {nonce addr : Nat} {s : State} (ha : accepted s h opAttReport = true) (hp : s.bt.regs.pufOk = true) :
    execAttReport h nonce addr s = .next (complete h opAttReport stAttDone
      (hostWrite addr (attReport nonce s ++ (List.range 3309).map (Config.signByte s.fresh)) { s with fresh := s.fresh + 1 })) :=
  hostCmd_next ha (if_neg (by simp [hp]))

/-! ### The commands (R292, R293, R425 to R430, R433) -/

/-- Which types RECOVERY lets through (R433). -/
theorem stageable {s : State} {type : Nat} (h : s.boot ≠ .recovery ∨ type = 1) : ¬ (s.boot == .recovery && type != 1) = true := by
  rcases h with h | h
  · simp [h]
  · simp [h]

/-- The tag that LR_KEY names, where there is one that takes a key (R292). -/
def keyTag (s : State) (p ltag slot : Nat) (w : Wrapped) : Option TagEnt :=
  if 18 ≤ p || (s.port p).cfg.role != 3 || 1 < slot || w.purpose != 1 || ltag == 0xFFF then none else (s.port p).tagEnt ltag

/-- A port, slot, purpose and tag that there are. -/
theorem keyTag_right {s : State} {p ltag slot : Nat} {w : Wrapped}
    (h : p < 18 ∧ (s.port p).cfg.role = 3 ∧ slot ≤ 1 ∧ w.purpose = 1 ∧ ltag ≠ 0xFFF) : keyTag s p ltag slot w = (s.port p).tagEnt ltag := by
  obtain ⟨hp, hr, hs, hw, hl⟩ := h
  exact if_neg (by simp [Nat.not_le.2 hp, hr, Nat.not_lt.2 hs, hw, hl])

theorem keyTag_none {s : State} {p ltag slot : Nat} {w : Wrapped}
    (h : ¬ (p < 18 ∧ (s.port p).cfg.role = 3 ∧ slot ≤ 1 ∧ w.purpose = 1 ∧ ltag ≠ 0xFFF) ∨ (s.port p).tagEnt ltag = none) :
    keyTag s p ltag slot w = none := by
  by_cases hr : p < 18 ∧ (s.port p).cfg.role = 3 ∧ slot ≤ 1 ∧ w.purpose = 1 ∧ ltag ≠ 0xFFF
  · exact (keyTag_right hr).trans (h.resolve_left (not_not_intro hr))
  · refine if_pos ?_
    simp only [Bool.or_eq_true, bne_iff_ne, beq_iff_eq, decide_eq_true_eq]
    omega

/-- What LR_KEY does where its tag is there. -/
def loadKey (h : CmdHdr) (p ltag slot : Nat) (activate : Bool) (w : Wrapped) (e : TagEnt) (s : State) : State :=
  let k := mapGet { tenant := 0xFF } s.bt.sessions w.session
  if sessionBars s w.session (tagTenant s e) then complete h opLrKey stKeySession s
  else if w.counter ≤ k.counter then complete h opLrKey stKeyReplay s
  else
    match unwrapSecret k.key (wrapAad s.record.serial p ltag slot w) w with
    | none => complete h opLrKey stKeyUnwrap s
    | some key =>
      let s1 := ({ s with bt.sessions := mapPut s.bt.sessions w.session { k with counter := w.counter } } : State).modPort p (fun x =>
        { x with
          keys := mapPut x.keys (2 * ltag + slot) key, barred := x.barred.filter (fun b => b != 0x1000 + ltag)
          authFails := mapDel x.authFails ltag, active := (if activate then mapPut x.active ltag slot else x.active) })
      complete h opLrKey stOk (pump (if tagBarred (s.port p) ltag then sendLink p 2 "tag_accepted" 0 0 [ltag] s1 else s1))

theorem lrKey_next {h : CmdHdr} {p ltag slot : Nat} {activate : Bool} {w : Wrapped} {e : TagEnt} {s t : State} (ha : accepted s h opLrKey = true)
    (he : keyTag s p ltag slot w = some e) (ht : loadKey h p ltag slot activate w e s = t) : execLrKey h p ltag slot activate w s = .next t := by
  refine hostCmd_next ha (Eq.trans ?_ ht)
  rw [keyTag] at he
  simp only [he]; rfl

theorem lrKey_unnamed {h : CmdHdr} {p ltag slot : Nat} {w : Wrapped} {s : State} (activate : Bool) (ha : accepted s h opLrKey = true)
    (he : keyTag s p ltag slot w = none) : execLrKey h p ltag slot activate w s = .next (complete h opLrKey stCmdInvalid s) := by
  refine hostCmd_next ha ?_
  rw [keyTag] at he
  simp only [he]

/-- Settles O57. -/
theorem castingAndFirmwareResults : Obligations.CastingAndFirmwareResults := by
  intro h len s
  dsimp only [Gives, exec]
  refine ⟨fun img agree ha => ⟨fun hj => hostCmd_next ha (if_neg (by simp [hj])), fun hj => hostCmd_next ha (if_pos (by simpa using hj))⟩,
    fun img ok ha => ⟨fun hj => hostCmd_next ha (if_pos (by simpa using hj)), fun hj ho => ?_, fun hj ho => ?_⟩,
    fun type x ok ha => ⟨fun hb ht => hostCmd_next ha ?_, fun hb ht => hostCmd_next ha ?_,
      fun hb h1 h4 => ⟨fun hj => hostCmd_next ha ?_, fun hj ho => hostCmd_next ha ?_, fun hj ho => hostCmd_next ha ?_⟩⟩,
    fun a b c d ha => hostCmd_next ha rfl, fun addr ha => hostCmd_next ha rfl,
    fun x ok ha => ⟨fun hj => hostCmd_next ha (if_pos (by simpa using hj)), fun hj ho => ?_, fun hj ho => ?_⟩,
    fun ha => ⟨hostCmd_next ha rfl, hostCmd_next ha rfl⟩,
    fun nonce addr ha => ⟨fun hp => ?_, fun hp => hostCmd_next ha (if_pos (by simp [hp]))⟩,
    fun n tenant shared ha => ⟨fun hp => hostCmd_next ha (if_pos (by simp [hp])), fun hp hr => hostCmd_next ha ?_, fun hp hr => hostCmd_next ha ?_⟩,
    fun p ltag slot activate w ha => ⟨fun hr => lrKey_unnamed activate ha (keyTag_none hr), fun e hr he => ?_⟩⟩
  case refine_1 =>
    subst ho
    exact ⟨_, castStore_stored ha hj, rfl, (Bank.at_sel _ _ _).trans (Bank.at_put_same ..), (Bank.at_sel _ _ _).trans (Bank.at_put_not ..), rfl, rfl⟩
  case refine_2 =>
    subst ho
    obtain ⟨v, hv⟩ := castStore_torn ha hj
    exact ⟨_, hv, Bank.sel_put .., Bank.at_put_not .., rfl, rfl⟩
  case refine_8 =>
    subst ho
    refine ⟨_, ownInstall_stored ha hj, rfl, fun hne => ?_, fun he => ?_, rfl⟩
    · have hcast : (if sameOwner s x then s.bt.flash.cast else { s.bt.flash.cast with a := none, b := none }) =
          ({ s.bt.flash.cast with a := none, b := none } : Bank CastImage) := if_neg (mt (sameOwner_iff s x).1 hne)
      exact ⟨congrArg Bank.a hcast, congrArg Bank.b hcast⟩
    · exact if_pos ((sameOwner_iff s x).2 he)
  case refine_9 =>
    subst ho
    exact ⟨_, ownInstall_torn ha hj, rfl, rfl, (tornBank_spec ..).1⟩
  case refine_10 => exact ⟨_, attReport_signed ha hp, _, by simp, rfl, rfl⟩
  case refine_3 => exact if_pos (by simp [hb, ht])
  case refine_4 =>
    refine (if_neg (by simp [hb])).trans (if_pos ?_)
    simpa using ht
  case refine_5 =>
    exact (if_neg (stageable hb)).trans ((if_neg (by simp only [Bool.or_eq_true, beq_iff_eq, decide_eq_true_eq]; omega)).trans
      (if_pos (by simpa using hj)))
  case refine_6 =>
    subst ho
    exact (if_neg (stageable hb)).trans ((if_neg (by simp only [Bool.or_eq_true, beq_iff_eq, decide_eq_true_eq]; omega)).trans
      (if_neg (by simp [hj])))
  case refine_7 =>
    subst ho
    exact (if_neg (stageable hb)).trans ((if_neg (by simp only [Bool.or_eq_true, beq_iff_eq, decide_eq_true_eq]; omega)).trans
      (if_neg (by simp [hj])))
  case refine_11 =>
    refine (if_neg (by simp [hp])).trans (if_pos ?_)
    simp only [Bool.or_eq_true, Bool.and_eq_true, bne_iff_ne, decide_eq_true_eq]
    omega
  case refine_12 =>
    refine (if_neg (by simp [hp])).trans (if_neg ?_)
    simp only [Bool.or_eq_true, Bool.and_eq_true, bne_iff_ne, decide_eq_true_eq]
    omega
  case refine_13 =>
    have htag := (keyTag_right hr).trans he
    refine ⟨fun hs => lrKey_next ha htag (if_pos hs), fun hs hc => lrKey_next ha htag ?_, fun hs hc hu => lrKey_next ha htag ?_,
      fun key hs hc hu => lrKey_next ha htag ?_⟩
    · exact (if_neg (Bool.eq_false_iff.1 hs)).trans (if_pos hc)
    · exact (if_neg (Bool.eq_false_iff.1 hs)).trans ((if_neg (Nat.not_le.2 hc)).trans (by rw [hu]))
    · exact (if_neg (Bool.eq_false_iff.1 hs)).trans ((if_neg (Nat.not_le.2 hc)).trans (by rw [hu]))

end Sys2Proof.Machine
end

section
/-! The statements of power, clocks and temperature. -/

namespace Sys2Proof.Machine

/-! ### The fault log and shutdowns (R435, R437) -/

/-- A fault changes the log of the input controller alone. -/
theorem logFault_frame (code num : Nat) (s : State) : { logFault code num s with hw := s.hw } = s := by
  unfold logFault; dsimp only; split <;> rfl

/-- The log after a fault: its last entry is the fault's, and a full log loses its oldest. -/
theorem logFault_log (code num : Nat) (s : State) :
    (s.hw.log.length < 16 → (logFault code num s).hw.log = s.hw.log ++ [{ code := code, num := num, ups := s.hw.ups }]) ∧
    (16 ≤ s.hw.log.length → (logFault code num s).hw.log = s.hw.log.drop 1 ++ [{ code := code, num := num, ups := s.hw.ups }] ∧
      (logFault code num s).hw.logOvf = true) := by
  unfold logFault; dsimp only
  constructor
  · intro h; rw [if_pos h]
  · intro h; rw [if_neg (Nat.not_lt.2 h)]; exact ⟨rfl, rfl⟩

/-- The rest of the input controller after a fault. -/
theorem logFault_hw (code num : Nat) (s : State) :
    { (logFault code num s).hw with log := s.hw.log, logOvf := s.hw.logOvf } = s.hw := by
  unfold logFault; dsimp only; split <;> rfl

/-- What a power-fail shutdown with its log entry leaves (R437). -/
def ShutDown (code num : Nat) (next : PwrPhase) (s t : State) : Prop :=
  t.hw.phase = next ∧
  (s.hw.log.length < 16 → t.hw.log = s.hw.log ++ [{ code := code, num := num, ups := s.hw.ups }]) ∧
  (16 ≤ s.hw.log.length → t.hw.log = s.hw.log.drop 1 ++ [{ code := code, num := num, ups := s.hw.ups }] ∧ t.hw.logOvf = true) ∧
  t.boot = .reset ∧ t.cores = [] ∧ t.troupes = [] ∧ t.mem.bytes = [] ∧ t.bt.counters = s.bt.counters ∧ t.bt.flash.owner = s.bt.flash.owner

theorem shutDown_spec (code num : Nat) (next : PwrPhase) (s : State) : ShutDown code num next s (powerFail next (logFault code num s)) := by
  have hbt : (logFault code num s).bt = s.bt := (congrArg State.bt (logFault_frame code num s) :)
  obtain ⟨hroom, hfull⟩ := logFault_log code num s
  refine ⟨rfl, hroom, hfull, rfl, rfl, rfl, rfl, ?_, ?_⟩
  · exact (congrArg Boot.counters hbt :)
  · exact (congrArg (fun b : Boot => b.flash.owner) hbt :)

theorem logFault_boot (code num : Nat) (s : State) : (logFault code num s).boot = s.boot := (congrArg State.boot (logFault_frame code num s) :)
theorem logFault_present (code num : Nat) (s : State) : (logFault code num s).hw.present = s.hw.present :=
  (congrArg Hw.present (logFault_hw code num s) :)

/-! ### Power (R436 to R442, R448, R475) -/

/-- The input is gone. -/
def inputGone (s : State) : State := { s with hw.present := false }

/-- An engine's command that changes nothing, whether or not the engines run. -/
theorem engine_fixed {f : State → State} {s : State} (h : f s = s) : engine f s = .next s := by
  cases ha : s.alive with
  | true => exact engine_next ha h
  | false => exact engine_still f s ha

/-- The input controller after a measurement (R438). -/
def measuredHw (vin iin pin : Nat) (s : State) : State :=
  { s with
    hw.vin := vin % 65536, hw.iin := iin % 65536, hw.pin := pin % 65536, hw.pins := (pin % 65536 :: s.hw.pins).take 10
    hw.uvArmed := s.hw.uvArmed || 5100 ≤ vin, hw.ovArmed := s.hw.ovArmed || vin ≤ 6500 }

/-- A running module after a measurement, capping or not. -/
def measured (vin iin pin : Nat) (cap : Bool) (s : State) : State :=
  { measuredHw vin iin pin s with pwr.vin := vin % 65536, pwr.iin := iin % 65536, pwr.pin := pin % 65536, pwr.capping := cap }

/-- Is the mean power of the latest measurements above CAP_W? -/
def capsAt (pin : Nat) (s : State) : Bool :=
  decide (s.pwr.capW * ((pin % 65536 :: s.hw.pins).take 10).length < ((pin % 65536 :: s.hw.pins).take 10).sum)

theorem powerMeasure_still {vin iin pin : Nat} {s : State} (hp : s.hw.present = true) (ha : s.alive = false) :
    execPowerMeasure vin iin pin s = .next (measuredHw vin iin pin s) := nextS_next ((if_neg (by simp [hp])).trans (if_pos (by simp [ha])))

theorem powerMeasure_caps {vin iin pin : Nat} {s : State} (hp : s.hw.present = true) (ha : s.alive = true)
    (hc : (capsAt pin s && !s.pwr.capping) = true) :
    execPowerMeasure vin iin pin s = .next (raiseModule evPowerCap []
      { measured vin iin pin (capsAt pin s) s with pwr.powerCap := true, pwr.capCnt := inc16 s.pwr.capCnt }) :=
  nextS_next ((if_neg (by simp [hp])).trans ((if_neg (by simp [ha])).trans (if_pos hc)))

theorem powerMeasure_plain {vin iin pin : Nat} {s : State} (hp : s.hw.present = true) (ha : s.alive = true)
    (hc : (capsAt pin s && !s.pwr.capping) = false) :
    execPowerMeasure vin iin pin s = .next (measured vin iin pin (capsAt pin s) s) :=
  nextS_next ((if_neg (by simp [hp])).trans ((if_neg (by simp [ha])).trans (if_neg (Bool.eq_false_iff.1 hc))))

/-- Settles O58. -/
theorem powerResults : Obligations.PowerResults := by
  intro r s
  dsimp only [Gives, exec]
  refine ⟨fun hp => ⟨_, nextS_next (if_pos (by simp [hp])), rfl, rfl, rfl, rfl, rfl, rfl, rfl⟩, fun hp => nextS_next (if_neg (by simpa using hp)),
    ⟨fun ⟨h1, h2, h3, h4⟩ hl => nextS_next ?_, fun ⟨h1, h2, h3, h4⟩ hl h7 => nextS_next ?_, fun ⟨h1, h2, h3, h4⟩ hl h7 => nextS_next ?_,
      fun hc => nextS_next ?_⟩,
    ⟨fun hu => ⟨fun removed => ?_, ?_, fun die => ?_⟩, fun h1 h2 => ?_, fun hl hc => ?_, fun hl h1 h2 => ?_⟩,
    fun hu => ⟨fun die => nextS_next (if_pos (by simp [hu])), fun hp => nextS_next ?_, fun removed hc => ?_, ?_⟩,
    fun hp => nextS_next (if_pos (by simp [hp])), fun hp => nextS_next ?_, fun hp => nextS_next (if_pos (by simp [hp])),
    fun hp => nextS_next (if_neg (by simpa using hp)),
    fun hl => ⟨fun ha => ⟨engine_next ha (if_pos hl), engine_next ha (if_pos hl)⟩, fun hn ha => nextS_next ?_, fun hn ha => nextS_next ?_,
      fun hn => nextS_next ?_⟩,
    fun hl => ⟨nextS_next (if_pos (by simp [hl])), ?_, ?_, nextS_next (if_pos (by simp [hl]))⟩,
    fun ha => ⟨fun h => engine_next ha (if_pos h), fun h => engine_next ha (if_pos h), fun h => engine_next ha (if_neg (by simp [h])),
      fun h => engine_next ha (if_neg (by simp [h]))⟩,
    fun vin iin pin hp hv hi hpin => ?_, fun vin iin pin hp => nextS_next (if_pos (by simp [hp])), fun ha => regWrite_next ha rfl,
    fun p w => ⟨fun h => nextS_next (if_pos h), fun h => nextS_next (if_neg (Nat.not_lt.2 h))⟩⟩
  case refine_1 => exact (if_pos (by simp [h1, h2, h2 ▸ h3, h4])).trans (if_pos (by simpa using hl))
  case refine_2 => exact (if_pos (by simp [h1, h2, h2 ▸ h3, h4])).trans ((if_neg (by simp [hl])).trans (if_pos (by simp [h7])))
  case refine_3 => exact (if_pos (by simp [h1, h2, h2 ▸ h3, h4])).trans ((if_neg (by simp [hl])).trans (if_neg (by simpa using h7)))
  case refine_4 => exact if_neg (by simpa [and_assoc] using hc)
  case refine_5 =>
    cases removed with
    | true => exact ⟨_, nextS_next (congrArg inputGone (if_pos hu)), shutDown_spec evInputLost 0 .off s, rfl⟩
    | false => exact ⟨_, nextS_next (if_pos hu), shutDown_spec evInputLost 0 .off s, logFault_present ..⟩
  case refine_6 => exact ⟨_, nextS_next (congrArg inputGone (if_pos hu)), shutDown_spec evInputReversed 0 .off s, rfl⟩
  case refine_7 => exact ⟨_, nextS_next (if_neg (by simp [hu])), shutDown_spec evThermTrip die .faultStop s, rfl⟩
  case refine_8 => exact ⟨_, nextS_next ((if_neg (by simpa using h1)).trans (if_neg (by simpa using h2))), shutDown_spec evInputOv 0 .off s⟩
  case refine_9 =>
    refine ⟨_, nextS_next ((if_neg (by simp [hl])).trans (if_neg ?_)), shutDown_spec evRailShort r .shortWait s, rfl⟩
    rcases hc with hc | hc
    · simp [hc]
    · simp [hc]
  case refine_10 =>
    exact ⟨_, nextS_next ((if_neg (by simp [hl])).trans (if_pos (by simp [h1, h2]))), shutDown_spec evRailShort r .faultStop s, rfl⟩
  case refine_11 => exact (if_neg (Bool.eq_false_iff.1 hu)).trans (if_pos (by simp [hp]))
  case refine_12 =>
    have hoff : ¬ (s.hw.phase == .faultStop && !removed) = true := by
      rcases hc with hc | hc
      · simp [hc]
      · simp [hc]
    cases removed with
    | true => exact ⟨_, nextS_next (congrArg inputGone ((if_neg (Bool.eq_false_iff.1 hu)).trans (if_neg hoff))), rfl, rfl, rfl, rfl, rfl⟩
    | false => exact ⟨_, nextS_next ((if_neg (Bool.eq_false_iff.1 hu)).trans (if_neg hoff)), rfl, rfl, rfl, rfl, rfl⟩
  case refine_13 => exact ⟨_, nextS_next (congrArg inputGone (if_neg (Bool.eq_false_iff.1 hu))), rfl, rfl, rfl, logFault_boot ..⟩
  case refine_14 => exact (if_neg (by simp [hp])).trans (if_pos (by simp [hp]))
  case refine_15 => exact (if_neg (by rw [hl, hn]; decide)).trans (if_pos ha)
  case refine_16 => exact (if_neg (by rw [hl, hn]; decide)).trans (if_neg (Bool.eq_false_iff.1 ha))
  case refine_17 => exact if_pos (by rw [hn]; simp)
  case refine_18 => exact engine_fixed (if_neg (Bool.eq_false_iff.1 hl))
  case refine_19 => exact engine_fixed (if_neg (Bool.eq_false_iff.1 hl))
  case refine_20 =>
    have hm : ∀ {x : Nat}, x < 65536 → x % 65536 = x := Nat.mod_eq_of_lt
    have hpins : (pin % 65536 :: s.hw.pins).take 10 = (pin :: s.hw.pins).take 10 := by rw [hm hpin]
    have hcaps : capsAt pin s = decide (s.pwr.capW * ((pin :: s.hw.pins).take 10).length < ((pin :: s.hw.pins).take 10).sum) := by
      rw [capsAt, hpins]
    rw [← hcaps]
    cases ha : s.alive with
    | false => exact ⟨_, powerMeasure_still hp ha, hm hv, hm hi, hm hpin, hpins, rfl, rfl, rfl, fun _ => rfl, nofun⟩
    | true =>
      cases hc : capsAt pin s && !s.pwr.capping with
      | true =>
        obtain ⟨hcap, hnot⟩ := Bool.and_eq_true_iff.1 hc
        refine ⟨_, powerMeasure_caps hp ha hc, ?_⟩
        generalize hu : ({ measured vin iin pin (capsAt pin s) s with pwr.powerCap := true, pwr.capCnt := inc16 s.pwr.capCnt } : State) = u
        have hf := raiseEvent_frame evPowerCap 0xFF [] u
        rw [raiseModule, (congrArg State.hw hf :), (congrArg State.pwr hf :), hf.cores, raiseEvent_occ, ← hu]
        refine ⟨hm hv, hm hi, hm hpin, hpins, rfl, rfl, rfl, nofun, fun _ => ⟨hm hv, hm hi, hm hpin, rfl,
          fun _ _ => ⟨rfl, rfl, rfl⟩, fun h => ?_⟩⟩
        rcases h with h | h
        · rw [h] at hcap; cases hcap
        · rw [h] at hnot; cases hnot
      | false =>
        refine ⟨_, powerMeasure_plain hp ha hc, hm hv, hm hi, hm hpin, hpins, rfl, rfl, rfl, nofun, fun _ => ⟨hm hv, hm hi, hm hpin, rfl, ?_,
          fun _ => ⟨rfl, rfl⟩⟩⟩
        intro h1 h2
        rw [h1, h2] at hc; cases hc

/-! ### Clocks and temperature (R444 to R450, R472 to R474) -/

/-- Losing the reference of a module that runs with a locked root PLL. -/
theorem loseRef_running {s : State} (h : (s.hw.refOk && s.alive && s.pwr.locked) = true) :
    loseRef s = raiseModule evClkRefLost [] { s with hw.refOk := false, pwr.holdover := true, pwr.refLost := true } := if_pos h

theorem loseRef_idle {s : State} (h : (s.hw.refOk && s.alive && s.pwr.locked) = false) : loseRef s = { s with hw.refOk := false } :=
  if_neg (Bool.eq_false_iff.1 h)

/-- The thermal terms after a sample (R447). -/
def termsAfter (sample : List (Nat × Int)) (terms : Map Nat) : Map Nat :=
  (List.range 4).foldl (fun m t => mapPut m t (nextTerm sample t (mapGet 0 terms t))) terms

theorem termsAfter_get (sample : List (Nat × Int)) (terms : Map Nat) {n : Nat} (hn : n < 4) :
    mapGet 0 (termsAfter sample terms) n = nextTerm sample n (mapGet 0 terms n) := by
  have hput : ∀ (l : List Nat) (m : Map Nat), mapGet 0 (l.foldl (fun m t => mapPut m t (nextTerm sample t (mapGet 0 terms t))) m) n =
      if n ∈ l then nextTerm sample n (mapGet 0 terms n) else mapGet 0 m n := by
    intro l
    induction l with
    | nil => intro m; simp
    | cons t l ih =>
      intro m
      rw [List.foldl_cons, ih, mapGet_put]
      by_cases ht : n = t
      · subst ht; simp
      · simp [ht]
  exact (hput _ _).trans (if_pos (List.mem_range.2 hn))

/-- Is a thermal term not 0? -/
def anyTerm (terms : Map Nat) : Bool := (List.range 4).any (fun t => mapGet 0 terms t != 0)

theorem anyTerm_iff (terms : Map Nat) : anyTerm terms = true ↔ ∃ n, n < 4 ∧ mapGet 0 terms n ≠ 0 := by
  simp only [anyTerm, List.any_eq_true, List.mem_range, bne_iff_ne]

theorem anyTerm_false_iff (terms : Map Nat) : anyTerm terms = false ↔ ∀ n, n < 4 → mapGet 0 terms n = 0 := by
  simp only [anyTerm, List.any_eq_false, List.mem_range, bne_iff_ne, Decidable.not_not]

/-- The module after a thermal sample, without the event (R446 to R449). -/
def sampled (sample : List (Nat × Int)) (inlet outlet : Nat) (s : State) : State :=
  let x := match leastMargin sample with
    | some x => x
    | none => (s.pwr.hottest, s.pwr.margin)
  { s with
    pwr.margin := x.2, pwr.hottest := x.1, pwr.inlet := inlet % 256, pwr.outlet := outlet % 256, pwr.terms := termsAfter sample s.pwr.terms
    pwr.power := moveTerm s.pwr.capping true s.pwr.power
    hw.hotArmed := s.hw.hotArmed || inlet < 38, hw.flowArmed := s.hw.flowArmed || outlet < inlet + 18 }

/-- The first throttling (R447). -/
def throttled (s : State) : State := raiseModule evThermThrottle [] { s with pwr.throttle := true, pwr.throtCnt := inc16 s.pwr.throtCnt }

theorem thermalSample_eq {sample : List (Nat × Int)} {inlet outlet : Nat} {s : State} (ha : s.alive = true) :
    execThermalSample sample inlet outlet s = .next (if anyTerm (termsAfter sample s.pwr.terms) && !anyTerm s.pwr.terms then
      throttled (sampled sample inlet outlet s) else sampled sample inlet outlet s) := engine_next ha rfl

/-- The power registers after a sample. -/
theorem sampled_pwr {sample : List (Nat × Int)} {inlet outlet : Nat} (s : State) (hi : inlet < 256) (ho : outlet < 256) :
    let p := (sampled sample inlet outlet s).pwr
    p.inlet = inlet ∧ p.outlet = outlet ∧ (∀ die m, leastMargin sample = some (die, m) → p.hottest = die ∧ p.margin = m) ∧
    (leastMargin sample = none → p.hottest = s.pwr.hottest ∧ p.margin = s.pwr.margin) ∧
    (∀ n, n < 4 → mapGet 0 p.terms n = nextTerm sample n (mapGet 0 s.pwr.terms n)) ∧
    p.power = (if s.pwr.capping then min 12 (s.pwr.power + 1) else s.pwr.power - 1) := by
  refine ⟨Nat.mod_eq_of_lt hi, Nat.mod_eq_of_lt ho, fun die m h => ?_, fun h => ?_, fun n hn => termsAfter_get sample _ hn, rfl⟩
  · simp only [sampled, h]; exact ⟨trivial, trivial⟩
  · simp only [sampled, h]; exact ⟨trivial, trivial⟩

theorem throttled_spec (u : State) :
    (throttled u).pwr = { u.pwr with throttle := true, throtCnt := inc16 u.pwr.throtCnt } ∧ (throttled u).cores = u.cores ∧
    (throttled u).mem = u.mem ∧ ((throttled u).occ evThermThrottle).pend = true := by
  have hf := raiseEvent_frame evThermThrottle 0xFF [] { u with pwr.throttle := true, pwr.throtCnt := inc16 u.pwr.throtCnt }
  exact ⟨(congrArg State.pwr hf :), hf.cores, hf.mem, by rw [throttled, raiseModule, raiseEvent_occ]⟩

/-- Settles O59. -/
theorem clockAndThermalResults : Obligations.ClockAndThermalResults := by
  intro s
  dsimp only [Gives, exec]
  refine ⟨⟨fun h => nextS_next (loseRef_running h), fun h => nextS_next (loseRef_idle h), fun h => nextS_next (loseRef_running h),
      fun h => nextS_next (loseRef_idle h)⟩, nextS_next (if_pos rfl),
    fun hc hl => nextS_next (if_pos (by simp [hc, hl])), fun h => nextS_next (if_neg ?_),
    fun hl hr => nextS_next (if_pos (by simp [hl, hr])), fun h => nextS_next (if_neg ?_),
    fun h => nextS_next (if_pos (by simp [h])), fun h => nextS_next (if_neg (by simpa using h)),
    fun sample inlet outlet ha hi ho => ?_,
    fun ha => ⟨fun h => engine_next ha (if_pos h), fun h => engine_next ha (if_neg (by simp [h])), fun h => engine_next ha (if_pos h),
      fun h => engine_next ha (if_neg (by simp [h])), regWrite_next ha rfl⟩,
    fun hp hc => ⟨nextS_next (if_pos (by simp [smbAnswers, hp, hc])), nextS_next (if_pos (by simp [smbAnswers, hp, hc])),
      fun h => nextS_next (if_pos (by simp [smbAnswers, hp, hc, h])), fun h => nextS_next (if_neg (by simp [h]))⟩,
    fun h => ?_, nextS_next rfl, fun h => nextS_next ?_, fun h => nextS_next ?_⟩
  case refine_1 =>
    rcases h with h | h
    · simp [h]
    · simp [h]
  case refine_2 =>
    rcases h with h | h
    · simp [h]
    · simp [h]
  case refine_3 =>
    obtain ⟨h1, h2, h3, h4, h5, h6⟩ := sampled_pwr (sample := sample) s hi ho
    refine ⟨_, thermalSample_eq ha, ?_⟩
    cases hc : anyTerm (termsAfter sample s.pwr.terms) && !anyTerm s.pwr.terms with
    | true =>
      obtain ⟨hnow, hwas⟩ := Bool.and_eq_true_iff.1 hc
      obtain ⟨hp, hcores, hmem, hpend⟩ := throttled_spec (sampled sample inlet outlet s)
      rw [if_pos rfl, hp, hcores, hmem]
      refine ⟨h1, h2, h3, h4, h5, h6, fun _ _ => ⟨rfl, rfl, hpend⟩, fun h => ?_, rfl, rfl⟩
      rcases h with h | h
      · rw [(anyTerm_iff _).2 h] at hwas; cases hwas
      · exact absurd hnow (Bool.eq_false_iff.1 ((anyTerm_false_iff (termsAfter sample s.pwr.terms)).2 h))
    | false =>
      rw [if_neg (by decide)]
      refine ⟨h1, h2, h3, h4, h5, h6, fun hwas hnow => ?_, fun _ => ⟨rfl, rfl⟩, rfl, rfl⟩
      rw [(anyTerm_false_iff _).2 hwas, show anyTerm (termsAfter sample s.pwr.terms) = true from (anyTerm_iff _).2 hnow] at hc
      cases hc
  case refine_4 =>
    have hs : ¬ smbAnswers s = true := by
      rcases h with h | h
      · simp [smbAnswers, h]
      · simp [smbAnswers, h]
    exact ⟨nextS_next (if_neg hs), nextS_next (if_neg hs), nextS_next (if_neg (by simp [hs]))⟩
  case refine_5 => rw [h]; rfl
  case refine_6 => rw [h]; rfl

end Sys2Proof.Machine
end

section
/-! The statement of the Tableau. -/

namespace Sys2Proof.Machine

/-! ### Freezing and reading out (R451 to R456) -/

/-- The messages of a fold go out in its order, and nothing else changes. -/
theorem foldl_sendFab_fabric {α : Type} (m : α → FabMsg) (l : List α) (s : State) :
    l.foldl (fun s x => sendFab (m x) s) s = { s with out.fabric := (l.map m).reverse ++ s.out.fabric } := by
  induction l generalizing s with
  | nil => rfl
  | cons x l ih => rw [List.foldl_cons, ih, List.map_cons, List.reverse_cons, List.append_assoc]; rfl

/-- Reading pages out writes host memory alone. -/
theorem writePages_frame (s : State) : { writePages s with out.hostWrites := s.out.hostWrites } = s :=
  foldl_same (fun t : State => { t with out.hostWrites := s.out.hostWrites })
    (f := fun t i => hostWrite (s.tab.dma + i * (pageBytes + 64)) (pageOut t s.tab.memStack (s.tab.memPage + i)) t) (fun _ _ => rfl) _ s

/-- Which triggers begin a freeze (R451). -/
theorem freezeTrigger_accepted {src : Nat} {s : State}
    (h : s.tab.state = .running ∧ (s.boot = .hubfw ∨ s.boot = .stopped ∨ s.boot = .uncast ∨ s.boot = .ready)) :
    freezeTrigger src s = { s with tab.state := .freezing, tab.src := src, tab.tF := s.cue + 64, tab.arm := false } := by
  refine if_pos ?_
  simpa [or_assoc, and_comm] using h

theorem freezeTrigger_ignored {src : Nat} {s : State}
    (h : ¬ (s.tab.state = .running ∧ (s.boot = .hubfw ∨ s.boot = .stopped ∨ s.boot = .uncast ∨ s.boot = .ready))) :
    freezeTrigger src s = { s with tab.ignCnt := inc16 s.tab.ignCnt } := by
  refine if_neg (mt ?_ h)
  intro h
  simpa [or_assoc, and_comm] using h

theorem outsideTrigger_next {src : Nat} {s : State} (h : s.boot ≠ .reset) : outsideTrigger src s = freezeTrigger src s := if_neg (by simpa using h)
theorem outsideTrigger_held {src : Nat} {s : State} (h : s.boot = .reset) : outsideTrigger src s = s := if_pos (by simp [h])

theorem tabWrite_idle {f : State → State} {s : State} (hb : s.boot ≠ .reset) (hi : tabIdle s = true) : tabWrite f s = .next (f s) :=
  nextS_next ((if_neg (by simpa using hb)).trans (if_pos hi))
theorem tabWrite_bad {f : State → State} {s : State} (hb : s.boot ≠ .reset) (hi : tabIdle s = false) :
    tabWrite f s = .next { s with tab.bad := true } := nextS_next ((if_neg (by simpa using hb)).trans (if_neg (Bool.eq_false_iff.1 hi)))
theorem tabWrite_held {f : State → State} {s : State} (hb : s.boot = .reset) : tabWrite f s = .next s := nextS_next (if_pos (by simp [hb]))

theorem jtag_idle {f : State → State} {s : State} (hc : s.hw.cable = true) (hi : tabIdle s = true) : jtag f s = .next (f s) :=
  nextS_next (if_pos (by simp [hc, hi]))
theorem jtag_off {f : State → State} {s : State} (h : s.hw.cable = false ∨ tabIdle s = false) : jtag f s = .next s := by
  refine nextS_next (if_neg ?_)
  rcases h with h | h
  · simp [h]
  · simp [h]

/-- Settles O60. -/
theorem tableauResults : Obligations.TableauResults := by
  intro s
  dsimp only [Gives, exec]
  refine ⟨fun src => ⟨freezeTrigger_accepted, freezeTrigger_ignored⟩, fun hc hb => nextS_next ((if_pos hc).trans (outsideTrigger_next hb)),
    fun h => nextS_next ?_,
    fun ha => ⟨regWrite_next ha rfl, ⟨fun hd => engine_next ha (if_pos hd), fun hd => engine_next ha (if_neg (Bool.eq_false_iff.1 hd))⟩,
      regWrite_next ha rfl⟩,
    fun p => ⟨fun hu hb => nextS_next ((if_pos (by simp [hu])).trans (outsideTrigger_next hb)), fun h => nextS_next ?_⟩,
    fun hst ht => ?_, fun h => nextS_next ?_,
    fun hb hi => ⟨tabWrite_idle hb hi, tabWrite_idle hb hi, tabWrite_idle hb hi⟩,
    fun hb hi => ⟨tabWrite_bad hb hi, tabWrite_bad hb hi, tabWrite_bad hb hi⟩,
    fun hb => ⟨tabWrite_held hb, tabWrite_held hb, tabWrite_held hb⟩,
    fun hc hi => ⟨jtag_idle hc hi, jtag_idle hc hi⟩, fun h => ⟨jtag_off h, jtag_off h⟩,
    ⟨fun hj => nextS_next ?_, fun hj => nextS_next ?_, fun hj => nextS_next ?_, fun hj => ⟨nextS_next ?_, writePages_frame s⟩⟩,
    fun p => ⟨fun ⟨hst, hp⟩ hj => nextS_next ?_, fun ⟨hst, hp⟩ hj => nextS_next ?_, fun h => nextS_next ?_⟩,
    fun h => nextS_next (if_pos (by simp [h])), fun h => nextS_next (if_neg (by simpa using h))⟩
  case refine_1 =>
    rcases h with h | h
    · exact if_neg (by simp [h])
    · rw [outsideTrigger_held h]; exact ite_self s
  case refine_2 =>
    rcases h with h | h
    · exact if_neg (by simpa using h)
    · rw [outsideTrigger_held h]; exact ite_self s
  case refine_3 =>
    refine ⟨_, nextS_next ((if_pos (by simp [hst, ht])).trans
      (foldl_sendFab_fabric (fun p => ({ kind := "freeze", dest := p } : FabMsg)) (upPorts s) _)), rfl, rfl, ?_, rfl, rfl, rfl, rfl⟩
    simp [State.alive, State.held]
  case refine_4 =>
    refine if_neg ?_
    simp only [Bool.and_eq_true, beq_iff_eq, decide_eq_true_eq]
    rintro ⟨hst, ht⟩
    rcases h with h | h
    · exact h hst
    · exact Nat.not_le.2 h ht
  case refine_5 => rw [hj]; rfl
  case refine_6 => rw [hj]; rfl
  case refine_7 => rw [hj]; rfl
  case refine_8 => rw [hj]; rfl
  case refine_9 => exact (if_pos (by rw [hst, hp]; rfl)).trans (if_pos (by simp [hj]))
  case refine_10 => exact (if_pos (by rw [hst, hp]; rfl)).trans (if_neg (by simpa using hj))
  case refine_11 => exact if_neg (by simpa using h)

end Sys2Proof.Machine
end
